-- ==== Sys2Proof/Word.lean ====
section
/-! DEFINITION. The word types of the Gulura G16 (spec 00, R13 and R14; spec 01, R20, R25). -/

namespace Sys2Proof

/-- A 64-bit word: a scalar register, an address, an instruction word (R25, R58). -/
abbrev Word := BitVec 64

/-- A 32-bit vector register of one lane (R20). -/
abbrev HWord := BitVec 32

/-- A byte of memory (R14). -/
abbrev Byte := BitVec 8

/-- A set of lanes of one group: bit L is lane L (R19). -/
abbrev Mask := BitVec 64

end Sys2Proof
end

