-- ==== Sys2Proof/Syntax.lean ====
section
/-! DEFINITION. The instructions of the Agran instruction set and the happenings of the device, one constructor for each
row of spec/opcode_table.json (spec 03, R58 to R77; spec 95). -/

namespace Sys2Proof

/-- An operand code (R65). -/
inductive Operand where
  | v (n : BitVec 6)      -- a vector register
  | s (n : BitVec 5)      -- a scalar register
  | p (n : BitVec 3)      -- a lane predicate
  | k (n : BitVec 3)      -- a tile predicate
  | q (n : BitVec 3)      -- a stream register
  | d (n : BitVec 2)      -- a deadline register
  | zero                  -- constant zero, 0x7C
  | rsv (n : BitVec 2)    -- reserved, 0x7D + n
  deriving DecidableEq, Repr

/-- The payload of an X word (R61). -/
abbrev XWord := BitVec 62

/-- The fields of an F word other than its opcode (R59). -/
structure FWord where
  gneg  : Bool
  guard : BitVec 3
  stall : BitVec 4
  dest  : Operand
  a     : Operand
  b     : Operand
  c     : Operand
  hi    : BitVec 8
  lo    : BitVec 8
  deriving DecidableEq, Repr

/-- The fields of an I word other than its opcode, and its X word (R60, R61). -/
structure IWord where
  gneg  : Bool
  guard : BitVec 3
  stall : BitVec 4
  dest  : Operand
  a     : Operand
  imm   : BitVec 30
  x     : Option XWord
  deriving DecidableEq, Repr

/-- A half operation (R63). -/
inductive HalfOp where
  | nop | iadd | isub | imul | imin | imax | and | or | xor | shl | shr | sar | mov
  | fadd | fsub | fmul | ffma | fmin | fmax
  | rsv (code : BitVec 5)
  deriving DecidableEq, Repr

/-- One half of a P word (R62). -/
structure Half where
  hop   : HalfOp
  guard : BitVec 3
  dest  : Operand
  a     : Operand
  b     : Operand
  deriving DecidableEq, Repr

/-- A P word (R62). -/
structure PWord where
  stall : BitVec 4
  ha    : Half
  hb    : Half
  deriving DecidableEq, Repr

/-- A host command: one 32-byte write to HCMD, its OP being the constructor that carries it (R318). -/
structure HCmd where
  tag : BitVec 16
  ctx : BitVec 16
  a0  : Word
  a1  : Word
  a2  : Word
  deriving DecidableEq, Repr

/-- A Riluagan flit as it is received (R320), with the device that sent it and the port it came in on. -/
structure Flit where
  src   : Nat
  port  : Nat
  seq   : BitVec 32
  cls   : BitVec 2
  count : BitVec 3
  link  : BitVec 128
  slots : List (BitVec 256)
  crc   : Word
  deriving DecidableEq, Repr

/-- The storage that a soft error strikes (R328). -/
inductive SoftSite where
  | registers (gid : Nat)            -- register files and predicate and special registers of a group
  | landing (img : Nat)              -- a landing buffer word
  | crewState (cid : Nat)            -- fence table, barrier or queue-unit state of a crew
  | tieRecord (tie : Nat)            -- a tie record
  | codeSector (mast stn : Nat) (ctx : Nat) (va : Word)
  | tlbEntry (mast : Nat) (ctx : Nat) (va : Word)
  deriving DecidableEq, Repr

/-- The instructions and happenings, one constructor for each row of the opcode table. -/
inductive Instr where
  /-- R87: Adds two integer operands in each active lane, wrapping or clamping under .SAT. -/
  | iadd (w : FWord)
  /-- R60: I-form IADD whose source b is the immediate. -/
  | iaddI (w : IWord)
  /-- R87: Subtracts source b from source a, wrapping or clamping. -/
  | isub (w : FWord)
  /-- R60: I-form ISUB whose source b is the immediate. -/
  | isubI (w : IWord)
  /-- R87: Multiplies two integer operands, keeping the low bits or clamping. -/
  | imul (w : FWord)
  /-- R60: I-form IMUL whose source b is the immediate. -/
  | imulI (w : IWord)
  /-- R87: Computes a times b plus c, wrapping or clamping. -/
  | imad (w : FWord)
  /-- R87: Writes the high half of the product of two integers. -/
  | imulh (w : FWord)
  /-- R60: I-form IMULH whose source b is the immediate. -/
  | imulhI (w : IWord)
  /-- R89: Divides integers, truncating, with defined results for division by zero and overflow. -/
  | idiv (w : FWord)
  /-- R60: I-form IDIV whose source b is the immediate. -/
  | idivI (w : IWord)
  /-- R89: Writes the integer remainder, with defined special cases. -/
  | irem (w : FWord)
  /-- R60: I-form IREM whose source b is the immediate. -/
  | iremI (w : IWord)
  /-- R87: Writes the operand with the lesser integer value. -/
  | imin (w : FWord)
  /-- R60: I-form IMIN whose source b is the immediate. -/
  | iminI (w : IWord)
  /-- R87: Writes the operand with the greater integer value. -/
  | imax (w : FWord)
  /-- R60: I-form IMAX whose source b is the immediate. -/
  | imaxI (w : IWord)
  /-- R87: Writes the absolute value of a signed integer, wrapping or clamping. -/
  | iabs (w : FWord)
  /-- R87: Writes the negation of a signed integer, wrapping or clamping. -/
  | ineg (w : FWord)
  /-- R87: Writes the bitwise AND of two operands. -/
  | and (w : FWord)
  /-- R60: I-form AND whose source b is the immediate. -/
  | andI (w : IWord)
  /-- R87: Writes the bitwise OR of two operands. -/
  | or (w : FWord)
  /-- R60: I-form OR whose source b is the immediate. -/
  | orI (w : IWord)
  /-- R87: Writes the bitwise XOR of two operands. -/
  | xor (w : FWord)
  /-- R60: I-form XOR whose source b is the immediate. -/
  | xorI (w : IWord)
  /-- R87: Writes the bitwise complement of an operand. -/
  | not (w : FWord)
  /-- R87: Writes a AND NOT b. -/
  | andn (w : FWord)
  /-- R60: I-form ANDN whose source b is the immediate. -/
  | andnI (w : IWord)
  /-- R87: Applies a three-input bitwise lookup table to each bit position. -/
  | btab (w : FWord)
  /-- R87: Shifts left by an unsigned count, giving 0 for counts at or above the width. -/
  | shl (w : FWord)
  /-- R60: I-form SHL whose source b is the immediate. -/
  | shlI (w : IWord)
  /-- R87: Shifts right logically by an unsigned count. -/
  | shr (w : FWord)
  /-- R60: I-form SHR whose source b is the immediate. -/
  | shrI (w : IWord)
  /-- R87: Shifts right arithmetically, filling with the sign bit. -/
  | sar (w : FWord)
  /-- R60: I-form SAR whose source b is the immediate. -/
  | sarI (w : IWord)
  /-- R87: Performs a funnel shift of c concatenated with a, downwards or upwards. -/
  | cshf (w : FWord)
  /-- R87: Writes the number of 1 bits of an operand. -/
  | popc (w : FWord)
  /-- R87: Writes the leading zero count of an operand. -/
  | clz (w : FWord)
  /-- R87: Writes the trailing zero count of an operand. -/
  | ctz (w : FWord)
  /-- R87: Reverses the bit order of an operand. -/
  | brev (w : FWord)
  /-- R88: Extracts a bit field, sign- or zero-extending it. -/
  | bfe (w : FWord)
  /-- R88: Inserts a bit field of a into base c. -/
  | bfi (w : FWord)
  /-- R88: Permutes bytes of c and a under a selector, with optional sign replication. -/
  | prmt (w : FWord)
  /-- R88: I-form PRMT taking its selector from the immediate, with source c read as 0. -/
  | prmtI (w : IWord)
  /-- R87: Forms a 64-bit address a plus b shifted left by sh. -/
  | lea (w : FWord)
  /-- R90: Compares two integers and writes the result to a lane predicate. -/
  | icmp (w : FWord)
  /-- R60: I-form ICMP whose source b is the immediate. -/
  | icmpI (w : IWord)
  /-- R87: Applies a three-input lookup table to predicates. -/
  | ptab (w : FWord)
  /-- R87: Selects a or b by a lane predicate. -/
  | isel (w : FWord)
  /-- R87: Selects a or b by whether c is nonzero. -/
  | sel (w : FWord)
  /-- R87: Copies an operand to the destination. -/
  | mov (w : FWord)
  /-- R77: I-form MOV writing the immediate to the destination. -/
  | movI (w : IWord)
  /-- R91: Adds floating-point operands with one rounding. -/
  | fadd (w : FWord)
  /-- R60: I-form FADD whose source b is the immediate. -/
  | faddI (w : IWord)
  /-- R91: Subtracts floating-point operands with one rounding. -/
  | fsub (w : FWord)
  /-- R60: I-form FSUB whose source b is the immediate. -/
  | fsubI (w : IWord)
  /-- R91: Multiplies floating-point operands with one rounding. -/
  | fmul (w : FWord)
  /-- R60: I-form FMUL whose source b is the immediate. -/
  | fmulI (w : IWord)
  /-- R91: Computes a times b plus c exactly and rounds once. -/
  | ffma (w : FWord)
  /-- R92: Writes the lesser floating-point operand under the NaN and signed-zero rules. -/
  | fmin (w : FWord)
  /-- R60: I-form FMIN whose source b is the immediate. -/
  | fminI (w : IWord)
  /-- R92: Writes the greater floating-point operand under the NaN and signed-zero rules. -/
  | fmax (w : FWord)
  /-- R60: I-form FMAX whose source b is the immediate. -/
  | fmaxI (w : IWord)
  /-- R91: Clears the sign bit, giving the canonical NaN for a NaN. -/
  | fabs (w : FWord)
  /-- R91: Inverts the sign bit, giving the canonical NaN for a NaN. -/
  | fneg (w : FWord)
  /-- R91: Sets the sign of a from b by copy, inverse copy or XOR. -/
  | fsgn (w : FWord)
  /-- R90: Compares binary32 operands and writes a lane predicate. -/
  | fcmp (w : FWord)
  /-- R60: I-form FCMP whose source b is the immediate. -/
  | fcmpI (w : IWord)
  /-- R93: Writes a one-hot class mask of a binary32 value, with no flag. -/
  | fclass (w : FWord)
  /-- R91: Rounds a binary32 value to an integral value in the named direction. -/
  | frnd (w : FWord)
  /-- R55: Computes a reciprocal within 1 ulp. -/
  | frcp (w : FWord)
  /-- R55: Computes a reciprocal square root within 1 ulp. -/
  | frsq (w : FWord)
  /-- R55: Computes a correctly rounded square root. -/
  | fsqrt (w : FWord)
  /-- R55: Computes 2 to the power of a within 2 ulp. -/
  | fexp2 (w : FWord)
  /-- R55: Computes the base-2 logarithm within the stated bounds. -/
  | flog2 (w : FWord)
  /-- R55: Computes the sine of a radian argument within the absolute bound. -/
  | fsin (w : FWord)
  /-- R55: Computes the cosine of a radian argument within the absolute bound. -/
  | fcos (w : FWord)
  /-- R91: Adds binary64 operands with one rounding. -/
  | dadd (w : FWord)
  /-- R60: I-form DADD whose source b is the immediate. -/
  | daddI (w : IWord)
  /-- R91: Subtracts binary64 operands with one rounding. -/
  | dsub (w : FWord)
  /-- R60: I-form DSUB whose source b is the immediate. -/
  | dsubI (w : IWord)
  /-- R91: Multiplies binary64 operands with one rounding. -/
  | dmul (w : FWord)
  /-- R60: I-form DMUL whose source b is the immediate. -/
  | dmulI (w : IWord)
  /-- R91: Computes a binary64 fused multiply-add with one rounding. -/
  | dfma (w : FWord)
  /-- R92: Writes the lesser binary64 operand. -/
  | dmin (w : FWord)
  /-- R60: I-form DMIN whose source b is the immediate. -/
  | dminI (w : IWord)
  /-- R92: Writes the greater binary64 operand. -/
  | dmax (w : FWord)
  /-- R60: I-form DMAX whose source b is the immediate. -/
  | dmaxI (w : IWord)
  /-- R91: Clears the sign bit of a binary64 value. -/
  | dabs (w : FWord)
  /-- R91: Inverts the sign bit of a binary64 value. -/
  | dneg (w : FWord)
  /-- R90: Compares binary64 operands and writes a lane predicate. -/
  | dcmp (w : FWord)
  /-- R60: I-form DCMP whose source b is the immediate. -/
  | dcmpI (w : IWord)
  /-- R93: Writes a one-hot class mask of a binary64 value. -/
  | dclass (w : FWord)
  /-- R91: Rounds a binary64 value to an integral value. -/
  | drnd (w : FWord)
  /-- R95: Converts element 0 of a from sfmt to dfmt and clears the rest of the destination. -/
  | cvt (w : FWord)
  /-- R96: Converts a float element into the selected element slot of d, keeping the other elements. -/
  | cvtf (w : FWord)
  /-- R97: Converts and packs elements from a run of registers into one register, or packs 6-bit elements densely. -/
  | pack (w : FWord)
  /-- R97: Unpacks and converts the elements of a register into a run of registers, or unpacks dense 6-bit elements. -/
  | unpack (w : FWord)
  /-- R98: Quantises blocks of 32 binary32 values with one E8M0 scale per block. -/
  | qscale (w : FWord)
  /-- R99: Dequantises four elements by an E8M0 scale into binary32. -/
  | dqscale (w : FWord)
  /-- R100: Multiplies a by 2 to the power of b and rounds once. -/
  | fldexp (w : FWord)
  /-- R100: Writes the mantissa or the exponent of a floating-point value. -/
  | ffrexp (w : FWord)
  /-- R103: Moves values between participating lanes within segments. -/
  | xlane (w : FWord)
  /-- R102: Writes the ALL, ANY or UNI vote of a predicate over the participants. -/
  | vote (w : FWord)
  /-- R102: Forms the 64-bit mask of a predicate over the participants. -/
  | ballot (w : FWord)
  /-- R103: Computes an inclusive or exclusive scan in ascending lane order. -/
  | scan (w : FWord)
  /-- R103: Computes a segmented scan whose segments begin at head-flagged participants. -/
  | segscan (w : FWord)
  /-- R103: Reduces over the participants in ascending lane order. -/
  | redux (w : FWord)
  /-- R102: Gives each participant the mask of participants holding an equal value. -/
  | matchM (w : FWord)
  /-- R102: Writes 1 in the lowest participant and 0 in the others. -/
  | elect (w : FWord)
  /-- R102: Writes the mask of the participants. -/
  | active (w : FWord)
  /-- R105: Branches the active lanes to a PC-relative target. -/
  | bra (w : IWord)
  /-- R104: Branches each active lane to the target held in a register, after alignment and privilege checks. -/
  | brx (w : FWord)
  /-- R105: Writes a link and branches to a PC-relative target. -/
  | call (w : IWord)
  /-- R106: Calls register targets, splitting lanes by declared window budget. -/
  | calli (w : FWord)
  /-- R105: Returns each active lane to the address in a register. -/
  | ret (w : FWord)
  /-- R107: Records a meeting address in the active lanes and sets the rejoin station and mask. -/
  | tie (w : FWord) (x : Option XWord)
  /-- R109: Completes a tie point for released lanes, restoring the enclosing tie point and writing the status. -/
  | join (w : FWord)
  /-- R111: Ends the active lanes, freeing the group's allocation when every lane has ended. -/
  | exit (w : FWord)
  /-- R112: Places the issue set last in its station's issue pick. -/
  | yield (w : FWord)
  /-- R113: Branches all active lanes according to an end-of-dimension flag of a stream. -/
  | loopq (w : FWord) (x : Option XWord)
  /-- R112: Has no effect. -/
  | nop (w : FWord)
  /-- R63: Issues two half operations in one cycle, both reading sources before either writes, under the bank limit. -/
  | pairedWord (w : PWord)
  /-- R75: A word whose opcode is reserved or has no form in its class, or an X word reached as the first word of an instruction, raises illegal-instruction with its detail code. -/
  | reservedEncoding (w : Word) (x : Option XWord)
  /-- R123: Loads from global space, moving remote lanes to their homes. -/
  | ldg (w : FWord) (x : Option XWord)
  /-- R123: Stores to global space, moving remote lanes to their homes. -/
  | stg (w : FWord) (x : Option XWord)
  /-- R123: Loads from the crew's local space. -/
  | ldl (w : FWord) (x : Option XWord)
  /-- R123: Stores to the crew's local space. -/
  | stl (w : FWord) (x : Option XWord)
  /-- R123: Loads from the group's spill stack. -/
  | lds (w : FWord) (x : Option XWord)
  /-- R123: Stores to the group's spill stack. -/
  | sts (w : FWord) (x : Option XWord)
  /-- R125: Loads at the home and waits until a comparison holds or the deadline passes. -/
  | ldw (w : FWord) (x : Option XWord)
  /-- R129: Sends a one-way store to each lane's home without moving. -/
  | post (w : FWord) (x : Option XWord)
  /-- R127: Performs a returning atomic at the home in ascending lane order. -/
  | atom (w : FWord) (x : Option XWord)
  /-- R128: Performs a bitwise compare-and-swap at the home. -/
  | atomcas (w : FWord) (x : Option XWord)
  /-- R129: Sends a one-way atomic reduction to each lane's home. -/
  | red (w : FWord) (x : Option XWord)
  /-- R131: Writes the home of a global address without accessing it. -/
  | home (w : FWord) (x : Option XWord)
  /-- R132: Moves lanes to the homes of their addresses without accessing memory. -/
  | migrG (w : FWord) (x : Option XWord)
  /-- R132: Moves lanes to the crew's station. -/
  | migrL (w : FWord) (x : Option XWord)
  /-- R134: Opens an affine stream of up to three dimensions. -/
  | qcfg (w : FWord)
  /-- R135: Opens an indirect stream bound to an affine index stream. -/
  | qidx (w : FWord)
  /-- R136: Delivers stream elements to the active lanes up to the end of the current run. -/
  | qld (w : FWord)
  /-- R137: Closes a stream and returns its depth to the allowance. -/
  | qclose (w : FWord)
  /-- R140: Waits until named paths have no outstanding operations within the scope, or the deadline passes. -/
  | fence (w : FWord)
  /-- R141: Waits on path A and then orders the group's later path-B accesses after it. -/
  | fenceX (w : FWord)
  /-- R147: Performs a dense tile product with the fixed summation order. -/
  | mma (w : FWord)
  /-- R147: Performs a block-scaled tile product. -/
  | mmaBs (w : FWord) (x : Option XWord)
  /-- R150: Performs a bitmap-sparse tile product, resumable from %tprog. -/
  | mmaSp (w : FWord) (x : Option XWord)
  /-- R154: Compresses a dense run into a bitmap and packed values. -/
  | bmc (w : FWord)
  /-- R154: Expands a sparse tile into a dense run. -/
  | bmx (w : FWord)
  /-- R155: Sets a tile predicate from a scalar, lane values, a bitmap or a loaded mask. -/
  | kset (w : FWord)
  /-- R156: Reads tile predicates into a lane predicate or a scalar. -/
  | ktst (w : FWord)
  /-- R157: Places each lane at its share's start on the merge path of a CSR matrix. -/
  | mpart (w : FWord)
  /-- R158: Forms the sorted union of two sparse vectors. -/
  | smerge (w : FWord) (x : Option XWord)
  /-- R167: Offers one slice of a Tackle copy under a tag and round. -/
  | cp (w : FWord)
  /-- R169: Offers a Tackle multicast copy to several receivers. -/
  | cpm (w : FWord)
  /-- R170: Offers a Tackle conversion of a matrix into sparse tiles. -/
  | cpcv (w : FWord)
  /-- R172: Waits on the copy held by a tag for a round. -/
  | cpw (w : FWord)
  /-- R173: Hands a parameter block to the Capstan of its home mast. -/
  | capr (w : FWord)
  /-- R177: Waits at the home for a Capstan block's STAT to leave pending. -/
  | capw (w : FWord)
  /-- R178: Sends one jib call per lane and parks the lanes until the replies. -/
  | bcallT (w : FWord) (x : Option XWord)
  /-- R178: Sends one jib call per lane, leaving the status pending while lanes continue. -/
  | bcallN (w : FWord) (x : Option XWord)
  /-- R183: Parks lanes with outstanding non-blocking calls until all reply or the deadline passes. -/
  | bwait (w : FWord)
  /-- R187: Arrives at a crew barrier and returns a token. -/
  | barc (w : FWord)
  /-- R189: Waits on a crew barrier phase, withdrawing on expiry unless KEEP. -/
  | barw (w : FWord)
  /-- R190: Withdraws an arrival from a crew or grid barrier at once. -/
  | barx (w : FWord)
  /-- R191: Arrives at a mast barrier and waits on the phase. -/
  | mbar (w : FWord)
  /-- R187: Arrives at a grid barrier and returns a token. -/
  | gbara (w : FWord)
  /-- R189: Waits on a grid barrier phase, withdrawing on expiry unless KEEP. -/
  | gbarw (w : FWord)
  /-- R194: Pushes four scalars onto a crew queue, waiting for room. -/
  | qpush (w : FWord)
  /-- R194: Pops an entry from a crew queue into four scalars, waiting for one. -/
  | qpop (w : FWord)
  /-- R194: Tries once to push onto a crew queue, returning BUSY on failure. -/
  | qtryPush (w : FWord)
  /-- R194: Tries once to pop from a crew queue, returning BUSY on failure. -/
  | qtryPop (w : FWord)
  /-- R199: Raises the software trap with a code from a register. -/
  | trap (w : FWord)
  /-- R199: I-form TRAP taking its code from the immediate. -/
  | trapI (w : IWord)
  /-- R199: Settles flags and traps if %aflags AND %atrap is nonzero. -/
  | tfence (w : FWord)
  /-- R200: Returns from the current trap frame, resuming or ending lanes. -/
  | tret (w : FWord)
  /-- R201: Reads a special register into a register. -/
  | movsRead (w : FWord)
  /-- R201: Writes a special register at user privilege according to its field access codes. -/
  | movsWrite (w : FWord)
  /-- R201: Reads a special register at supervisor privilege. -/
  | movspRead (w : FWord)
  /-- R201: Writes a special register at supervisor privilege, including PRIV fields. -/
  | movspWrite (w : FWord)
  /-- R202: Loads the crew's LSEG at the crew station. -/
  | segldL (w : FWord)
  /-- R202: Loads the group's PSEG. -/
  | segldP (w : FWord)
  /-- R292: Judges and inserts a translation entry into the TLB of the current mast. -/
  | tlbf (w : FWord)
  /-- R203: Removes the TLB entries of one page at its home mast. -/
  | tlbiVa (w : FWord)
  /-- R203: Removes every TLB entry of the issuing context on the device. -/
  | tlbiCtx (w : FWord)
  /-- R203: Removes every TLB entry on the device. -/
  | tlbiAll (w : FWord)
  /-- R204: Sets a deadline register to %gclk plus an interval. -/
  | dlsetRel (w : FWord)
  /-- R204: I-form DLSET setting a relative deadline from the immediate. -/
  | dlsetI (w : IWord)
  /-- R204: Sets a deadline register to an absolute value. -/
  | dlsetAbs (w : FWord)
  /-- R204: Sets the default wait interval %dldef. -/
  | dlsetDef (w : FWord)
  /-- R205: Reads the group clock, the mast reference count or the station cycle count. -/
  | clkrd (w : FWord)
  /-- R206: Stops the active lanes and reports them to the host. -/
  | halt (w : FWord)
  /-- R206: Arms a single step of one issue set at the next TRET. -/
  | dstep (w : FWord)
  /-- R207: Writes a continuation image of the active lanes and ends them. -/
  | ctxsave (w : FWord) (x : Option XWord)
  /-- R207: Reads a continuation image and passes it to a mast router for admission. -/
  | ctxload (w : FWord) (x : Option XWord)
  /-- R73: A variable-latency result arrives and is written, releasing words held by the scoreboard. -/
  | variableLatencyWrite (gid id : Nat)
  /-- R214: A missing code sector returns from its home into the instruction store. -/
  | instructionFetch (wait : Nat)
  /-- R220: A continuation leaves once earlier accesses are performed and results written. -/
  | continuationDeparture (img : Nat)
  /-- R223: An image lands at a mast, takes an arrival number and its hop charge, and merges if its group is resident. -/
  | imageLanding (img : Nat)
  /-- R223: Images pass from the hold into the landing buffer as room frees. -/
  | holdTransfer (mast : Nat)
  /-- R224: The head of an admission queue is admitted to a station when resources free. -/
  | imageAdmission (mast queue : Nat)
  /-- R229: A TIE notice reaches the rejoin station and adds lanes to the member mask. -/
  | tieNotice (msg : Nat)
  /-- R229: A lane exit notice removes the lane from tie records and may complete an occurrence. -/
  | exitNotice (msg : Nat)
  /-- R108: The held clock reaches the deadline, so held members proceed as a partial group. -/
  | tieExpiry (tie : Nat)
  /-- R129: A POST or RED arrives at its home and is performed as a store or atomic. -/
  | postedOperation (msg : Nat)
  /-- R130: An acknowledgement decrements the posted count and may complete waiting fences. -/
  | postedAcknowledgement (msg : Nat)
  /-- R125: A write to a watched sector wakes the waiting LDW for a fresh evaluation. -/
  | ldwWake (wait : Nat)
  /-- R125: The group clock reaches dk and LDW ends with TIMEOUT. -/
  | ldwTimeout (wait : Nat)
  /-- R140: The group clock reaches dk and the fence ends with TIMEOUT. -/
  | fenceTimeout (wait : Nat)
  /-- R133: A stream unit requests a sector ahead of use within its depth. -/
  | streamFetch (gid q : Nat)
  /-- R138: A fetched stream sector returns to the stream unit, releasing a waiting QLD. -/
  | streamElementArrival (gid q : Nat)
  /-- R185: An arrival reaches a barrier counter, is counted and may complete the phase. -/
  | barrierArrival (msg : Nat)
  /-- R189: The completion notice of a phase reaches waiting parts, which return OK. -/
  | barrierCompletionNotice (msg : Nat)
  /-- R189: A barrier wait reaches dk and returns TIMEOUT or sends a withdrawal. -/
  | barrierWaitTimeout (wait : Nat)
  /-- R195: A waiting push or pop retries when its queue changes. -/
  | queueRetry (wait : Nat)
  /-- R194: A waiting QPUSH or QPOP reaches dk and returns TIMEOUT. -/
  | queueWaitTimeout (wait : Nat)
  /-- R165: A waiting copy slice is accepted when its tag state and a free entry allow. -/
  | sliceAccept (wait : Nat)
  /-- R165: A waiting slice reaches dk and gets BUSY. -/
  | sliceWaitTimeout (wait : Nat)
  /-- R172: A CPW reaches dk and returns TIMEOUT. -/
  | cpwTimeout (wait : Nat)
  /-- R173: A waiting CAPR is accepted, the block read and STAT set pending. -/
  | capstanAccept (wait : Nat)
  /-- R173: A waiting CAPR reaches dk and returns BUSY. -/
  | caprTimeout (wait : Nat)
  /-- R175: The Capstan reduces its inputs in fixed pairwise order, writing OUT, STAT and FLAG. -/
  | capstanReduction (mast : Nat)
  /-- R177: A write to STAT's sector wakes a waiting CAPW. -/
  | capwWake (wait : Nat)
  /-- R177: A CAPW reaches dk and returns TIMEOUT. -/
  | capwTimeout (wait : Nat)
  /-- R180: A jib unit takes a call from its queue and computes it, entering compute mode. -/
  | jibCall (call : Nat)
  /-- R182: A call's reply is performed, its status written and a parked lane released. -/
  | jibReply (call : Nat)
  /-- R178: A parked BCALL.T lane reaches its implicit bound and is released with its status pending. -/
  | bcallParkExpiry (wait : Nat)
  /-- R183: A BWAIT reaches dk and releases its lanes with TIMEOUT. -/
  | bwaitTimeout (wait : Nat)
  /-- R254: An implicit wait reaches its bound and the waiting lanes take the deadline trap. -/
  | implicitWaitExpiry (wait : Nat)
  /-- R291: A walk request is served by running the walker group. -/
  | walkStart (mast : Nat)
  /-- R291: The walker group exits and its last TLBF sets the walk's outcome. -/
  | walkEnd (mast : Nat)
  /-- R276: A crew is placed whole on a station, with zeroing on a change of owner. -/
  | crewPlacement (mast crew : Nat)
  /-- R266: A launch's crews have retired and its operations completed, so the counter is incremented. -/
  | launchComplete (launch : Nat)
  /-- R263: Queue command NOP, performed at once. -/
  | cmdNop (queue : Nat)
  /-- R269: Queue command that checks a launch record and admits its crews to placement. -/
  | launch (queue : Nat)
  /-- R265: Queue command that waits until a counter reaches a value. -/
  | wait (queue : Nat)
  /-- R265: A write to a WAIT's counter sector makes the CP read the counter again. -/
  | waitReread (queue : Nat)
  /-- R265: TMO deck cycles pass without a WAIT holding, and a stall record is reported once. -/
  | stallRecord (queue : Nat)
  /-- R263: Queue command that adds an increment at a counter's home. -/
  | signal (queue : Nat)
  /-- R302: Parked lanes finish and the records are written, so STATE becomes 2 and the event is sent. -/
  | preemptComplete (ctx : Nat)
  /-- R305: Every saved image is admitted, so STATE becomes 0 and the event is sent. -/
  | restoreComplete (ctx : Nat)
  /-- R190: A withdrawal reaches a counter and is answered OK, WITHDRAWN or ERROR. -/
  | barrierWithdrawal (msg : Nat)
  /-- R185: An exit of a counted lane reaches a barrier counter and may complete the phase. -/
  | barrierExit (msg : Nat)
  /-- R166: A gathering's countdown reaches 0 and the tag becomes ABANDONED. -/
  | gatheringExpiry (cid tag : Nat)
  /-- R282: A Tackle engine performs up to WEIGHT sector transfers for a crew in its round. -/
  | tackleTransfer (mast quad : Nat) (picks : List (Nat × Nat))
  /-- R255: An increment notice reaches the CP and may raise the escalation deadline trap. -/
  | escalationIncrement (msg : Nat)
  /-- R255: A reset notice reaches the CP and sets ESC to 0. -/
  | escalationReset (msg : Nat)
  /-- R299: A release write with ACT 0 makes the held requesters translate again. -/
  | retry (mast idx : Nat) (seq : BitVec 32)
  /-- R299: A release write with ACT 1 fails every requester held by the entry. -/
  | fail (mast idx : Nat) (seq : BitVec 32)
  /-- R315: A doorbell write makes the CP reread a queue's TAIL. -/
  | doorbell (value : Word)
  /-- R317: The first DRVFEAT write after reset negotiates the active features. -/
  | drvfeatWrite (value : Word)
  /-- R337: A write of the journal control sets MODE only while no context is registered. -/
  | journalControlWrite (off : Nat) (value : Word)
  /-- R316: A write to a register with no behaviour of its own stores the fields by their access codes. -/
  | registerWrite (off : Nat) (value : Word)
  /-- R318: Host command that registers a context from its record and root block. -/
  | ctxreg (c : HCmd)
  /-- R262: Host command that checks and registers the context's next queue. -/
  | qreg (c : HCmd)
  /-- R318: Host command that rereads a stopped queue's descriptor and restarts it. -/
  | qrestart (c : HCmd)
  /-- R302: Host command that stops a context and begins saving it. -/
  | preempt (c : HCmd)
  /-- R302: A preemption passes its deadline, causing the forced reset. -/
  | pdlExpiry (ctx : Nat)
  /-- R305: Host command that restores a saved context from its save area. -/
  | restore (c : HCmd)
  /-- R318: Host command that resumes a group's stopped lanes from their deepest frame. -/
  | resume (c : HCmd)
  /-- R318: Host command that resumes halted lanes at their PCs. -/
  | debuggo (c : HCmd)
  /-- R318: Host command that force-resets a context and frees its identity. -/
  | destroy (c : HCmd)
  /-- R295: Host command that writes frame owner tags after removing their TLB entries. -/
  | ftag (c : HCmd)
  /-- R322: Host command that sets or clears a device's membership of the domain. -/
  | member (c : HCmd)
  /-- R325: No shroud path to a member is found for 2,000,000 deck cycles, so it leaves the domain. -/
  | membershipTimeout (dev : Nat)
  /-- R334: Host command that checkpoints a context or the device to partner segments. -/
  | ckpt (c : HCmd)
  /-- R336: Host command that checks and reads a checkpoint image back. -/
  | ckload (c : HCmd)
  /-- R346: Host command that writes a signed attestation report. -/
  | attest (c : HCmd)
  /-- R314: A host RDMA WRITE is performed at its homes and acknowledged. -/
  | rdmaWrite (qp key off : Nat) (data : List Byte)
  /-- R314: A host RDMA READ is performed after earlier writes of its QP. -/
  | rdmaRead (qp key off len : Nat)
  /-- R314: A host Compare&Swap is performed as ATOMCAS.B64. -/
  | compareAndSwap (qp key off : Nat) (cmp swap : Word)
  /-- R314: A host Fetch&Add is performed as ATOM.ADD.N64. -/
  | fetchAndAdd (qp key off : Nat) (add : Word)
  /-- R312: A refused opcode is answered with NAK Invalid Request and the QP enters error. -/
  | invalidRequest (qp : Nat)
  /-- R312: A received CNP lowers the rate of its QP. -/
  | cnp (qp : Nat)
  /-- R312: A packet marked ECN-CE is answered with a CNP. -/
  | ecnCe (qp : Nat)
  /-- R320: A Riluagan flit is received, its CRC checked and its slots passed on by class. -/
  | riluaganFlit (f : Flit)
  /-- R321: A shroud port fails and its traffic moves to another port. -/
  | shroudPortFailure (port : Nat)
  /-- R331: Repair request OP 1 spares a DRAM row. -/
  | row (mast : Nat) (pa : BitVec 36)
  /-- R331: Repair request OP 2 spares a DRAM bank. -/
  | bank (mast : Nat) (pa : BitVec 36)
  /-- R332: Repair request OP 3 fences a station, resetting contexts there. -/
  | fenceStation (mast stn : Nat)
  /-- R332: Repair request OP 4 fences a mast, resetting contexts with state there. -/
  | fenceMast (mast : Nat)
  /-- R330: A repair finishes, setting RESULT and clearing BUSY. -/
  | repairComplete (mast : Nat)
  /-- R329: A sector is scrubbed, corrected in place and counted, with automatic row sparing. -/
  | scrub (mast sector : Nat)
  /-- R328: A soft error in on-package storage is corrected, discarded or forces a reset. -/
  | softError (site : SoftSite) (correctable : Bool)
  /-- R341: A tier reports ready and its bond clamp opens. -/
  | tierReady (mast tier : Nat)
  /-- R341: A tier misses its time limit and its mast is fenced and recorded in TIERFAIL. -/
  | tierReadyTimeout (mast tier : Nat)
  /-- R342: The Bosun steps a mast's station-clock numerator or DRAM spacing to hold power and temperature. -/
  | clockScaling (mast n : Nat)
  /-- R343: A sensor reaches 95 degrees C, so throttling begins and THI is set. -/
  | thermalThrottle (temp : BitVec 8)
  /-- R343: A sensor reaches 105 degrees C, so N is held at 8 and crew admission stops until below 100 degrees C. -/
  | thermalHold (temp : BitVec 8)
  /-- R343: A sensor reaches 115 degrees C, so TRIP is recorded and the device powers down. -/
  | thermalTrip (temp : BitVec 8)
  /-- R322: A shroud path to a member device comes to exist, and requests waiting in their class at the source flow to it. -/
  | shroudPath (dev : Nat)
  /-- R314: The requester abandons a queue pair, which ends the hold of its access held at a home. -/
  | qpAbandoned (qp : Nat)
  /-- R343: The hottest sensor falls below 100 degrees C, so the Bosun stops holding N at 8 and admits crews again. -/
  | thermalHoldRelease (temp : BitVec 8)
  /-- R273: The CP admits crews of an eligible queue by deficit round-robin. -/
  | crewAdmission
  /-- R278: Every crew of a pending gang can be taken, so all are placed in one step. -/
  | gangStart
  /-- R279: A pending gang reaches age 65,536 and later crews of its class or lower are held. -/
  | gangAgeLimit
  /-- R334: Once outstanding operations drain, the checkpoint image is written and V set last. -/
  | ckptImageWrite
  /-- R319: The device writes a pending event into the host ring once there is room. -/
  | eventWrite
  /-- R340: Replay cannot proceed, so DIV is set and every context is halted. -/
  | replayDivergence
  /-- R341: Power-on or device reset starts the Bosun's start-up sequence. -/
  | powerOn
  /-- R341: The device powers down in reverse order, closing each clamp first. -/
  | powerDown
  deriving DecidableEq, Repr

end Sys2Proof
end

