-- ==== Sys2Proof/WellFormed.lean ====
section
/-! DEFINITION. When an instruction is the instruction of some words (spec 03, R58 to R65, R76, R77, R115): the conditions on
its fields without which no word stands for it. Encodings that are reserved or illegal but do stand in a word are well
formed here; the machine gives them the fate of R75. -/

namespace Sys2Proof

/-- Whether an F head takes an X word (R61, R115). -/
inductive XNeed where
  | never | required | byAddressByte
  deriving DecidableEq, Repr

/-- The F opcodes whose entry requires an X word: TIE, LOOPQ, LDW, ATOM, ATOMCAS, MMA.BS, MMA.SP, SMERGE. -/
def xRequired (op : Nat) : Bool :=
  decide (op = 0x105) ||
  decide (op = 0x109) ||
  decide (op = 0x146) ||
  (decide (0x148 ≤ op) && decide (op ≤ 0x149)) ||
  (decide (0x181 ≤ op) && decide (op ≤ 0x182)) ||
  decide (op = 0x188)

/-- The F opcodes with a memory operand, whose address byte asks for an X word (R115, R159, R207). -/
def xByByte (op : Nat) : Bool :=
  (decide (0x140 ≤ op) && decide (op ≤ 0x145)) ||
  decide (op = 0x147) ||
  (decide (0x14A ≤ op) && decide (op ≤ 0x14C)) ||
  decide (op = 0x1C6) ||
  (decide (0x24C ≤ op) && decide (op ≤ 0x24D))

/-- Whether an F head of this opcode takes an X word. -/
def xNeed (op : Nat) : XNeed := if xRequired op then .required else if xByByte op then .byAddressByte else .never

/-- The opcodes with an F form (R76, R77). -/
def hasF (op : Nat) : Bool :=
  (decide (0x000 ≤ op) && decide (op ≤ 0x021)) ||
  (decide (0x040 ≤ op) && decide (op ≤ 0x05D)) ||
  (decide (0x080 ≤ op) && decide (op ≤ 0x087)) ||
  (decide (0x0C0 ≤ op) && decide (op ≤ 0x0C8)) ||
  decide (op = 0x101) ||
  (decide (0x103 ≤ op) && decide (op ≤ 0x10A)) ||
  (decide (0x140 ≤ op) && decide (op ≤ 0x152)) ||
  (decide (0x180 ≤ op) && decide (op ≤ 0x188)) ||
  (decide (0x1C0 ≤ op) && decide (op ≤ 0x1C7)) ||
  (decide (0x200 ≤ op) && decide (op ≤ 0x208)) ||
  (decide (0x240 ≤ op) && decide (op ≤ 0x24D))

/-- The opcodes with an I form (R77). -/
def hasI (op : Nat) : Bool :=
  (decide (0x000 ≤ op) && decide (op ≤ 0x002)) ||
  (decide (0x004 ≤ op) && decide (op ≤ 0x008)) ||
  (decide (0x00B ≤ op) && decide (op ≤ 0x00D)) ||
  decide (op = 0x00F) ||
  (decide (0x011 ≤ op) && decide (op ≤ 0x013)) ||
  decide (op = 0x01B) ||
  decide (op = 0x01D) ||
  decide (op = 0x021) ||
  (decide (0x040 ≤ op) && decide (op ≤ 0x042)) ||
  (decide (0x044 ≤ op) && decide (op ≤ 0x045)) ||
  decide (op = 0x049) ||
  (decide (0x053 ≤ op) && decide (op ≤ 0x055)) ||
  (decide (0x057 ≤ op) && decide (op ≤ 0x058)) ||
  decide (op = 0x05B) ||
  decide (op = 0x100) ||
  decide (op = 0x102) ||
  decide (op = 0x240) ||
  decide (op = 0x248)

/-- A reserved operand code is one of 0x7D to 0x7F. -/
def Operand.wf : Operand → Bool
  | .rsv n => decide (n.toNat < 3)
  | .v _ | .s _ | .p _ | .k _ | .q _ | .d _ | .zero => true

/-- The operand fields of an F word. -/
def FWord.wf (f : FWord) : Bool := f.dest.wf && f.a.wf && f.b.wf && f.c.wf

/-- The operand fields of an I word. -/
def IWord.wf (i : IWord) : Bool := i.dest.wf && i.a.wf

/-- A reserved half operation is one of the codes that R63 reserves. -/
def HalfOp.wf : HalfOp → Bool
  | .rsv c => (decide (0x0D ≤ c.toNat) && decide (c.toNat ≤ 0x0F)) || decide (0x16 ≤ c.toNat)
  | .nop | .iadd | .isub | .imul | .imin | .imax | .and | .or | .xor | .shl | .shr | .sar | .mov
  | .fadd | .fsub | .fmul | .ffma | .fmin | .fmax => true

/-- The fields of a half. -/
def Half.wf (h : Half) : Bool := h.hop.wf && h.dest.wf && h.a.wf && h.b.wf

/-- The size code of a memory operand's address byte (R115). -/
def FWord.sz (f : FWord) : BitVec 3 := f.lo.extractLsb' 0 3

/-- An X word stands only where the address byte asks for one (R115). -/
def FWord.wfX (f : FWord) (x : Option XWord) : Bool := f.wf && (x.isNone || f.lo.getLsbD 7)

/-- A word with no instruction: an opcode with no form in its class, or a word of class X (R75, orders 1, 3 and 5). -/
def reservedWord (w : Word) (x : Option XWord) : Bool :=
  if w.extractLsb' 62 2 = 0#2 then !hasF (w.extractLsb' 52 10).toNat && x.isNone
  else if w.extractLsb' 62 2 = 2#2 then !hasI (w.extractLsb' 52 10).toNat
  else decide (w.extractLsb' 62 2 = 3#2) && x.isNone

/-- A mast number. -/
def mastOk (m : Nat) : Bool := decide (m < 16)

/-- The well-formed instructions and happenings. -/
def Instr.wf : Instr → Bool
  | .iadd w => w.wf
  | .iaddI w => w.wf
  | .isub w => w.wf
  | .isubI w => w.wf
  | .imul w => w.wf
  | .imulI w => w.wf
  | .imad w => w.wf
  | .imulh w => w.wf
  | .imulhI w => w.wf
  | .idiv w => w.wf
  | .idivI w => w.wf
  | .irem w => w.wf
  | .iremI w => w.wf
  | .imin w => w.wf
  | .iminI w => w.wf
  | .imax w => w.wf
  | .imaxI w => w.wf
  | .iabs w => w.wf
  | .ineg w => w.wf
  | .and w => w.wf
  | .andI w => w.wf
  | .or w => w.wf
  | .orI w => w.wf
  | .xor w => w.wf
  | .xorI w => w.wf
  | .not w => w.wf
  | .andn w => w.wf
  | .andnI w => w.wf
  | .btab w => w.wf
  | .shl w => w.wf
  | .shlI w => w.wf
  | .shr w => w.wf
  | .shrI w => w.wf
  | .sar w => w.wf
  | .sarI w => w.wf
  | .cshf w => w.wf
  | .popc w => w.wf
  | .clz w => w.wf
  | .ctz w => w.wf
  | .brev w => w.wf
  | .bfe w => w.wf
  | .bfi w => w.wf
  | .prmt w => w.wf
  | .prmtI w => w.wf
  | .lea w => w.wf
  | .icmp w => w.wf
  | .icmpI w => w.wf
  | .ptab w => w.wf
  | .isel w => w.wf
  | .sel w => w.wf
  | .mov w => w.wf
  | .movI w => w.wf
  | .fadd w => w.wf
  | .faddI w => w.wf
  | .fsub w => w.wf
  | .fsubI w => w.wf
  | .fmul w => w.wf
  | .fmulI w => w.wf
  | .ffma w => w.wf
  | .fmin w => w.wf
  | .fminI w => w.wf
  | .fmax w => w.wf
  | .fmaxI w => w.wf
  | .fabs w => w.wf
  | .fneg w => w.wf
  | .fsgn w => w.wf
  | .fcmp w => w.wf
  | .fcmpI w => w.wf
  | .fclass w => w.wf
  | .frnd w => w.wf
  | .frcp w => w.wf
  | .frsq w => w.wf
  | .fsqrt w => w.wf
  | .fexp2 w => w.wf
  | .flog2 w => w.wf
  | .fsin w => w.wf
  | .fcos w => w.wf
  | .dadd w => w.wf
  | .daddI w => w.wf
  | .dsub w => w.wf
  | .dsubI w => w.wf
  | .dmul w => w.wf
  | .dmulI w => w.wf
  | .dfma w => w.wf
  | .dmin w => w.wf
  | .dminI w => w.wf
  | .dmax w => w.wf
  | .dmaxI w => w.wf
  | .dabs w => w.wf
  | .dneg w => w.wf
  | .dcmp w => w.wf
  | .dcmpI w => w.wf
  | .dclass w => w.wf
  | .drnd w => w.wf
  | .cvt w => w.wf
  | .cvtf w => w.wf
  | .pack w => w.wf
  | .unpack w => w.wf
  | .qscale w => w.wf
  | .dqscale w => w.wf
  | .fldexp w => w.wf
  | .ffrexp w => w.wf
  | .xlane w => w.wf
  | .vote w => w.wf
  | .ballot w => w.wf
  | .scan w => w.wf
  | .segscan w => w.wf
  | .redux w => w.wf
  | .matchM w => w.wf
  | .elect w => w.wf
  | .active w => w.wf
  | .bra w => w.wf
  | .brx w => w.wf
  | .call w => w.wf
  | .calli w => w.wf
  | .ret w => w.wf
  | .tie w _ => w.wf
  | .join w => w.wf
  | .exit w => w.wf
  | .yield w => w.wf
  | .loopq w _ => w.wf
  | .nop w => w.wf
  | .pairedWord w => w.ha.wf && w.hb.wf
  | .ldg w x => w.wfX x
  | .stg w x => w.wfX x
  | .ldl w x => w.wfX x
  | .stl w x => w.wfX x
  | .lds w x => w.wfX x
  | .sts w x => w.wfX x
  | .ldw w _ => w.wf
  | .post w x => w.wfX x
  | .atom w _ => w.wf
  | .atomcas w _ => w.wf
  | .red w x => w.wfX x
  | .home w x => w.wfX x
  | .migrG w x => w.wfX x && decide (w.sz ≠ 1)
  | .migrL w x => w.wfX x && decide (w.sz = 1)
  | .qcfg w => w.wf
  | .qidx w => w.wf
  | .qld w => w.wf
  | .qclose w => w.wf
  | .fence w => w.wf
  | .fenceX w => w.wf
  | .mma w => w.wf
  | .mmaBs w _ => w.wf
  | .mmaSp w _ => w.wf
  | .bmc w => w.wf
  | .bmx w => w.wf
  | .kset w => w.wf
  | .ktst w => w.wf
  | .mpart w => w.wf
  | .smerge w _ => w.wf
  | .cp w => w.wf
  | .cpm w => w.wf
  | .cpcv w => w.wf
  | .cpw w => w.wf
  | .capr w => w.wf
  | .capw w => w.wf
  | .bcallT w x => w.wfX x && decide (w.sz ≠ 1)
  | .bcallN w x => w.wfX x && decide (w.sz = 1)
  | .bwait w => w.wf
  | .barc w => w.wf
  | .barw w => w.wf
  | .barx w => w.wf
  | .mbar w => w.wf
  | .gbara w => w.wf
  | .gbarw w => w.wf
  | .qpush w => w.wf
  | .qpop w => w.wf
  | .qtryPush w => w.wf && !w.lo.getLsbD 3
  | .qtryPop w => w.wf && w.lo.getLsbD 3
  | .trap w => w.wf
  | .trapI w => w.wf
  | .tfence w => w.wf
  | .tret w => w.wf
  | .movsRead w => w.wf && !w.hi.getLsbD 0
  | .movsWrite w => w.wf && w.hi.getLsbD 0
  | .movspRead w => w.wf && !w.hi.getLsbD 0
  | .movspWrite w => w.wf && w.hi.getLsbD 0
  | .segldL w => w.wf && !w.lo.getLsbD 0
  | .segldP w => w.wf && w.lo.getLsbD 0
  | .tlbf w => w.wf
  | .tlbiVa w => w.wf && decide (w.lo.extractLsb' 0 2 ≠ 1#2) && decide (w.lo.extractLsb' 0 2 ≠ 2#2)
  | .tlbiCtx w => w.wf && decide (w.lo.extractLsb' 0 2 = 1#2)
  | .tlbiAll w => w.wf && decide (w.lo.extractLsb' 0 2 = 2#2)
  | .dlsetRel w => w.wf && decide (w.lo.extractLsb' 0 2 ≠ 1#2) && decide (w.lo.extractLsb' 0 2 ≠ 2#2)
  | .dlsetI w => w.wf
  | .dlsetAbs w => w.wf && decide (w.lo.extractLsb' 0 2 = 1#2)
  | .dlsetDef w => w.wf && decide (w.lo.extractLsb' 0 2 = 2#2)
  | .clkrd w => w.wf
  | .halt w => w.wf
  | .dstep w => w.wf
  | .ctxsave w x => w.wfX x
  | .ctxload w x => w.wfX x
  | .reservedEncoding w x => reservedWord w x
  | .variableLatencyWrite _ _ => true
  | .instructionFetch _ => true
  | .continuationDeparture _ => true
  | .imageLanding _ => true
  | .holdTransfer mast => mastOk mast
  | .imageAdmission mast queue => mastOk mast && decide (queue < 65)
  | .tieNotice _ => true
  | .exitNotice _ => true
  | .tieExpiry _ => true
  | .postedOperation _ => true
  | .postedAcknowledgement _ => true
  | .ldwWake _ => true
  | .ldwTimeout _ => true
  | .fenceTimeout _ => true
  | .streamFetch _ q => decide (q < 8)
  | .streamElementArrival _ q => decide (q < 8)
  | .barrierArrival _ => true
  | .barrierWithdrawal _ => true
  | .barrierExit _ => true
  | .barrierCompletionNotice _ => true
  | .barrierWaitTimeout _ => true
  | .queueRetry _ => true
  | .queueWaitTimeout _ => true
  | .sliceAccept _ => true
  | .sliceWaitTimeout _ => true
  | .gatheringExpiry _ tag => decide (tag < 16)
  | .tackleTransfer mast quad _ => mastOk mast && decide (quad < 16)
  | .cpwTimeout _ => true
  | .capstanAccept _ => true
  | .caprTimeout _ => true
  | .capstanReduction mast => mastOk mast
  | .capwWake _ => true
  | .capwTimeout _ => true
  | .jibCall _ => true
  | .jibReply _ => true
  | .bcallParkExpiry _ => true
  | .bwaitTimeout _ => true
  | .implicitWaitExpiry _ => true
  | .escalationIncrement _ => true
  | .escalationReset _ => true
  | .walkStart mast => mastOk mast
  | .walkEnd mast => mastOk mast
  | .retry mast idx _ => mastOk mast && decide (idx < 256)
  | .fail mast idx _ => mastOk mast && decide (idx < 256)
  | .crewAdmission => true
  | .crewPlacement mast _ => mastOk mast
  | .gangStart => true
  | .gangAgeLimit => true
  | .launchComplete _ => true
  | .cmdNop _ => true
  | .launch _ => true
  | .wait _ => true
  | .waitReread _ => true
  | .stallRecord _ => true
  | .signal _ => true
  | .doorbell _ => true
  | .drvfeatWrite _ => true
  | .journalControlWrite _ _ => true
  | .registerWrite _ _ => true
  | .ctxreg _ => true
  | .qreg _ => true
  | .qrestart _ => true
  | .preempt _ => true
  | .preemptComplete _ => true
  | .pdlExpiry _ => true
  | .restore _ => true
  | .restoreComplete _ => true
  | .resume _ => true
  | .debuggo _ => true
  | .destroy _ => true
  | .ftag _ => true
  | .member _ => true
  | .membershipTimeout dev => decide (dev < 1024)
  | .ckpt _ => true
  | .ckptImageWrite => true
  | .ckload _ => true
  | .attest _ => true
  | .eventWrite => true
  | .rdmaWrite qp key _ _ => decide (qp < 4096) && decide (key < 4096)
  | .rdmaRead qp key _ _ => decide (qp < 4096) && decide (key < 4096)
  | .compareAndSwap qp key _ _ _ => decide (qp < 4096) && decide (key < 4096)
  | .fetchAndAdd qp key _ _ => decide (qp < 4096) && decide (key < 4096)
  | .invalidRequest qp => decide (qp < 4096)
  | .cnp qp => decide (qp < 4096)
  | .ecnCe qp => decide (qp < 4096)
  | .riluaganFlit f => decide (f.slots.length = 7) && decide (f.src < 1024) && decide (f.port < 18)
  | .shroudPortFailure port => decide (port < 18)
  | .row mast _ => mastOk mast
  | .bank mast _ => mastOk mast
  | .fenceStation mast stn => mastOk mast && decide (stn < 64)
  | .fenceMast mast => mastOk mast
  | .repairComplete mast => mastOk mast
  | .scrub mast _ => mastOk mast
  | .softError _ _ => true
  | .replayDivergence => true
  | .powerOn => true
  | .tierReady mast tier => mastOk mast && decide (tier < 3)
  | .tierReadyTimeout mast tier => mastOk mast && decide (tier < 3)
  | .powerDown => true
  | .clockScaling mast n => mastOk mast && decide (8 ≤ n) && decide (n ≤ 16)
  | .thermalThrottle _ => true
  | .thermalHold _ => true
  | .thermalTrip _ => true
  | .shroudPath dev => decide (dev < 1024)
  | .qpAbandoned qp => decide (qp < 4096)
  | .thermalHoldRelease _ => true

end Sys2Proof
end

