-- ==== Sys2Proof/Decode.lean ====
section
/-! DEFINITION. The decoder and the encoder of Agran words, from the layouts and the opcode map of spec 03 (R58 to R63, R65,
R76, R77). Decoding is total: a word with no instruction decodes to reservedEncoding, whose fate R75 gives. -/

namespace Sys2Proof

/-- The operand that a 7-bit code names (R65). -/
def Operand.ofCode (c : BitVec 7) : Operand :=
  if c.toNat < 0x40 then .v (c.extractLsb' 0 6)
  else if c.toNat < 0x60 then .s (c.extractLsb' 0 5)
  else if c.toNat < 0x68 then .p (c.extractLsb' 0 3)
  else if c.toNat < 0x70 then .k (c.extractLsb' 0 3)
  else if c.toNat < 0x78 then .q (c.extractLsb' 0 3)
  else if c.toNat < 0x7C then .d (c.extractLsb' 0 2)
  else if c = 0x7C then .zero
  else .rsv ((c - 0x7D#7).extractLsb' 0 2)

/-- The code of an operand (R65). -/
def Operand.code : Operand → BitVec 7
  | .v n => n.setWidth 7
  | .s n => 0x40#7 ||| n.setWidth 7
  | .p n => 0x60#7 ||| n.setWidth 7
  | .k n => 0x68#7 ||| n.setWidth 7
  | .q n => 0x70#7 ||| n.setWidth 7
  | .d n => 0x78#7 ||| n.setWidth 7
  | .zero => 0x7C#7
  | .rsv n => 0x7D#7 + n.setWidth 7

/-- The half operation of a hop code (R63). -/
def HalfOp.ofCode (c : BitVec 5) : HalfOp :=
  match c.toNat with
  | 0x00 => .nop | 0x01 => .iadd | 0x02 => .isub | 0x03 => .imul | 0x04 => .imin | 0x05 => .imax
  | 0x06 => .and | 0x07 => .or | 0x08 => .xor | 0x09 => .shl | 0x0A => .shr | 0x0B => .sar | 0x0C => .mov
  | 0x10 => .fadd | 0x11 => .fsub | 0x12 => .fmul | 0x13 => .ffma | 0x14 => .fmin | 0x15 => .fmax
  | _ => .rsv c

/-- The hop code of a half operation (R63). -/
def HalfOp.code : HalfOp → BitVec 5
  | .nop => 0x00 | .iadd => 0x01 | .isub => 0x02 | .imul => 0x03 | .imin => 0x04 | .imax => 0x05
  | .and => 0x06 | .or => 0x07 | .xor => 0x08 | .shl => 0x09 | .shr => 0x0A | .sar => 0x0B | .mov => 0x0C
  | .fadd => 0x10 | .fsub => 0x11 | .fmul => 0x12 | .ffma => 0x13 | .fmin => 0x14 | .fmax => 0x15
  | .rsv c => c

/-- The class of a word: 0 F, 1 P, 2 I, 3 X (R58). -/
def wordClass (w : Word) : BitVec 2 := w.extractLsb' 62 2

/-- The opcode field of an F or I word (R59, R60). -/
def wordOpcode (w : Word) : BitVec 10 := w.extractLsb' 52 10

/-- The payload of a following X word, when one follows (R61). -/
def xPayload (next : Option Word) : Option XWord :=
  match next with
  | some w => if wordClass w = 3 then some (w.extractLsb' 0 62) else none
  | none => none

/-- The fields of an F word (R59). -/
def FWord.ofWord (w : Word) : FWord :=
  { gneg := w.getLsbD 51, guard := w.extractLsb' 48 3, stall := w.extractLsb' 44 4,
    dest := .ofCode (w.extractLsb' 37 7), a := .ofCode (w.extractLsb' 30 7), b := .ofCode (w.extractLsb' 23 7),
    c := .ofCode (w.extractLsb' 16 7), hi := w.extractLsb' 8 8, lo := w.extractLsb' 0 8 }

/-- The word of an F instruction (R59). -/
def FWord.toWord (op : BitVec 10) (f : FWord) : Word :=
  0#2 ++ op ++ BitVec.ofBool f.gneg ++ f.guard ++ f.stall ++ f.dest.code ++ f.a.code ++ f.b.code ++ f.c.code ++ f.hi ++ f.lo

/-- The fields of an I word (R60). -/
def IWord.ofWord (w : Word) (x : Option XWord) : IWord :=
  { gneg := w.getLsbD 51, guard := w.extractLsb' 48 3, stall := w.extractLsb' 44 4,
    dest := .ofCode (w.extractLsb' 37 7), a := .ofCode (w.extractLsb' 30 7), imm := w.extractLsb' 0 30, x := x }

/-- The head word of an I instruction (R60). -/
def IWord.toWord (op : BitVec 10) (i : IWord) : Word :=
  2#2 ++ op ++ BitVec.ofBool i.gneg ++ i.guard ++ i.stall ++ i.dest.code ++ i.a.code ++ i.imm

/-- A half of a P word (R62). -/
def Half.ofBits (h : BitVec 29) : Half :=
  { hop := .ofCode (h.extractLsb' 24 5), guard := h.extractLsb' 21 3, dest := .ofCode (h.extractLsb' 14 7),
    a := .ofCode (h.extractLsb' 7 7), b := .ofCode (h.extractLsb' 0 7) }

/-- The bits of a half (R62). -/
def Half.toBits (h : Half) : BitVec 29 := h.hop.code ++ h.guard ++ h.dest.code ++ h.a.code ++ h.b.code

/-- The halves of a P word (R62). -/
def PWord.ofWord (w : Word) : PWord :=
  { stall := w.extractLsb' 58 4, ha := .ofBits (w.extractLsb' 29 29), hb := .ofBits (w.extractLsb' 0 29) }

/-- The word of a P instruction (R62). -/
def PWord.toWord (p : PWord) : Word := 1#2 ++ p.stall ++ p.ha.toBits ++ p.hb.toBits

/-- F words of opcodes 0x000 to 0x03F (R76). -/
def decodeIntF (op : Nat) (f : FWord) : Option Instr :=
  match op with
  | 0x000 => some (.iadd f)
  | 0x001 => some (.isub f)
  | 0x002 => some (.imul f)
  | 0x003 => some (.imad f)
  | 0x004 => some (.imulh f)
  | 0x005 => some (.idiv f)
  | 0x006 => some (.irem f)
  | 0x007 => some (.imin f)
  | 0x008 => some (.imax f)
  | 0x009 => some (.iabs f)
  | 0x00A => some (.ineg f)
  | 0x00B => some (.and f)
  | 0x00C => some (.or f)
  | 0x00D => some (.xor f)
  | 0x00E => some (.not f)
  | 0x00F => some (.andn f)
  | 0x010 => some (.btab f)
  | 0x011 => some (.shl f)
  | 0x012 => some (.shr f)
  | 0x013 => some (.sar f)
  | 0x014 => some (.cshf f)
  | 0x015 => some (.popc f)
  | 0x016 => some (.clz f)
  | 0x017 => some (.ctz f)
  | 0x018 => some (.brev f)
  | 0x019 => some (.bfe f)
  | 0x01A => some (.bfi f)
  | 0x01B => some (.prmt f)
  | 0x01C => some (.lea f)
  | 0x01D => some (.icmp f)
  | 0x01E => some (.ptab f)
  | 0x01F => some (.isel f)
  | 0x020 => some (.sel f)
  | 0x021 => some (.mov f)
  | _ => none

/-- F words of opcodes 0x040 to 0x07F (R76). -/
def decodeFloatF (op : Nat) (f : FWord) : Option Instr :=
  match op with
  | 0x040 => some (.fadd f)
  | 0x041 => some (.fsub f)
  | 0x042 => some (.fmul f)
  | 0x043 => some (.ffma f)
  | 0x044 => some (.fmin f)
  | 0x045 => some (.fmax f)
  | 0x046 => some (.fabs f)
  | 0x047 => some (.fneg f)
  | 0x048 => some (.fsgn f)
  | 0x049 => some (.fcmp f)
  | 0x04A => some (.fclass f)
  | 0x04B => some (.frnd f)
  | 0x04C => some (.frcp f)
  | 0x04D => some (.frsq f)
  | 0x04E => some (.fsqrt f)
  | 0x04F => some (.fexp2 f)
  | 0x050 => some (.flog2 f)
  | 0x051 => some (.fsin f)
  | 0x052 => some (.fcos f)
  | 0x053 => some (.dadd f)
  | 0x054 => some (.dsub f)
  | 0x055 => some (.dmul f)
  | 0x056 => some (.dfma f)
  | 0x057 => some (.dmin f)
  | 0x058 => some (.dmax f)
  | 0x059 => some (.dabs f)
  | 0x05A => some (.dneg f)
  | 0x05B => some (.dcmp f)
  | 0x05C => some (.dclass f)
  | 0x05D => some (.drnd f)
  | _ => none

/-- F words of opcodes 0x080 to 0x0BF (R76). -/
def decodeConvF (op : Nat) (f : FWord) : Option Instr :=
  match op with
  | 0x080 => some (.cvt f)
  | 0x081 => some (.cvtf f)
  | 0x082 => some (.pack f)
  | 0x083 => some (.unpack f)
  | 0x084 => some (.qscale f)
  | 0x085 => some (.dqscale f)
  | 0x086 => some (.fldexp f)
  | 0x087 => some (.ffrexp f)
  | _ => none

/-- F words of opcodes 0x0C0 to 0x0FF (R76). -/
def decodeGroupF (op : Nat) (f : FWord) : Option Instr :=
  match op with
  | 0x0C0 => some (.xlane f)
  | 0x0C1 => some (.vote f)
  | 0x0C2 => some (.ballot f)
  | 0x0C3 => some (.scan f)
  | 0x0C4 => some (.segscan f)
  | 0x0C5 => some (.redux f)
  | 0x0C6 => some (.matchM f)
  | 0x0C7 => some (.elect f)
  | 0x0C8 => some (.active f)
  | _ => none

/-- F words of opcodes 0x100 to 0x13F (R76). -/
def decodeControlF (op : Nat) (f : FWord) (x : Option XWord) : Option Instr :=
  match op with
  | 0x101 => some (.brx f)
  | 0x103 => some (.calli f)
  | 0x104 => some (.ret f)
  | 0x105 => some (.tie f x)
  | 0x106 => some (.join f)
  | 0x107 => some (.exit f)
  | 0x108 => some (.yield f)
  | 0x109 => some (.loopq f x)
  | 0x10A => some (.nop f)
  | _ => none

/-- F words of opcodes 0x140 to 0x17F (R76). -/
def decodeMemoryF (op : Nat) (f : FWord) (x : Option XWord) : Option Instr :=
  match op with
  | 0x140 => some (.ldg f x)
  | 0x141 => some (.stg f x)
  | 0x142 => some (.ldl f x)
  | 0x143 => some (.stl f x)
  | 0x144 => some (.lds f x)
  | 0x145 => some (.sts f x)
  | 0x146 => some (.ldw f x)
  | 0x147 => some (.post f x)
  | 0x148 => some (.atom f x)
  | 0x149 => some (.atomcas f x)
  | 0x14A => some (.red f x)
  | 0x14B => some (.home f x)
  | 0x14C => some (if f.lo.extractLsb' 0 3 = 1 then .migrL f x else .migrG f x)
  | 0x14D => some (.qcfg f)
  | 0x14E => some (.qidx f)
  | 0x14F => some (.qld f)
  | 0x150 => some (.qclose f)
  | 0x151 => some (.fence f)
  | 0x152 => some (.fenceX f)
  | _ => none

/-- F words of opcodes 0x180 to 0x1BF (R76). -/
def decodeMatrixF (op : Nat) (f : FWord) (x : Option XWord) : Option Instr :=
  match op with
  | 0x180 => some (.mma f)
  | 0x181 => some (.mmaBs f x)
  | 0x182 => some (.mmaSp f x)
  | 0x183 => some (.bmc f)
  | 0x184 => some (.bmx f)
  | 0x185 => some (.kset f)
  | 0x186 => some (.ktst f)
  | 0x187 => some (.mpart f)
  | 0x188 => some (.smerge f x)
  | _ => none

/-- F words of opcodes 0x1C0 to 0x1FF (R76). -/
def decodeEngineF (op : Nat) (f : FWord) (x : Option XWord) : Option Instr :=
  match op with
  | 0x1C0 => some (.cp f)
  | 0x1C1 => some (.cpm f)
  | 0x1C2 => some (.cpcv f)
  | 0x1C3 => some (.cpw f)
  | 0x1C4 => some (.capr f)
  | 0x1C5 => some (.capw f)
  | 0x1C6 => some (if f.lo.extractLsb' 0 3 = 1 then .bcallN f x else .bcallT f x)
  | 0x1C7 => some (.bwait f)
  | _ => none

/-- F words of opcodes 0x200 to 0x23F (R76). -/
def decodeSyncF (op : Nat) (f : FWord) : Option Instr :=
  match op with
  | 0x200 => some (.barc f)
  | 0x201 => some (.barw f)
  | 0x202 => some (.barx f)
  | 0x203 => some (.mbar f)
  | 0x204 => some (.gbara f)
  | 0x205 => some (.gbarw f)
  | 0x206 => some (.qpush f)
  | 0x207 => some (.qpop f)
  | 0x208 => some (if f.lo.getLsbD 3 then .qtryPop f else .qtryPush f)
  | _ => none

/-- F words of opcodes 0x240 to 0x27F (R76). -/
def decodeSystemF (op : Nat) (f : FWord) (x : Option XWord) : Option Instr :=
  match op with
  | 0x240 => some (.trap f)
  | 0x241 => some (.tfence f)
  | 0x242 => some (.tret f)
  | 0x243 => some (if f.hi.getLsbD 0 then .movsWrite f else .movsRead f)
  | 0x244 => some (if f.hi.getLsbD 0 then .movspWrite f else .movspRead f)
  | 0x245 => some (if f.lo.getLsbD 0 then .segldP f else .segldL f)
  | 0x246 => some (.tlbf f)
  | 0x247 => some (if f.lo.extractLsb' 0 2 = 1 then .tlbiCtx f else if f.lo.extractLsb' 0 2 = 2 then .tlbiAll f else .tlbiVa f)
  | 0x248 => some (if f.lo.extractLsb' 0 2 = 1 then .dlsetAbs f else if f.lo.extractLsb' 0 2 = 2 then .dlsetDef f else .dlsetRel f)
  | 0x249 => some (.clkrd f)
  | 0x24A => some (.halt f)
  | 0x24B => some (.dstep f)
  | 0x24C => some (.ctxsave f x)
  | 0x24D => some (.ctxload f x)
  | _ => none

/-- The instruction of an F word, by its opcode (R76, R77). -/
def decodeF (op : Nat) (f : FWord) (x : Option XWord) : Option Instr :=
  if op < 0x040 then decodeIntF op f
  else if op < 0x080 then decodeFloatF op f
  else if op < 0x0C0 then decodeConvF op f
  else if op < 0x100 then decodeGroupF op f
  else if op < 0x140 then decodeControlF op f x
  else if op < 0x180 then decodeMemoryF op f x
  else if op < 0x1C0 then decodeMatrixF op f x
  else if op < 0x200 then decodeEngineF op f x
  else if op < 0x240 then decodeSyncF op f
  else if op < 0x280 then decodeSystemF op f x
  else none

/-- The instruction of an I word, by its opcode (R77). -/
def decodeI (op : Nat) (i : IWord) : Option Instr :=
  match op with
  | 0x000 => some (.iaddI i)
  | 0x001 => some (.isubI i)
  | 0x002 => some (.imulI i)
  | 0x004 => some (.imulhI i)
  | 0x005 => some (.idivI i)
  | 0x006 => some (.iremI i)
  | 0x007 => some (.iminI i)
  | 0x008 => some (.imaxI i)
  | 0x00B => some (.andI i)
  | 0x00C => some (.orI i)
  | 0x00D => some (.xorI i)
  | 0x00F => some (.andnI i)
  | 0x011 => some (.shlI i)
  | 0x012 => some (.shrI i)
  | 0x013 => some (.sarI i)
  | 0x01B => some (.prmtI i)
  | 0x01D => some (.icmpI i)
  | 0x021 => some (.movI i)
  | 0x040 => some (.faddI i)
  | 0x041 => some (.fsubI i)
  | 0x042 => some (.fmulI i)
  | 0x044 => some (.fminI i)
  | 0x045 => some (.fmaxI i)
  | 0x049 => some (.fcmpI i)
  | 0x053 => some (.daddI i)
  | 0x054 => some (.dsubI i)
  | 0x055 => some (.dmulI i)
  | 0x057 => some (.dminI i)
  | 0x058 => some (.dmaxI i)
  | 0x05B => some (.dcmpI i)
  | 0x100 => some (.bra i)
  | 0x102 => some (.call i)
  | 0x240 => some (.trapI i)
  | 0x248 => some (.dlsetI i)
  | _ => none

/-- The X word that a head takes, from the word that follows it: an F head by its opcode and its address byte
(R61, R115), an I head whenever one follows (R61). -/
def takenX (w : Word) (next : Option Word) : Option XWord :=
  if wordClass w = 0 then
    (match xNeed (wordOpcode w).toNat with
     | .never => none
     | .required => xPayload next
     | .byAddressByte => if w.getLsbD 7 then xPayload next else none)
  else if wordClass w = 2 then xPayload next
  else none

/-- The instruction that begins with a word, given the word that follows it. -/
def decode (w : Word) (next : Option Word) : Instr :=
  if wordClass w = 0 then
    (decodeF (wordOpcode w).toNat (.ofWord w) (takenX w next)).getD (.reservedEncoding w (takenX w next))
  else if wordClass w = 1 then .pairedWord (.ofWord w)
  else if wordClass w = 2 then
    (decodeI (wordOpcode w).toNat (.ofWord w (takenX w next))).getD (.reservedEncoding w (takenX w next))
  else .reservedEncoding w none

/-- The class-3 word of a payload (R61). -/
def xToWord (x : XWord) : Word := 3#2 ++ x

/-- The words of an instruction: its head word and its X word; a happening of the device has none. -/
def encode : Instr → Option (Word × Option Word)
  | .iadd w => some (w.toWord 0x000, none)
  | .iaddI w => some (w.toWord 0x000, w.x.map xToWord)
  | .isub w => some (w.toWord 0x001, none)
  | .isubI w => some (w.toWord 0x001, w.x.map xToWord)
  | .imul w => some (w.toWord 0x002, none)
  | .imulI w => some (w.toWord 0x002, w.x.map xToWord)
  | .imad w => some (w.toWord 0x003, none)
  | .imulh w => some (w.toWord 0x004, none)
  | .imulhI w => some (w.toWord 0x004, w.x.map xToWord)
  | .idiv w => some (w.toWord 0x005, none)
  | .idivI w => some (w.toWord 0x005, w.x.map xToWord)
  | .irem w => some (w.toWord 0x006, none)
  | .iremI w => some (w.toWord 0x006, w.x.map xToWord)
  | .imin w => some (w.toWord 0x007, none)
  | .iminI w => some (w.toWord 0x007, w.x.map xToWord)
  | .imax w => some (w.toWord 0x008, none)
  | .imaxI w => some (w.toWord 0x008, w.x.map xToWord)
  | .iabs w => some (w.toWord 0x009, none)
  | .ineg w => some (w.toWord 0x00A, none)
  | .and w => some (w.toWord 0x00B, none)
  | .andI w => some (w.toWord 0x00B, w.x.map xToWord)
  | .or w => some (w.toWord 0x00C, none)
  | .orI w => some (w.toWord 0x00C, w.x.map xToWord)
  | .xor w => some (w.toWord 0x00D, none)
  | .xorI w => some (w.toWord 0x00D, w.x.map xToWord)
  | .not w => some (w.toWord 0x00E, none)
  | .andn w => some (w.toWord 0x00F, none)
  | .andnI w => some (w.toWord 0x00F, w.x.map xToWord)
  | .btab w => some (w.toWord 0x010, none)
  | .shl w => some (w.toWord 0x011, none)
  | .shlI w => some (w.toWord 0x011, w.x.map xToWord)
  | .shr w => some (w.toWord 0x012, none)
  | .shrI w => some (w.toWord 0x012, w.x.map xToWord)
  | .sar w => some (w.toWord 0x013, none)
  | .sarI w => some (w.toWord 0x013, w.x.map xToWord)
  | .cshf w => some (w.toWord 0x014, none)
  | .popc w => some (w.toWord 0x015, none)
  | .clz w => some (w.toWord 0x016, none)
  | .ctz w => some (w.toWord 0x017, none)
  | .brev w => some (w.toWord 0x018, none)
  | .bfe w => some (w.toWord 0x019, none)
  | .bfi w => some (w.toWord 0x01A, none)
  | .prmt w => some (w.toWord 0x01B, none)
  | .prmtI w => some (w.toWord 0x01B, w.x.map xToWord)
  | .lea w => some (w.toWord 0x01C, none)
  | .icmp w => some (w.toWord 0x01D, none)
  | .icmpI w => some (w.toWord 0x01D, w.x.map xToWord)
  | .ptab w => some (w.toWord 0x01E, none)
  | .isel w => some (w.toWord 0x01F, none)
  | .sel w => some (w.toWord 0x020, none)
  | .mov w => some (w.toWord 0x021, none)
  | .movI w => some (w.toWord 0x021, w.x.map xToWord)
  | .fadd w => some (w.toWord 0x040, none)
  | .faddI w => some (w.toWord 0x040, w.x.map xToWord)
  | .fsub w => some (w.toWord 0x041, none)
  | .fsubI w => some (w.toWord 0x041, w.x.map xToWord)
  | .fmul w => some (w.toWord 0x042, none)
  | .fmulI w => some (w.toWord 0x042, w.x.map xToWord)
  | .ffma w => some (w.toWord 0x043, none)
  | .fmin w => some (w.toWord 0x044, none)
  | .fminI w => some (w.toWord 0x044, w.x.map xToWord)
  | .fmax w => some (w.toWord 0x045, none)
  | .fmaxI w => some (w.toWord 0x045, w.x.map xToWord)
  | .fabs w => some (w.toWord 0x046, none)
  | .fneg w => some (w.toWord 0x047, none)
  | .fsgn w => some (w.toWord 0x048, none)
  | .fcmp w => some (w.toWord 0x049, none)
  | .fcmpI w => some (w.toWord 0x049, w.x.map xToWord)
  | .fclass w => some (w.toWord 0x04A, none)
  | .frnd w => some (w.toWord 0x04B, none)
  | .frcp w => some (w.toWord 0x04C, none)
  | .frsq w => some (w.toWord 0x04D, none)
  | .fsqrt w => some (w.toWord 0x04E, none)
  | .fexp2 w => some (w.toWord 0x04F, none)
  | .flog2 w => some (w.toWord 0x050, none)
  | .fsin w => some (w.toWord 0x051, none)
  | .fcos w => some (w.toWord 0x052, none)
  | .dadd w => some (w.toWord 0x053, none)
  | .daddI w => some (w.toWord 0x053, w.x.map xToWord)
  | .dsub w => some (w.toWord 0x054, none)
  | .dsubI w => some (w.toWord 0x054, w.x.map xToWord)
  | .dmul w => some (w.toWord 0x055, none)
  | .dmulI w => some (w.toWord 0x055, w.x.map xToWord)
  | .dfma w => some (w.toWord 0x056, none)
  | .dmin w => some (w.toWord 0x057, none)
  | .dminI w => some (w.toWord 0x057, w.x.map xToWord)
  | .dmax w => some (w.toWord 0x058, none)
  | .dmaxI w => some (w.toWord 0x058, w.x.map xToWord)
  | .dabs w => some (w.toWord 0x059, none)
  | .dneg w => some (w.toWord 0x05A, none)
  | .dcmp w => some (w.toWord 0x05B, none)
  | .dcmpI w => some (w.toWord 0x05B, w.x.map xToWord)
  | .dclass w => some (w.toWord 0x05C, none)
  | .drnd w => some (w.toWord 0x05D, none)
  | .cvt w => some (w.toWord 0x080, none)
  | .cvtf w => some (w.toWord 0x081, none)
  | .pack w => some (w.toWord 0x082, none)
  | .unpack w => some (w.toWord 0x083, none)
  | .qscale w => some (w.toWord 0x084, none)
  | .dqscale w => some (w.toWord 0x085, none)
  | .fldexp w => some (w.toWord 0x086, none)
  | .ffrexp w => some (w.toWord 0x087, none)
  | .xlane w => some (w.toWord 0x0C0, none)
  | .vote w => some (w.toWord 0x0C1, none)
  | .ballot w => some (w.toWord 0x0C2, none)
  | .scan w => some (w.toWord 0x0C3, none)
  | .segscan w => some (w.toWord 0x0C4, none)
  | .redux w => some (w.toWord 0x0C5, none)
  | .matchM w => some (w.toWord 0x0C6, none)
  | .elect w => some (w.toWord 0x0C7, none)
  | .active w => some (w.toWord 0x0C8, none)
  | .bra w => some (w.toWord 0x100, w.x.map xToWord)
  | .brx w => some (w.toWord 0x101, none)
  | .call w => some (w.toWord 0x102, w.x.map xToWord)
  | .calli w => some (w.toWord 0x103, none)
  | .ret w => some (w.toWord 0x104, none)
  | .tie w x => some (w.toWord 0x105, x.map xToWord)
  | .join w => some (w.toWord 0x106, none)
  | .exit w => some (w.toWord 0x107, none)
  | .yield w => some (w.toWord 0x108, none)
  | .loopq w x => some (w.toWord 0x109, x.map xToWord)
  | .nop w => some (w.toWord 0x10A, none)
  | .pairedWord w => some (w.toWord, none)
  | .ldg w x => some (w.toWord 0x140, x.map xToWord)
  | .stg w x => some (w.toWord 0x141, x.map xToWord)
  | .ldl w x => some (w.toWord 0x142, x.map xToWord)
  | .stl w x => some (w.toWord 0x143, x.map xToWord)
  | .lds w x => some (w.toWord 0x144, x.map xToWord)
  | .sts w x => some (w.toWord 0x145, x.map xToWord)
  | .ldw w x => some (w.toWord 0x146, x.map xToWord)
  | .post w x => some (w.toWord 0x147, x.map xToWord)
  | .atom w x => some (w.toWord 0x148, x.map xToWord)
  | .atomcas w x => some (w.toWord 0x149, x.map xToWord)
  | .red w x => some (w.toWord 0x14A, x.map xToWord)
  | .home w x => some (w.toWord 0x14B, x.map xToWord)
  | .migrG w x => some (w.toWord 0x14C, x.map xToWord)
  | .migrL w x => some (w.toWord 0x14C, x.map xToWord)
  | .qcfg w => some (w.toWord 0x14D, none)
  | .qidx w => some (w.toWord 0x14E, none)
  | .qld w => some (w.toWord 0x14F, none)
  | .qclose w => some (w.toWord 0x150, none)
  | .fence w => some (w.toWord 0x151, none)
  | .fenceX w => some (w.toWord 0x152, none)
  | .mma w => some (w.toWord 0x180, none)
  | .mmaBs w x => some (w.toWord 0x181, x.map xToWord)
  | .mmaSp w x => some (w.toWord 0x182, x.map xToWord)
  | .bmc w => some (w.toWord 0x183, none)
  | .bmx w => some (w.toWord 0x184, none)
  | .kset w => some (w.toWord 0x185, none)
  | .ktst w => some (w.toWord 0x186, none)
  | .mpart w => some (w.toWord 0x187, none)
  | .smerge w x => some (w.toWord 0x188, x.map xToWord)
  | .cp w => some (w.toWord 0x1C0, none)
  | .cpm w => some (w.toWord 0x1C1, none)
  | .cpcv w => some (w.toWord 0x1C2, none)
  | .cpw w => some (w.toWord 0x1C3, none)
  | .capr w => some (w.toWord 0x1C4, none)
  | .capw w => some (w.toWord 0x1C5, none)
  | .bcallT w x => some (w.toWord 0x1C6, x.map xToWord)
  | .bcallN w x => some (w.toWord 0x1C6, x.map xToWord)
  | .bwait w => some (w.toWord 0x1C7, none)
  | .barc w => some (w.toWord 0x200, none)
  | .barw w => some (w.toWord 0x201, none)
  | .barx w => some (w.toWord 0x202, none)
  | .mbar w => some (w.toWord 0x203, none)
  | .gbara w => some (w.toWord 0x204, none)
  | .gbarw w => some (w.toWord 0x205, none)
  | .qpush w => some (w.toWord 0x206, none)
  | .qpop w => some (w.toWord 0x207, none)
  | .qtryPush w => some (w.toWord 0x208, none)
  | .qtryPop w => some (w.toWord 0x208, none)
  | .trap w => some (w.toWord 0x240, none)
  | .trapI w => some (w.toWord 0x240, w.x.map xToWord)
  | .tfence w => some (w.toWord 0x241, none)
  | .tret w => some (w.toWord 0x242, none)
  | .movsRead w => some (w.toWord 0x243, none)
  | .movsWrite w => some (w.toWord 0x243, none)
  | .movspRead w => some (w.toWord 0x244, none)
  | .movspWrite w => some (w.toWord 0x244, none)
  | .segldL w => some (w.toWord 0x245, none)
  | .segldP w => some (w.toWord 0x245, none)
  | .tlbf w => some (w.toWord 0x246, none)
  | .tlbiVa w => some (w.toWord 0x247, none)
  | .tlbiCtx w => some (w.toWord 0x247, none)
  | .tlbiAll w => some (w.toWord 0x247, none)
  | .dlsetRel w => some (w.toWord 0x248, none)
  | .dlsetI w => some (w.toWord 0x248, w.x.map xToWord)
  | .dlsetAbs w => some (w.toWord 0x248, none)
  | .dlsetDef w => some (w.toWord 0x248, none)
  | .clkrd w => some (w.toWord 0x249, none)
  | .halt w => some (w.toWord 0x24A, none)
  | .dstep w => some (w.toWord 0x24B, none)
  | .ctxsave w x => some (w.toWord 0x24C, x.map xToWord)
  | .ctxload w x => some (w.toWord 0x24D, x.map xToWord)
  | .reservedEncoding w x => some (w, x.map xToWord)
  | .variableLatencyWrite _ _ => none
  | .instructionFetch _ => none
  | .continuationDeparture _ => none
  | .imageLanding _ => none
  | .holdTransfer _ => none
  | .imageAdmission _ _ => none
  | .tieNotice _ => none
  | .exitNotice _ => none
  | .tieExpiry _ => none
  | .postedOperation _ => none
  | .postedAcknowledgement _ => none
  | .ldwWake _ => none
  | .ldwTimeout _ => none
  | .fenceTimeout _ => none
  | .streamFetch _ _ => none
  | .streamElementArrival _ _ => none
  | .barrierArrival _ => none
  | .barrierWithdrawal _ => none
  | .barrierExit _ => none
  | .barrierCompletionNotice _ => none
  | .barrierWaitTimeout _ => none
  | .queueRetry _ => none
  | .queueWaitTimeout _ => none
  | .sliceAccept _ => none
  | .sliceWaitTimeout _ => none
  | .gatheringExpiry _ _ => none
  | .tackleTransfer _ _ _ => none
  | .cpwTimeout _ => none
  | .capstanAccept _ => none
  | .caprTimeout _ => none
  | .capstanReduction _ => none
  | .capwWake _ => none
  | .capwTimeout _ => none
  | .jibCall _ => none
  | .jibReply _ => none
  | .bcallParkExpiry _ => none
  | .bwaitTimeout _ => none
  | .implicitWaitExpiry _ => none
  | .escalationIncrement _ => none
  | .escalationReset _ => none
  | .walkStart _ => none
  | .walkEnd _ => none
  | .retry _ _ _ => none
  | .fail _ _ _ => none
  | .crewAdmission => none
  | .crewPlacement _ _ => none
  | .gangStart => none
  | .gangAgeLimit => none
  | .launchComplete _ => none
  | .cmdNop _ => none
  | .launch _ => none
  | .wait _ => none
  | .waitReread _ => none
  | .stallRecord _ => none
  | .signal _ => none
  | .doorbell _ => none
  | .drvfeatWrite _ => none
  | .journalControlWrite _ _ => none
  | .registerWrite _ _ => none
  | .ctxreg _ => none
  | .qreg _ => none
  | .qrestart _ => none
  | .preempt _ => none
  | .preemptComplete _ => none
  | .pdlExpiry _ => none
  | .restore _ => none
  | .restoreComplete _ => none
  | .resume _ => none
  | .debuggo _ => none
  | .destroy _ => none
  | .ftag _ => none
  | .member _ => none
  | .membershipTimeout _ => none
  | .ckpt _ => none
  | .ckptImageWrite => none
  | .ckload _ => none
  | .attest _ => none
  | .eventWrite => none
  | .rdmaWrite _ _ _ _ => none
  | .rdmaRead _ _ _ _ => none
  | .compareAndSwap _ _ _ _ _ => none
  | .fetchAndAdd _ _ _ _ => none
  | .invalidRequest _ => none
  | .cnp _ => none
  | .ecnCe _ => none
  | .riluaganFlit _ => none
  | .shroudPortFailure _ => none
  | .row _ _ => none
  | .bank _ _ => none
  | .fenceStation _ _ => none
  | .fenceMast _ => none
  | .repairComplete _ => none
  | .scrub _ _ => none
  | .softError _ _ => none
  | .replayDivergence => none
  | .powerOn => none
  | .tierReady _ _ => none
  | .tierReadyTimeout _ _ => none
  | .powerDown => none
  | .clockScaling _ _ => none
  | .thermalThrottle _ => none
  | .thermalHold _ => none
  | .thermalTrip _ => none
  | .shroudPath _ => none
  | .qpAbandoned _ => none
  | .thermalHoldRelease _ => none

/-- The length of an instruction in bytes: 16 with an X word (R58). -/
def Instr.len (i : Instr) : Nat :=
  match encode i with
  | some (_, some _) => 16
  | _ => 8

/-- Why bytes do not decode. -/
inductive DecodeError where
  /-- Fewer than eight bytes are left, so there is no whole word (R58). -/
  | truncated
  deriving DecidableEq, Repr

/-- The word of eight bytes, the first the least significant (R14). -/
def wordOfBytes : List Byte → Word
  | [] => 0
  | b :: bs => b.setWidth 64 ||| (wordOfBytes bs <<< 8)

/-- The eight bytes of a word, the least significant first (R14). -/
def bytesOfWord (w : Word) : List Byte := (List.range 8).map (fun i => w.extractLsb' (8 * i) 8)

/-- Decode the instruction at the head of a list of bytes and answer the bytes after it. -/
def decodeBytes (bs : List Byte) : Except DecodeError (Instr × List Byte) :=
  if bs.length < 8 then .error .truncated
  else
    let next := if 16 ≤ bs.length then some (wordOfBytes ((bs.drop 8).take 8)) else none
    let i := decode (wordOfBytes (bs.take 8)) next
    .ok (i, bs.drop i.len)

/-- The bytes of an instruction's words. -/
def encodeBytes (i : Instr) : List Byte :=
  match encode i with
  | some (w, some x) => bytesOfWord w ++ bytesOfWord x
  | some (w, none) => bytesOfWord w
  | none => []

/-- The instruction read from an instruction given as one number, bit 0 the least significant bit of its first word. -/
def decodeTableWord (_nbits w : Nat) : Option Instr :=
  match decodeBytes (bytesOfWord (BitVec.ofNat 64 w) ++ bytesOfWord (BitVec.ofNat 64 (w >>> 64))) with
  | .ok (i, _) => some i
  | .error _ => none

end Sys2Proof
end

