-- ==== Sys2Proof/Config.lean ====
section
/-! DEFINITION. What the spec leaves open: constants with no body, whose values no proof can see (log entries 2, 3 and 4). -/

namespace Sys2Proof

/-- The bits an implementation delivers for a transcendental instruction; the machine keeps them only when they meet the
bound of spec 02, R55. The first argument is the opcode. -/
opaque Config.transcendental : Nat → BitVec 32 → BitVec 32

/-- A fresh open value; the argument is the state's count of those used (log entry 4). -/
opaque Config.freeValue : Nat → BitVec 64

/-- SHAKE256 of a byte string to 64 bytes (spec 19, R345, R346), whose definition the spec takes from elsewhere. -/
opaque Config.shake256 : List Byte → List Byte

/-- The Falcon-1024 signature with the identity key (spec 19, R346). -/
opaque Config.falconSign : List Byte → List Byte

/-- The certificate of the identity key (spec 19, R346). -/
opaque Config.certificate : List Byte

/-- The four measurements of the device (spec 19, R345). -/
opaque Config.measurement : Nat → List Byte

/-- The DRAM row within its bank group that holds a physical address of a mast, and the bank of a row: the spec names rows and
banks, gives the bank group (spec 15, R287) and not which of its addresses share a row (spec 18, R331). -/
opaque Config.dramRow : Nat → Nat
opaque Config.dramBank : Nat → Nat

/-- The identity public key (spec 19, R346). -/
opaque Config.identityKey : List Byte

/-- The bytes of the repair map and fenced set that are measured (spec 19, R346). -/
opaque Config.mapBytes : List Nat → List Byte

/-- The CRC of a Riluagan flit's bytes (spec 17, R320). -/
opaque Config.crc64 : List Byte → BitVec 64

/-- The hash that picks a shroud port, from source and target (spec 17, R321). -/
opaque Config.portHash : Nat → Nat → Nat

end Sys2Proof
end

