-- ==== Sys2Proof/Machine/Float.lean ====
section
/-! DEFINITION. Number formats, rounding and floating-point operations (spec 02, R42 to R57): every value is taken apart
into an exact dyadic number, computed exactly and narrowed once. -/

namespace Sys2Proof.Machine

open Sys2Proof

/-- How a format uses its highest exponent (R42): IEEE 754, E4M3's single NaN, or every encoding finite. -/
inductive FKind where
  | ieee | e4m3 | finite
  deriving DecidableEq, Repr

/-- A floating-point format (R42): exponent and fraction widths, bias, specials. -/
structure FFmt where
  e    : Nat
  f    : Nat
  bias : Nat
  kind : FKind
  deriving DecidableEq, Repr

def FFmt.f64 : FFmt := { e := 11, f := 52, bias := 1023, kind := .ieee }
def FFmt.f32 : FFmt := { e := 8, f := 23, bias := 127, kind := .ieee }
def FFmt.f16 : FFmt := { e := 5, f := 10, bias := 15, kind := .ieee }
def FFmt.bf16 : FFmt := { e := 8, f := 7, bias := 127, kind := .ieee }
def FFmt.e4m3 : FFmt := { e := 4, f := 3, bias := 7, kind := .e4m3 }
def FFmt.e5m2 : FFmt := { e := 5, f := 2, bias := 15, kind := .ieee }
def FFmt.e3m2 : FFmt := { e := 3, f := 2, bias := 3, kind := .finite }
def FFmt.e2m3 : FFmt := { e := 2, f := 3, bias := 1, kind := .finite }
def FFmt.e2m1 : FFmt := { e := 2, f := 1, bias := 1, kind := .finite }

/-- The width of a format in bits. -/
def FFmt.width (t : FFmt) : Nat := 1 + t.e + t.f

/-- An unpacked value: a NaN (signalling or not), an infinity, or (-1)^neg * m * 2^e. -/
inductive FVal where
  | nan (sig : Bool)
  | inf (neg : Bool)
  | fin (neg : Bool) (m : Nat) (e : Int)
  deriving DecidableEq, Repr

/-- The flags of %aflags, as its low six bits (R34). -/
abbrev Flags := BitVec 8

def flNV : Flags := 1
def flDZ : Flags := 2
def flOF : Flags := 4
def flUF : Flags := 8
def flNX : Flags := 16
def flSNAN : Flags := 32

/-- A flag set or not. -/
def flIf (b : Bool) (f : Flags) : Flags := if b then f else 0

/-- Take an encoding apart (R42, R51). E4M3 and E5M2 have no signalling NaNs. -/
def FFmt.unpack (t : FFmt) (x : Nat) : FVal :=
  let neg := x / 2 ^ (t.e + t.f) % 2 == 1
  let ex := x / 2 ^ t.f % 2 ^ t.e
  let fr := x % 2 ^ t.f
  let top := 2 ^ t.e - 1
  if ex = 0 then .fin neg fr (1 - (t.bias : Int) - t.f)
  else if decide (ex = top) && t.kind == .ieee then
    if fr = 0 then .inf neg else .nan (decide (t.e + t.f > 7) && decide (fr < 2 ^ (t.f - 1)))
  else if decide (ex = top) && decide (fr = 2 ^ t.f - 1) && t.kind == .e4m3 then .nan false
  else .fin neg (2 ^ t.f + fr) ((ex : Int) - t.bias - t.f)

/-- The canonical NaN of a format that has one (R51); the others deliver +0 (R52). -/
def FFmt.qnan (t : FFmt) : Nat :=
  match t.kind with
  | .ieee => (2 ^ t.e - 1) * 2 ^ t.f + 2 ^ (t.f - 1)
  | .e4m3 => 2 ^ (t.e + t.f) - 1
  | .finite => 0

/-- The sign bit in place. -/
def FFmt.sign (t : FFmt) (neg : Bool) : Nat := if neg then 2 ^ (t.e + t.f) else 0

/-- The largest finite encoding's magnitude bits (R42). -/
def FFmt.maxBits (t : FFmt) : Nat :=
  match t.kind with
  | .ieee => (2 ^ t.e - 1) * 2 ^ t.f - 1
  | .e4m3 => 2 ^ (t.e + t.f) - 2
  | .finite => 2 ^ (t.e + t.f) - 1

/-- An infinity of a format that has one. -/
def FFmt.infBits (t : FFmt) (neg : Bool) : Nat := t.sign neg + (2 ^ t.e - 1) * 2 ^ t.f

/-- The exponent of the last place of the smallest normal number, and of every subnormal. -/
def FFmt.minExp (t : FFmt) : Int := 1 - (t.bias : Int) - t.f

/-- A natural number times a power of two, dropping the fraction. -/
def shiftNat (m : Nat) (k : Int) : Nat := if k ≥ 0 then m * 2 ^ k.toNat else m / 2 ^ (-k).toNat

/-- The bits of m * 2^q, which the format can hold, without the sign. -/
def FFmt.encodeMag (t : FFmt) (m : Nat) (q : Int) : Nat :=
  if m = 0 then 0
  else
    let ex := q + (Nat.log2 m : Int)
    if ex < 1 - (t.bias : Int) then shiftNat m (q - t.minExp)
    else (ex + t.bias).toNat * 2 ^ t.f + (shiftNat m (q - (ex - t.f)) - 2 ^ t.f)

/-- Compare m1 * 2^e1 with m2 * 2^e2: the difference of both brought to the lower exponent. -/
def dyadicDiff (m1 : Nat) (e1 : Int) (m2 : Nat) (e2 : Int) : Int :=
  let e := min e1 e2
  (m1 * 2 ^ (e1 - e).toNat : Nat) - (m2 * 2 ^ (e2 - e).toNat : Nat)

/-- Rounding: the code of R47, with the draw of R49 for stochastic rounding. -/
structure Rnd where
  code : Nat
  draw : Nat
  deriving DecidableEq, Repr

/-- Rounding to nearest, ties to even. -/
def Rnd.rne : Rnd := { code := 0, draw := 0 }

/-- Round a quotient n with remainder r of d parts (d a power of two): whether the magnitude goes up (R47, R49). -/
def Rnd.up (k : Rnd) (neg : Bool) (n r d : Nat) : Bool :=
  if r = 0 then false
  else match k.code with
    | 0 => decide (2 * r > d) || (decide (2 * r = d) && decide (n % 2 = 1))
    | 1 => false
    | 2 => neg
    | 3 => !neg
    | _ => decide (k.draw < r * 2 ^ 32 / d)

/-- Round m * 2^e to a multiple of 2^q: the multiple and whether it is inexact. -/
def roundAt (k : Rnd) (neg : Bool) (m : Nat) (e q : Int) : Nat × Bool :=
  if q ≤ e then (m * 2 ^ (e - q).toNat, false)
  else
    let d := 2 ^ (q - e).toNat
    let n := m / d
    (if k.up neg n (m % d) d then n + 1 else n, decide (m % d ≠ 0))

/-- What an overflow delivers (R52). -/
def FFmt.overflow (t : FFmt) (k : Rnd) (sat neg : Bool) : Nat :=
  let toInf := match k.code with | 1 => false | 2 => neg | 3 => !neg | _ => true
  if sat || t.kind == .finite || !toInf then t.sign neg + t.maxBits
  else match t.kind with
    | .e4m3 => t.qnan
    | _ => t.infBits neg

/-- Round (-1)^neg * m * 2^e into a format, with the flags of R56; tininess is judged after rounding. -/
def FFmt.round (t : FFmt) (k : Rnd) (sat neg : Bool) (m : Nat) (e : Int) : Nat × Flags :=
  if m = 0 then (t.sign neg, 0)
  else
    let qn := e + (Nat.log2 m : Int) - t.f
    let q := max qn t.minExp
    let (n, nx) := roundAt k neg m e q
    let mb := t.maxBits
    let maxM := if mb / 2 ^ t.f = 0 then mb % 2 ^ t.f else 2 ^ t.f + mb % 2 ^ t.f
    let maxE : Int := (max (mb / 2 ^ t.f) 1 : Nat) - (t.bias : Int) - t.f
    if dyadicDiff n q maxM maxE > 0 then (t.overflow k sat neg, flOF ||| flNX)
    else
      let small := fun (m : Nat) (e : Int) => decide (dyadicDiff m e 1 (1 - (t.bias : Int)) < 0)
      let tiny :=
        if k.code = 4 then small n q
        else let (n2, _) := roundAt k neg m e qn; small n2 qn
      (t.sign neg + t.encodeMag n q, flIf nx flNX ||| flIf (nx && tiny) flUF)

/-- Whether a value is a signalling NaN. -/
def FVal.isSig : FVal → Bool
  | .nan s => s
  | .inf _ | .fin _ _ _ => false

/-- Whether a value is a NaN. -/
def FVal.isNan : FVal → Bool
  | .nan _ => true
  | .inf _ | .fin _ _ _ => false

/-- Whether a value is a zero. -/
def FVal.isZero : FVal → Bool
  | .fin _ m _ => decide (m = 0)
  | .nan _ | .inf _ => false

/-- Whether a value's sign bit is set. -/
def FVal.neg : FVal → Bool
  | .nan _ => false
  | .inf n => n
  | .fin n _ _ => n

/-- Deliver a value in a format: the canonical NaN for a NaN (R51), one rounding otherwise (R48). -/
def FFmt.deliver (t : FFmt) (k : Rnd) : FVal → Nat × Flags
  | .nan _ => (t.qnan, 0)
  | .inf n => (t.infBits n, 0)
  | .fin n m e => t.round k false n m e

/-- The exact sum of two finite values; an exact zero of opposite signs takes the sign of R48. -/
def addFin (k : Rnd) (n1 : Bool) (m1 : Nat) (e1 : Int) (n2 : Bool) (m2 : Nat) (e2 : Int) : FVal :=
  let e := min e1 e2
  let x : Int := (m1 * 2 ^ (e1 - e).toNat : Nat)
  let y : Int := (m2 * 2 ^ (e2 - e).toNat : Nat)
  let z := (if n1 then -x else x) + (if n2 then -y else y)
  if z = 0 then .fin (if n1 = n2 then n1 else k.code == 2) 0 e
  else .fin (decide (z < 0)) z.natAbs e

/-- The sum of two values, with NV for infinities of opposite signs (R56). -/
def FVal.add (k : Rnd) : FVal → FVal → FVal × Flags
  | .nan _, _ | _, .nan _ => (.nan false, 0)
  | .inf a, .inf b => if a = b then (.inf a, 0) else (.nan false, flNV)
  | .inf a, .fin _ _ _ => (.inf a, 0)
  | .fin _ _ _, .inf b => (.inf b, 0)
  | .fin a m e, .fin b n f => (addFin k a m e b n f, 0)

/-- The product of two values, with NV for 0 times infinity. -/
def FVal.mul : FVal → FVal → FVal × Flags
  | .nan _, _ | _, .nan _ => (.nan false, 0)
  | .inf a, .inf b => (.inf (a != b), 0)
  | .inf a, .fin b m _ | .fin b m _, .inf a => if m = 0 then (.nan false, flNV) else (.inf (a != b), 0)
  | .fin a m e, .fin b n f => (.fin (a != b) (m * n) (e + f), 0)

/-- The value with its sign inverted. -/
def FVal.negate : FVal → FVal
  | .nan s => .nan s
  | .inf n => .inf (!n)
  | .fin n m e => .fin (!n) m e

/-- NV for a signalling NaN among the sources (R51). -/
def sigFlags (vs : List FVal) : Flags := flIf (vs.any FVal.isSig) flNV

/-- a + b (R91). -/
def FFmt.addOp (t : FFmt) (k : Rnd) (a b : Nat) : Nat × Flags :=
  let x := t.unpack a; let y := t.unpack b
  let (z, f) := x.add k y
  let (r, g) := t.deliver k z
  (r, sigFlags [x, y] ||| f ||| g)

/-- a - b (R91). -/
def FFmt.subOp (t : FFmt) (k : Rnd) (a b : Nat) : Nat × Flags :=
  let x := t.unpack a; let y := t.unpack b
  let (z, f) := x.add k y.negate
  let (r, g) := t.deliver k z
  (r, sigFlags [x, y] ||| f ||| g)

/-- a times b (R91). -/
def FFmt.mulOp (t : FFmt) (k : Rnd) (a b : Nat) : Nat × Flags :=
  let x := t.unpack a; let y := t.unpack b
  let (z, f) := x.mul y
  let (r, g) := t.deliver k z
  (r, sigFlags [x, y] ||| f ||| g)

/-- a times b plus c, rounded once; 0 times infinity sets NV even when c is a quiet NaN (R91). -/
def FFmt.fmaOp (t : FFmt) (k : Rnd) (a b c : Nat) : Nat × Flags :=
  let x := t.unpack a; let y := t.unpack b; let w := t.unpack c
  let (p, f) := x.mul y
  let (z, g) := p.add k w
  let (r, h) := t.deliver k z
  (r, sigFlags [x, y, w] ||| f ||| g ||| h)

/-- The order of two values that are not NaN: below 0, 0 or above 0. -/
def FVal.cmp : FVal → FVal → Int
  | .inf a, .inf b => (if a then -1 else 1) - (if b then -1 else 1)
  | .inf a, .fin _ _ _ => if a then -1 else 1
  | .fin _ _ _, .inf b => if b then 1 else -1
  | .fin a m e, .fin b n f =>
    let l := min e f
    let x : Int := (m * 2 ^ (e - l).toNat : Nat)
    let y : Int := (n * 2 ^ (f - l).toNat : Nat)
    (if a then -x else x) - (if b then -y else y)
  | .nan _, _ | .inf _, .nan _ | .fin _ _ _, .nan _ => 0

/-- The lesser operand, or the greater, by R92. -/
def FFmt.minMaxOp (t : FFmt) (wantMax : Bool) (a b : Nat) : Nat × Flags :=
  let x := t.unpack a; let y := t.unpack b
  let f := sigFlags [x, y]
  if x.isNan && y.isNan then (t.qnan, f)
  else if x.isNan then (b, f)
  else if y.isNan then (a, f)
  else
    let c := x.cmp y
    let aLess := if c = 0 then x.neg && !y.neg else decide (c < 0)
    let same := decide (c = 0) && x.neg == y.neg
    (if same then a else if aLess != wantMax then a else b, f)

/-- The comparison of a code of R90, with its NV. -/
def FFmt.cmpOp (t : FFmt) (code : Nat) (a b : Nat) : Bool × Flags :=
  let x := t.unpack a; let y := t.unpack b
  let n := x.isNan || y.isNan
  let c := x.cmp y
  let r := match code with
    | 0 => !n && decide (c = 0)
    | 1 => n || decide (c ≠ 0)
    | 2 => !n && decide (c < 0)
    | 3 => !n && decide (c ≤ 0)
    | 4 => !n && decide (c > 0)
    | 5 => !n && decide (c ≥ 0)
    | 6 => !n
    | _ => n
  (r, if decide (2 ≤ code) && decide (code ≤ 5) then flIf n flNV else sigFlags [x, y])

/-- The class mask of R93. -/
def FFmt.classOp (t : FFmt) (a : Nat) : Nat :=
  match t.unpack a with
  | .nan s => if s then 1 else 2
  | .inf n => if n then 4 else 512
  | .fin n m e =>
    if m = 0 then (if n then 32 else 64)
    else if decide (m < 2 ^ t.f) && decide (e = t.minExp) then (if n then 16 else 128)
    else (if n then 8 else 256)

/-- The sign operations: clear, invert, copy, copy inverted, exclusive or; a NaN gives the canonical NaN (R91). -/
def FFmt.signOp (t : FFmt) (newNeg : Bool → Bool) (a : Nat) : Nat × Flags :=
  let x := t.unpack a
  if x.isNan then (t.qnan, sigFlags [x])
  else
    let s := t.sign true
    (a % s + t.sign (newNeg (decide (a / s % 2 = 1))), 0)

/-- Rounding to an integral value in the named direction; no flag but NV for a signalling NaN (R91). -/
def FFmt.rndOp (t : FFmt) (k : Rnd) (a : Nat) : Nat × Flags :=
  match t.unpack a with
  | .nan s => (t.qnan, flIf s flNV)
  | .inf _ => (a, 0)
  | .fin n m e =>
    let (r, _) := roundAt k n m e 0
    if e ≥ 0 then (a, 0) else (t.sign n + t.encodeMag r 0, 0)

/-- The integer square root by bits: the largest r with r * r at most n. -/
def isqrtGo (n : Nat) : Nat → Nat → Nat
  | 0, r => r
  | k + 1, r => let r' := r + 2 ^ k; isqrtGo n k (if r' * r' ≤ n then r' else r)

/-- The integer square root. -/
def isqrt (n : Nat) : Nat := isqrtGo n (Nat.log2 n / 2 + 1) 0

/-- The square root of m * 2^e to at least 80 bits with a sticky last bit: numerator and exponent. -/
def sqrtDyadic (m : Nat) (e : Int) : Nat × Int :=
  let e' := if e % 2 = 0 then e - 160 else e - 161
  let n := m * 2 ^ (e - e').toNat
  let r := isqrt n
  (2 * r + (if r * r = n then 0 else 1), e' / 2 - 1)

/-- The correctly rounded square root (R55). -/
def FFmt.sqrtOp (t : FFmt) (k : Rnd) (a : Nat) : Nat × Flags :=
  match t.unpack a with
  | .nan s => (t.qnan, flIf s flNV)
  | .inf n => if n then (t.qnan, flNV) else (a, 0)
  | .fin n m e =>
    if m = 0 then (a, 0)
    else if n then (t.qnan, flNV)
    else let (r, q) := sqrtDyadic m e; t.round k false false r q

/-- The quotient 1 over m * 2^e to at least 80 bits with a sticky last bit. -/
def recipDyadic (m : Nat) (e : Int) : Nat × Int :=
  let s := Nat.log2 m + 90
  let n := 2 ^ s
  let q := n / m
  (2 * q + (if n % m = 0 then 0 else 1), -(s : Int) - e - 1)

/-- Whether candidate bits name a finite binary32 within n ulp of the correctly rounded magnitude r (of one sign). -/
def withinUlp (n : Nat) (r c : Nat) : Bool :=
  match FFmt.f32.unpack r, FFmt.f32.unpack c with
  | .fin a m e, .fin b k f =>
    let lo := min e f
    let x : Int := (m * 2 ^ (e - lo).toNat : Nat)
    let y : Int := (k * 2 ^ (f - lo).toNat : Nat)
    decide (((if a then -x else x) - (if b then -y else y)).natAbs ≤ n * 2 ^ (e - lo).toNat)
  | _, _ => false

/-- Keep the implementation's bits when they meet the bound; otherwise the correctly rounded bits (R55, log entry 2). -/
def boundedPick (op : Nat) (a r : Nat) (ok : Nat → Bool) : Nat :=
  let c := (Config.transcendental op (BitVec.ofNat 32 a)).toNat
  if ok c then c else r

/-- The flags of an inexact binary32 result: UF where it is tiny and nonzero (R56). -/
def inexactFlags (p : Nat) : Flags := flNX ||| flIf (decide (0 < p % 2 ^ 31) && decide (p % 2 ^ 31 < 2 ^ 23)) flUF

/-- Whether a magnitude is a power of two. -/
def isPow2 (m : Nat) : Bool := decide (m ≠ 0) && decide (2 ^ Nat.log2 m = m)

/-- FRCP (R55). -/
def frcpOp (a : Nat) : Nat × Flags :=
  let t := FFmt.f32
  match t.unpack a with
  | .nan s => (t.qnan, flIf s flNV)
  | .inf n => (t.sign n, 0)
  | .fin n m e =>
    if m = 0 then (t.infBits n, flDZ)
    else
      let (q, x) := recipDyadic m e
      let (r, f) := t.round Rnd.rne false n q x
      if (f &&& flOF) ≠ 0 then (r, f)
      else if isPow2 m then (r, 0)
      else
        let p := boundedPick 0x4C a r (withinUlp 1 r)
        (p, inexactFlags p)

/-- FRSQ (R55). -/
def frsqOp (a : Nat) : Nat × Flags :=
  let t := FFmt.f32
  match t.unpack a with
  | .nan s => (t.qnan, flIf s flNV)
  | .inf n => if n then (t.qnan, flNV) else (0, 0)
  | .fin n m e =>
    if m = 0 then (t.infBits n, flDZ)
    else if n then (t.qnan, flNV)
    else
      let (q, x) := recipDyadic m e
      let (y, z) := sqrtDyadic q x
      let (r, _) := t.round Rnd.rne false false y z
      if isPow2 m && decide ((e + (Nat.log2 m : Int)) % 2 = 0) then (r, 0)
      else (boundedPick 0x4D a r (withinUlp 1 r), flNX)

/-- Fixed-point fraction bits of the series below. -/
def fxBits : Nat := 192

/-- ln 2 in fixed point, by the series of terms 1 over k 2^k. -/
def fxLn2Go : Nat → Nat → Nat
  | 0, acc => acc
  | k + 1, acc => fxLn2Go k (acc + 2 ^ (fxBits + 32) / ((k + 1) * 2 ^ (k + 1)))

/-- ln 2 in fixed point. -/
def fxLn2 : Nat := fxLn2Go 260 0 / 2 ^ 32

/-- The series of exp: the sum of y^k over k!, y in fixed point. -/
def fxExpGo (y : Nat) : Nat → Nat → Nat → Nat → Nat
  | 0, _, _, acc => acc
  | n + 1, k, term, acc =>
    let term' := term * y / (k * 2 ^ fxBits)
    fxExpGo y n (k + 1) term' (acc + term')

/-- 2 to the power of a fraction in [0, 1), in fixed point. -/
def fxExp2 (frac : Nat) : Nat :=
  let y := frac * fxLn2 / 2 ^ fxBits
  fxExpGo y 60 1 (2 ^ fxBits) (2 ^ fxBits)

/-- FEXP2 (R55). -/
def fexp2Op (a : Nat) : Nat × Flags :=
  let t := FFmt.f32
  match t.unpack a with
  | .nan s => (t.qnan, flIf s flNV)
  | .inf n => if n then (0, 0) else (a, 0)
  | .fin n m e =>
    if m = 0 then (0x3F800000, 0)
    else if decide (e + (Nat.log2 m : Int) > 12) then
      (if n then (let p := boundedPick 0x4F a 0 (fun c => decide (c ≤ 2)); (p, inexactFlags p)) else (t.infBits false, flOF ||| flNX))
    else
      -- x as a fixed-point number with 192 fraction bits, exact because e is at least -149
      let x : Int := (if n then -1 else 1) * (shiftNat m (e + fxBits) : Int)
      let ip := x / 2 ^ fxBits
      let fp := (x % 2 ^ fxBits).toNat
      let (r, f) := t.round Rnd.rne false false (if fp = 0 then 2 ^ (fxBits + 1) else 2 * fxExp2 fp + 1) (ip - fxBits - 1)
      if decide (fp = 0) || (f &&& flOF) ≠ 0 then (r, f)
      else
        let p := boundedPick 0x4F a r (withinUlp 2 r)
        (p, inexactFlags p)

/-- log2 of y in [1, 2) in fixed point, bit by bit by squaring. -/
def fxLog2Go : Nat → Nat → Nat → Nat
  | 0, _, acc => acc
  | k + 1, y, acc =>
    let y2 := y * y / 2 ^ fxBits
    if y2 ≥ 2 ^ (fxBits + 1) then fxLog2Go k (y2 / 2) (2 * acc + 1) else fxLog2Go k y2 (2 * acc)

/-- Fraction bits of the logarithm. -/
def logBits : Nat := 120

/-- Whether candidate bits lie within m * 2^e of the fixed-point value x * 2^-b (the series' own error is below the last
of its bits). -/
def withinAbs (x : Int) (b : Nat) (e : Int) (c : Nat) : Bool :=
  match FFmt.f32.unpack c with
  | .fin n m q =>
    let lo := min (min q (-(b : Int))) e
    let y : Int := (m * 2 ^ (q - lo).toNat : Nat)
    let z := x * ((2 ^ (-(b : Int) - lo).toNat : Nat) : Int)
    decide (((if n then -y else y) - z).natAbs ≤ 2 ^ (e - lo).toNat)
  | _ => false

/-- Round a fixed-point value to binary32. -/
def roundFx (x : Int) (b : Nat) : Nat := (FFmt.f32.round Rnd.rne false (decide (x < 0)) (2 * x.natAbs + 1) (-(b : Int) - 1)).1

/-- FLOG2 (R55). -/
def flog2Op (a : Nat) : Nat × Flags :=
  let t := FFmt.f32
  match t.unpack a with
  | .nan s => (t.qnan, flIf s flNV)
  | .inf n => if n then (t.qnan, flNV) else (a, 0)
  | .fin n m e =>
    if m = 0 then (t.infBits true, flDZ)
    else if n then (t.qnan, flNV)
    else
      let l := Nat.log2 m
      let ip := e + (l : Int)
      if isPow2 m then
        ((t.round Rnd.rne false (decide (ip < 0)) ip.natAbs 0).1, 0)
      else
        let fr := fxLog2Go logBits (m * 2 ^ (fxBits - l)) 0
        let x : Int := ip * 2 ^ logBits + fr
        let r := roundFx x logBits
        let inside := decide (-1 ≤ ip) && decide (ip ≤ 0)
        let p := boundedPick 0x50 a r (fun c => if inside then withinAbs x logBits (-22) c else withinUlp 2 r c)
        (p, inexactFlags p)

/-- pi in fixed point with 256 fraction bits. -/
def fxPi : Nat := 0x3243F6A8885A308D313198A2E03707344A4093822299F31D0082EFA98EC4E6C89

/-- The series of sine and cosine: alternating terms y^(k+2) over the factorials. -/
def fxTrigGo (y2 : Nat) (b : Nat) : Nat → Nat → Int → Int → Int
  | 0, _, _, acc => acc
  | n + 1, k, term, acc =>
    let term' := -(term * y2 / 2 ^ b / ((k + 1) * (k + 2) : Nat))
    fxTrigGo y2 b n (k + 2) term' (acc + term')

/-- Sine (start 1) or cosine (start 0) of an angle in [0, pi/2), with 128 fraction bits. -/
def fxTrig (cosine : Bool) (y : Nat) : Int :=
  let y2 := y * y / 2 ^ 128
  if cosine then fxTrigGo y2 128 30 0 (2 ^ 128) (2 ^ 128) else fxTrigGo y2 128 30 1 y y

/-- FSIN and FCOS (R55), the argument reduced over the full range. -/
def ftrigOp (cosine : Bool) (a : Nat) : Nat × Flags :=
  let t := FFmt.f32
  match t.unpack a with
  | .nan s => (t.qnan, flIf s flNV)
  | .inf _ => (t.qnan, flNV)
  | .fin n m e =>
    if m = 0 then (if cosine then 0x3F800000 else a, 0)
    else
      -- |x| = m * 2^e; reduce modulo 2 pi in units of 2^-149 scaled by 2^256
      let xs := m * 2 ^ (e + 149 + 107).toNat
      let r := xs % (2 * fxPi)
      let quad := r * 2 / fxPi
      let y := (r - quad * fxPi / 2) / 2 ^ 128
      let q := if cosine then (quad + 1) % 4 else quad % 4
      let v := match q with
        | 0 => fxTrig false y
        | 1 => fxTrig true y
        | 2 => -(fxTrig false y)
        | _ => -(fxTrig true y)
      let x := if n && !cosine then -v else v
      let big := decide (e + (Nat.log2 m : Int) ≥ 15)
      let p := boundedPick (if cosine then 0x52 else 0x51) a (roundFx x 128) (withinAbs x 128 (if big then -19 else -22))
      (p, inexactFlags p)

end Sys2Proof.Machine
end

