-- ==== Sys2Proof/Machine/Maps.lean ====
section
/-! DEFINITION. Sparse maps in one canonical form: keys strictly rising, and for register and memory maps no entry equal
to what an unlisted key reads as. Register files, memory and every table of records of the machine are held so. -/

namespace Sys2Proof.Machine

/-- A table of records by key, keys strictly rising. -/
abbrev SMap (α : Type) := List (Nat × α)

/-- The record at a key. -/
def SMap.get? {α : Type} : SMap α → Nat → Option α
  | [], _ => none
  | (j, a) :: m, k => if j = k then some a else SMap.get? m k

/-- Remove a key. -/
def SMap.del {α : Type} : SMap α → Nat → SMap α
  | [], _ => []
  | (j, a) :: m, k => if j = k then SMap.del m k else (j, a) :: SMap.del m k

/-- Insert at the place that keeps the keys rising. -/
def SMap.ins {α : Type} : SMap α → Nat → α → SMap α
  | [], k, x => [(k, x)]
  | (j, a) :: m, k, x => if k < j then (k, x) :: (j, a) :: m else (j, a) :: SMap.ins m k x

/-- Write the record at a key. -/
def SMap.put {α : Type} (m : SMap α) (k : Nat) (x : α) : SMap α := SMap.ins (SMap.del m k) k x

/-- Change the record at a key, if there is one. -/
def SMap.upd {α : Type} (m : SMap α) (k : Nat) (f : α → α) : SMap α :=
  match SMap.get? m k with
  | some a => SMap.put m k (f a)
  | none => m

/-- The keys rise strictly, all above a bound. -/
def SMap.risingFrom {α : Type} : Nat → SMap α → Bool
  | _, [] => true
  | b, (k, _) :: m => decide (b ≤ k) && SMap.risingFrom (k + 1) m

/-- The canonical form of a table: keys strictly rising. -/
def SMap.wf {α : Type} (m : SMap α) : Bool := SMap.risingFrom 0 m

/-- The records in key order. -/
def SMap.vals {α : Type} (m : SMap α) : List α := m.map (fun e => e.2)

/-- A file of registers or bytes of one width: unlisted keys read as 0 (R41, R39; spec 19, R341). -/
abbrev RMap (n : Nat) := List (Nat × BitVec n)

/-- The value at a key. -/
def RMap.get {n : Nat} (m : RMap n) (k : Nat) : BitVec n := (SMap.get? m k).getD 0

/-- Write a value; writing 0 removes the entry. -/
def RMap.set {n : Nat} (m : RMap n) (k : Nat) (x : BitVec n) : RMap n :=
  if x = 0 then SMap.del m k else SMap.put m k x

/-- No entry holds what an unlisted key reads as. -/
def RMap.noZero {n : Nat} (m : RMap n) : Bool := m.all (fun e => decide (e.2 ≠ 0))

/-- The canonical form of a register file or memory. -/
def RMap.wf {n : Nat} (m : RMap n) : Bool := SMap.wf m && RMap.noZero m

/-- The entries whose keys pass a test. -/
def RMap.keep {n : Nat} (m : RMap n) (f : Nat → Bool) : RMap n := m.filter (fun e => f e.1)

/-- All bytes of the device's memory, by cell number (see Machine/Ops.lean for the numbering). -/
abbrev Memory := List Host.Cell

/-- The canonical form of the memory: cell numbers strictly rising, no byte listed as 0. -/
def Memory.wf (m : Memory) : Bool := RMap.wf (n := 8) m

end Sys2Proof.Machine
end

