-- ==== Sys2Proof/Machine/State.lean ====
section
/-! DEFINITION. The state of a domain of Gulura G16 devices as plain data (spec 01, 09, 14, 15, 17, 18, 19), the reasons a step can
stop, and the state right after a device reset. -/

namespace Sys2Proof.Machine

open Sys2Proof

/-- Reasons for the machine to stop with a fault. -/
inductive Fault where
  /-- Raised by exec of an instruction word in a state in which no issue set is issuing. Safe: the spec describes no such
  execution; step never does it. -/
  | noIssueSet
  deriving DecidableEq, Repr

/-- Reasons for the machine to refuse. -/
inductive Refusal where
  /-- Raised by a dispatch arm whose instruction has no meaning in this model yet. Safe. -/
  | notModelled (mnemonic : String)
  deriving DecidableEq, Repr

/-- A register that a result is written to; x is a special register by its selector (R32). -/
inductive Reg where
  | v (lane n : Nat) | p (lane n : Nat) | s (n : Nat) | k (n : Nat) | d (n : Nat) | x (n : Nat)
  deriving DecidableEq, Repr

/-- Where a lane stands (R19, R31, R39, R232; spec 08, R196, R206; spec 11, R248). -/
inductive LaneSt where
  | ready      -- in an issue set
  | held       -- held at its tie point
  | parked     -- in the waiting pool, for BCALL.T or BWAIT
  | waiting    -- in a wait of an instruction or of its fetch
  | transit    -- marked in transit at its source
  | halted     -- by HALT
  | stopped    -- by a trap that no handler can take
  deriving DecidableEq, Repr

/-- What belongs to one lane besides its vector and predicate registers. -/
structure Lane where
  pc      : Word
  meet    : Word
  st      : LaneSt
  dist    : Nat               -- issue distance counted along the lane's path (R70, R72)
  readyAt : Nat               -- station cycle before which its issue set does not issue (R70)
  since   : Nat               -- ready time (R212)
  starve  : Nat               -- cycles ready and not picked (R212)
  yield   : Bool              -- placed last among equal ready times by YIELD (R212)
  step    : Bool              -- a DSTEP step is pending (R206)
  rel     : Option (BitVec 8 × Word) -- released from a tie point with this status (0x83 for a late lane) and deadline,
                              -- the JOIN not yet performed (R108)
  refuse  : Option (BitVec 8) -- a returned image: migration-refused with this detail at its word (R226)
  deriving DecidableEq, Repr

/-- A fixed-latency write that some reader may not see yet (R72): the value before it, for each lane of the writing issue
set the distance from which it is visible, and the station cycle from which other issue sets see it (R210). -/
structure Stale where
  reg   : Reg
  prev  : Word
  lanes : List (Nat × Nat)
  cyc   : Nat
  deriving DecidableEq, Repr

/-- A sub-group: lanes that share one copy of the per-group state (R208). -/
structure SubGroup where
  gid    : Nat
  mast   : Nat
  stn    : Nat
  lanes  : SMap Lane
  v      : RMap 32            -- vector registers, key lane * 64 + register
  p      : RMap 1             -- lane predicates, key lane * 8 + predicate; p0 is never listed
  s      : RMap 64
  k      : BitVec 8           -- tile predicates; bit 0 is fixed at 1 by the reader
  d      : RMap 64
  gclk   : Word
  dldef  : Word
  rejoin : BitVec 32
  rlive  : BitVec 8
  tprog  : BitVec 32
  tframe : Word
  depth  : Nat                -- frames in its own chain (R196, R216)
  aflags : BitVec 8
  atrap  : BitVec 8
  seed   : Word
  ctl    : Word               -- CHK bit 0, DIT bit 1, SV bit 2 (R33)
  pseg   : Word
  stale  : List Stale         -- newest first
  armed  : Option Nat         -- the lane that DSTEP named, until the next TRET
  deriving DecidableEq, Repr

/-- An access that its home could not translate yet: its page waits for a walk, or for the release of a fault (R296). -/
structure XlReq where
  ctx  : Nat
  va   : Word                 -- direct-form address
  acc  : BitVec 2             -- 0 read, 1 write, 2 fetch, 3 of the walker group: untranslated (R291)
  held : Option (BitVec 32)   -- the fault that holds it
  fail : Bool                 -- released with FAIL
  deriving DecidableEq, Repr

/-- An element of a stream: its place in the walk, its address, its value once fetched, and the trap that its delivery
raises if it cannot be fetched (R136). -/
structure StreamEl where
  i    : Nat
  va   : Word
  val  : Word
  trap : Option (BitVec 8 × BitVec 8)  -- cause and detail
  deriving DecidableEq, Repr

/-- The elements of one sector requested by a stream (R133). -/
structure StreamReq where
  els : List StreamEl
  x   : Option XlReq
  deriving DecidableEq, Repr

/-- An open stream (R28, R133 to R138). -/
structure Stream where
  mast  : Nat
  stn   : Nat
  ind   : Bool                -- opened by QIDX
  base  : Word
  n0    : Nat
  n1    : Nat
  n2    : Nat
  st0   : Word
  st1   : Word
  st2   : Word
  esz   : BitVec 3
  depth : Nat
  sc    : Nat
  qi    : Option Nat          -- the index stream of an indirect stream
  bound : Bool                -- an affine stream bound to an indirect one
  desc  : List Word           -- the descriptor scalars as opened (R304)
  pos   : Nat
  e     : BitVec 3            -- E0 to E2
  got   : List StreamEl       -- fetched elements not yet consumed
  secs  : List (Nat × Nat)    -- sectors that they came from: number and 32 bytes
  reqs  : List StreamReq
  deriving DecidableEq, Repr

/-- A variable-latency result still outstanding (R73, R40): a value not yet there is an engine status to come (R162). -/
structure Outst where
  id     : Nat
  lane   : Nat                -- lowest active lane of the word that produced it
  path   : Mask               -- its issue set: reads of these lanes wait for it (R72, R73)
  writes : List (Reg × Option Word)
  deriving DecidableEq, Repr

/-- What a group holds once, wherever its lanes are. -/
structure Group where
  ctx     : Nat
  cid     : Option Nat        -- its crew; none for a walker group
  gix     : Nat
  width   : Nat
  wins    : Nat
  ended   : Mask
  streams : SMap Stream
  frames  : SMap Mask         -- trap frames in use, by number 0 to 2, with the lanes that took the trap (R196)
  counts  : RMap 32           -- fence counts, key path * 4 + reach (R139, R303)
  errs    : BitVec 6          -- error records by path
  qout    : RMap 16           -- OUT by queue (R193)
  outst   : List Outst
  waits   : RMap 32           -- replay wait counts by lane (R338)
  arrived : List (Nat × Mask × BitVec 32)  -- counted arrivals of a saved MBAR: barrier, lanes, PHASE (R192, R303)
  imaged  : Mask              -- lanes ended by CTXSAVE whose identity is reserved (R207)
  deriving DecidableEq, Repr

/-- A barrier counter (R185). -/
structure Barrier where
  phase : BitVec 32
  count : Nat
  expct : Option Nat
  deriving DecidableEq, Repr

/-- The state of a copy tag (R165). -/
inductive TagSt where
  | idle
  | gathering (round parts accepted : Nat) (left : Word)
  | running (round : Nat)
  | done (round : Nat) (status : Word)
  | abandoned (round : Nat) (status : Word)
  deriving DecidableEq, Repr

/-- A crew bound to a station (R275), or saved with its context. -/
structure Crew where
  lid     : Nat
  cix     : Nat
  mast    : Nat
  stn     : Nat
  anchor  : Word
  lseg    : Word
  bars    : SMap Barrier      -- crew barriers
  tags    : SMap TagSt        -- copy tags; an unlisted tag is IDLE
  pushers : List (Nat × Nat × Nat)  -- beside each entry: queue, local offset of the entry, pushing group (R193)
  groups  : List Nat
  rsv     : Nat               -- reserved Tackle entries (R164)
  weight  : Nat               -- transfers in each round (R282)
  placedAt : Nat              -- station cycle of its placement
  saved   : Option Word       -- address of its crew-state record while its context is saved
  deriving DecidableEq, Repr

/-- A launch (R268 to R270, R281). -/
structure Launch where
  dev     : Nat               -- the device whose Command Processor runs it
  ctx     : Nat
  queue   : Nat
  entry   : Word
  param   : Word
  anchors : List Word
  crews   : Nat
  groups  : Nat               -- groups per crew
  wins    : Nat
  width   : Nat
  prio    : Nat
  dit     : Bool
  chk     : Bool
  gang    : Nat
  rsv     : Nat
  weight  : Nat
  dldef   : Word
  lseg    : Word
  pseg    : Word
  counter : Word
  incr    : Word
  admitted : Nat
  placed  : Nat
  retired : Nat
  grid    : SMap Barrier
  mbars   : SMap Barrier      -- key mast * 8 + barrier
  gangAge : Option Word       -- pending gang: deck cycles since its admission
  gangHeld : Bool             -- a pending gang that holds later crews back (R279)
  order   : Nat               -- order of admission to placement; 0 before it
  headNo  : BitVec 32         -- the number of its command in its queue
  word0   : Word              -- word 0 of its command
  counted : Bool              -- complete, but for the add to its counter (R265, R266)
  x       : Option XlReq
  deriving DecidableEq, Repr

/-- Which barrier (R185). -/
inductive BarRef where
  | crew (cid b : Nat) | mast (lid mast b : Nat) | grid (lid b : Nat)
  deriving DecidableEq, Repr

/-- A wait for a barrier goes through these stages (R188, R189). -/
inductive BarStage where
  | arriving | waiting | withdrawing
  deriving DecidableEq, Repr

/-- A trap to be taken (R196 to R198): the word it names and what the frame records. -/
structure TrapReq where
  cause  : BitVec 8
  detail : BitVec 8
  info   : Word
  fmask  : Mask
  next   : Bool               -- RPC is the address after the instruction
  tpc    : Word
  len    : Nat
  iword  : Word
  xword  : Word
  deriving DecidableEq, Repr

/-- What a thread-path access does at its home (R123, R127, R128). -/
inductive ThreadOp where
  | load (sz : Nat) | store (sz : Nat) | atom (aop atype : Nat) | cas (wide : Bool)
  deriving DecidableEq, Repr

/-- One lane's access: its address, its data or operand, and its swap value. -/
structure LaneAcc where
  lane : Nat
  addr : Word
  data : Nat
  swap : Nat
  deriving DecidableEq, Repr

/-- A thread-path access as issued, with its operands read (R118 to R128). -/
structure ThreadAcc where
  op   : ThreadOp
  dest : Operand
  ops  : List LaneAcc
  deriving DecidableEq, Repr

/-- What the lanes of a wait wait for, with the operands captured at issue. -/
inductive WaitKind where
  | scoreboard (ids : List Nat)                  -- the outstanding results it waits for (R73)
  | fetch (x : XlReq)                            -- R214, R215
  | access (x : XlReq) (t : ThreadAcc)           -- a thread-path access in fault hold (R122)
  | ldw (ops : List LaneAcc) (vals : List (Nat × Word)) (wide : Bool) (cmp : Nat) (signed : Bool)
        (dest : Operand) (xs : List XlReq)       -- lanes still waiting, values last read, pages that hold some of them (R125)
  | fence (paths : BitVec 6) (scope : Nat) (map : Operand) (bpath : Option Nat)   -- R140, R141
  | barrier (r : BarRef) (tok : BitVec 32) (keep : Bool) (mbar : Bool) (stage : BarStage)
  | queuePush (q : Nat) (entry : List Word)      -- R194
  | queuePop (q : Nat) (first : Nat)
  | slice (sl : Nat)                             -- R165
  | cpw (tag round : Nat)                        -- R172
  | capr (blk : Word) (x : Option XlReq)         -- R173
  | capw (blk : Word) (x : Option XlReq)         -- R177
  | bwait (sreg : Nat)                           -- R183: the identifier of its outstanding status, 0 for none
  | bcall                                        -- R178: parked for their replies
  | qld                                          -- R136: the word is unperformed
  | tie                                          -- R229: the word is unperformed
  | page (x : XlReq)                             -- a system word waits for a page, unperformed (R122, R207)
  | transit (img : Nat)                          -- R222
  | sent (left : Nat)                            -- R202, R203: answers of units of other devices still to come
  | standBy (ks : List Nat)                      -- the rest of an issue set, until these waits of its word have ended (log entry 17)
  | trapEntry (t : TrapReq) (frame : Nat) (x : XlReq)  -- R196
  deriving DecidableEq, Repr

/-- A wait of lanes of one sub-group (R251, R253). -/
structure Wait where
  sid    : Nat
  lanes  : Mask
  kind   : WaitKind
  dk     : Option Word        -- the named deadline, as read at issue
  bound  : Option Nat         -- the implicit bound: an unwrapped sum (R30)
  status : Operand            -- where the status is written
  pc     : Word
  len    : Nat                -- 8 or 16
  iword  : Word
  xword  : Word
  deriving DecidableEq, Repr

/-- How an image stands on its way (R220 to R226). -/
inductive ImgPhase where
  | departing | flying | landed (inHold : Bool) | returning
  deriving DecidableEq, Repr

/-- A continuation on its way (R216): the sub-group it carries and its route. -/
structure Image where
  kind   : BitVec 4
  live   : BitVec 8
  sg     : SubGroup
  held   : Bool
  halted : Bool
  smast  : Nat
  sstn   : Nat
  sid0   : Nat                -- the sub-group it left
  tdev   : Nat
  tmast  : Nat
  tstn   : Nat                -- 64 for a mast-bound image
  arr    : Nat                -- order of departure, then the arrival number once landed
  awaits : List Nat           -- outstanding results it must carry (R39)
  phase  : ImgPhase
  refuse : BitVec 8           -- migration-refused detail of a returned image
  restored : Bool
  streams : SMap Stream       -- streams that reopen on its admission (R304)
  bundle : Option Nat         -- images of one bundle form one sub-group (R305)
  deriving DecidableEq, Repr

/-- The record of a tie-point occurrence at its rejoin station (R229). -/
structure Tie where
  gid    : Nat
  mast   : Nat
  stn    : Nat
  m      : Word
  isOpen : Bool               -- open; otherwise closed and draining
  opened : Bool               -- members are held, so the deadline runs
  dl     : Nat                -- %gclk has 64 bits; an implicit bound may lie beyond them (R30)
  member : Mask
  held   : Mask
  sid    : Option Nat         -- the held set's sub-group
  deriving DecidableEq, Repr

/-- What a message inside the device carries. -/
inductive MsgBody where
  | posted (gid ctx : Nat) (red : Option (Nat × Nat)) (size : Nat) (ops : List LaneAcc) (reach : Nat) (x : Option XlReq)
      -- the operations of one word on one sector of one home, direct-form addresses (R129)
  | ack (gid path reach n : Nat) (err : Bool)    -- R130
  | tieNotice (tie gid : Nat) (m : Word) (lanes : Mask) (mast stn : Nat) (sid : Nat)
  | exitNotice (gid : Nat) (lanes : Mask)
  | barArrive (r : BarRef) (n : Nat) (expct : Option Nat) (wait : Nat)
  | barWithdraw (r : BarRef) (phase : BitVec 32) (n : Nat) (wait : Nat)
  | barExit (r : BarRef) (n : Nat)
  | barDone (r : BarRef) (phase : BitVec 32)
  | escInc (ctx gid : Nat) (lanes : Mask) (dl : Word) (pc : Word) (len : Nat) (iword xword : Word)
  | escReset (ctx : Nat)
  | segld (cid : Nat) (x : Word) (wait : Nat)    -- R202
  | tlbi (ctx : Nat) (va : Word) (wait : Nat)    -- R203: a direct-form address
  | done (wait : Nat)                            -- the answer to either
  | escTrap (gid : Nat) (lanes : Mask) (dl : Word) (pc : Word) (len : Nat) (iword xword : Word)  -- to be taken by the lanes (R256)
  deriving DecidableEq, Repr

/-- A message and the places it runs between: those of one source and one target keep their order (R222). -/
structure Msg where
  src  : Nat
  dst  : Nat
  body : MsgBody
  deriving DecidableEq, Repr

/-- What a Tackle slice copies (R167, R169, R170). -/
inductive CopyKind where
  | cp (src dst : Word) (len : Nat)
  | cpm (osrc csrc dst : Word) (clen olen : Nat) (dstr ostr : BitVec 32) (nrcv : Nat)
  | cpcv (a0 a1 a2 dst : Word) (nc nr aux : Nat) (thr : BitVec 32) (eb : Nat) (fmt : BitVec 5) (tkl len cap : Nat)
      (t : Bool) (form : Nat)
  deriving DecidableEq, Repr

/-- A slice offered to a Tackle engine (R165). -/
structure Slice where
  dev      : Nat              -- the device on which its word issued (R286)
  gid      : Nat
  ctx      : Nat
  cid      : Nat
  lane     : Nat
  tag      : Nat
  round    : Nat
  parts    : Nat
  sreg     : Nat              -- identifier of its outstanding status, 0 for none
  kind     : CopyKind
  refused  : Bool
  entry    : Bool             -- it holds an entry
  reserved : Bool             -- the entry is a reserved one of its crew
  order    : Nat              -- order of arrival, then of acceptance
  done     : List Nat         -- transfers made or given up, by number
  lost     : Nat              -- destination sectors not written
  code     : BitVec 8         -- worst code met so far (R161)
  skip     : Nat
  counted  : Bool             -- a conversion's entries outside its matrix are counted (R171)
  tile     : Option (Nat × List Byte)  -- the tile that a conversion has read: its number and bytes (R237)
  dead     : List Nat         -- pages released with FAIL, for the transfer in progress (R299)
  reach    : Nat
  lanes    : Mask
  dl       : Word             -- its deadline
  pc       : Word
  iword    : Word
  x        : Option XlReq
  deriving DecidableEq, Repr

/-- An accepted Capstan reduction (R173). -/
structure CapEntry where
  dev  : Nat                  -- the device on which its word issued (R286)
  gid  : Nat
  ctx  : Nat
  blk  : Word
  words : List Word           -- the block as read at acceptance
  x    : Option XlReq
  dead : List Nat             -- pages whose translation was released with FAIL (R299)
  fin  : Option (BitVec 8 × Nat × Bool)  -- OUT is performed: code, sectors not written, and whether STAT is performed too (R176)
  reach : Nat
  deriving DecidableEq, Repr

/-- How a jib call stands (R178 to R184). -/
inductive CallPhase where
  | queued | replying (code : BitVec 8) (reply : List Byte) (addr : Word)
  deriving DecidableEq, Repr

/-- A jib call (R178). -/
structure JibCall where
  dev   : Nat                 -- the device on which its word issued (R286)
  gid   : Nat
  ctx   : Nat
  lane  : Nat
  sreg  : Nat                 -- identifier of its outstanding status, 0 for none
  record : Word               -- direct-form address
  wait  : Option Nat          -- the park that its lane waits in (R178)
  after : Word                -- the address after the BCALL
  wait2 : Bool                -- a call of BCALL.N (R183)
  unit  : Option Nat          -- the bank group that holds the record, once translated
  arr   : Nat                 -- order of arrival at its unit (R181)
  phase : CallPhase
  reach : Nat
  x     : Option XlReq
  deriving DecidableEq, Repr

/-- A TLB entry (R290). -/
structure TlbEnt where
  ctx : Nat
  va  : Word                  -- VA[63] and the page-aligned direct address
  ent : Word                  -- the page entry of R289
  deriving DecidableEq, Repr

/-- A request for a walk (R291). -/
structure WalkReq where
  ctx  : Nat
  va   : Word
  kind : BitVec 1
  acc  : BitVec 2             -- the access that asked first
  deriving DecidableEq, Repr

/-- The running walk of a mast and the outcome of its last TLBF (R291, R292). -/
structure Walk where
  req   : WalkReq
  gid   : Nat
  sid   : Nat
  out   : Option (BitVec 8)   -- none: no TLBF yet; 0 inserted; 0xFF the walk starts again; otherwise WHY
  again : Bool                -- a TLBI or tag change covered the page (R292, order 5)
  ended : Bool                -- ended by a trap or an access it may not make
  deriving DecidableEq, Repr

/-- A fault, reported in an entry of the fault buffer or held unreported (R297, R300). -/
structure FaultEnt where
  slot : Option Nat
  va   : Word
  ctx  : Nat
  why  : BitVec 8
  acc  : BitVec 8
  seq  : BitVec 32
  deriving DecidableEq, Repr

/-- A tier of a mast at start-up (R341): foot, column tier, DRAM tier. -/
inductive TierSt where
  | off | powered | ready | failed
  deriving DecidableEq, Repr

/-- The replay journal control of a mast or of the deck (R337). -/
structure Journal where
  mode   : BitVec 2
  atom   : Bool
  ovf    : Bool
  div    : Bool
  jtag   : BitVec 16
  jmast  : BitVec 4
  jframe : BitVec 20
  jhead  : BitVec 32
  jlen   : BitVec 32
  deriving DecidableEq, Repr

/-- A mast: its foot and its DRAM tier's controllers. -/
structure Mast where
  refs    : Word              -- reference-cycle count
  foot    : TierSt
  column  : TierSt
  dram    : TierSt
  fenced  : Bool
  tlb     : List TlbEnt
  walks   : List WalkReq
  walk    : Option Walk
  faults  : List FaultEnt
  seq     : BitVec 32
  ovf     : BitVec 32
  ovfi    : Bool
  newi    : Bool
  nextArr : Word
  lastChosen : Nat
  order   : List (Nat × Nat)  -- placement order: launch, crew index
  caps    : List CapEntry
  tackPtr : RMap 8            -- per quad, the station visited last
  busyUnits : List Nat        -- jib units in compute mode (R181)
  cecnt   : BitVec 32
  uecnt   : BitVec 32
  uv      : Bool
  src     : BitVec 3
  uepa    : BitVec 36
  uei     : Bool
  cei     : Bool
  cethr   : BitVec 32
  auto    : Bool
  srows   : BitVec 16
  sbanks  : BitVec 16
  repair  : Word              -- 0x3028
  busy    : Bool
  result  : BitVec 8
  rows    : List Nat          -- a sector of each DRAM row read through the repair map
  banks   : List Nat          -- a sector of each DRAM bank so read
  rowErrs : RMap 8            -- corrected errors by row in this scrub period
  jrn     : Journal
  clkN    : BitVec 5
  dramSpace : Bool            -- DRAM access spaced by the Bosun
  deriving DecidableEq, Repr

/-- A code sector held in an instruction store (R214). -/
structure CodeSector where
  ctx  : Nat
  va   : Word
  data : List Word            -- four words
  deriving DecidableEq, Repr

/-- What the issue ports of a station have taken in this station cycle (R211, R213): slices of the vector and memory pipes, and
whether the scalar pipe and the matrix array have taken their word. -/
structure Ports where
  vec  : BitVec 8
  mem  : BitVec 8
  scal : Bool
  mat  : Bool
  deriving DecidableEq, Repr

/-- No word taken. -/
def Ports.free : Ports := { vec := 0, mem := 0, scal := false, mat := false }

/-- A station. -/
structure Station where
  crew   : Option Nat
  tag    : BitVec 16          -- owner tag of its column
  fenced : Bool
  cycles : Nat                -- station-cycle count
  store  : List CodeSector
  resv   : Option (Nat × Nat × Nat)  -- reserved for launch, crew index; arrival number at the reservation
  ports  : Ports
  arrayFree : Nat             -- station cycle from which the matrix array is free (R144)
  slots  : SMap Nat           -- group slots in use, each with its group (R209, R212)
  deriving DecidableEq, Repr

/-- STATE of a context's save area (R301). -/
inductive CtxSt where
  | running | saving | saved | restoring | reset
  deriving DecidableEq, Repr

/-- A registered context (R267, R288). -/
structure Ctx where
  esclim : Nat
  tvec   : Word
  save   : Word
  root   : Word
  pdl    : Word
  grantVa : Word
  grant  : BitVec 1024
  wentry : Word
  stripe : BitVec 16
  tb     : RMap 21            -- per mast: V in bit 0, TB above it
  esc    : Nat
  st     : CtxSt
  nq     : Nat
  left   : Option Word        -- deck cycles left of a preemption's PDL
  ptag   : BitVec 16          -- host tag of the command in progress
  pend   : List (Word × Nat × Nat)  -- pending-status records of a save: address, group, outstanding result (R302)
  deriving DecidableEq, Repr

/-- What the head command of a queue is doing (R264, R265). -/
inductive QPhase where
  | idle
  | launching (lid : Nat)
  | waiting (w0 addr v : Word) (left : Option Word) (x : Option XlReq)
  | adding (w0 addr v : Word) (x : Option XlReq)
  deriving DecidableEq, Repr

/-- A command queue (R262). -/
structure Queue where
  ctx   : Nat
  num   : Nat
  desc  : Word
  base  : Word
  head  : BitVec 32
  tail  : BitVec 32
  slots : Nat
  quant : Nat
  adv   : Nat
  stopped : Bool
  dc    : Int
  phase : QPhase
  x     : Option XlReq
  deriving DecidableEq, Repr

/-- An event for the host ring (R319): words 0 to 3, the lap bit not yet placed. -/
structure Event where
  typ  : BitVec 8
  code : BitVec 8
  tag  : BitVec 16
  ctx  : BitVec 16
  w1   : Word
  w2   : Word
  w3   : Word
  deriving DecidableEq, Repr

/-- A packet of the host that waits at its home or behind one that does (R314). -/
inductive Packet where
  | write (key off : Nat) (data : List Byte)
  | read (key off len : Nat)
  | cas (key off : Nat) (cmp swap : Word)
  | add (key off : Nat) (x : Word)
  deriving DecidableEq, Repr

/-- A queue pair of the host port (R312). -/
structure Qp where
  error   : Bool
  slowed  : Bool              -- its rate was lowered by a CNP
  waiting : List Packet
  x       : Option XlReq
  deriving DecidableEq, Repr

/-- What the device sends to the host on a queue pair (R312 to R316), and its writes of host memory (R319). -/
inductive HostOut where
  | ack (qp : Nat) | data (qp : Nat) (bytes : List Byte) | old (qp : Nat) (x : Word)
  | nakInvalid (qp : Nat) | nakAccess (qp : Nat) | cnp (qp : Nat)
  | event (addr : Word) (key : BitVec 32) (words : List Word)
  deriving DecidableEq, Repr

/-- A memory region key (R313). -/
structure Region where
  va  : Word
  len : Word
  ctx : BitVec 16
  at_ : Bool
  wr  : Bool
  rd  : Bool
  deriving DecidableEq, Repr

/-- The Riluagan side of the device (R320 to R325). -/
structure Shroud where
  failed : List Nat           -- ports that failed
  seqs   : RMap 32            -- next sequence number by source device * 32 + port
  retry  : Nat                -- flits that failed their CRC and are sent again
  part   : RMap 32            -- slots of an image received before it is whole, by source device
  paths  : List Nat           -- devices to which a shroud path exists
  noPath : RMap 64            -- deck cycles without a path, by member device
  deriving DecidableEq, Repr

/-- The Bosun (R341 to R346). -/
structure Bosun where
  on       : Bool             -- start-up has begun
  down     : Bool             -- powered down; only a power-on ends it
  hostUp   : Bool             -- step 7 has been made
  bsvn     : BitVec 32
  boot     : BitVec 8
  tierfail : BitVec 16
  pcap     : BitVec 16
  pwr      : BitVec 16
  tmax     : BitVec 8
  thi      : Bool
  trip     : Bool
  hold     : Bool             -- N held at 8 and crew admission stopped (R343)
  keptMasts : BitVec 16       -- stored fenced masts
  keptStns : List Nat         -- stored fenced stations
  keptRows : List (Nat × Nat)  -- stored repair map: mast, sector
  keptBanks : List (Nat × Nat)
  notices  : List (Nat × BitVec 8) -- what it was notified of, newest first: context and cause, 0 for a forced reset (R196, R306)
  deriving DecidableEq, Repr

/-- Registers of the register space (R316) with no home of their own elsewhere. -/
structure HostRegs where
  silicon : BitVec 32
  devnum  : BitVec 10
  devfeat : Word
  drvfeat : Word
  active  : Word
  neg     : BitVec 2
  judged  : Bool
  evva    : Word
  evkey   : BitVec 32
  evqpn   : BitVec 24
  evhead  : BitVec 32
  evslots : BitVec 32
  member  : BitVec 1024
  regions : SMap Region
  jrn     : Journal           -- the deck's journal control
  deriving DecidableEq, Repr

/-- A checkpoint being written (R334), or one that waits to be read back (R336). -/
structure Ckpt where
  tag   : BitVec 16
  ctx   : BitVec 16
  table : Word
  pctx  : BitVec 16
  whole : Bool
  load  : Bool
  deriving DecidableEq, Repr

/-- What a device holds once: its Command Processor, host port, Bosun, links and journals. -/
structure Device where
  ctxs     : SMap Ctx
  queues   : SMap Queue         -- key context * 64 + number
  ptrs     : RMap 32            -- per class: the queue served last, plus 1
  deck     : Word               -- deck reference cycles
  regs     : HostRegs
  events   : List Event         -- formed, not yet written
  evCount  : Nat                -- events written so far
  qps      : SMap Qp
  hostOut  : List HostOut       -- newest first
  shroud   : Shroud
  bosun    : Bosun
  ckpt     : Option Ckpt
  halting  : Bool               -- replay diverged and every context is halted
  journal  : List (Nat × Word × Word × Word × Word)  -- entries recorded, newest first; 16 names the deck's journal
  deriving DecidableEq, Repr

/-- The issue set that issues now, and the words it issues (R19). -/
structure Issue where
  sid   : Nat
  lanes : Mask
  pc    : Word
  iword : Word
  xword : Word
  quads : Option Nat          -- stop an MMA.SP at this quad boundary (R151)
  deriving DecidableEq, Repr

/-- What comes next: the interleaving of the agents and the inputs from outside. -/
inductive Turn where
  | issue (sid lane : Nat)      -- the issue set of this lane issues, where its port picks it
  | quads (sid lane q : Nat)    -- it issues, and an MMA.SP stops at a quad boundary for a preemption (R151)
  | event (i : Instr)           -- a happening, on the device of what it names, or else on the device in place
  | eventAt (d : Nat) (i : Instr)  -- a happening on a device
  | wait (w : Nat)              -- what a wait waits for is looked at again
  | serve (m : Nat)             -- a message reaches its place
  | refTick (mast : Nat)        -- one cycle of a mast's reference oscillator
  | stnTick (mast : Nat)        -- one station cycle on every station of a mast
  | deckTick                    -- one cycle of the deck's reference oscillator
  | device (d : Nat)            -- what follows concerns another device of the domain
  | attach                      -- another device, just reset, is joined to the domain's switches
  deriving DecidableEq, Repr

/-- The devices of a load-store domain (R9, R322, R323). Masts are numbered through: device index * 16 + mast. The fields from ctxs
to journal are those of the device whose index is dev; others holds the same of every other device. -/
structure State where
  mem      : Memory
  bad      : List Nat           -- sectors that read as uncorrectable, by cell number of their first byte
  soft     : List Nat           -- sectors with one symbol in error
  tags     : RMap 16            -- frame owner tags, key mast * 2^20 + frame; hold frames are fixed
  masts    : SMap Mast
  stns     : SMap Station       -- key mast * 64 + station; an unlisted station is as at reset
  launches : SMap Launch
  crews    : SMap Crew
  groups   : SMap Group
  subs     : SMap SubGroup
  waits    : SMap Wait
  images   : SMap Image
  ties     : SMap Tie
  msgs     : SMap Msg
  slices   : SMap Slice
  calls    : SMap JibCall
  dev      : Nat
  others   : SMap Device
  ctxs     : SMap Ctx
  queues   : SMap Queue
  ptrs     : RMap 32
  deck     : Word
  regs     : HostRegs
  events   : List Event
  evCount  : Nat
  qps      : SMap Qp
  hostOut  : List HostOut
  shroud   : Shroud
  bosun    : Bosun
  ckpt     : Option Ckpt
  halting  : Bool
  journal  : List (Nat × Word × Word × Word × Word)
  agenda   : List Turn
  issuing  : Option Issue
  freeCtr  : Nat                -- the model's own: counts the free values used
  nextId   : Nat                -- the model's own: the next identifier
  deriving DecidableEq, Repr

/-- A journal control at reset (R337). -/
def Journal.reset : Journal :=
  { mode := 0, atom := false, ovf := false, div := false, jtag := 0, jmast := 0, jframe := 0, jhead := 0, jlen := 0 }

/-- A mast right after a device reset: every tier unpowered (R341), registers as R298, R330, R337 and R344 give;
SROWS and SBANKS are named in log entry 5. -/
def Mast.reset : Mast :=
  { refs := 0, foot := .off, column := .off, dram := .off, fenced := false, tlb := [], walks := [], walk := none,
    faults := [], seq := 0, ovf := 0, ovfi := false, newi := false, nextArr := 0, lastChosen := 0, order := [],
    caps := [], tackPtr := [], busyUnits := [], cecnt := 0, uecnt := 0, uv := false, src := 0, uepa := 0, uei := false,
    cei := false, cethr := 0x1000, auto := false, srows := 2048, sbanks := 64, repair := 0, busy := false, result := 0,
    rows := [], banks := [], rowErrs := [], jrn := Journal.reset, clkN := 16, dramSpace := false }

/-- The masts of a device, by its index, right after a device reset. -/
def mastsReset (d : Nat) : SMap Mast := (List.range 16).map (fun m => (d * 16 + m, Mast.reset))

/-- A station right after a device reset. -/
def Station.reset : Station :=
  { crew := none, tag := 0, fenced := false, cycles := 0, store := [], resv := none, ports := Ports.free, arrayFree := 0, slots := [] }

/-- The register space right after a device reset (R316); SILICON and DEVFEAT are named in log entry 5. -/
def HostRegs.reset : HostRegs :=
  { silicon := 0, devnum := 0, devfeat := 0x1F, drvfeat := 0, active := 0, neg := 0, judged := false, evva := 0,
    evkey := 0, evqpn := 0, evhead := 0, evslots := 0, member := 0, regions := [], jrn := Journal.reset }

/-- The Bosun right after a device reset (R344). -/
def Bosun.reset : Bosun :=
  { on := false, down := false, hostUp := false, bsvn := 0, boot := 0, tierfail := 0, pcap := 2400, pwr := 0, tmax := 0, thi := false,
    trip := false, hold := false, keptMasts := 0, keptStns := [], keptRows := [], keptBanks := [], notices := [] }

/-- The shroud ports right after a device reset. -/
def Shroud.reset : Shroud :=
  { failed := [], seqs := [], retry := 0, part := [], paths := [], noPath := [] }

/-- What a device holds once, right after a device reset (R316, R341, R344). -/
def Device.reset : Device :=
  { ctxs := [], queues := [], ptrs := [], deck := 0, regs := HostRegs.reset, events := [], evCount := 0, qps := [], hostOut := [],
    shroud := Shroud.reset, bosun := Bosun.reset, ckpt := none, halting := false, journal := [] }

/-- One device right after a device reset: nothing powered yet, no context registered, memory zero (R341). -/
def State.reset : State :=
  { mem := [], bad := [], soft := [], tags := [],
    masts := mastsReset 0,
    stns := [],
    launches := [], crews := [], groups := [], subs := [], waits := [], images := [],
    ties := [], msgs := [], slices := [], calls := [], dev := 0, others := [],
    ctxs := [], queues := [], ptrs := [], deck := 0, regs := HostRegs.reset, events := [],
    evCount := 0, qps := [], hostOut := [], shroud := Shroud.reset, bosun := Bosun.reset, ckpt := none,
    halting := false, journal := [], agenda := [], issuing := none, freeCtr := 0, nextId := 1 }

end Sys2Proof.Machine
end

