-- ==== Sys2Proof/Machine/Access.lean ====
section
/-! DEFINITION. Named access to the parts of the state: lane masks, places, registers with their visibility, memory cells,
homes of addresses (spec 01, R19 to R36; spec 03, R72; spec 05, R120; spec 09, R221; spec 15, R285 to R287). -/

namespace Sys2Proof.Machine

open Sys2Proof

/-- The lanes of a mask in ascending order. -/
def lanesOf (m : Mask) : List Nat := (List.range 64).filter (fun l => m.getLsbD l)

/-- The mask of some lanes. -/
def maskOf (ls : List Nat) : Mask := ls.foldl (fun m l => m ||| BitVec.ofNat 64 (2 ^ l)) 0

/-- The lowest lane of a mask; 0 for an empty one. -/
def lowest (m : Mask) : Nat := (lanesOf m).headD 0

/-- The number of lanes of a mask. -/
def popCount {n : Nat} (m : BitVec n) : Nat := ((List.range n).filter (fun i => m.getLsbD i)).length

/-- A range of bits of a word as a number, low bit first. -/
def fieldOf {n : Nat} (x : BitVec n) (lo w : Nat) : Nat := x.toNat / 2 ^ lo % 2 ^ w

/-- A fresh identifier of the model's own. -/
def State.fresh (s : State) : Nat × State := (s.nextId, { s with nextId := s.nextId + 1 })

/-- A fresh free value (log entry 4). -/
def State.free (s : State) : Word × State := (Config.freeValue s.freeCtr, { s with freeCtr := s.freeCtr + 1 })

/-! ## The devices of the domain (R322, R323) -/

/-- What the device in place holds once. -/
def State.part (s : State) : Device :=
  { ctxs := s.ctxs, queues := s.queues, ptrs := s.ptrs, deck := s.deck, regs := s.regs, events := s.events, evCount := s.evCount, qps := s.qps,
    hostOut := s.hostOut, shroud := s.shroud, bosun := s.bosun, ckpt := s.ckpt, halting := s.halting, journal := s.journal }

/-- Put another device in place. -/
def State.enter (s : State) (d : Nat) : State :=
  if d = s.dev then s
  else match SMap.get? s.others d with
    | none => s
    | some p =>
      { s with
        dev := d, others := SMap.put (SMap.del s.others d) s.dev s.part, ctxs := p.ctxs, queues := p.queues, ptrs := p.ptrs, deck := p.deck,
        regs := p.regs, events := p.events, evCount := p.evCount, qps := p.qps, hostOut := p.hostOut, shroud := p.shroud, bosun := p.bosun,
        ckpt := p.ckpt, halting := p.halting, journal := p.journal }

/-- Change the state as a device sees it, and put back the device that was in place. -/
def State.on (s : State) (d : Nat) (f : State → State) : State := (f (s.enter d)).enter s.dev

/-- What a device holds once. -/
def State.partOf (s : State) (d : Nat) : Option Device := if d = s.dev then some s.part else SMap.get? s.others d

/-- The devices of the domain by their indexes, the one in place first. -/
def State.devices (s : State) : List Nat := s.dev :: s.others.map (fun e => e.1)

/-- The domain number of the device in place (R322). -/
def State.devno (s : State) : Nat := s.regs.devnum.toNat

/-- Indexes from here on stand for numbers that no device of the domain has. -/
def noDevice : Nat := 2 ^ 20

/-- The index of the device with a domain number (R322): the device in place, or another that has negotiated. -/
def State.devIx (s : State) (num : Nat) : Nat :=
  if num = s.devno then s.dev
  else match s.others.find? (fun e => decide (e.2.regs.neg = 1) && decide (e.2.regs.devnum.toNat = num)) with
    | some e => e.1
    | none => noDevice + num

/-- The domain number of a device by its index. -/
def State.devNum (s : State) (d : Nat) : Nat :=
  if d = s.dev then s.devno
  else match SMap.get? s.others d with
    | some p => p.regs.devnum.toNat
    | none => d - noDevice

/-- The mast that a device number and a mast field name. -/
def State.gm (s : State) (num m : Nat) : Nat := s.devIx num * 16 + m

/-- Whether a mast is of the device in place. -/
def State.own (s : State) (m : Nat) : Bool := decide (m / 16 = s.dev)

/-- The masts of the device in place. -/
def State.ownMasts (s : State) : List Nat := (List.range 16).map (fun m => s.dev * 16 + m)

/-- A context as a mast's device knows it (R267). -/
def State.ctxAt (s : State) (m ctx : Nat) : Option Ctx :=
  if s.own m then SMap.get? s.ctxs ctx else (SMap.get? s.others (m / 16)).bind (fun p => SMap.get? p.ctxs ctx)

/-- A mast's record. -/
def State.mast (s : State) (m : Nat) : Mast := (SMap.get? s.masts m).getD Mast.reset

/-- Change a mast's record. -/
def State.updMast (s : State) (m : Nat) (f : Mast → Mast) : State :=
  { s with masts := SMap.put s.masts m (f (s.mast m)) }

/-- A station's record. -/
def State.stn (s : State) (m n : Nat) : Station := (SMap.get? s.stns (m * 64 + n)).getD Station.reset

/-- Change a station's record. -/
def State.updStn (s : State) (m n : Nat) (f : Station → Station) : State :=
  { s with stns := SMap.put s.stns (m * 64 + n) (f (s.stn m n)) }

/-- Change a sub-group. -/
def State.updSub (s : State) (sid : Nat) (f : SubGroup → SubGroup) : State := { s with subs := SMap.upd s.subs sid f }

/-- Change a group. -/
def State.updGroup (s : State) (gid : Nat) (f : Group → Group) : State := { s with groups := SMap.upd s.groups gid f }

/-- Change an image. -/
def State.updImg (s : State) (i : Nat) (f : Image → Image) : State := { s with images := SMap.upd s.images i f }

/-- Change a crew. -/
def State.updCrew (s : State) (c : Nat) (f : Crew → Crew) : State := { s with crews := SMap.upd s.crews c f }

/-- Change a launch. -/
def State.updLaunch (s : State) (l : Nat) (f : Launch → Launch) : State := { s with launches := SMap.upd s.launches l f }

/-- Change a context. -/
def State.updCtx (s : State) (c : Nat) (f : Ctx → Ctx) : State := { s with ctxs := SMap.upd s.ctxs c f }

/-- The lanes of a sub-group that pass a test. -/
def SubGroup.laneMask (sg : SubGroup) (f : Lane → Bool) : Mask :=
  maskOf ((sg.lanes.filter (fun e => f e.2)).map (fun e => e.1))

/-- All lanes of a sub-group. -/
def SubGroup.all (sg : SubGroup) : Mask := maskOf (sg.lanes.map (fun e => e.1))

/-- Change the lanes of a mask. -/
def SubGroup.mapLanes (sg : SubGroup) (m : Mask) (f : Lane → Lane) : SubGroup :=
  { sg with lanes := sg.lanes.map (fun e => if m.getLsbD e.1 then (e.1, f e.2) else e) }

/-- Change one lane. -/
def SubGroup.mapLane (sg : SubGroup) (l : Nat) (f : Lane → Lane) : SubGroup :=
  { sg with lanes := SMap.upd sg.lanes l f }

/-- Set the state of the lanes of a mask. -/
def SubGroup.setSt (sg : SubGroup) (m : Mask) (st : LaneSt) : SubGroup := sg.mapLanes m (fun l => { l with st := st })

/-- %ctl.SV (R33). -/
def SubGroup.sv (sg : SubGroup) : Bool := sg.ctl.getLsbD 2

/-- %ctl.CHK (R33). -/
def SubGroup.chk (sg : SubGroup) : Bool := sg.ctl.getLsbD 0

/-- The special registers that MOVS or MOVSP writes with a latency, by selector (R32, R201, R204). -/
def SubGroup.special (sg : SubGroup) (n : Nat) : Word :=
  match n with
  | 0x0C => sg.dldef
  | 0x0D => sg.tprog.setWidth 64
  | 0x10 => sg.atrap.setWidth 64
  | 0x11 => sg.seed
  | 0x12 => sg.ctl
  | _ => 0

/-- Change such a special register. -/
def SubGroup.setSpecial (sg : SubGroup) (n : Nat) (x : Word) : SubGroup :=
  match n with
  | 0x0C => { sg with dldef := x }
  | 0x0D => { sg with tprog := x.setWidth 32 }
  | 0x10 => { sg with atrap := x.setWidth 8 }
  | 0x11 => { sg with seed := x }
  | 0x12 => { sg with ctl := x }
  | _ => sg

/-- The latest value of a register in program order (R72). p0 and k0 read as 1 (R26, R27). -/
def SubGroup.reg (sg : SubGroup) : Reg → Word
  | .v l n => (RMap.get sg.v (l * 64 + n)).setWidth 64
  | .p l n => if n = 0 then 1 else (RMap.get sg.p (l * 8 + n)).setWidth 64
  | .s n => RMap.get sg.s n
  | .k n => if n = 0 || sg.k.getLsbD n then 1 else 0
  | .d n => RMap.get sg.d n
  | .x n => sg.special n

/-- Set one bit of a vector. -/
def setBit {n : Nat} (x : BitVec n) (i : Nat) (b : Bool) : BitVec n :=
  if b then x ||| BitVec.ofNat n (2 ^ i) else x &&& ~~~(BitVec.ofNat n (2 ^ i))

/-- Write a register; writes of p0 and k0 are discarded (R26, R27). -/
def SubGroup.setReg (sg : SubGroup) : Reg → Word → SubGroup
  | .v l n, x => { sg with v := RMap.set sg.v (l * 64 + n) (x.setWidth 32) }
  | .p l n, x => if n = 0 then sg else { sg with p := RMap.set sg.p (l * 8 + n) (x.setWidth 1) }
  | .s n, x => { sg with s := RMap.set sg.s n x }
  | .k n, x => if n = 0 then sg else { sg with k := setBit sg.k n (x.getLsbD 0) }
  | .d n, x => { sg with d := RMap.set sg.d n x }
  | .x n, x => sg.setSpecial n x

/-- The issue distance of a lane (R70). -/
def SubGroup.dist (sg : SubGroup) (lane : Nat) : Nat :=
  match SMap.get? sg.lanes lane with | some l => l.dist | none => 0

/-- Whether a fixed-latency write is visible to a reader in a lane: along its path by distance (R72), for the write of
another issue set by station cycles (R210). -/
def Stale.seen (e : Stale) (sg : SubGroup) (now lane : Nat) : Bool :=
  match SMap.get? e.lanes lane with
  | some d => decide (d ≤ sg.dist lane)
  | none => decide (e.cyc ≤ now)

/-- The value that a reader sees, going back from the latest write over those it does not see yet (R72). -/
def readStale (sg : SubGroup) (now lane : Nat) (r : Reg) : List Stale → Word → Word
  | [], x => x
  | e :: es, x =>
    if e.reg = r then (if e.seen sg now lane then x else readStale sg now lane r es e.prev)
    else readStale sg now lane r es x

/-- The value of a register that a word reads in a lane (R72). -/
def SubGroup.read (sg : SubGroup) (now lane : Nat) (r : Reg) : Word := readStale sg now lane r sg.stale (sg.reg r)

/-- Whether the latest producer of a register on a lane's own path is not yet visible (R72). -/
def undersizedIn (sg : SubGroup) (lane : Nat) (r : Reg) : List Stale → Bool
  | [] => false
  | e :: es =>
    match (if e.reg = r then SMap.get? e.lanes lane else none) with
    | some d => decide (sg.dist lane < d)
    | none => undersizedIn sg lane r es

/-- Whether reading a register in a lane breaks the stall counts (R72). -/
def SubGroup.undersized (sg : SubGroup) (lane : Nat) (r : Reg) : Bool := undersizedIn sg lane r sg.stale

/-- An event that makes every earlier result visible to some lanes (R72). -/
def SubGroup.settle (sg : SubGroup) (m : Mask) : SubGroup :=
  { sg with stale := sg.stale.map (fun e =>
      { e with lanes := (e.lanes.filter (fun x => !m.getLsbD x.1)) ++ (lanesOf m).map (fun l => (l, 0)) }) }

/-- Whether every reader sees a write. -/
def Stale.settled (e : Stale) (sg : SubGroup) (now : Nat) : Bool :=
  decide (e.cyc ≤ now) && e.lanes.all (fun x => decide (x.2 ≤ sg.dist x.1))

/-- The records of writes that some reader may still look past, newest first: a write that every reader sees is dropped, unless
an older write of its register is kept, which no reader may see again. -/
def pruneStale (sg : SubGroup) (now : Nat) : List Stale → List Stale
  | [] => []
  | e :: es =>
    let es' := pruneStale sg now es
    if e.settled sg now && !(es'.any (fun x => decide (x.reg = e.reg))) then es' else e :: es'

/-- Drop the records of writes that every reader sees. -/
def SubGroup.prune (sg : SubGroup) (now : Nat) : SubGroup := { sg with stale := pruneStale sg now sg.stale }

/-- A fixed-latency write by an issue set (R71, R72): lanes names the lanes on whose path it lies. -/
def SubGroup.writeFixed (sg : SubGroup) (now lat : Nat) (lanes : List Nat) (r : Reg) (x : Word) : SubGroup :=
  let ls := match r with
    | .v l _ | .p l _ => [(l, sg.dist l + lat)]
    | .s _ | .k _ | .d _ | .x _ => lanes.map (fun l => (l, sg.dist l + lat))
  { (sg.setReg r x) with stale := { reg := r, prev := sg.reg r, lanes := ls, cyc := now + lat } :: sg.stale }

/-- A write that every later word sees: it replaces what earlier producers left (R72, R73). -/
def SubGroup.writeNow (sg : SubGroup) (r : Reg) (x : Word) : SubGroup :=
  { (sg.setReg r x) with stale := sg.stale.filter (fun e => decide (e.reg ≠ r)) }

/-- Raise flags in %aflags; an instruction never clears one (R34). -/
def SubGroup.raise (sg : SubGroup) (f : BitVec 8) : SubGroup := { sg with aflags := sg.aflags ||| (f &&& 0x3F) }

/-- The registers of some lanes only. -/
def SubGroup.keepLanes (sg : SubGroup) (m : Mask) : SubGroup :=
  { sg with
    lanes := sg.lanes.filter (fun e => m.getLsbD e.1)
    v := RMap.keep sg.v (fun k => m.getLsbD (k / 64))
    p := RMap.keep sg.p (fun k => m.getLsbD (k / 8)) }

/-- The windows named in a mask only (R39). -/
def SubGroup.keepWindows (sg : SubGroup) (live : BitVec 8) : SubGroup :=
  { sg with v := RMap.keep sg.v (fun k => live.getLsbD (k % 64 / 8)) }

/-- Whether a group has an OPEN stream (R28). -/
def Group.streaming (g : Group) : Bool := !g.streams.isEmpty

/-! ## Memory cells -/

/-- The cell of a byte of a mast's DRAM (R287). -/
def dramCell (m pa : Nat) : Nat := m * 2 ^ 37 + pa

/-- The cell of a byte of a station's local space: crew-shared SRAM below 0x4_0000, the column above (R37). -/
def localCell (m n off : Nat) : Nat := m * 2 ^ 37 + 2 ^ 36 + n * 2 ^ 21 + off

/-- Read a run of bytes. -/
def State.bytes (s : State) (cell : Nat) (n : Nat) : List Byte :=
  (List.range n).map (fun i => RMap.get (n := 8) s.mem (cell + i))

/-- Write a run of bytes. -/
def writeMem : Memory → Nat → List Byte → Memory
  | m, _, [] => m
  | m, c, b :: bs => writeMem (RMap.set (n := 8) m c b) (c + 1) bs

/-- The first byte of a cell's sector (R237). -/
def sectorOf (cell : Nat) : Nat := cell / 32 * 32

/-- Whether a cell lies in a sector that reads as uncorrectable (R327). -/
def State.badAt (s : State) (cell : Nat) : Bool := s.bad.contains (sectorOf cell)

/-- Little-endian number of some bytes (R14). -/
def leNat : List Byte → Nat
  | [] => 0
  | b :: bs => b.toNat + 256 * leNat bs

/-- Little-endian bytes of a number (R14). -/
def leBytes : Nat → Nat → List Byte
  | 0, _ => []
  | n + 1, x => BitVec.ofNat 8 x :: leBytes n (x / 256)

/-- A word of memory. -/
def State.word (s : State) (cell : Nat) : Word := BitVec.ofNat 64 (leNat (s.bytes cell 8))

/-- Store bytes: the memory changes, waits and waiting queues that watch the sector wake later by their own happenings,
a sector written in all 32 bytes is good again, and what is written replaces a symbol in error (R122, R326, R327). -/
def State.store (s : State) (cell : Nat) (bs : List Byte) : State :=
  { s with
    mem := writeMem s.mem cell bs
    bad := if bs.length % 32 = 0 && cell % 32 = 0 then s.bad.filter (fun c => !(decide (cell ≤ c) && decide (c < cell + bs.length))) else s.bad
    soft := s.soft.filter (fun c => !(decide (c < cell + bs.length) && decide (cell < c + 32))) }

/-- The owner tag of a frame; the hold's frames carry 0xFFFF (R287, R295). -/
def State.frameTag (s : State) (m frame : Nat) : BitVec 16 :=
  if frame / 256 ≥ 0xBF0 then 0xFFFF else RMap.get s.tags (m * 2 ^ 20 + frame)

/-! ## Places and addresses -/

/-- A place as TARGET encodes it: device, mast, station (R32, R216). -/
def encPlace (dev m n : Nat) : BitVec 32 := BitVec.ofNat 32 (dev * 1024 + m * 64 + n)

/-- The rejoin value for no tie point (R32). -/
def noRejoin : BitVec 32 := 0xFFFFFFFF

/-- Rigging hops between two masts of one device (R221). -/
def meshHops (a b : Nat) : Nat :=
  ((a / 4 : Int) - (b / 4 : Int)).natAbs + ((a % 4 : Int) - (b % 4 : Int)).natAbs

/-- Rigging hops between a mast and the deck (R221). -/
def deckHops (m : Nat) : Nat := if m = 5 || m = 6 || m = 9 || m = 10 then 2 else 1

/-- The hop charge of a journey between two masts (R249). -/
def hopCharge (a b : Nat) : Nat :=
  if a / 16 = b / 16 then 64 * meshHops (a % 16) (b % 16) else 64 * (deckHops (a % 16) + deckHops (b % 16)) + 512

/-- The place of a station by its mast, as TARGET encodes it. -/
def State.placeAt (s : State) (m n : Nat) : BitVec 32 := encPlace (s.devNum (m / 16)) (m % 16) n

/-- Where an address has its home (R120, R285): its device number and its mast; or why it has none that takes it (R119). -/
inductive Home where
  | dram (dev mast : Nat)
  | window (dev mast stn off : Nat)
  | none (detail : BitVec 8)
  deriving DecidableEq, Repr

/-- The mast of a striped address (R286). -/
def stripeMast (stripe : BitVec 16) (va : Word) : Nat :=
  let x := fieldOf va 16 33
  let f := (x % 2 ^ 16) ^^^ (x / 2 ^ 16 % 2 ^ 16) ^^^ (x / 2 ^ 32 % 2 * 0x8000)
  let bits := (List.range 16).filter (fun i => stripe.getLsbD i)
  bits.getD (f % bits.length) 0

/-- Whether a device is a member of the domain; this device always is (R322). -/
def State.isMember (s : State) (dev : Nat) : Bool := decide (dev = s.devno) || s.regs.member.getLsbD dev

/-- The direct form of an address (R286): a striped one names this device and the mast that the hash selects. -/
def State.direct (s : State) (c : Ctx) (va : Word) : Word :=
  if fieldOf va 49 14 = 0x3FFF then
    BitVec.ofNat 64 (va.toNat / 2 ^ 63 * 2 ^ 63 + s.devno * 2 ^ 53 + stripeMast c.stripe va * 2 ^ 49 + va.toNat % 2 ^ 49)
  else va

/-- The home of an address (R120, R285, R286) under a context's grant (R267). -/
def State.home (s : State) (c : Ctx) (va : Word) : Home :=
  if fieldOf va 49 14 = 0x3FFF && c.stripe == 0 then .none 3
  else
    let a := s.direct c va
    let dev := fieldOf a 53 10
    let m := s.gm dev (fieldOf a 49 4)
    let off := fieldOf a 0 49
    if off ≥ 0x100008000000 then .none 3
    else if !s.isMember dev then .none 3
    else if !c.grant.getLsbD dev then .none 1
    else
      let near := decide (dev = s.devno)
      if near && (s.mast m).fenced then .none 2
      else if off ≥ 0x100000000000 then
        let n := off / 2 ^ 21 % 64
        if near && (s.stn m n).fenced then .none 2 else .window dev m n (off % 2 ^ 21)
      else .dram dev m

/-! ## Crews and groups -/

/-- The crew of a group. -/
def State.crewOf (s : State) (g : Group) : Option Crew :=
  match g.cid with | some c => SMap.get? s.crews c | none => none

/-- The station of a group's crew, as TARGET encodes it. -/
def State.crewPlace (s : State) (g : Group) : BitVec 32 :=
  match s.crewOf g with
  | some c => s.placeAt c.mast c.stn
  | none => noRejoin

/-- Whether a group is the walker group of a mast (R291). -/
def Group.walker (g : Group) : Bool := g.cid.isNone

/-- The limit of a crew's local space in bytes (R35). -/
def Crew.limit (c : Crew) : Nat := min (fieldOf c.lseg 5 16 * 32) 0x140000

/-- The sub-group that holds a lane of a group on a station. -/
def State.holderOf (s : State) (gid lane : Nat) : Option Nat :=
  (s.subs.find? (fun e => decide (e.2.gid = gid) && (SMap.get? e.2.lanes lane).isSome)).map (fun e => e.1)

/-- The image on its way that holds a lane of a group, when no station does. -/
def State.carrierOf (s : State) (gid lane : Nat) : Option Nat :=
  (s.images.find? (fun e => decide (e.2.sg.gid = gid) && (SMap.get? e.2.sg.lanes lane).isSome && decide (e.2.phase ≠ .departing))).map (fun e => e.1)

/-- The lowest lane of a group that has not ended. -/
def Group.lowestLive (g : Group) : Option Nat :=
  (List.range g.width).find? (fun l => !g.ended.getLsbD l)

/-- Change the one copy of the per-group state that takes a late result (R40): the copy that holds a lane, or the copy that
holds the group's lowest lane that has not ended. -/
def State.updReceiver (s : State) (gid lane : Nat) (f : SubGroup → SubGroup) : State :=
  let put := fun (l : Nat) =>
    match s.holderOf gid l with
    | some sid => some (s.updSub sid f)
    | none =>
      match s.carrierOf gid l with
      | some i => some (s.updImg i (fun im => { im with sg := f im.sg }))
      | none => none
  match put lane with
  | some t => t
  | none =>
    match (SMap.get? s.groups gid).bind Group.lowestLive with
    | some l => (put l).getD s
    | none => s

/-- Queue an event for the host ring of the device in place (R319). -/
def State.post (s : State) (e : Event) : State := { s with events := s.events ++ [e] }

/-- Queue an event for the host ring of a mast's device. -/
def State.postAt (s : State) (m : Nat) (e : Event) : State := s.on (m / 16) (fun s => s.post e)

/-- The Bosun of a mast's device is notified (R196, R306). -/
def State.tellBosun (s : State) (m ctx : Nat) (cause : BitVec 8) : State :=
  s.on (m / 16) (fun s => { s with bosun := { s.bosun with notices := (ctx, cause) :: s.bosun.notices } })

/-- Do something as the device sees it on which a sub-group stands. -/
def State.atSub (s : State) (sid : Nat) (f : State → State) : State :=
  match SMap.get? s.subs sid with
  | some sg => s.on (sg.mast / 16) f
  | none => f s

/-- Send a message between two places. -/
def State.send (s : State) (src dst : Nat) (b : MsgBody) : State :=
  let (i, t) := s.fresh
  { t with msgs := SMap.put t.msgs i { src := src, dst := dst, body := b } }

/-- The number of a station as an end of messages. -/
def stnPort (m n : Nat) : Nat := m * 64 + n

/-- The number of a mast router as an end of messages. -/
def mastPort (m : Nat) : Nat := 2 ^ 40 + m

/-- The number of a device's Command Processor as an end of messages. -/
def cpPort (d : Nat) : Nat := 2 ^ 41 + d

/-- The device of an end of messages. -/
def portDev (p : Nat) : Nat := if p < 2 ^ 40 then p / 1024 else if p < 2 ^ 41 then (p - 2 ^ 40) / 16 else p - 2 ^ 41

/-! ## Journal entries (R337, R338) -/

/-- The deck's journal, beside those of the device's masts 0 to 15. -/
def deckUnit : Nat := 16

/-- The journal control of a mast of the device in place, or of its deck. -/
def State.jrnOf (s : State) (u : Nat) : Journal := if u = deckUnit then s.regs.jrn else (s.mast (s.dev * 16 + u)).jrn

/-- Note a happening for a unit's journal, while it records or replays (R338). -/
def State.note (s : State) (u typ ctx : Nat) (w1 w2 w3 : Word) : State :=
  if (s.jrnOf u).mode = 0 then s
  else { s with journal := (u, BitVec.ofNat 64 (typ * 2 ^ 56 + ctx), w1, w2, w3) :: s.journal }

/-- Note a happening for a mast's journal. -/
def State.noteAt (s : State) (m typ ctx : Nat) (w1 w2 w3 : Word) : State :=
  s.on (m / 16) (fun s => s.note (m % 16) typ ctx w1 w2 w3)

/-- A requester: crew, group and lowest lane (R338). -/
def State.requester (s : State) (gid lane : Nat) : Word :=
  match SMap.get? s.groups gid with
  | some g => BitVec.ofNat 64 (((s.crewOf g).map (fun c => c.cix)).getD 0 % 2 ^ 20 * 2 ^ 32 + g.gix * 2 ^ 26 + lane * 2 ^ 20)
  | none => 0

/-- Count a wait of some lanes of a sub-group, or a clock read (R338). -/
def State.countWait (s : State) (sid : Nat) (lanes : Mask) : State :=
  match SMap.get? s.subs sid with
  | some sg => s.updGroup sg.gid (fun g => { g with
      waits := (lanesOf lanes).foldl (fun (m : RMap 32) l => RMap.set m l (RMap.get m l + 1)) g.waits })
  | none => s

/-- Note an entry of a lane set's own mast: requester, wait count and a last word (R338). -/
def State.noteLanes (s : State) (typ sid : Nat) (lanes : Mask) (x : Word) : State :=
  match SMap.get? s.subs sid with
  | some sg =>
    match SMap.get? s.groups sg.gid with
    | some g => s.noteAt sg.mast typ g.ctx (s.requester sg.gid (lowest lanes)) ((RMap.get g.waits (lowest lanes)).setWidth 64) x
    | none => s
  | none => s

/-- The four words of a journal entry in memory (R337). -/
def State.entryAt (s : State) (u n : Nat) : List Word :=
  let j := s.jrnOf u
  let m := if u = deckUnit then j.jmast.toNat else u
  (List.range 4).map (fun i => s.word (dramCell (s.dev * 16 + m) (j.jframe.toNat * 2 ^ 16 + 32 * n + 8 * i)))

/-- The entry that a unit in replay consumes next (R339). -/
def State.nextEntry (s : State) (u : Nat) : List Word :=
  s.entryAt u ((s.jrnOf u).jhead.toNat + (s.journal.filter (fun e => decide (e.1 = u))).length)

/-- A clock read (R338, R339): it is counted and noted, and in replay returns the value recorded. -/
def State.clockRead (s : State) (sid : Nat) (lanes : Mask) (x : Word) : Word × State :=
  let m := ((SMap.get? s.subs sid).map (fun sg => sg.mast)).getD 0
  let y := if (s.jrnOf (m % 16)).mode = 2 then (s.nextEntry (m % 16)).getD 3 0 else x
  (y, (s.countWait sid lanes).noteLanes 4 sid lanes y)

end Sys2Proof.Machine
end

