-- ==== Sys2Proof/Machine/Xlate.lean ====
section
/-! DEFINITION. Translation at the home: TLB, walk requests, held faults (spec 15, R285 to R300), and the readings that the
Command Processor makes through a context's tables (spec 14, R267; log entry 6). -/

namespace Sys2Proof.Machine

open Sys2Proof

/-- The outcome of one translation (R290). -/
inductive Xl where
  | ok (pa : Nat)
  | miss
  | fault (why : BitVec 8)
  deriving DecidableEq, Repr

/-- The offset bits of a page entry: 64 KiB for type 2, 2 MiB for type 3 (R289). -/
def pageBits (ent : Word) : Nat := if fieldOf ent 0 2 = 3 then 21 else 16

/-- The physical address that a page entry gives an address (R289). -/
def pageAddr (ent va : Word) : Nat :=
  let n := pageBits ent
  fieldOf ent 8 36 / 2 ^ n * 2 ^ n + va.toNat % 2 ^ n

/-- Whether a TLB entry maps an address of a context (R290). -/
def TlbEnt.hits (e : TlbEnt) (ctx : Nat) (va : Word) : Bool :=
  decide (e.ctx = ctx) && decide (e.va.toNat / 2 ^ pageBits e.ent = va.toNat / 2 ^ pageBits e.ent)

/-- The mast that a direct-form address names. -/
def State.vaMast (s : State) (va : Word) : Nat := s.gm (fieldOf va 53 10) (fieldOf va 49 4)

/-- Translate a direct-form address at its home mast (R290): access 0 reads, 1 writes, 2 fetches. -/
def State.xlate (s : State) (ctx : Nat) (va : Word) (acc : BitVec 2) : Xl :=
  let m := s.vaMast va
  match s.ctxAt m ctx with
  | none => .fault 1
  | some c =>
    if (RMap.get c.tb (m % 16)).getLsbD 0 = false then .fault 1
    else match (s.mast m).tlb.find? (fun e => e.hits ctx va) with
      | none => .miss
      | some e =>
        if acc = 1 then
          (if e.ent.getLsbD 2 = false then .fault 2 else if e.ent.getLsbD 5 = false then .miss else .ok (pageAddr e.ent va))
        else if acc = 2 && e.ent.getLsbD 3 = false then .fault 3
        else .ok (pageAddr e.ent va)

/-- The page of a walk or fault, 64 KiB granular. -/
def pageOf (va : Word) : Nat := va.toNat / 2 ^ 16

/-- Ask the walker of an address's mast for a walk; requests for one context, page and kind merge (R291). -/
def State.askWalk (s : State) (ctx : Nat) (va : Word) (acc : BitVec 2) : State :=
  let kind : BitVec 1 := if acc = 1 then 1 else 0
  let m := s.vaMast va
  let same := fun (r : WalkReq) => decide (r.ctx = ctx) && decide (pageOf r.va = pageOf va) && decide (r.kind = kind)
  let running := match (s.mast m).walk with | some w => same w.req | none => false
  if running || (s.mast m).walks.any same then s
  else s.updMast m (fun t => { t with walks := t.walks ++ [{ ctx := ctx, va := va, kind := kind, acc := acc }] })

/-- The lowest slot of the fault buffer that is free (R297). -/
def freeSlot (fs : List FaultEnt) : Option Nat :=
  (List.range 256).find? (fun i => !(fs.any (fun f => decide (f.slot = some i))))

/-- The fault interrupt of a mast is raised: its event, when NEWI or OVFI has become set (R298, R319). -/
def State.faultEvent (s : State) (m : Nat) (newi ovfi : Bool) : State :=
  let t := s.mast m
  if (t.newi && !newi) || (t.ovfi && !ovfi) then
    s.postAt m { typ := 5, code := 0, tag := 0, ctx := 0, w1 := BitVec.ofNat 64 (m % 16),
                 w2 := (if t.newi then 1 else 0) + (if t.ovfi then 2 else 0), w3 := 0 }
  else s

/-- Hold an access that its home cannot translate: it merges into the entry of its context, page and WHY, or makes a new
one, reported while a slot is free (R296, R297, R300). -/
def State.holdFault (s : State) (ctx : Nat) (va : Word) (why : BitVec 8) (acc : BitVec 2) : State × BitVec 32 :=
  let m := s.vaMast va
  let t := s.mast m
  match t.faults.find? (fun f => decide (f.ctx = ctx) && decide (pageOf f.va = pageOf va) && decide (f.why = why)) with
  | some f => (s, f.seq)
  | none =>
    let slot := freeSlot t.faults
    let f : FaultEnt := { slot := slot, va := va, ctx := ctx, why := why, acc := acc.setWidth 8, seq := t.seq }
    let s1 := s.updMast m (fun t =>
      { t with faults := t.faults ++ [f], seq := t.seq + 1,
               newi := t.newi || slot.isSome, ovfi := t.ovfi || slot.isNone,
               ovf := if slot.isNone then t.ovf + 1 else t.ovf })
    (s1.faultEvent m t.newi t.ovfi, t.seq)

/-- One attempt of a waiting access to translate: its physical address, or what it waits for (R290, R296). -/
def State.tryXl (s : State) (x : XlReq) : State × Option Nat × XlReq :=
  if x.held.isSome || x.fail then (s, none, x)
  else match s.xlate x.ctx x.va x.acc with
    | .ok pa => (s, some pa, x)
    | .miss => (s.askWalk x.ctx x.va x.acc, none, x)
    | .fault why => let (t, q) := s.holdFault x.ctx x.va why x.acc; (t, none, { x with held := some q })

/-- The request of an access. -/
def XlReq.mk' (ctx : Nat) (va : Word) (acc : BitVec 2) : XlReq := { ctx := ctx, va := va, acc := acc, held := none, fail := false }

/-- The entry of a table of the address's mast. -/
def State.tableEnt (s : State) (m base idx : Nat) : Word := s.word (dramCell m (base + 8 * idx))

/-- The bits of an address that an entry of some type maps (R289). -/
def entBits (ent : Word) : Nat := if fieldOf ent 0 2 = 3 then 21 else 16

/-- Whether a page entry is no entry that a TLB may hold: a next-table type, a reserved bit, a misaligned page (R289, R292). -/
def badEntry (ent : Word) : Bool :=
  decide (fieldOf ent 0 2 = 1) || decide (fieldOf ent 44 20 ≠ 0) || decide (fieldOf ent 6 2 ≠ 0) ||
  (decide (fieldOf ent 0 2 ≥ 2) && decide (fieldOf ent 8 36 % 2 ^ entBits ent ≠ 0))

/-- The next table that an entry of type 1 names, aligned to the size of the table of its level (R289). -/
def nextTable (ent : Word) (size : Nat) : Option Nat :=
  if decide (fieldOf ent 0 2 = 1) && decide (fieldOf ent 44 20 = 0) && decide (fieldOf ent 6 2 = 0) && decide (fieldOf ent 8 36 % size = 0) then
    some (fieldOf ent 8 36)
  else none

/-- The page that an entry of the type accepted at its level names (R289). -/
def pageEntry (ent : Word) (typ : Nat) : Option Word := if decide (fieldOf ent 0 2 = typ) && !badEntry ent then some ent else none

/-- The page entry that a context's tables hold for a direct-form address, read without a walk (R289, log entry 6). -/
def State.leaf (s : State) (ctx : Nat) (va : Word) : Option Word :=
  let m := s.vaMast va
  let tb := ((s.ctxAt m ctx).map (fun c => RMap.get c.tb (m % 16))).getD 0
  if tb.getLsbD 0 = false then none
  else
    (nextTable (s.tableEnt m (tb.toNat / 2 * 2 ^ 16) (va.toNat / 2 ^ 63 * 4096 + fieldOf va 32 12)) 0x4000).bind (fun t1 =>
      let e1 := s.tableEnt m t1 (fieldOf va 21 11)
      match pageEntry e1 3 with
      | some e => some e
      | none => (nextTable e1 0x100).bind (fun t2 => pageEntry (s.tableEnt m t2 (fieldOf va 16 5)) 2))

/-- The page entry that the Command Processor's access to an address uses: that of the TLB (R290), or what a walk would insert
(log entry 6). -/
def State.cpEntry (s : State) (ctx : Nat) (va : Word) : Option Word :=
  match (s.mast (s.vaMast va)).tlb.find? (fun e => e.hits ctx va) with
  | some e => some e.ent
  | none => s.leaf ctx va

/-- The cell of an address as the Command Processor reads or writes it for a context (R290, R292, R293; log entry 6): a page that
permits the access, in a frame whose owner is the context, or a station window of the context. -/
def State.cpCell (s : State) (ctx : Nat) (c : Ctx) (va : Word) (write : Bool) : Option Nat :=
  let tag := BitVec.ofNat 16 ctx
  match s.home c va with
  | .none _ => none
  | .window _ m n off => if decide (off < 0x140000) && (s.stn m n).tag == tag then some (localCell m n off) else none
  | .dram _ m =>
    match s.cpEntry ctx (s.direct c va) with
    | none => none
    | some e =>
      let pa := pageAddr e (s.direct c va)
      if (write && e.getLsbD 2 = false) || s.frameTag m (pa / 2 ^ 16) != tag then none else some (dramCell m pa)

/-- One word read by the Command Processor: none where the address has no place or its sector is uncorrectable (R327). -/
def State.cpWord (s : State) (ctx : Nat) (c : Ctx) (va : Word) : Option Word :=
  (s.cpCell ctx c va false).bind (fun p => if s.badAt p then none else some (s.word p))

/-- Bytes read by the Command Processor, 8 at a time so that no run crosses a page unseen. -/
def State.cpWords (s : State) (ctx : Nat) (c : Ctx) (va : Word) : Nat → Option (List Word)
  | 0 => some []
  | n + 1 =>
    match s.cpWord ctx c va, s.cpWords ctx c (va + 8) n with
    | some w, some ws => some (w :: ws)
    | _, _ => none


/-- Words written by the Command Processor. -/
def State.cpPut (s : State) (ctx : Nat) (c : Ctx) (va : Word) : List Word → Option State
  | [] => some s
  | w :: ws =>
    match s.cpCell ctx c va true with
    | some cell => State.cpPut (s.store cell (leBytes 8 w.toNat)) ctx c (va + 8) ws
    | none => none

/-- Bytes within one sector written by the Command Processor; nothing where the address has no place. -/
def State.cpBytes (s : State) (ctx : Nat) (c : Ctx) (va : Word) (bs : List Byte) : State :=
  match s.cpCell ctx c va true with
  | some cell => s.store cell bs
  | none => s

/-- HEAD, STATE and DC of a queue's descriptor are the Command Processor's to write (R262). -/
def State.syncQueue (s : State) (q : Queue) : State :=
  match SMap.get? s.ctxs q.ctx with
  | none => s
  | some c =>
    let s1 := s.cpBytes q.ctx c (q.desc + 0x0C) (leBytes 4 q.head.toNat)
    let w := (s1.cpWord q.ctx c (q.desc + 0x18)).getD 0
    let s2 := s1.cpBytes q.ctx c (q.desc + 0x18) (leBytes 8 (w.toNat / 4 * 4 + (if q.stopped then 1 else 0)))
    s2.cpBytes q.ctx c (q.desc + 0x20) (leBytes 8 (BitVec.ofInt 64 q.dc).toNat)

/-- Change a queue, its descriptor with it. -/
def State.putQueue (s : State) (k : Nat) (q : Queue) : State := { s with queues := SMap.put s.queues k q }.syncQueue q

/-- The slot array of a context's save area, or none (R301). -/
def State.slotArray (s : State) (ctx : Nat) (c : Ctx) : Option Word :=
  match s.cpWord ctx c (c.save + 8) with
  | some a => if a = 0 || a.toNat % 32 ≠ 0 then none else some a
  | none => none

/-- The address of a trap frame of a group's save slot (R301). -/
def frameAddr (slots : Word) (m n g f : Nat) : Word := slots + BitVec.ofNat 64 (((64 * m + n) * 64 + g) * 0x800 + f * 0x280)

/-- The word at a code address as its home holds it now (R108, log entry 7). -/
def State.peekCode (s : State) (ctx : Nat) (c : Ctx) (va : Word) : Option Word := s.cpWord ctx c va

end Sys2Proof.Machine
end

