-- ==== Sys2Proof/Machine/Ops.lean ====
section
/-! DEFINITION. What many instructions share: taking a trap and returning from one (spec 08, R196 to R200), holding at tie
points and reassembly (spec 01, R40; spec 04, R108; spec 09, R229), departure (R220), the end of lanes (R111), retirement
of a word (spec 03, R58, R70) and waits (spec 11, R253). -/

namespace Sys2Proof.Machine

open Sys2Proof

/-- A word of packed fields, each a value and its lowest bit. -/
def packWord (fs : List (Nat × Nat)) : Word := BitVec.ofNat 64 (fs.foldl (fun a f => a + f.1 * 2 ^ f.2) 0)

/-! ## Trap frames -/

/-- The lanes of a group held at tie points on a station, with their meeting addresses (R197). -/
def State.heldAt (s : State) (gid m n : Nat) : List (Mask × Word) :=
  (s.ties.filter (fun e => decide (e.2.gid = gid) && decide (e.2.mast = m) && decide (e.2.stn = n))).map (fun e => (e.2.held, e.2.m))

/-- The 80 words of a trap frame (R197). -/
def frameWords (sg : SubGroup) (lanes : Mask) (held : List (Mask × Word)) (t : TrapReq) : List Word :=
  let hm := held.foldl (fun a e => a ||| e.1) 0
  let rpc := fun l =>
    if lanes.getLsbD l then
      (if t.next then t.tpc + BitVec.ofNat 64 t.len else t.tpc)
    else match held.find? (fun e => e.1.getLsbD l) with
      | some e => e.2
      | none => 0
  [packWord [((if sg.sv then 1 else 0), 24), (sg.depth + 1, 16), (t.detail.toNat, 8), (t.cause.toNat, 0)],
   t.iword, t.xword, t.tpc, t.info, t.fmask, lanes, lanes, hm, sg.tframe,
   sg.reg (.s 28), sg.reg (.s 29), sg.reg (.s 30), sg.reg (.s 31), 0, 0] ++ (List.range 64).map rpc

/-- Whether the place of a frame word takes the context's write, must wait, or refuses it (R196). -/
inductive FrameAt where
  | cell (c : Nat) | wait | bad
  deriving DecidableEq, Repr

/-- The place of one word of a trap frame. -/
def State.frameAt (s : State) (ctx : Nat) (c : Ctx) (va : Word) : FrameAt :=
  match s.home c va with
  | .none _ => .bad
  | .window _ m n off =>
    if decide (off < 0x140000) && (s.stn m n).tag == BitVec.ofNat 16 ctx then .cell (localCell m n off) else .bad
  | .dram _ m =>
    match s.xlate ctx (s.direct c va) 1 with
    | .ok pa => if s.frameTag m (pa / 2 ^ 16) = BitVec.ofNat 16 ctx then .cell (dramCell m pa) else .bad
    | .miss | .fault _ => .wait

/-- Write words at the places of a trap frame. -/
def State.putFrame (s : State) (ctx : Nat) (c : Ctx) (va : Word) : List Word → State
  | [] => s
  | w :: ws =>
    let t := match s.frameAt ctx c va with
      | .cell p => s.store p (leBytes 8 w.toNat)
      | .wait | .bad => s
    State.putFrame t ctx c (va + 8) ws

/-- The address of a trap frame of a group (R301): in the save area of the context as the crew's device knows it. From another
device a striped address is named by its direct form. -/
def State.frameOf (s : State) (g : Group) (cr : Crew) (f : Nat) : Option Word :=
  let t := s.enter (cr.mast / 16)
  (SMap.get? t.ctxs g.ctx).bind (fun c => (t.slotArray g.ctx c).map (fun slots =>
    let va := frameAddr slots (cr.mast % 16) cr.stn g.gix f
    if s.own cr.mast then va else t.direct c va))

/-- The lowest free frame of a group's save slot (R196). -/
def Group.freeFrame (g : Group) : Option Nat :=
  (List.range 3).find? (fun f => (SMap.get? g.frames f).isNone)

/-- The mast of a group's crew, or one of the device in place. -/
def State.crewMast (s : State) (g : Group) : Nat := ((s.crewOf g).map (fun c => c.mast)).getD (s.dev * 16)

/-- Report a fault record to the host (R196, R256, R268, R319): the group's station and index, its gang, TPC, cause and detail, and for
an escalation trap the deadline that expired. -/
def State.faultRecord (s : State) (g : Group) (t : TrapReq) (dl : Word) : State :=
  let gang := (((s.crewOf g).bind (fun c => SMap.get? s.launches c.lid)).map (fun l => l.gang)).getD 0
  s.postAt (s.crewMast g)
    { typ := 2, code := 0, tag := 0, ctx := BitVec.ofNat 16 g.ctx,
      w1 := packWord [((s.crewPlace g).toNat % 2 ^ 20, 0), (g.gix, 20), (gang % 2 ^ 16, 32), (dl.toNat / 2 ^ 48, 48)], w2 := t.tpc,
      w3 := packWord [(t.cause.toNat, 0), (t.detail.toNat, 8), (dl.toNat % 2 ^ 48, 16)] }

/-- Lanes stop with their slot kept; the Command Processor reports them, and the Bosun is notified of a deadline (R196). -/
def State.stopLanes (s : State) (sid : Nat) (lanes : Mask) (g : Group) (t : TrapReq) : State :=
  let s1 := (s.updSub sid (fun sg => (sg.setSt lanes .stopped).settle lanes)).faultRecord g t (if t.cause = 0x10 then t.info else 0)
  if t.cause = 0x10 then s1.tellBosun (s.crewMast g) g.ctx t.cause else s1

/-- The stall count of a word of any class (R59, R62, R70). -/
def stallField (iw : Word) : Nat := if fieldOf iw 62 2 = 1 then fieldOf iw 58 4 else fieldOf iw 44 4

/-- Enter the handler in a frame that can be written (R196); its first word keeps the trapped word's stall count (R70). With
no trap vector the frame is written and the lanes stop. -/
def State.enterFrame (s : State) (sid : Nat) (lanes : Mask) (sg : SubGroup) (g : Group) (c : Ctx) (va : Word) (f : Nat)
    (t : TrapReq) : State :=
  let s1 := s.putFrame g.ctx c va (frameWords sg lanes (s.heldAt sg.gid sg.mast sg.stn) t)
  let s2 := s1.updGroup sg.gid (fun g => { g with frames := SMap.put g.frames f lanes })
  let now := (s.stn sg.mast sg.stn).cycles
  let s3 := s2.updSub sid (fun sg => { sg with tframe := va, depth := sg.depth + 1 })
  if c.tvec = 0 then s3.stopLanes sid lanes g t
  else s3.updSub sid (fun sg =>
    let sg := (sg.mapLanes lanes (fun l => { l with
      pc := c.tvec, st := .ready, step := false, rel := none, refuse := none, readyAt := max l.readyAt (now + max (stallField t.iword) 1) })).settle lanes
    { sg with ctl := sg.ctl ||| 4 })

/-- Put lanes into a wait; its bound or deadline is judged as the clock advances (R251, R253). -/
def State.beginWait (s : State) (w : Wait) : State :=
  let (i, t) := (s.countWait w.sid w.lanes).fresh
  { (t.updSub w.sid (fun sg => sg.setSt w.lanes .waiting)) with waits := SMap.put t.waits i w }

/-- The rest of an issue set stands by while its word waits, lanes that one wait of several has let pass among them (log entry 17):
these lanes begin no wait of their own. -/
def State.standBy (s : State) (w : Wait) (ks : List Nat) : State :=
  if w.lanes = 0 && decide (ks.length ≤ 1) then s
  else
    let (i, t) := s.fresh
    { (t.updSub w.sid (fun sg => sg.setSt w.lanes .waiting)) with waits := SMap.put t.waits i { w with kind := .standBy ks } }

/-- The bound of an implicit wait that begins now (R30, R253): the sum itself, which no clock reaches where it passes 64 bits. -/
def SubGroup.bound (sg : SubGroup) : Nat := sg.gclk.toNat + max sg.dldef.toNat 1024

/-- A walk ends with WHY 5: the walker group trapped or did what it may not do (R291). -/
def State.endWalker (s : State) (gid : Nat) : State :=
  match s.masts.find? (fun e => match e.2.walk with | some w => decide (w.gid = gid) | none => false) with
  | none => s
  | some (m, _) =>
    let s1 := s.updMast m (fun t => { t with walk := t.walk.map (fun w => { w with ended := true }) })
    { (s1.updGroup gid (fun g => { g with ended := BitVec.allOnes 64 })) with
      subs := s1.subs.filter (fun e => decide (e.2.gid ≠ gid)),
      waits := s1.waits.filter (fun e => match SMap.get? s1.subs e.2.sid with | some sg => decide (sg.gid ≠ gid) | none => true) }

/-- The frame of a trap is written by R197 and the lanes go to the trap vector in supervisor mode (R196); with no free frame, no
slot array, no vector or a frame that cannot be written, the lanes stop. -/
def State.enterHandler (s : State) (sid : Nat) (lanes : Mask) (t : TrapReq) : State :=
  match SMap.get? s.subs sid with
  | none => s
  | some sg =>
    match SMap.get? s.groups sg.gid with
    | none => s
    | some g =>
      if g.walker then s.endWalker sg.gid
      else match SMap.get? s.ctxs g.ctx, s.crewOf g with
        | some c, some cr =>
          match g.freeFrame.bind (fun f => (s.frameOf g cr f).map (fun va => (va, f))) with
          | some (va, f) =>
            let last := va + 0x278
            match s.frameAt g.ctx c va, s.frameAt g.ctx c last with
            | .bad, _ | _, .bad => s.stopLanes sid lanes g t
            | .cell _, .cell _ => s.enterFrame sid lanes sg g c va f t
            | .wait, _ | _, .wait =>
              let page := match s.frameAt g.ctx c va with | .wait => va | .cell _ | .bad => last
              let (s1, _, x) := s.tryXl (XlReq.mk' g.ctx (s.direct c page) 1)
              let s2 := s1.updGroup sg.gid (fun g => { g with frames := SMap.put g.frames f lanes })
              s2.beginWait { sid := sid, lanes := lanes, kind := .trapEntry t f x, dk := none, bound := some sg.bound,
                             status := .zero, pc := t.tpc, len := t.len, iword := t.iword, xword := t.xword }
          | none => s.stopLanes sid lanes g t
        | _, _ => s.stopLanes sid lanes g t

/-! ## The end of lanes -/

/-- A crew whose groups' lanes have all ended retires (R280, R274); its copy tags go on until the last copy has finished. -/
def State.retireCrew (s : State) (cid : Nat) : State :=
  match SMap.get? s.crews cid with
  | none => s
  | some cr =>
    if cr.groups.all (fun g => match SMap.get? s.groups g with | some g => decide (g.ended = BitVec.allOnes 64) && decide (g.imaged = 0) | none => true)
       && decide ((s.stn cr.mast cr.stn).crew = some cid) then
      let t := (s.stn cr.mast cr.stn).cycles - cr.placedAt
      let s1 := s.updStn cr.mast cr.stn (fun st => { st with crew := none })
      let s2 := s1.updCrew cid (fun c => { c with bars := [], pushers := [] })
      let s3 := s2.updLaunch cr.lid (fun l => { l with retired := l.retired + 1 })
      match SMap.get? s.launches cr.lid with
      | some l => s3.on l.dev (fun s =>
        match SMap.get? s.queues l.queue with
        | some q => s.putQueue l.queue { q with dc := q.dc + (q.adv * 4096 : Nat) - (t : Nat) }
        | none => s)
      | none => s3
    else s

/-- The mask of a group's lanes. -/
def widthMask (w : Nat) : Mask := BitVec.ofNat 64 (2 ^ w - 1)

/-- END LANES as EXIT does (R111): their registers go, exits travel to tie records and barrier counters, a frame whose lanes
have all ended is free again (R196), and a group whose lanes have all ended frees its allocation and closes its streams. -/
def State.endLanes (s : State) (sid : Nat) (lanes : Mask) : State :=
  match SMap.get? s.subs sid with
  | none => s
  | some sg =>
    let left := sg.keepLanes (~~~lanes)
    let s1 := { s with subs := if left.lanes.isEmpty then SMap.del s.subs sid else SMap.put s.subs sid left }
    match SMap.get? s.groups sg.gid with
    | none => s1
    | some g =>
      let ended := g.ended ||| lanes
      let gone := decide (ended &&& widthMask g.width = widthMask g.width) && decide (g.imaged = 0)
      let g' := { g with
        ended := if gone then BitVec.allOnes 64 else ended
        frames := g.frames.filter (fun e => decide (e.2 &&& ~~~ended ≠ 0))
        streams := if gone then [] else g.streams }
      let s2 := { s1 with groups := SMap.put s1.groups sg.gid g' }
      match g.cid, s.crewOf g with
      | some cid, some cr =>
        let src := stnPort sg.mast sg.stn
        let n := popCount lanes
        let s3 := s2.send src (stnPort cr.mast cr.stn) (.exitNotice sg.gid lanes)
        let s4 := s3.send src (stnPort cr.mast cr.stn) (.barExit (.crew cid 0) n)
        let s5 := s4.send src (mastPort cr.mast) (.barExit (.mast cr.lid cr.mast 0) n)
        let s6 := s5.send src (cpPort (cr.mast / 16)) (.barExit (.grid cr.lid 0) n)
        if gone then s6.retireCrew cid else s6
      | _, _ => s2

/-! ## Reassembly and tie points -/

/-- Put every entry of one table into another. -/
def SMap.union {α : Type} (a b : SMap α) : SMap α := b.foldl (fun m e => SMap.put m e.1 e.2) a

/-- Reassembly of two copies (R40). -/
def mergeSubs (a b : SubGroup) : SubGroup :=
  let (lo, hi) := if lowest a.all ≤ lowest b.all then (a, b) else (b, a)
  { lo with
    lanes := SMap.union lo.lanes hi.lanes
    v := SMap.union lo.v hi.v
    p := SMap.union lo.p hi.p
    gclk := if lo.gclk.toNat < hi.gclk.toNat then hi.gclk else lo.gclk
    aflags := lo.aflags ||| hi.aflags
    ctl := (lo.ctl &&& hi.ctl &&& 4) ||| ((lo.ctl ||| hi.ctl) &&& 3)
    stale := [] }

/-- The lanes of an occurrence proceed with a status (R108, step 4): on expiry the occurrence closes, and drains when no
member is left (step 6). -/
def State.releaseTie (s : State) (tid : Nat) (t : Tie) (status : BitVec 8) : State :=
  match t.sid with
  | none => s
  | some sid =>
    let now := (s.stn t.mast t.stn).cycles
    let s1 := s.updSub sid (fun sg =>
      (sg.mapLanes t.held (fun l => { l with st := .ready, rel := some (status, BitVec.ofNat 64 (min t.dl (2 ^ 64 - 1))), readyAt := max l.readyAt now, since := now, starve := 0 })).settle t.held)
    let left := t.member &&& ~~~t.held
    if status = 0 || left = 0 then { s1 with ties := SMap.del s1.ties tid }
    else { s1 with ties := SMap.put s1.ties tid { t with isOpen := false, opened := false, member := left, held := 0, sid := none } }

/-- Judge an open occurrence: complete before expired (R108, step 4). -/
def State.judgeTie (s : State) (tid : Nat) : State :=
  match SMap.get? s.ties tid with
  | none => s
  | some t =>
    if !t.isOpen || !t.opened || decide (t.held = 0) then s
    else if t.member &&& ~~~t.held = 0 then s.releaseTie tid t 0
    else match t.sid.bind (SMap.get? s.subs) with
      | some sg => if sg.gclk.toNat ≥ t.dl then s.releaseTie tid t 3 else s
      | none => s

/-- The deadline of an occurrence that opens (R108, step 2): the register that the JOIN at M names, in this copy. -/
def State.tieDeadline (s0 : State) (sg : SubGroup) (g : Group) (m : Word) : Nat :=
  let s := s0.enter (sg.mast / 16)
  match (SMap.get? s.ctxs g.ctx).bind (fun c => s.peekCode g.ctx c m) with
  | some w =>
    if fieldOf w 62 2 = 0 && fieldOf w 52 10 = 0x106 && decide (fieldOf w 30 7 / 4 = 0x78 / 4) then (sg.reg (.d (fieldOf w 30 7 % 4))).toNat
    else sg.bound
  | none => sg.bound

/-- Lanes held at M on the rejoin station join its occurrence (R108, steps 1 to 3; R208, R229). A per-group result still
outstanding when the hold splits a sub-group reaches only the copy with its producer's lowest active lane (R40 is silent on the
other copy: DESIGN CHOICE, log entry 14). -/
def State.joinOccurrence (s : State) (sid : Nat) (lanes : Mask) (m : Word) : State :=
  match SMap.get? s.subs sid with
  | none => s
  | some sg0 =>
    match SMap.get? s.groups sg0.gid with
    | none => s
    | some g =>
      let rest := sg0.keepLanes (~~~lanes)
      let part := { ((sg0.keepLanes lanes).setSt lanes .held) with stale := [], armed := none }
      let (sid', s1) :=
        if rest.lanes.isEmpty then (sid, { s with subs := SMap.put s.subs sid part })
        else
          let (i, t) := s.fresh
          (i, { t with subs := SMap.put (SMap.put t.subs sid rest) i part })
      match s1.ties.find? (fun e => decide (e.2.gid = sg0.gid) && decide (e.2.mast = sg0.mast) && decide (e.2.stn = sg0.stn) && decide (e.2.m = m)) with
      | none =>
        let (i, t) := s1.fresh
        let tie : Tie := { gid := sg0.gid, mast := sg0.mast, stn := sg0.stn, m := m, isOpen := true, opened := true,
                           dl := s.tieDeadline part g m, member := lanes, held := lanes, sid := some sid' }
        State.judgeTie { t with ties := SMap.put t.ties i tie } i
      | some (tid, t) =>
        if !t.isOpen then
          let now := (s1.stn sg0.mast sg0.stn).cycles
          let s2 := s1.updSub sid' (fun sg => sg.mapLanes lanes (fun l => { l with st := .ready, rel := some (0x83, 0), readyAt := max l.readyAt now, since := now, starve := 0 }))
          let left := t.member &&& ~~~lanes
          { s2 with ties := if left = 0 then SMap.del s2.ties tid else SMap.put s2.ties tid { t with member := left } }
        else
          let t' := { t with member := t.member ||| lanes, held := t.held ||| lanes }
          match t.sid.bind (SMap.get? s1.subs), t.sid with
          | some other, some oid =>
            let merged := mergeSubs other part
            let s2 := { s1 with subs := SMap.put (SMap.del s1.subs sid') oid merged, ties := SMap.put s1.ties tid t' }
            (s2.updGroup sg0.gid (fun g => { g with outst := g.outst.map (fun o => { o with path := BitVec.allOnes 64 }) })).judgeTie tid
          | _, _ =>
            let t'' := { t' with opened := true, dl := if t.opened then t.dl else s.tieDeadline part g m, sid := some sid' }
            State.judgeTie { s1 with ties := SMap.put s1.ties tid t'' } tid

/-! ## Departure -/

/-- The sub-groups that take a late result of a lane (R40). -/
def State.receiverSid (s : State) (gid lane : Nat) : Option Nat :=
  match s.holderOf gid lane with
  | some sid => some sid
  | none => ((SMap.get? s.groups gid).bind Group.lowestLive).bind (s.holderOf gid)

/-- Whether an outstanding result goes to a register of some lanes of a sub-group, per-lane or per-group (R39). -/
def State.outstFor (s : State) (gid sid : Nat) (lanes : Mask) (o : Outst) : Bool :=
  o.writes.any (fun w => match w.1 with
    | .v l _ | .p l _ => lanes.getLsbD l
    | .s _ | .k _ | .d _ | .x _ => decide (s.receiverSid gid o.lane = some sid))

/-- One image of lanes that move together (R216, R220): the state as it stood when the word issued; results still outstanding
are written into it before it leaves (R39). -/
def State.formImage (s : State) (sid : Nat) (lanes : Mask) (kind : BitVec 4) (live : BitVec 8) (dev m n : Nat) : State :=
  match SMap.get? s.subs sid with
  | none => s
  | some sg =>
    match SMap.get? s.groups sg.gid with
    | none => s
    | some g =>
      let own := live &&& BitVec.ofNat 8 (2 ^ g.wins - 1)
      let part := { (((sg.keepLanes lanes).keepWindows own).settle lanes) with armed := none }
      let part := { (part.mapLanes lanes (fun l => { l with st := .ready, rel := none, refuse := none })) with stale := [] }
      let (i, s1) := s.fresh
      let im : Image :=
        { kind := kind, live := own, sg := part, held := false, halted := false, smast := sg.mast, sstn := sg.stn,
          sid0 := sid, tdev := dev, tmast := m, tstn := n, arr := 0,
          awaits := (g.outst.filter (s.outstFor sg.gid sid lanes)).map (fun o => o.id), phase := .departing, refuse := 0,
          restored := false, streams := [], bundle := none }
      let pc := ((SMap.get? sg.lanes (lowest lanes)).map (fun l => l.pc)).getD 0
      let (iw, xw) := match s.issuing with | some is => (is.iword, is.xword) | none => (0, 0)
      let s2 := { s1 with images := SMap.put s1.images i im }
      let (j, s3) := s2.fresh
      let w : Wait :=
        { sid := sid, lanes := lanes, kind := .transit i, dk := none, bound := some sg.bound, status := .zero, pc := pc,
          len := 8, iword := iw, xword := xw }
      { ((s3.countWait sid lanes).updSub sid (fun sg => sg.setSt lanes .transit)) with waits := SMap.put s3.waits j w }

/-- Lanes leave for a place, one continuation for each %meet among them (R216, R227). -/
def State.departTo (s : State) (sid : Nat) (lanes : Mask) (kind : BitVec 4) (live : BitVec 8) (dev m n : Nat) : State :=
  match SMap.get? s.subs sid with
  | none => s
  | some sg =>
    let meets := ((sg.lanes.filter (fun e => lanes.getLsbD e.1)).map (fun e => e.2.meet)).dedup
    meets.foldl (fun s mt => s.formImage sid (lanes &&& sg.laneMask (fun l => decide (l.meet = mt))) kind live dev m n) s

/-- How lanes take a trap. -/
abbrev TrapWay := State → Nat → Mask → TrapReq → State

/-- A member reaches M (R108, step 1; R230): it is held here, moves to the rejoin station, or is refused. -/
def State.holdAt (trap : TrapWay) (s : State) (sid : Nat) (lanes : Mask) (m : Word) : State :=
  match SMap.get? s.subs sid with
  | none => s
  | some sg =>
    match SMap.get? s.groups sg.gid with
    | none => s
    | some g =>
      let place := if sg.rejoin = noRejoin then s.crewPlace g else sg.rejoin
      let dev := fieldOf place 10 10
      let pm := s.gm dev (fieldOf place 6 4)
      let pn := fieldOf place 0 6
      if place = s.placeAt sg.mast sg.stn then s.joinOccurrence sid lanes m
      else
        let refuse := fun (d : BitVec 8) =>
          let iw := ((SMap.get? s.ctxs g.ctx).bind (fun c => s.peekCode g.ctx c m)).getD 0
          trap s sid lanes { cause := 8, detail := d, info := m, fmask := lanes, next := false, tpc := m, len := 8, iword := iw, xword := 0 }
        if g.streaming then refuse 4
        else if dev = s.devno && ((s.mast pm).fenced || (s.stn pm pn).fenced) then refuse 2
        else s.departTo sid lanes 2 sg.rlive dev pm pn

/-- Lanes of a sub-group whose PC has reached their nonzero %meet are held (R31). -/
def State.holdReadyBy (trap : TrapWay) (s : State) (sid : Nat) : State :=
  match SMap.get? s.subs sid with
  | none => s
  | some sg =>
    let at' := fun (l : Lane) => decide (l.st = .ready) && l.rel.isNone && l.refuse.isNone && decide (l.meet ≠ 0) && decide (l.pc = l.meet)
    let ms := ((sg.lanes.filter (fun e => at' e.2)).map (fun e => e.2.meet)).dedup
    ms.foldl (fun s m => s.holdAt trap sid (sg.laneMask (fun l => at' l && decide (l.meet = m))) m) s

/-- A trap is taken, and lanes whose meeting address is the vector are held there (R31); such a hold may be refused by a further
trap, as often as the group has frames. -/
def State.trapHold : Nat → TrapWay
  | 0 => State.enterHandler
  | n + 1 => fun s sid lanes t => State.holdReadyBy (State.trapHold n) (s.enterHandler sid lanes t) sid

/-- TAKING A TRAP (R196): the lanes enter their handler, or stop; a lane that reaches its meeting address so is held (R31). -/
def State.enterTrap (s : State) (sid : Nat) (lanes : Mask) (t : TrapReq) : State := State.trapHold 3 s sid lanes t

/-- Lanes of a sub-group whose PC has reached their nonzero %meet are held (R31). -/
def State.holdReady (s : State) (sid : Nat) : State := s.holdReadyBy State.enterTrap sid

/-! ## Retirement -/

/-- Lanes complete a word at new PCs: their issue distance and readiness count on (R58, R70, R212) and a pending DSTEP step
is taken (R206). -/
def State.advance (s : State) (sid : Nat) (lanes : Mask) (stall len : Nat) (pc : Nat → Word) (tpc iw xw : Word) : State :=
  match SMap.get? s.subs sid with
  | none => s
  | some sg0 =>
    let now := (s.stn sg0.mast sg0.stn).cycles
    let n := max stall 1
    let stepped := lanes &&& sg0.laneMask (fun l => l.step)
    let lanes' := sg0.lanes.map (fun e =>
      if lanes.getLsbD e.1 then
        (e.1, { e.2 with pc := pc e.1, st := .ready, dist := e.2.dist + n, readyAt := now + n, since := now + n, starve := 0, yield := false, rel := none, refuse := none })
      else e)
    let s1 := s.updSub sid (fun sg => { sg with lanes := lanes' }.prune now)
    if stepped = 0 then s1
    else s1.enterTrap sid stepped { cause := 0x12, detail := 0, info := 0, fmask := stepped, next := true, tpc := tpc, len := len, iword := iw, xword := xw }

/-- Lanes complete a word at new PCs, and lanes that reached their tie point are held (R31). -/
def State.retireAt (s : State) (sid : Nat) (lanes : Mask) (stall len : Nat) (pc : Nat → Word) (tpc iw xw : Word) : State :=
  (s.advance sid lanes stall len pc tpc iw xw).holdReady sid

/-- Lanes complete a word that neither branches nor traps (R58). -/
def State.retire (s : State) (sid : Nat) (lanes : Mask) (stall len : Nat) (iw xw : Word) : State :=
  match SMap.get? s.subs sid with
  | none => s
  | some sg =>
    let pc := fun l => ((SMap.get? sg.lanes l).map (fun x => x.pc)).getD 0 + BitVec.ofNat 64 len
    s.retireAt sid lanes stall len pc (((SMap.get? sg.lanes (lowest lanes)).map (fun x => x.pc)).getD 0) iw xw

/-! ## Results and escalation -/

/-- A variable-latency result is outstanding until it arrives (R71, R73). -/
def State.outstand (s : State) (gid lane : Nat) (path : Mask) (ws : List (Reg × Option Word)) : Nat × State :=
  let (i, t) := s.fresh
  (i, t.updGroup gid (fun g => { g with outst := g.outst ++ [{ id := i, lane := lane, path := path, writes := ws }] }))

/-- The end of messages at the Command Processor that holds a group's ESC: that of its crew's device (R255, R323). -/
def State.escPort (s : State) (g : Group) : Nat := cpPort (((s.crewOf g).map (fun c => c.mast / 16)).getD s.dev)

/-- The lanes of a group that issue nothing: their notice, or the trap that followed it, is on its way (R256). -/
def State.noticed (s : State) (gid : Nat) : Mask :=
  s.msgs.foldl (fun a e => match e.2.body with
    | .escInc _ g lanes _ _ _ _ _ | .escTrap g lanes _ _ _ _ _ => if g = gid then a ||| lanes else a
    | .posted _ _ _ _ _ _ _ | .ack _ _ _ _ _ | .tieNotice _ _ _ _ _ _ _ | .exitNotice _ _ | .barArrive _ _ _ _ | .barWithdraw _ _ _ _
    | .barExit _ _ | .barDone _ _ | .escReset _ | .segld _ _ _ | .tlbi _ _ _ | .done _ => a) 0

/-- Send the escalation notice of an explicit deadline's status (R252, R255); none from the walker group (R291). Lanes whose
status counts issue nothing further while the notice is on its way (R256, State.noticed). -/
def State.escalate (s : State) (sid : Nat) (g : Group) (counted reset : Bool) (lanes : Mask) (dl tpc : Word) (len : Nat) (iw xw : Word) : State :=
  if g.walker then s
  else match SMap.get? s.subs sid with
    | none => s
    | some sg =>
      if counted then s.send (mastPort sg.mast) (s.escPort g) (.escInc g.ctx sg.gid lanes dl tpc len iw xw)
      else if reset then s.send (mastPort sg.mast) (s.escPort g) (.escReset g.ctx)
      else s

/-- Lanes of an issue set complete an instruction of R252: the word retires, then its escalation notice goes out (R255). -/
def State.finish (s : State) (sid : Nat) (g : Group) (set lanes : Mask) (stall len : Nat) (counted reset : Bool) (dl iw xw : Word) : State :=
  match SMap.get? s.subs sid with
  | none => s
  | some sg =>
    let pc := fun l => ((SMap.get? sg.lanes l).map (fun x => x.pc)).getD 0 + BitVec.ofNat 64 len
    let tpc := ((SMap.get? sg.lanes (lowest lanes)).map (fun x => x.pc)).getD 0
    ((s.advance sid set stall len pc tpc iw xw).escalate sid g counted reset lanes dl tpc len iw xw).holdReady sid

/-- Write a scalar status operand of lanes that waited (R73): later words see it at once. -/
def SubGroup.writeStatus (sg : SubGroup) (o : Operand) (x : Word) : SubGroup :=
  match o with
  | .s n => sg.writeNow (.s n.toNat) x
  | .v _ | .p _ | .k _ | .q _ | .d _ | .zero | .rsv _ => sg

/-- Write a result to a register where its group's copy now is (R40): a lane's own register in the copy that holds the lane,
a per-group register in the copy that takes late results of the producer's lane. -/
def State.writeReg (s : State) (gid lane : Nat) (w : Reg × Word) : State :=
  match w.1 with
  | .v l _ | .p l _ =>
    match s.holderOf gid l, s.carrierOf gid l with
    | some sid, _ => s.updSub sid (fun sg => sg.writeNow w.1 w.2)
    | none, some i => s.updImg i (fun im => { im with sg := im.sg.writeNow w.1 w.2 })
    | none, none => s
  | .s _ | .k _ | .d _ | .x _ => s.updReceiver gid lane (fun sg => sg.writeNow w.1 w.2)

/-- Whether some copy of a group can take a result, or none ever will: every lane has ended. -/
def State.canDeliver (s : State) (gid : Nat) : Bool :=
  match SMap.get? s.groups gid with
  | none => true
  | some g => g.ended == BitVec.allOnes 64 || (List.range g.width).any (fun l =>
      !g.ended.getLsbD l && ((s.holderOf gid l).isSome || (s.carrierOf gid l).isSome))

/-- Waits on the scoreboard that wait for nothing any more issue again (R73). -/
def State.wakeBoard (s : State) (gid : Nat) : State :=
  let outs := ((SMap.get? s.groups gid).map (fun g => g.outst.map (fun o => o.id))).getD []
  let mine := s.waits.filter (fun e => match e.2.kind with
    | .scoreboard ids => !(ids.any outs.contains) && decide ((SMap.get? s.subs e.2.sid).map (fun sg => sg.gid) = some gid)
    | _ => false)
  mine.foldl (fun s e =>
    let s1 := { s with waits := SMap.del s.waits e.1 }
    s1.updSub e.2.sid (fun sg =>
      let now := (s1.stn sg.mast sg.stn).cycles
      sg.mapLanes e.2.lanes (fun l => { l with st := .ready, readyAt := max l.readyAt now, since := now, starve := 0 }))) s

/-- A departing image takes a result that it must carry (R39); the image holds no register of a window that LIVE does not name
(R219). -/
def Image.carry (im : Image) (id : Nat) (ws : List (Reg × Word)) : Image :=
  if im.awaits.contains id then
    { im with
      awaits := im.awaits.filter (fun k => decide (k ≠ id))
      sg := ws.foldl (fun sg w => match w.1 with
        | .v l n => if (SMap.get? sg.lanes l).isSome && im.live.getLsbD (n / 8) then sg.writeNow w.1 w.2 else sg
        | .p l _ => if (SMap.get? sg.lanes l).isSome then sg.writeNow w.1 w.2 else sg
        | .s _ | .k _ | .d _ | .x _ => sg.writeNow w.1 w.2) im.sg }
  else im

/-- DELIVERY of an outstanding result (R73, R39, R40): it is written where the group's copies are, and into departing images
that must carry it; words held by the scoreboard for it are released. -/
def State.deliver (s : State) (gid id : Nat) : State :=
  match SMap.get? s.groups gid with
  | none => s
  | some g =>
    match g.outst.find? (fun o => decide (o.id = id)) with
    | none => s
    | some o =>
      if o.writes.any (fun w => w.2.isNone) || !s.canDeliver gid then s
      else
        let ws := o.writes.map (fun w => (w.1, w.2.getD 0))
        let s1 : State := if g.ended = BitVec.allOnes 64 then s else ws.foldl (fun s w => s.writeReg gid o.lane w) s
        let s2 := { s1 with images := s1.images.map (fun (e : Nat × Image) => (e.1, e.2.carry id ws)) }
        (s2.updGroup gid (fun g => { g with outst := g.outst.filter (fun o => decide (o.id ≠ id)) })).wakeBoard gid

/-- Give an outstanding status its value (R162). -/
def State.setOutst (s : State) (gid id : Nat) (x : Word) : State :=
  s.updGroup gid (fun g => { g with outst := g.outst.map (fun o =>
    if o.id = id then { o with writes := o.writes.map (fun w => (w.1, some x)) } else o) })

/-- Some lanes leave whatever they wait for or are held by: a trap takes them (R196, R256). -/
def State.detach (s : State) (sid : Nat) (lanes : Mask) : State :=
  let cut := s.waits.filterMap (fun e =>
    if e.2.sid = sid then
      (if e.2.lanes &&& ~~~lanes = 0 then none else some (e.1, { e.2 with lanes := e.2.lanes &&& ~~~lanes }))
    else some e)
  { s with waits := cut, ties := s.ties.map (fun e => if e.2.sid = some sid then (e.1, { e.2 with held := e.2.held &&& ~~~lanes }) else e) }

/-! ## Waits -/

/-- The stall count of a word (R59). -/
def stallOf (iw : Word) : Nat := fieldOf iw 44 4

/-- A wait ends: its status is written where the word names it, and its lanes retire past the word (R251, R252). -/
def State.endWait (s : State) (wid : Nat) (w : Wait) (status : Option Word) (counted reset : Bool) (dl : Word) : State :=
  match (SMap.get? s.subs w.sid).bind (fun sg => SMap.get? s.groups sg.gid) with
  | none => { s with waits := SMap.del s.waits wid }
  | some g =>
    let s0 : State := { s with waits := SMap.del s.waits wid }
    let s1 := if counted then s0.noteLanes 3 w.sid w.lanes ((status.getD 1) &&& 0xFF) else s0
    let s2 := s1.updSub w.sid (fun sg => match status with | some x => sg.writeStatus w.status x | none => sg)
    s2.atSub w.sid (fun s => s.finish w.sid g w.lanes w.lanes (stallOf w.iword) w.len counted reset dl w.iword w.xword)

/-- A wait ends in a trap of its lanes at the word (R254, R299). -/
def State.trapWait (s : State) (wid : Nat) (w : Wait) (cause detail : BitVec 8) (info : Word) (fmask : Mask) : State :=
  let s1 : State := { s with waits := SMap.del s.waits wid }
  (if cause = 0x10 then s1.noteLanes 3 w.sid w.lanes (cause.setWidth 64) else s1).atSub w.sid (fun s => s.enterTrap w.sid w.lanes
    { cause := cause, detail := detail, info := info, fmask := fmask, next := false, tpc := w.pc, len := w.len, iword := w.iword, xword := w.xword })

/-- The lanes of a wait are ready where they stand. -/
def State.readyWait (s : State) (wid : Nat) (w : Wait) : State :=
  let s1 := { s with waits := SMap.del s.waits wid }
  s1.updSub w.sid (fun sg =>
    let now := (s1.stn sg.mast sg.stn).cycles
    sg.mapLanes w.lanes (fun l => { l with st := .ready, readyAt := now, since := now, starve := 0 }))

/-- The waits of lanes that stand by, as a test on what they stand by for says. -/
def State.standing (s : State) (f : List Nat → Bool) : List (Nat × Wait) :=
  s.waits.filter (fun e => match e.2.kind with | .standBy ks => f ks | _ => false)

/-- Lanes that one of several waits of a word has let pass stand by for the others. -/
def State.joinStand (s : State) (wid sid : Nat) (lanes : Mask) : State :=
  (s.standing (fun ks => ks.contains wid)).foldl (fun s e =>
    { (s.updSub sid (fun sg => sg.setSt lanes .waiting)) with waits := SMap.put s.waits e.1 { e.2 with lanes := e.2.lanes ||| lanes } }) s

/-- A wait ends with its word unperformed: its lanes are ready at it again, and so are those that stood by. -/
def State.redoWait (s : State) (wid : Nat) (w : Wait) : State :=
  (s.standing (fun ks => ks.contains wid)).foldl (fun s e => s.readyWait e.1 e.2) (s.readyWait wid w)

/-- Lanes that stood by go on once every wait of their word has ended: those that the word has still to pass retire past it (log entry
17). -/
def State.standDown (s : State) : State :=
  (s.standing (fun ks => ks.all (fun k => (SMap.get? s.waits k).isNone))).foldl (fun s e =>
    match SMap.get? s.subs e.2.sid with
    | none => { s with waits := SMap.del s.waits e.1 }
    | some sg =>
      let off := e.2.lanes &&& sg.laneMask (fun l => decide (l.pc = e.2.pc))
      let s1 := s.readyWait e.1 { e.2 with lanes := e.2.lanes &&& ~~~off }
      if off = 0 then s1 else s1.atSub e.2.sid (fun s => s.retire e.2.sid off (stallOf e.2.iword) e.2.len e.2.iword e.2.xword)) s

end Sys2Proof.Machine
end

