-- ==== Sys2Proof/Machine/Operands.lean ====
section
/-! DEFINITION. Operand positions, their legality and their values (spec 03, R65, R66, R74, R75; spec 01, R21, R22; spec 04,
R84, R85), the scoreboard (R73) and the issue of one word (R67, R72 to R75). -/

namespace Sys2Proof.Machine

open Sys2Proof

/-- The operand classes that a position accepts (R66). -/
structure Acc where
  v : Bool
  s : Bool
  p : Bool
  k : Bool
  q : Bool
  d : Bool
  z : Bool
  deriving DecidableEq, Repr

def Acc.none : Acc := { v := false, s := false, p := false, k := false, q := false, d := false, z := false }
/-- v, s or 0x7C. -/
def Acc.vsz : Acc := { Acc.none with v := true, s := true, z := true }
def Acc.vz : Acc := { Acc.none with v := true, z := true }
def Acc.sz : Acc := { Acc.none with s := true, z := true }
def Acc.vs : Acc := { Acc.none with v := true, s := true }
def Acc.vOnly : Acc := { Acc.none with v := true }
def Acc.sOnly : Acc := { Acc.none with s := true }
def Acc.pz : Acc := { Acc.none with p := true, z := true }
def Acc.kz : Acc := { Acc.none with k := true, z := true }
def Acc.dOnly : Acc := { Acc.none with d := true }
def Acc.dz : Acc := { Acc.none with d := true, z := true }
def Acc.qOnly : Acc := { Acc.none with q := true }

/-- Whether a position accepts an operand. -/
def Acc.takes (a : Acc) : Operand → Bool
  | .v _ => a.v | .s _ => a.s | .p _ => a.p | .k _ => a.k | .q _ => a.q | .d _ => a.d | .zero => a.z | .rsv _ => false

/-- One operand position of a word: what stands there, the classes it accepts, the registers it names, and whether the word
reads or writes them. -/
structure Pos where
  o     : Operand
  acc   : Acc
  run   : Nat      -- vector registers named
  align : Nat      -- the vector register number is a multiple of this
  srun  : Nat      -- scalar registers named
  qopen : Bool     -- a stream register must be OPEN
  rd    : Bool
  wr    : Bool
  deriving DecidableEq, Repr

/-- A source of one 32-bit register. -/
def Pos.src (o : Operand) (a : Acc) : Pos := { o := o, acc := a, run := 1, align := 1, srun := 1, qopen := false, rd := true, wr := false }

/-- A destination of one register. -/
def Pos.dst (o : Operand) (a : Acc) : Pos := { o := o, acc := a, run := 1, align := 1, srun := 1, qopen := false, rd := false, wr := true }

/-- An operand of 64 bits: an even pair (R21). -/
def Pos.wide (p : Pos) (w : Bool) : Pos := if w then { p with run := 2, align := 2 } else p

/-- A run of n registers at a multiple of n. -/
def Pos.runOf (p : Pos) (n al : Nat) : Pos := { p with run := n, align := al }

/-- An operand that is read and written. -/
def Pos.rw (p : Pos) : Pos := { p with rd := true, wr := true }

/-- The registers that an operand position names in a lane. -/
def Pos.regs (p : Pos) (lane : Nat) : List Reg :=
  match p.o with
  | .v n => (List.range p.run).map (fun i => .v lane (n.toNat + i))
  | .s n => (List.range p.srun).map (fun i => .s (n.toNat + i))
  | .p n => if n.toNat = 0 then [] else [.p lane n.toNat]
  | .k n => if n.toNat = 0 then [] else [.k n.toNat]
  | .d n => [.d n.toNat]
  | .q _ | .zero | .rsv _ => []

/-- A failed check: its order in R75, cause and detail (R198). -/
structure Fail where
  order  : Nat
  cause  : BitVec 8
  detail : BitVec 8
  deriving DecidableEq, Repr

/-- What the legality of a word depends on. -/
structure Sig where
  pre    : Option Fail    -- a failed check of orders 3 to 5
  unused : List Operand   -- fields that must hold 0x7C
  resv   : Bool           -- a reserved bit, modifier or format (order 7)
  rnd    : Bool           -- a rounding code that is not accepted (order 8)
  sel    : Bool           -- a selector that is not accepted (order 9)
  priv   : Bool           -- privileged (order 10)
  pos    : List Pos
  illop  : Bool           -- a further operand that is not accepted (order 11)
  odd    : Bool           -- a further register that is not aligned (order 12)
  reads  : List Pos       -- registers read that are judged later, by the word's own data checks (R142)
  rds    : List Reg       -- further registers read
  wrs    : List Reg       -- further registers written
  crew   : Bool           -- needs crew or launch state (R291)
  join   : Bool           -- the word is JOIN
  deriving DecidableEq, Repr

/-- A word with no operands but unused fields. -/
def Sig.plain (unused : List Operand) (pos : List Pos) : Sig :=
  { pre := none, unused := unused, resv := false, rnd := false, sel := false, priv := false, pos := pos, illop := false, odd := false, reads := [], rds := [], wrs := [], crew := false, join := false }

/-- Whether a position names an odd or misaligned register (R21). -/
def Pos.misaligned (p : Pos) : Bool :=
  match p.o with
  | .v n => decide (n.toNat % p.align ≠ 0)
  | .s _ | .p _ | .k _ | .q _ | .d _ | .zero | .rsv _ => false

/-- Whether a position is refused as an operand: its class, a CLOSED stream, a run past the last register (R66, R28, R97). -/
def Pos.refused (p : Pos) (g : Group) : Bool :=
  !p.acc.takes p.o ||
  (match p.o with
   | .v n => decide (n.toNat + p.run > 64) && decide (n.toNat % p.align = 0)
   | .s n => decide (n.toNat + p.srun > 32)
   | .q n => p.qopen && (SMap.get? g.streams n.toNat).isNone
   | .p _ | .k _ | .d _ | .zero | .rsv _ => false)

/-- Whether a position names a register in a window at or above the budget (R22). -/
def Pos.overBudget (p : Pos) (wins : Nat) : Bool :=
  match p.o with
  | .v n => decide ((n.toNat + p.run - 1) / 8 ≥ wins)
  | .s _ | .p _ | .k _ | .q _ | .d _ | .zero | .rsv _ => false

/-- Whether an operand code is reserved (R65). -/
def opReserved : Operand → Bool
  | .rsv _ => true
  | .v _ | .s _ | .p _ | .k _ | .q _ | .d _ | .zero => false

/-- The first failing check of orders 3 to 13 of R75. -/
def Sig.judge (g : Sig) (sg : SubGroup) (gr : Group) : Option Fail :=
  if g.pre.isSome then g.pre
  else if (g.unused.any opReserved) || (g.pos.any (fun p => opReserved p.o)) then some ⟨6, 1, 3⟩
  else if (g.unused.any (fun o => decide (o ≠ .zero))) || g.resv then some ⟨7, 1, 4⟩
  else if g.rnd then some ⟨8, 1, 9⟩
  else if g.sel then some ⟨9, 1, 0x0A⟩
  else if g.priv && !sg.sv then some ⟨10, 3, 0⟩
  else if g.pos.any (fun p => p.refused gr) || g.illop || (g.crew && gr.walker) then some ⟨11, 2, 0⟩
  else if g.pos.any Pos.misaligned || g.odd then some ⟨12, 1, 8⟩
  else if g.pos.any (fun p => p.overBudget gr.wins) then some ⟨13, 4, 0⟩
  else none

/-- One word issuing: its issue set, its active mask and the copy of the state it reads (R19, R67). -/
structure Run where
  sid   : Nat
  gid   : Nat
  sg    : SubGroup
  g     : Group
  set   : Mask
  act   : Mask
  pc    : Word
  len   : Nat
  stall : Nat
  iw    : Word
  xw    : Word
  now   : Nat
  deriving DecidableEq, Repr

/-- The value of a register in a lane as the word reads it (R72). -/
def Run.reg (r : Run) (lane : Nat) (x : Reg) : Word := r.sg.read r.now lane x

/-- The value of an operand in a lane at 32 or 64 bits (R84). -/
def Run.val (r : Run) (wide : Bool) (o : Operand) (lane : Nat) : Nat :=
  match o with
  | .v n =>
    if wide then (r.reg lane (.v lane n.toNat)).toNat + (r.reg lane (.v lane (n.toNat + 1))).toNat * 2 ^ 32
    else (r.reg lane (.v lane n.toNat)).toNat
  | .s n => if wide then (r.reg lane (.s n.toNat)).toNat else (r.reg lane (.s n.toNat)).toNat % 2 ^ 32
  | .p n => (r.reg lane (.p lane n.toNat)).toNat
  | .k n => (r.reg lane (.k n.toNat)).toNat
  | .d n => (r.reg lane (.d n.toNat)).toNat
  | .q _ | .zero | .rsv _ => 0

/-- The lowest active lane. -/
def Run.low (r : Run) : Nat := lowest r.act

/-- A scalar operand's whole value. -/
def Run.sval (r : Run) (o : Operand) : Word := BitVec.ofNat 64 (r.val true o r.low)

/-- The writes of a result to a destination in a lane (R85). -/
def dstWrites (o : Operand) (wide : Bool) (lane : Nat) (x : Nat) : List (Reg × Word) :=
  match o with
  | .v n =>
    if wide then [(.v lane n.toNat, BitVec.ofNat 64 (x % 2 ^ 32)), (.v lane (n.toNat + 1), BitVec.ofNat 64 (x / 2 ^ 32))]
    else [(.v lane n.toNat, BitVec.ofNat 64 x)]
  | .s n => [(.s n.toNat, BitVec.ofNat 64 x)]
  | .p n => [(.p lane n.toNat, BitVec.ofNat 64 x)]
  | .k n => [(.k n.toNat, BitVec.ofNat 64 x)]
  | .d n => [(.d n.toNat, BitVec.ofNat 64 x)]
  | .q _ | .zero | .rsv _ => []

/-- A trap of some lanes of the issue set; the other lanes continue past the word (R196). -/
def Run.trapOf (r : Run) (s : State) (lanes : Mask) (cause detail : BitVec 8) (info : Word) (fmask : Mask) (next : Bool) : State :=
  let s1 := if r.set &&& ~~~lanes = 0 then s else s.retire r.sid (r.set &&& ~~~lanes) r.stall r.len r.iw r.xw
  s1.enterTrap r.sid lanes { cause := cause, detail := detail, info := info, fmask := fmask, next := next, tpc := r.pc, len := r.len, iword := r.iw, xword := r.xw }

/-- A trap of the whole active mask. -/
def Run.trap (r : Run) (s : State) (cause detail : BitVec 8) (info : Word) (fmask : Mask) : State :=
  r.trapOf s r.act cause detail info fmask false

/-- The whole issue set completes the word (R58). -/
def Run.done (r : Run) (s : State) : State := s.retire r.sid r.set r.stall r.len r.iw r.xw

/-- Fixed-latency results are written and the word completes (R71, R72, R56). -/
def Run.fixed (r : Run) (s : State) (lat : Nat) (ws : List (Reg × Word)) (fl : BitVec 8) : State :=
  r.done (s.updSub r.sid (fun sg =>
    (ws.foldl (fun sg w => sg.writeFixed r.now lat (lanesOf r.set) w.1 w.2) sg).raise fl))

/-- The writes that reach a register: those of p0 and k0 are discarded (R26, R27). -/
def sentWrites (ws : List (Reg × Word)) : List (Reg × Word) :=
  ws.filter (fun w => match w.1 with | .p _ 0 | .k 0 => false | _ => true)

/-- Variable-latency results go out and the word completes (R71, R73, R56). -/
def Run.later (r : Run) (s : State) (ws : List (Reg × Word)) (fl : BitVec 8) : State :=
  let s1 := s.updSub r.sid (fun sg => sg.raise fl)
  let ws' := sentWrites ws
  r.done (if ws'.isEmpty then s1 else (s1.outstand r.gid r.low r.set (ws'.map (fun w => (w.1, some w.2)))).2)

/-- A wait of lanes at the word. -/
def Run.waitRec (r : Run) (lanes : Mask) (k : WaitKind) (dk : Option Word) (bound : Option Nat) (st : Operand) : Wait :=
  { sid := r.sid, lanes := lanes, kind := k, dk := dk, bound := bound, status := st, pc := r.pc, len := r.len, iword := r.iw, xword := r.xw }

/-- Lanes begin a wait at the word, which is not yet complete for them (R251, R253). The rest of the issue set stands by, so that the
time of a wait never separates its lanes (R239, R290, R299; log entry 17); but lanes that leave it for a waiting pool leave the rest to
continue (R178, R183). -/
def Run.waitFor (r : Run) (s : State) (lanes : Mask) (k : WaitKind) (dk : Option Word) (bound : Option Nat) (st : Operand) : State :=
  let s1 := s.beginWait (r.waitRec lanes k dk bound st)
  let rest := r.set &&& ~~~lanes
  if rest = 0 then s1
  else match k with
    | .bcall | .bwait _ => s1.retire r.sid rest r.stall r.len r.iw r.xw
    | .scoreboard _ | .fetch _ | .access _ _ | .ldw _ _ _ _ _ _ _ | .fence _ _ _ _ | .barrier _ _ _ _ _ | .queuePush _ _ | .queuePop _ _
    | .slice _ | .cpw _ _ | .capr _ _ | .capw _ _ | .qld | .tie | .page _ | .transit _ | .sent _ | .standBy _ | .trapEntry _ _ _ =>
      s1.standBy (r.waitRec rest k none none .zero) [s.nextId]

/-- The outstanding results that hold a word: it waits for one that its own path reads, or that it would write (R73, R72). -/
def State.heldBy (s : State) (r : Run) (reads writes : List Reg) : List Nat :=
  (r.g.outst.filter (fun o => s.outstFor r.gid r.sid r.sg.all o && o.writes.any (fun w =>
    (decide (o.path &&& r.set ≠ 0) && reads.contains w.1) || writes.contains w.1))).map (fun o => o.id)

/-- The registers that positions read or write in some lanes. -/
def posRegs (ps : List Pos) (lanes : List Nat) : List Reg := ps.flatMap (fun p => lanes.flatMap p.regs)

/-- What a word does once it may issue. -/
abbrev Body := Run → State → State

/-- ISSUE OF ONE WORD. In order: lanes of a returned image are refused (R226); lanes released at a meeting address whose word
is not JOIN are refused (R107); the guard is read (R67), waiting for it if need be (R73); an empty active mask retires as a
no-op (R74); the checks of R75; the scoreboard (R73); the stall-count check (R72); then the word's own effect. -/
def issueWord (s : State) (gneg : Bool) (guard : BitVec 3) (stall len : Nat) (sig : Sig) (info : Run → Nat → Word) (body : Body) :
    Host.Outcome State Fault Refusal :=
  match s.issuing with
  | none => .fault .noIssueSet
  | some is =>
    match SMap.get? s.subs is.sid with
    | none => .fault .noIssueSet
    | some sg =>
      match SMap.get? s.groups sg.gid with
      | none => .fault .noIssueSet
      | some g =>
        let now := (s.stn sg.mast sg.stn).cycles
        let gread := fun l => sg.read now l (.p l guard.toNat) != 0
        let act := if guard = 0 then (if gneg then 0 else is.lanes)
          else maskOf ((lanesOf is.lanes).filter (fun l => gread l != gneg))
        let r : Run := { sid := is.sid, gid := sg.gid, sg := sg, g := g, set := is.lanes, act := act, pc := is.pc, len := len,
                         stall := stall, iw := is.iword, xw := is.xword, now := now }
        let fin := fun (t : State) => Host.Outcome.next (ρ := Refusal) (φ := Fault) { t with issuing := none }
        let back := is.lanes &&& sg.laneMask (fun l => l.refuse.isSome)
        let loose := is.lanes &&& sg.laneMask (fun l => l.rel.isSome)
        let gregs := if guard = 0 then [] else (lanesOf is.lanes).map (fun l => Reg.p l guard.toNat)
        let board := fun (ids : List Nat) => fin (r.waitFor s is.lanes (.scoreboard ids) none (some sg.bound) .zero)
        if back ≠ 0 then
          let d := ((SMap.get? sg.lanes (lowest back)).bind (fun l => l.refuse)).getD 0
          fin (r.trapOf s back 8 d (info r (lowest back)) back false)
        else if loose ≠ 0 && !sig.join then fin (r.trapOf s loose 1 1 0 loose false)
        else if s.heldBy r gregs [] ≠ [] then board (s.heldBy r gregs [])
        else if act = 0 then fin (r.done s)
        else match sig.judge sg g with
          | some f => fin (r.trap s f.cause f.detail 0 act)
          | none =>
            let lanes := lanesOf act
            let srcs := sig.pos.filter (fun p => p.rd) ++ sig.reads
            let rds := posRegs srcs lanes ++ sig.rds
            let wrs := posRegs (sig.pos.filter (fun p => p.wr)) lanes ++ sig.wrs
            if s.heldBy r rds wrs ≠ [] then board (s.heldBy r rds wrs)
            else
              let short := maskOf (lanes.filter (fun l =>
                (if guard = 0 then [] else [Reg.p l guard.toNat]).any (sg.undersized l) ||
                srcs.any (fun p => (p.regs l).any (sg.undersized l)) || sig.rds.any (sg.undersized l)))
              if sg.chk && decide (short ≠ 0) then fin (r.trap s 5 0 0 short)
              else fin (body r s)

/-- Issue of an F word. -/
def issueF (s : State) (w : FWord) (x : Option XWord) (sig : Sig) (body : Body) : Host.Outcome State Fault Refusal :=
  issueWord s w.gneg w.guard w.stall.toNat (if x.isSome then 16 else 8) sig (fun r _ => r.pc) body

/-- Issue of an I word. -/
def issueI (s : State) (w : IWord) (sig : Sig) (body : Body) : Host.Outcome State Fault Refusal :=
  issueWord s w.gneg w.guard w.stall.toNat (if w.x.isSome then 16 else 8) sig (fun r _ => r.pc) body

/-- A head that requires an X word, or an X word standing first: the check is made on the issue set, whatever the guard
(R61, R74). -/
def issueBadX (s : State) (detail : BitVec 8) : Host.Outcome State Fault Refusal :=
  match s.issuing with
  | none => .fault .noIssueSet
  | some is =>
    .next { (s.enterTrap is.sid is.lanes { cause := 1, detail := detail, info := 0, fmask := is.lanes, next := false, tpc := is.pc, len := 8, iword := is.iword, xword := 0 }) with issuing := none }

/-- The literal of an I word: the X word's low bits above imm30 (R60). -/
def iLiteral (w : IWord) : Nat :=
  match w.x with
  | some x => fieldOf x 0 34 * 2 ^ 30 + w.imm.toNat
  | none => w.imm.toNat

/-- The modifier bits of an I word: those of its X word, or none (R61). -/
def iMods (w : IWord) : Option Nat := w.x.map (fun x => fieldOf x 34 13)

/-- A nonzero reserved bit of an I word's X word (R61). -/
def iResvX (w : IWord) : Bool := match w.x with | some x => decide (fieldOf x 47 15 ≠ 0) | none => false

/-- An integer immediate at a width (R60). -/
def iIntImm (w : IWord) (signed : Bool) (width : Nat) : Nat :=
  match w.x with
  | some _ => iLiteral w % 2 ^ width
  | none => if signed && w.imm.getLsbD 29 then (2 ^ 64 - 2 ^ 30 + w.imm.toNat) % 2 ^ width else w.imm.toNat

/-- Modifier bits [15:0] of an F word (R68). -/
def fMods (w : FWord) : Nat := w.hi.toNat * 256 + w.lo.toNat

end Sys2Proof.Machine
end

