-- ==== Sys2Proof/Machine/Flags.lean ====
section
/-! DEFINITION. The arithmetic flags of a group (spec 01, R34; spec 02, R56, R57). -/

namespace Sys2Proof.Machine

open Sys2Proof

/-- All flags raised by the lanes of a word (R56): any active lane sets a flag for the whole group. -/
def flagsOf (fs : List Flags) : Flags := fs.foldl (fun a f => a ||| f) 0

/-- A write of %aflags: the bits written as 1 are cleared (R34, R201). -/
def SubGroup.clearFlags (sg : SubGroup) (x : Word) : SubGroup := { sg with aflags := sg.aflags &&& ~~~(x.setWidth 8) }

/-- The flags that TFENCE traps on (R57, R199). -/
def SubGroup.trapFlags (sg : SubGroup) : BitVec 8 := sg.aflags &&& sg.atrap

/-- A settling point makes every earlier result of its issue set visible (R57, R72). -/
def State.settlePoint (s : State) (r : Run) : State := s.updSub r.sid (fun sg => sg.settle r.set)

end Sys2Proof.Machine
end

