-- ==== Sys2Proof/Machine/Alu.lean ====
section
/-! DEFINITION. The common shape of the arithmetic words: modifiers, sources, one computation per lane, results at their
latency (spec 03, R68, R71; spec 04, R84 to R86). -/

namespace Sys2Proof.Machine

open Sys2Proof

/-- The head fields of a word that issues. -/
structure Hd where
  gneg  : Bool
  guard : BitVec 3
  stall : Nat
  len   : Nat
  deriving DecidableEq, Repr

def hdF (w : FWord) : Hd := { gneg := w.gneg, guard := w.guard, stall := w.stall.toNat, len := 8 }
def hdI (w : IWord) : Hd := { gneg := w.gneg, guard := w.guard, stall := w.stall.toNat, len := if w.x.isSome then 16 else 8 }

/-- The modifiers of R68. -/
structure Mods where
  rsv : Nat
  fmt : Nat
  rnd : Nat
  sat : Bool
  op  : Nat
  deriving DecidableEq, Repr

/-- Modifier bits taken apart by R68. -/
def Mods.ofNat (m : Nat) : Mods :=
  { rsv := m / 2 ^ 13 % 8, fmt := m / 2 ^ 8 % 32, rnd := m / 2 ^ 5 % 8, sat := decide (m / 2 ^ 4 % 2 = 1), op := m % 16 }

/-- The modifiers of an I word: the family's format and zeros without an X word (R68), else the X word's bits (R61). -/
def Mods.ofI (w : IWord) (dflt : Nat) : Mods :=
  match iMods w with
  | some m => Mods.ofNat m
  | none => { rsv := 0, fmt := dflt, rnd := 0, sat := false, op := 0 }

/-- A source: an operand or an immediate. -/
inductive Arg where
  | op (o : Operand) (wide : Bool) (acc : Acc)
  | lit (x : Nat)
  deriving DecidableEq, Repr

/-- The value of a source in a lane. -/
def Arg.val (a : Arg) (r : Run) (lane : Nat) : Nat :=
  match a with
  | .op o w _ => r.val w o lane
  | .lit x => x

/-- The operand position of a source. -/
def Arg.pos : Arg → List Pos
  | .op o w acc => [(Pos.src o acc).wide w]
  | .lit _ => []

/-- Whether an operand is a scalar register. -/
def isS : Operand → Bool
  | .s _ => true
  | .v _ | .p _ | .k _ | .q _ | .d _ | .zero | .rsv _ => false

/-- Whether a source is a vector or predicate register. -/
def Arg.perLane : Arg → Bool
  | .op (.v _) _ _ | .op (.p _) _ _ => true
  | _ => false

/-- The lanes in which an operation is performed: every active lane, or the lowest one for a scalar destination (R85). -/
def Run.workLanes (r : Run) (dest : Operand) : List Nat := if isS dest then [r.low] else lanesOf r.act

/-- A word that computes one result per lane (R84 to R86). lat is its latency, none for a variable-latency result; pipe says
that the scalar pipe may take it (R86); ext widens a result for a scalar destination (R85). -/
structure Shape where
  dest  : Operand
  dwide : Bool
  dacc  : Acc
  args  : List Arg
  sig   : Sig
  lat   : Option Nat
  pipe  : Bool
  ext   : Nat → Nat

/-- The latency of a shape: 2 on the scalar pipe (R86). -/
def Shape.latency (h : Shape) : Option Nat :=
  if h.pipe && isS h.dest && !(h.args.any Arg.perLane) then some 2 else h.lat

/-- The effect of a computing word. -/
def Shape.body (h : Shape) (f : List Nat → Nat × Flags) : Body := fun r s =>
  let outs := (r.workLanes h.dest).map (fun l => (l, f (h.args.map (fun a => a.val r l))))
  let ws := outs.flatMap (fun e => dstWrites h.dest h.dwide e.1 (if isS h.dest then h.ext e.2.1 else e.2.1))
  let fl := flagsOf (outs.map (fun e => e.2.2))
  match h.latency with
  | some n => r.fixed s n ws fl
  | none => r.later s ws fl

/-- The legality of a computing word: its own checks with its operand positions. -/
def Shape.fullSig (h : Shape) : Sig :=
  { h.sig with pos := h.sig.pos ++ h.args.flatMap Arg.pos ++ [(Pos.dst h.dest h.dacc).wide h.dwide] }

/-- Issue of a computing word. -/
def aluWord (s : State) (hd : Hd) (h : Shape) (f : List Nat → Nat × Flags) : Host.Outcome State Fault Refusal :=
  issueWord s hd.gneg hd.guard hd.stall hd.len h.fullSig (fun r _ => r.pc) (h.body f)

end Sys2Proof.Machine
end

