-- ==== Sys2Proof/Machine/Integer.lean ====
section
/-! DEFINITION. The integer and address family (spec 04, R86 to R90). -/

namespace Sys2Proof.Machine

open Sys2Proof

/-- An integer operand format (R68, R87): width, and whether values are signed; .B formats read as signed. -/
structure IFmt where
  w      : Nat
  signed : Bool
  b      : Bool
  deriving DecidableEq, Repr

/-- The format of a code from .I32 to .B64 (R68). -/
def IFmt.ofCode (c : Nat) : IFmt :=
  { w := if c = 6 || c = 7 || c = 9 then 64 else 32, signed := decide (c % 2 = 0) || decide (c = 9), b := decide (c = 8) || decide (c = 9) }

/-- The value of a pattern: two's complement or unsigned (R87). -/
def tVal (t : IFmt) (x : Nat) : Int := if t.signed && decide (x ≥ 2 ^ (t.w - 1)) then (x : Int) - 2 ^ t.w else x

/-- A value modulo the width, as a pattern (R87). -/
def wrapTo (w : Nat) (z : Int) : Nat := (z % 2 ^ w).toNat

/-- A value limited to the range of the format, as a pattern (R87). -/
def clampTo (t : IFmt) (z : Int) : Nat :=
  let lo : Int := if t.signed then -(2 ^ (t.w - 1)) else 0
  let hi : Int := if t.signed then 2 ^ (t.w - 1) - 1 else 2 ^ t.w - 1
  wrapTo t.w (if z < lo then lo else if z > hi then hi else z)

/-- Wrap, or clamp under .SAT (R87). -/
def fitTo (t : IFmt) (sat : Bool) (z : Int) : Nat := if sat then clampTo t z else wrapTo t.w z

/-- An integer operation: format, .SAT, operation bits, sources. -/
abbrev IOp := IFmt → Bool → Nat → List Nat → Nat

def opAdd : IOp := fun t sat _ xs => match xs with | [a, b] => fitTo t sat (tVal t a + tVal t b) | _ => 0
def opSub : IOp := fun t sat _ xs => match xs with | [a, b] => fitTo t sat (tVal t a - tVal t b) | _ => 0
def opMul : IOp := fun t sat _ xs => match xs with | [a, b] => fitTo t sat (tVal t a * tVal t b) | _ => 0
def opMad : IOp := fun t sat _ xs => match xs with | [a, b, c] => fitTo t sat (tVal t a * tVal t b + tVal t c) | _ => 0
def opMulh : IOp := fun t _ _ xs => match xs with | [a, b] => wrapTo t.w ((tVal t a * tVal t b) / 2 ^ t.w) | _ => 0

/-- Whether a signed division overflows (R89). -/
def divOverflow (t : IFmt) (a b : Nat) : Bool := t.signed && decide (a = 2 ^ (t.w - 1)) && decide (b = 2 ^ t.w - 1)

/-- The quotient, truncated toward zero; all ones for a zero divisor, a on overflow (R89). -/
def opDiv : IOp := fun t _ _ xs =>
  match xs with
  | [a, b] => if b = 0 then 2 ^ t.w - 1 else if divOverflow t a b then a else wrapTo t.w ((tVal t a).tdiv (tVal t b))
  | _ => 0

/-- The remainder with the sign of a; a for a zero divisor, 0 on overflow (R89). -/
def opRem : IOp := fun t _ _ xs =>
  match xs with
  | [a, b] => if b = 0 then a else if divOverflow t a b then 0 else wrapTo t.w ((tVal t a).tmod (tVal t b))
  | _ => 0

def opMin : IOp := fun t _ _ xs => match xs with | [a, b] => if tVal t b < tVal t a then b else a | _ => 0
def opMax : IOp := fun t _ _ xs => match xs with | [a, b] => if tVal t a < tVal t b then b else a | _ => 0
def opAbs : IOp := fun t sat _ xs => match xs with | [a] => fitTo t sat ((tVal t a).natAbs : Nat) | _ => 0
def opNeg : IOp := fun t sat _ xs => match xs with | [a] => fitTo t sat (-(tVal t a)) | _ => 0
def opAnd : IOp := fun _ _ _ xs => match xs with | [a, b] => a &&& b | _ => 0
def opOr : IOp := fun _ _ _ xs => match xs with | [a, b] => a ||| b | _ => 0
def opXor : IOp := fun _ _ _ xs => match xs with | [a, b] => a ^^^ b | _ => 0
def opNot : IOp := fun t _ _ xs => match xs with | [a] => 2 ^ t.w - 1 - a | _ => 0
def opAndn : IOp := fun t _ _ xs => match xs with | [a, b] => a &&& (2 ^ t.w - 1 - b) | _ => 0

/-- The number whose bit i is f i, for i below n. -/
def ofBits (n : Nat) (f : Nat → Bool) : Nat := (List.range n).foldl (fun a i => if f i then a + 2 ^ i else a) 0

/-- Bit i of a lookup table indexed by three bits, the first the least significant (R87). -/
def lutBit (lut : Nat) (a b c : Bool) : Bool :=
  lut.testBit ((if a then 1 else 0) + (if b then 2 else 0) + (if c then 4 else 0))

/-- BTAB, with the table in the operation argument (R87). -/
def opBtab : IOp := fun t _ lut xs =>
  match xs with
  | [a, b, c] => ofBits t.w (fun i => lutBit lut (a.testBit i) (b.testBit i) (c.testBit i))
  | _ => 0

def opShl : IOp := fun t _ _ xs => match xs with | [a, n] => if n ≥ t.w then 0 else a * 2 ^ n % 2 ^ t.w | _ => 0
def opShr : IOp := fun t _ _ xs => match xs with | [a, n] => if n ≥ t.w then 0 else a / 2 ^ n | _ => 0
def opSar : IOp := fun t _ _ xs =>
  match xs with
  | [a, n] => wrapTo t.w ((if a ≥ 2 ^ (t.w - 1) then (a : Int) - 2 ^ t.w else a) / 2 ^ (min n (t.w - 1)))
  | _ => 0
def opCshf : IOp := fun t _ op xs =>
  match xs with
  | [a, b, c] =>
    let x := c * 2 ^ t.w + a
    let n := b % t.w
    if op % 2 = 0 then x / 2 ^ n % 2 ^ t.w else x * 2 ^ n / 2 ^ t.w % 2 ^ t.w
  | _ => 0
def opPopc : IOp := fun t _ _ xs => match xs with | [a] => ((List.range t.w).filter (fun i => a.testBit i)).length | _ => 0
def opClz : IOp := fun t _ _ xs => match xs with | [a] => if a = 0 then t.w else t.w - 1 - Nat.log2 a | _ => 0
def opCtz : IOp := fun t _ _ xs => match xs with | [a] => ((List.range t.w).find? (fun i => a.testBit i)).getD t.w | _ => 0
def opBrev : IOp := fun t _ _ xs => match xs with | [a] => ofBits t.w (fun i => a.testBit (t.w - 1 - i)) | _ => 0

/-- BFE (R88). -/
def opBfe : IOp := fun t _ _ xs =>
  match xs with
  | [a, b] =>
    let pos := b % 256
    let len := b / 256 % 256
    let bit := fun i => if pos + i < t.w then a.testBit (pos + i) else t.signed && a.testBit (t.w - 1)
    ofBits t.w (fun i => if i < len then bit i else t.signed && decide (len > 0) && bit (len - 1))
  | _ => 0

/-- BFI (R88). -/
def opBfi : IOp := fun t _ _ xs =>
  match xs with
  | [a, b, c] =>
    let pos := b % 256
    let len := b / 256 % 256
    ofBits t.w (fun i => if pos ≤ i && decide (i < pos + len) then a.testBit (i - pos) else c.testBit i)
  | _ => 0

/-- PRMT (R88). -/
def opPrmt : IOp := fun _ _ _ xs =>
  match xs with
  | [a, b, c] =>
    let x := c * 2 ^ 32 + a
    (List.range 4).foldl (fun r j =>
      let sel := b / 2 ^ (4 * j) % 16
      let y := x / 2 ^ (8 * (sel % 8)) % 256
      r + (if sel ≥ 8 then (if y ≥ 128 then 255 else 0) else y) * 2 ^ (8 * j)) 0
  | _ => 0

/-- The comparison of R90. -/
def opCmp : IOp := fun t _ op xs =>
  match xs with
  | [a, b] =>
    let x := tVal t a; let y := tVal t b
    let r := match op with
      | 0 => decide (x = y) | 1 => decide (x ≠ y) | 2 => decide (x < y) | 3 => decide (x ≤ y) | 4 => decide (x > y) | _ => decide (x ≥ y)
    if r then 1 else 0
  | _ => 0

def opIsel : IOp := fun _ _ _ xs => match xs with | [a, b, c] => if c = 1 then a else b | _ => 0
def opSel : IOp := fun _ _ _ xs => match xs with | [a, b, c] => if c ≠ 0 then a else b | _ => 0
def opMov : IOp := fun _ _ _ xs => match xs with | [a] => a | _ => 0

/-- The formats of R87: IN, and all. -/
def fmtsIN : List Nat := [4, 5, 6, 7]
def fmtsAll : List Nat := [4, 5, 6, 7, 8, 9]
def fmtsB : List Nat := [8, 9]
def fmtsI : List Nat := [4, 6]

/-- A result for a scalar register: sign-extended under .I32, zero-extended otherwise (R85). -/
def scalarExt (fmt x : Nat) : Nat := if fmt = 4 && decide (x ≥ 2 ^ 31) then x + (2 ^ 64 - 2 ^ 32) else x

/-- What a word of the family accepts: formats, .SAT, the largest operation code, its latency on the vector pipe and whether
the scalar pipe may take it (R86, R87). -/
structure ISpec where
  fmts  : List Nat
  sat   : Bool
  maxOp : Nat
  lat   : Option Nat
  pipe  : Bool
  deriving DecidableEq, Repr

/-- The legality of the modifiers (R75, orders 7 and 8). -/
def ISpec.sig (p : ISpec) (m : Mods) (unused : List Operand) (resv : Bool) : Sig :=
  { Sig.plain unused [] with
    resv := resv || decide (m.rsv ≠ 0) || !(p.fmts.contains m.fmt) || (m.sat && (!p.sat || decide (m.fmt = 8) || decide (m.fmt = 9))) || decide (m.op > p.maxOp)
    rnd := decide (m.rnd ≠ 0) }

/-- The shape of a word of the family. -/
def ISpec.shape (p : ISpec) (m : Mods) (dest : Operand) (args : List Arg) (unused : List Operand) (resv : Bool) : Shape :=
  { dest := dest, dwide := decide ((IFmt.ofCode m.fmt).w = 64), dacc := Acc.vs, args := args, sig := p.sig m unused resv,
    lat := p.lat, pipe := p.pipe, ext := scalarExt m.fmt }

/-- A source operand of a format. -/
def srcOf (m : Mods) (o : Operand) : Arg := .op o (decide ((IFmt.ofCode m.fmt).w = 64)) Acc.vsz

/-- The shape of an F word of the family with the first n sources (R87). -/
def ISpec.shapeF (p : ISpec) (w : FWord) (n : Nat) : Shape :=
  let m := Mods.ofNat (fMods w)
  p.shape m w.dest (([w.a, w.b, w.c].take n).map (srcOf m)) ([w.a, w.b, w.c].drop n) false

/-- An F word of the family with the first n sources (R87). -/
def intF (s : State) (w : FWord) (p : ISpec) (n : Nat) (f : IOp) : Host.Outcome State Fault Refusal :=
  let m := Mods.ofNat (fMods w)
  aluWord s (hdF w) (p.shapeF w n)
    (fun xs => (f (IFmt.ofCode m.fmt) m.sat m.op xs, 0))

/-- The immediate of an integer I word at its format (R60). -/
def immOf (w : IWord) (m : Mods) : Arg := .lit (iIntImm w (IFmt.ofCode m.fmt).signed (IFmt.ofCode m.fmt).w)

/-- The shape of an I word of the family: source b is the immediate (R60, R77). -/
def ISpec.shapeI (p : ISpec) (w : IWord) (dflt : Nat) : Shape :=
  let m := Mods.ofI w dflt
  p.shape m w.dest [srcOf m w.a, immOf w m] [] (iResvX w)

/-- An I word of the family: source b is the immediate (R60, R77). -/
def intI (s : State) (w : IWord) (p : ISpec) (dflt : Nat) (f : IOp) : Host.Outcome State Fault Refusal :=
  let m := Mods.ofI w dflt
  aluWord s (hdI w) (p.shapeI w dflt) (fun xs => (f (IFmt.ofCode m.fmt) m.sat m.op xs, 0))

def specAll : ISpec := { fmts := fmtsAll, sat := false, maxOp := 0, lat := some 4, pipe := true }
def specSat : ISpec := { specAll with sat := true }
def specMul : ISpec := { specSat with lat := some 6 }
def specMulh : ISpec := { specAll with fmts := fmtsIN, lat := some 6 }
def specDiv : ISpec := { specAll with fmts := fmtsIN, lat := none, pipe := false }
def specIN : ISpec := { specAll with fmts := fmtsIN }
def specAbs : ISpec := { specAll with fmts := fmtsI, sat := true }
def specB : ISpec := { specAll with fmts := fmtsB }
def specPrmt : ISpec := { specAll with fmts := [8] }
def specCmp : ISpec := { specAll with fmts := fmtsIN, maxOp := 5, pipe := false }

/-- IADD (R87). -/
def execIadd (w : FWord) (s : State) := intF s w specSat 2 opAdd
/-- IADD with an immediate (R60, R87). -/
def execIaddI (w : IWord) (s : State) := intI s w specSat 4 opAdd
/-- ISUB (R87). -/
def execIsub (w : FWord) (s : State) := intF s w specSat 2 opSub
/-- ISUB with an immediate (R60, R87). -/
def execIsubI (w : IWord) (s : State) := intI s w specSat 4 opSub
/-- IMUL (R87). -/
def execImul (w : FWord) (s : State) := intF s w specMul 2 opMul
/-- IMUL with an immediate (R60, R87). -/
def execImulI (w : IWord) (s : State) := intI s w specMul 4 opMul
/-- IMAD (R87). -/
def execImad (w : FWord) (s : State) := intF s w specMul 3 opMad
/-- IMULH (R87). -/
def execImulh (w : FWord) (s : State) := intF s w specMulh 2 opMulh
/-- IMULH with an immediate (R60, R87). -/
def execImulhI (w : IWord) (s : State) := intI s w specMulh 4 opMulh
/-- IDIV (R89). -/
def execIdiv (w : FWord) (s : State) := intF s w specDiv 2 opDiv
/-- IDIV with an immediate (R60, R89). -/
def execIdivI (w : IWord) (s : State) := intI s w specDiv 4 opDiv
/-- IREM (R89). -/
def execIrem (w : FWord) (s : State) := intF s w specDiv 2 opRem
/-- IREM with an immediate (R60, R89). -/
def execIremI (w : IWord) (s : State) := intI s w specDiv 4 opRem
/-- IMIN (R87). -/
def execImin (w : FWord) (s : State) := intF s w specIN 2 opMin
/-- IMIN with an immediate (R60, R87). -/
def execIminI (w : IWord) (s : State) := intI s w specIN 4 opMin
/-- IMAX (R87). -/
def execImax (w : FWord) (s : State) := intF s w specIN 2 opMax
/-- IMAX with an immediate (R60, R87). -/
def execImaxI (w : IWord) (s : State) := intI s w specIN 4 opMax
/-- IABS (R87). -/
def execIabs (w : FWord) (s : State) := intF s w specAbs 1 opAbs
/-- INEG (R87). -/
def execIneg (w : FWord) (s : State) := intF s w specAbs 1 opNeg
/-- AND (R87). -/
def execAnd (w : FWord) (s : State) := intF s w specAll 2 opAnd
/-- AND with an immediate (R60, R87). -/
def execAndI (w : IWord) (s : State) := intI s w specAll 4 opAnd
/-- OR (R87). -/
def execOr (w : FWord) (s : State) := intF s w specAll 2 opOr
/-- OR with an immediate (R60, R87). -/
def execOrI (w : IWord) (s : State) := intI s w specAll 4 opOr
/-- XOR (R87). -/
def execXor (w : FWord) (s : State) := intF s w specAll 2 opXor
/-- XOR with an immediate (R60, R87). -/
def execXorI (w : IWord) (s : State) := intI s w specAll 4 opXor
/-- NOT (R87). -/
def execNot (w : FWord) (s : State) := intF s w specAll 1 opNot
/-- ANDN (R87). -/
def execAndn (w : FWord) (s : State) := intF s w specAll 2 opAndn
/-- ANDN with an immediate (R60, R87). -/
def execAndnI (w : IWord) (s : State) := intI s w specAll 4 opAndn

/-- The shape of BTAB: modifier bits [7:0] hold its table (R87). -/
def btabShape (w : FWord) : Shape :=
  let m := { Mods.ofNat (w.hi.toNat * 256) with op := 0 }
  specB.shape m w.dest ([w.a, w.b, w.c].map (srcOf m)) [] false

/-- BTAB: its table stands in modifier bits [7:0] (R87). -/
def execBtab (w : FWord) (s : State) : Host.Outcome State Fault Refusal :=
  let m := { Mods.ofNat (w.hi.toNat * 256) with op := 0 }
  aluWord s (hdF w) (btabShape w)
    (fun xs => (opBtab (IFmt.ofCode m.fmt) false w.lo.toNat xs, 0))

/-- SHL (R87). -/
def execShl (w : FWord) (s : State) := intF s w specAll 2 opShl
/-- SHL with an immediate (R60, R87). -/
def execShlI (w : IWord) (s : State) := intI s w specAll 4 opShl
/-- SHR (R87). -/
def execShr (w : FWord) (s : State) := intF s w specAll 2 opShr
/-- SHR with an immediate (R60, R87). -/
def execShrI (w : IWord) (s : State) := intI s w specAll 4 opShr
/-- SAR (R87). -/
def execSar (w : FWord) (s : State) := intF s w specAll 2 opSar
/-- SAR with an immediate (R60, R87). -/
def execSarI (w : IWord) (s : State) := intI s w specAll 4 opSar
/-- CSHF (R87). -/
def execCshf (w : FWord) (s : State) := intF s w { specB with maxOp := 1 } 3 opCshf
/-- POPC (R87). -/
def execPopc (w : FWord) (s : State) := intF s w specB 1 opPopc
/-- CLZ (R87). -/
def execClz (w : FWord) (s : State) := intF s w specB 1 opClz
/-- CTZ (R87). -/
def execCtz (w : FWord) (s : State) := intF s w specB 1 opCtz
/-- BREV (R87). -/
def execBrev (w : FWord) (s : State) := intF s w specB 1 opBrev
/-- BFE (R88). -/
def execBfe (w : FWord) (s : State) := intF s w specAll 2 opBfe
/-- BFI (R88). -/
def execBfi (w : FWord) (s : State) := intF s w specAll 3 opBfi
/-- PRMT (R88). -/
def execPrmt (w : FWord) (s : State) := intF s w specPrmt 3 opPrmt
/-- PRMT with its selector in the immediate; source c reads as 0 (R88). -/
def execPrmtI (w : IWord) (s : State) := intI s w specPrmt 8 (fun t sat op xs => opPrmt t sat op (xs ++ [0]))

/-- The shape of LEA (R87). -/
def leaShape (w : FWord) : Shape :=
  let m := Mods.ofNat (fMods w)
  let p : ISpec := { specAll with fmts := [4, 5], maxOp := 7 }
  { dest := w.dest, dwide := true, dacc := Acc.vs, args := [.op w.a true Acc.vsz, .op w.b false Acc.vsz], sig := p.sig m [w.c] false,
    lat := p.lat, pipe := p.pipe, ext := id }

/-- LEA: a 64-bit sum of a and a scaled 32-bit b (R87). -/
def execLea (w : FWord) (s : State) : Host.Outcome State Fault Refusal :=
  let m := Mods.ofNat (fMods w)
  aluWord s (hdF w) (leaShape w)
    (fun xs => match xs with
      | [a, b] => (wrapTo 64 ((a : Int) + tVal (IFmt.ofCode m.fmt) b * 2 ^ m.op), 0)
      | _ => (0, 0))

/-- The shape of ICMP: a predicate destination (R90). -/
def icmpShape (w : FWord) : Shape :=
  { specCmp.shapeF w 2 with dwide := false, dacc := { Acc.none with p := true } }

/-- The shape of ICMP with an immediate (R60, R90). -/
def icmpIShape (w : IWord) : Shape :=
  { specCmp.shapeI w 4 with dwide := false, dacc := { Acc.none with p := true } }

/-- ICMP (R90). -/
def execIcmp (w : FWord) (s : State) : Host.Outcome State Fault Refusal :=
  let m := Mods.ofNat (fMods w)
  aluWord s (hdF w) (icmpShape w)
    (fun xs => (opCmp (IFmt.ofCode m.fmt) false m.op xs, 0))

/-- ICMP with an immediate (R60, R90). -/
def execIcmpI (w : IWord) (s : State) : Host.Outcome State Fault Refusal :=
  let m := Mods.ofI w 4
  aluWord s (hdI w) (icmpIShape w)
    (fun xs => (opCmp (IFmt.ofCode m.fmt) false m.op xs, 0))

/-- The shape of PTAB (R87). -/
def ptabShape (w : FWord) : Shape :=
  { dest := w.dest, dwide := false, dacc := { Acc.none with p := true }, args := [w.a, w.b, w.c].map (fun o => Arg.op o false Acc.pz),
    sig := { Sig.plain [] [] with resv := decide (w.hi ≠ 0) }, lat := some 4, pipe := false, ext := id }

/-- PTAB (R87). -/
def execPtab (w : FWord) (s : State) : Host.Outcome State Fault Refusal :=
  aluWord s (hdF w) (ptabShape w)
    (fun xs => match xs with
      | [a, b, c] => (if lutBit w.lo.toNat (decide (a = 1)) (decide (b = 1)) (decide (c = 1)) then 1 else 0, 0)
      | _ => (0, 0))

/-- The shape of ISEL: source c is a predicate (R87). -/
def iselShape (w : FWord) : Shape :=
  let m := Mods.ofNat (fMods w)
  specAll.shape m w.dest [srcOf m w.a, srcOf m w.b, .op w.c false { Acc.none with p := true }] [] false

/-- ISEL (R87). -/
def execIsel (w : FWord) (s : State) : Host.Outcome State Fault Refusal :=
  let m := Mods.ofNat (fMods w)
  aluWord s (hdF w) (iselShape w)
    (fun xs => (opIsel (IFmt.ofCode m.fmt) false m.op xs, 0))

/-- SEL (R87). -/
def execSel (w : FWord) (s : State) := intF s w specAll 3 opSel
/-- MOV (R87). -/
def execMov (w : FWord) (s : State) := intF s w specAll 1 opMov

/-- The shape of MOV of an immediate (R77). -/
def movIShape (w : IWord) : Shape :=
  let m := Mods.ofI w 4
  specAll.shape m w.dest [immOf w m] [w.a] (iResvX w)

/-- MOV of an immediate; source a holds 0x7C (R77, R87). -/
def execMovI (w : IWord) (s : State) : Host.Outcome State Fault Refusal :=
  let m := Mods.ofI w 4
  aluWord s (hdI w) (movIShape w) (fun xs => (opMov (IFmt.ofCode m.fmt) false m.op xs, 0))

end Sys2Proof.Machine
end

