-- ==== Sys2Proof/Machine/Floating.lean ====
section
/-! DEFINITION. The floating-point family (spec 04, R90 to R93; spec 02, R47 to R56). -/

namespace Sys2Proof.Machine

open Sys2Proof

/-- A floating-point operation on elements: format, rounding, operation bits, sources. -/
abbrev FOp := FFmt → Rnd → Nat → List Nat → Nat × Flags

/-- The format of a code from .F64 to .BF16 (R68). -/
def ffmtOf (c : Nat) : FFmt :=
  match c with
  | 0xC => .f64
  | 0xE => .f16
  | 0xF => .bf16
  | _ => .f32

/-- Whether a format code packs two elements in a register (R91). -/
def packedFmt (c : Nat) : Bool := decide (c = 0xE) || decide (c = 0xF)

/-- An operation at a format: once, or on each of two packed elements (R91). -/
def perElement (f : FOp) (c : Nat) (k : Rnd) (op : Nat) (xs : List Nat) : Nat × Flags :=
  if packedFmt c then
    let (lo, fl) := f (ffmtOf c) k op (xs.map (fun x => x % 2 ^ 16))
    let (hi, fh) := f (ffmtOf c) k op (xs.map (fun x => x / 2 ^ 16 % 2 ^ 16))
    (lo + hi * 2 ^ 16, fl ||| fh)
  else f (ffmtOf c) k op xs

def fopAdd : FOp := fun t k _ xs => match xs with | [a, b] => t.addOp k a b | _ => (0, 0)
def fopSub : FOp := fun t k _ xs => match xs with | [a, b] => t.subOp k a b | _ => (0, 0)
def fopMul : FOp := fun t k _ xs => match xs with | [a, b] => t.mulOp k a b | _ => (0, 0)
def fopFma : FOp := fun t k _ xs => match xs with | [a, b, c] => t.fmaOp k a b c | _ => (0, 0)
def fopMin : FOp := fun t _ _ xs => match xs with | [a, b] => t.minMaxOp false a b | _ => (0, 0)
def fopMax : FOp := fun t _ _ xs => match xs with | [a, b] => t.minMaxOp true a b | _ => (0, 0)
def fopAbs : FOp := fun t _ _ xs => match xs with | [a] => t.signOp (fun _ => false) a | _ => (0, 0)
def fopNeg : FOp := fun t _ _ xs => match xs with | [a] => t.signOp (fun n => !n) a | _ => (0, 0)

/-- FSGN: the sign of b copied, copied inverted, or combined; NV for a signalling NaN among the sources (R91). -/
def fopSgn : FOp := fun t _ op xs =>
  match xs with
  | [a, b] =>
    let sb := decide (b / t.sign true % 2 = 1)
    let (r, f) := t.signOp (fun n => match op with | 0 => sb | 1 => !sb | _ => n != sb) a
    (r, f ||| sigFlags [t.unpack b])
  | _ => (0, 0)

def fopCmp : FOp := fun t _ op xs => match xs with | [a, b] => let (r, f) := t.cmpOp op a b; (if r then 1 else 0, f) | _ => (0, 0)
def fopClass : FOp := fun t _ _ xs => match xs with | [a] => (t.classOp a, 0) | _ => (0, 0)
def fopRnd : FOp := fun t k _ xs => match xs with | [a] => t.rndOp k a | _ => (0, 0)
def fopSqrt : FOp := fun t k _ xs => match xs with | [a] => t.sqrtOp k a | _ => (0, 0)
def fopRcp : FOp := fun _ _ _ xs => match xs with | [a] => frcpOp a | _ => (0, 0)
def fopRsq : FOp := fun _ _ _ xs => match xs with | [a] => frsqOp a | _ => (0, 0)
def fopExp2 : FOp := fun _ _ _ xs => match xs with | [a] => fexp2Op a | _ => (0, 0)
def fopLog2 : FOp := fun _ _ _ xs => match xs with | [a] => flog2Op a | _ => (0, 0)
def fopSin : FOp := fun _ _ _ xs => match xs with | [a] => ftrigOp false a | _ => (0, 0)
def fopCos : FOp := fun _ _ _ xs => match xs with | [a] => ftrigOp true a | _ => (0, 0)

/-- What a word of the family accepts: formats, the largest rounding code, the largest operation code, its latency; whether
its result is a predicate or one 32-bit register (R91). -/
structure FSpec where
  fmts   : List Nat
  maxRnd : Nat
  maxOp  : Nat
  lat    : Nat
  toP    : Bool
  narrow : Bool
  deriving DecidableEq, Repr

/-- The legality of the modifiers (R75, orders 7 and 8). -/
def FSpec.sig (p : FSpec) (m : Mods) (unused : List Operand) (resv : Bool) : Sig :=
  { Sig.plain unused [] with
    resv := resv || decide (m.rsv ≠ 0) || !(p.fmts.contains m.fmt) || m.sat || decide (m.op > p.maxOp)
    rnd := decide (m.rnd > p.maxRnd) }

/-- The shape of a word of the family. -/
def FSpec.shape (p : FSpec) (m : Mods) (dest : Operand) (args : List Arg) (unused : List Operand) (resv : Bool) : Shape :=
  { dest := dest, dwide := decide (m.fmt = 0xC) && !p.toP && !p.narrow, dacc := if p.toP then { Acc.none with p := true } else Acc.vs,
    args := args, sig := p.sig m unused resv, lat := some p.lat, pipe := false, ext := id }

/-- A source operand of a floating-point format. -/
def fsrcOf (m : Mods) (o : Operand) : Arg := .op o (decide (m.fmt = 0xC)) Acc.vsz

/-- The rounding of a word without stochastic rounding. -/
def rndOf (m : Mods) : Rnd := { code := m.rnd, draw := 0 }

/-- The shape of an F word of the family with the first n sources (R91). -/
def FSpec.shapeF (p : FSpec) (w : FWord) (n : Nat) : Shape :=
  let m := Mods.ofNat (fMods w)
  p.shape m w.dest (([w.a, w.b, w.c].take n).map (fsrcOf m)) ([w.a, w.b, w.c].drop n) false

/-- An F word of the family with the first n sources (R91). -/
def floatF (s : State) (w : FWord) (p : FSpec) (n : Nat) (f : FOp) : Host.Outcome State Fault Refusal :=
  let m := Mods.ofNat (fMods w)
  aluWord s (hdF w) (p.shapeF w n)
    (perElement f m.fmt (rndOf m) m.op)

/-- The immediate of a floating-point I word: its bits, and whether a reserved field is nonzero (R60). -/
def fimm (w : IWord) (fmt : Nat) : Nat × Bool :=
  if packedFmt fmt then
    let v := iLiteral w % 2 ^ 16
    (v + v * 2 ^ 16, decide (iLiteral w / 2 ^ 16 ≠ 0))
  else if fmt = 0xC then ((if w.x.isSome then iLiteral w else w.imm.toNat * 2 ^ 34), false)
  else ((if w.x.isSome then iLiteral w % 2 ^ 32 else w.imm.toNat * 4), false)

/-- The shape of an I word of the family (R60, R77). -/
def FSpec.shapeI (p : FSpec) (w : IWord) (dflt : Nat) : Shape :=
  let m := Mods.ofI w dflt
  let (x, bad) := fimm w m.fmt
  p.shape m w.dest [fsrcOf m w.a, .lit x] [] (iResvX w || bad)

/-- An I word of the family (R60, R77). -/
def floatI (s : State) (w : IWord) (p : FSpec) (dflt : Nat) (f : FOp) : Host.Outcome State Fault Refusal :=
  let m := Mods.ofI w dflt
  aluWord s (hdI w) (p.shapeI w dflt) (perElement f m.fmt (rndOf m) m.op)

def fspecArith : FSpec := { fmts := [0xD, 0xE, 0xF], maxRnd := 3, maxOp := 0, lat := 5, toP := false, narrow := false }
def fspecMin : FSpec := { fspecArith with maxRnd := 0 }
def fspec32 : FSpec := { fspecMin with fmts := [0xD] }
def dspecArith : FSpec := { fspecArith with fmts := [0xC], lat := 8 }
def dspec : FSpec := { dspecArith with maxRnd := 0 }

/-- FADD (R91). -/
def execFadd (w : FWord) (s : State) := floatF s w fspecArith 2 fopAdd
/-- FADD with an immediate (R60, R91). -/
def execFaddI (w : IWord) (s : State) := floatI s w fspecArith 0xD fopAdd
/-- FSUB (R91). -/
def execFsub (w : FWord) (s : State) := floatF s w fspecArith 2 fopSub
/-- FSUB with an immediate (R60, R91). -/
def execFsubI (w : IWord) (s : State) := floatI s w fspecArith 0xD fopSub
/-- FMUL (R91). -/
def execFmul (w : FWord) (s : State) := floatF s w fspecArith 2 fopMul
/-- FMUL with an immediate (R60, R91). -/
def execFmulI (w : IWord) (s : State) := floatI s w fspecArith 0xD fopMul
/-- FFMA (R91). -/
def execFfma (w : FWord) (s : State) := floatF s w fspecArith 3 fopFma
/-- FMIN (R92). -/
def execFmin (w : FWord) (s : State) := floatF s w fspecMin 2 fopMin
/-- FMIN with an immediate (R60, R92). -/
def execFminI (w : IWord) (s : State) := floatI s w fspecMin 0xD fopMin
/-- FMAX (R92). -/
def execFmax (w : FWord) (s : State) := floatF s w fspecMin 2 fopMax
/-- FMAX with an immediate (R60, R92). -/
def execFmaxI (w : IWord) (s : State) := floatI s w fspecMin 0xD fopMax
/-- FABS (R91). -/
def execFabs (w : FWord) (s : State) := floatF s w fspecMin 1 fopAbs
/-- FNEG (R91). -/
def execFneg (w : FWord) (s : State) := floatF s w fspecMin 1 fopNeg
/-- FSGN (R91). -/
def execFsgn (w : FWord) (s : State) := floatF s w { fspec32 with maxOp := 2 } 2 fopSgn
/-- FCMP (R90). -/
def execFcmp (w : FWord) (s : State) := floatF s w { fspec32 with maxOp := 7, toP := true } 2 fopCmp
/-- FCMP with an immediate (R60, R90). -/
def execFcmpI (w : IWord) (s : State) := floatI s w { fspec32 with maxOp := 7, toP := true } 0xD fopCmp
/-- FCLASS (R93). -/
def execFclass (w : FWord) (s : State) := floatF s w fspec32 1 fopClass
/-- FRND (R91). -/
def execFrnd (w : FWord) (s : State) := floatF s w { fspec32 with maxRnd := 3 } 1 fopRnd
/-- FRCP (R55). -/
def execFrcp (w : FWord) (s : State) := floatF s w { fspec32 with lat := 12 } 1 fopRcp
/-- FRSQ (R55). -/
def execFrsq (w : FWord) (s : State) := floatF s w { fspec32 with lat := 12 } 1 fopRsq
/-- FSQRT (R55). -/
def execFsqrt (w : FWord) (s : State) := floatF s w { fspec32 with lat := 15, maxRnd := 3 } 1 fopSqrt
/-- FEXP2 (R55). -/
def execFexp2 (w : FWord) (s : State) := floatF s w { fspec32 with lat := 12 } 1 fopExp2
/-- FLOG2 (R55). -/
def execFlog2 (w : FWord) (s : State) := floatF s w { fspec32 with lat := 12 } 1 fopLog2
/-- FSIN (R55). -/
def execFsin (w : FWord) (s : State) := floatF s w { fspec32 with lat := 15 } 1 fopSin
/-- FCOS (R55). -/
def execFcos (w : FWord) (s : State) := floatF s w { fspec32 with lat := 15 } 1 fopCos
/-- DADD (R91). -/
def execDadd (w : FWord) (s : State) := floatF s w dspecArith 2 fopAdd
/-- DADD with an immediate (R60, R91). -/
def execDaddI (w : IWord) (s : State) := floatI s w dspecArith 0xC fopAdd
/-- DSUB (R91). -/
def execDsub (w : FWord) (s : State) := floatF s w dspecArith 2 fopSub
/-- DSUB with an immediate (R60, R91). -/
def execDsubI (w : IWord) (s : State) := floatI s w dspecArith 0xC fopSub
/-- DMUL (R91). -/
def execDmul (w : FWord) (s : State) := floatF s w dspecArith 2 fopMul
/-- DMUL with an immediate (R60, R91). -/
def execDmulI (w : IWord) (s : State) := floatI s w dspecArith 0xC fopMul
/-- DFMA (R91). -/
def execDfma (w : FWord) (s : State) := floatF s w dspecArith 3 fopFma
/-- DMIN (R92). -/
def execDmin (w : FWord) (s : State) := floatF s w dspec 2 fopMin
/-- DMIN with an immediate (R60, R92). -/
def execDminI (w : IWord) (s : State) := floatI s w dspec 0xC fopMin
/-- DMAX (R92). -/
def execDmax (w : FWord) (s : State) := floatF s w dspec 2 fopMax
/-- DMAX with an immediate (R60, R92). -/
def execDmaxI (w : IWord) (s : State) := floatI s w dspec 0xC fopMax
/-- DABS (R91). -/
def execDabs (w : FWord) (s : State) := floatF s w dspec 1 fopAbs
/-- DNEG (R91). -/
def execDneg (w : FWord) (s : State) := floatF s w dspec 1 fopNeg
/-- DCMP (R90). -/
def execDcmp (w : FWord) (s : State) := floatF s w { dspec with maxOp := 7, toP := true } 2 fopCmp
/-- DCMP with an immediate (R60, R90). -/
def execDcmpI (w : IWord) (s : State) := floatI s w { dspec with maxOp := 7, toP := true } 0xC fopCmp
/-- DCLASS (R93). -/
def execDclass (w : FWord) (s : State) := floatF s w { dspec with narrow := true } 1 fopClass
/-- DRND (R91). -/
def execDrnd (w : FWord) (s : State) := floatF s w dspecArith 1 fopRnd

/-! ## Paired words -/

/-- The integer and floating-point operations of the half operations (R63). -/
def halfEval (h : HalfOp) (a b d : Nat) : Nat × Flags :=
  let t : IFmt := IFmt.ofCode 8
  let i : IFmt := IFmt.ofCode 4
  let f := FFmt.f32
  match h with
  | .nop | .rsv _ => (0, 0)
  | .iadd => (opAdd t false 0 [a, b], 0)
  | .isub => (opSub t false 0 [a, b], 0)
  | .imul => (opMul t false 0 [a, b], 0)
  | .imin => (opMin i false 0 [a, b], 0)
  | .imax => (opMax i false 0 [a, b], 0)
  | .and => (opAnd t false 0 [a, b], 0)
  | .or => (opOr t false 0 [a, b], 0)
  | .xor => (opXor t false 0 [a, b], 0)
  | .shl => (opShl t false 0 [a, b], 0)
  | .shr => (opShr t false 0 [a, b], 0)
  | .sar => (opSar t false 0 [a, b], 0)
  | .mov => (a, 0)
  | .fadd => f.addOp Rnd.rne a b
  | .fsub => f.subOp Rnd.rne a b
  | .fmul => f.mulOp Rnd.rne a b
  | .ffma => f.fmaOp Rnd.rne a b d
  | .fmin => f.minMaxOp false a b
  | .fmax => f.minMaxOp true a b

/-- The latency of a half: that of its F form (R71). -/
def halfLat : HalfOp → Nat
  | .imul => 6
  | .fadd | .fsub | .fmul | .ffma | .fmin | .fmax => 5
  | .nop | .iadd | .isub | .imin | .imax | .and | .or | .xor | .shl | .shr | .sar | .mov | .rsv _ => 4

/-- Whether a half's destination is also its addend (R63). -/
def halfFma : HalfOp → Bool
  | .ffma => true
  | .nop | .iadd | .isub | .imul | .imin | .imax | .and | .or | .xor | .shl | .shr | .sar | .mov
  | .fadd | .fsub | .fmul | .fmin | .fmax | .rsv _ => false

/-- Whether a half operation is NOP. -/
def halfNop : HalfOp → Bool
  | .nop => true
  | .ffma | .iadd | .isub | .imul | .imin | .imax | .and | .or | .xor | .shl | .shr | .sar | .mov
  | .fadd | .fsub | .fmul | .fmin | .fmax | .rsv _ => false

/-- The legality of a half (R62, R63, R75). -/
def halfSig (h : Half) : Sig :=
  match h.hop with
  | .nop | .rsv _ => Sig.plain [h.dest, h.a, h.b] []
  | .mov => Sig.plain [h.b] [Pos.dst h.dest Acc.vOnly, Pos.src h.a Acc.vsz]
  | .ffma => Sig.plain [] [(Pos.dst h.dest Acc.vOnly).rw, Pos.src h.a Acc.vsz, Pos.src h.b Acc.vsz]
  | .iadd | .isub | .imul | .imin | .imax | .and | .or | .xor | .shl | .shr | .sar | .fadd | .fsub | .fmul | .fmin | .fmax =>
    Sig.plain [] [Pos.dst h.dest Acc.vOnly, Pos.src h.a Acc.vsz, Pos.src h.b Acc.vsz]

/-- The first failing check of a half: a reserved half operation comes first (R75, order 4). -/
def halfJudge (h : Half) (sg : SubGroup) (g : Group) : Option Fail :=
  match h.hop with
  | .rsv _ => some ⟨4, 1, 2⟩
  | _ => (halfSig h).judge sg g

/-- The banks that a half reads (R64). -/
def halfBanks (h : Half) : List Nat :=
  ([h.a, h.b] ++ (if halfFma h.hop then [h.dest] else [])).filterMap (fun o =>
    match o with | .v n => some (n.toNat % 4) | .s _ | .p _ | .k _ | .q _ | .d _ | .zero | .rsv _ => none)

/-- Whether a P word reads some bank more than twice (R64). -/
def overBank (w : PWord) : Bool :=
  let bs := halfBanks w.ha ++ halfBanks w.hb
  (List.range 4).any (fun b => decide ((bs.filter (fun x => decide (x = b))).length > 2))

/-- The results of a half in its own active mask (R63). -/
def halfOuts (r : Run) (h : Half) (act : Mask) : List (Nat × Nat × Flags) :=
  if halfNop h.hop then []
  else (lanesOf act).map (fun l => (l, halfEval h.hop (r.val false h.a l) (r.val false h.b l) (r.val false h.dest l)))

/-- The earlier of two failures by the order of R75. -/
def firstFail (a b : Option Fail) : Option Fail :=
  match a, b with
  | some x, some y => if x.order ≤ y.order then some x else some y
  | some x, none => some x
  | none, y => y

/-- A P word: both halves read every source before either writes, and half B's write to a register stands (R62 to R64, R74). -/
def execPairedWord (w : PWord) (s : State) : Host.Outcome State Fault Refusal :=
  match s.issuing with
  | none => .fault .noIssueSet
  | some is =>
    match SMap.get? s.subs is.sid with
    | none => .fault .noIssueSet
    | some sg =>
      match SMap.get? s.groups sg.gid with
      | none => .fault .noIssueSet
      | some g =>
        let now := (s.stn sg.mast sg.stn).cycles
        let mask := fun (h : Half) =>
          if h.guard = 0 then is.lanes else maskOf ((lanesOf is.lanes).filter (fun l => sg.read now l (.p l h.guard.toNat) != 0))
        let ma := mask w.ha
        let mb := mask w.hb
        let act := ma ||| mb
        let r : Run := { sid := is.sid, gid := sg.gid, sg := sg, g := g, set := is.lanes, act := act, pc := is.pc, len := 8,
                         stall := w.stall.toNat, iw := is.iword, xw := is.xword, now := now }
        let fin := fun (t : State) => Host.Outcome.next (ρ := Refusal) (φ := Fault) { t with issuing := none }
        let gr := fun (h : Half) (l : Nat) => if h.guard = 0 then [] else [Reg.p l h.guard.toNat]
        let back := is.lanes &&& sg.laneMask (fun l => l.refuse.isSome)
        let loose := is.lanes &&& sg.laneMask (fun l => l.rel.isSome)
        let board := fun (ids : List Nat) => fin (r.waitFor s is.lanes (.scoreboard ids) none (some sg.bound) .zero)
        if back ≠ 0 then
          fin (r.trapOf s back 8 (((SMap.get? sg.lanes (lowest back)).bind (fun l => l.refuse)).getD 0) r.pc back false)
        else if loose ≠ 0 then fin (r.trapOf s loose 1 1 0 loose false)
        else if s.heldBy r ((lanesOf is.lanes).flatMap (fun l => gr w.ha l ++ gr w.hb l)) [] ≠ [] then
          board (s.heldBy r ((lanesOf is.lanes).flatMap (fun l => gr w.ha l ++ gr w.hb l)) [])
        else if act = 0 then fin (r.done s)
        else
          let fa := if ma = 0 then none else halfJudge w.ha sg g
          let fb := if mb = 0 then none else halfJudge w.hb sg g
          let lim := if overBank w then some ⟨14, 1, 7⟩ else none
          match firstFail (firstFail fa fb) lim with
          | some f => fin (r.trap s f.cause f.detail 0 act)
          | none =>
            let reads := fun (h : Half) (l : Nat) => gr h l ++ ((halfSig h).pos.filter (fun p => p.rd)).flatMap (fun p => p.regs l)
            let writes := fun (h : Half) (l : Nat) => ((halfSig h).pos.filter (fun p => p.wr)).flatMap (fun p => p.regs l)
            let ids := s.heldBy r ((lanesOf ma).flatMap (reads w.ha) ++ (lanesOf mb).flatMap (reads w.hb))
                ((lanesOf ma).flatMap (writes w.ha) ++ (lanesOf mb).flatMap (writes w.hb))
            if ids ≠ [] then board ids
            else
              let short := maskOf ((lanesOf ma).filter (fun l => (reads w.ha l).any (sg.undersized l)) ++
                (lanesOf mb).filter (fun l => (reads w.hb l).any (sg.undersized l)))
              if sg.chk && decide (short ≠ 0) then fin (r.trap s 5 0 0 short)
              else
                let oa := halfOuts r w.ha ma
                let ob := halfOuts r w.hb mb
                let put := fun (h : Half) (os : List (Nat × Nat × Flags)) (sg : SubGroup) =>
                  (os.flatMap (fun o => dstWrites h.dest false o.1 o.2.1)).foldl
                    (fun sg x => sg.writeFixed now (halfLat h.hop) (lanesOf is.lanes) x.1 x.2) sg
                fin (r.done (s.updSub r.sid (fun sg =>
                  (put w.hb ob (put w.ha oa sg)).raise (flagsOf ((oa ++ ob).map (fun o => o.2.2))))))

end Sys2Proof.Machine
end

