-- ==== Sys2Proof/Machine/Convert.lean ====
section
/-! DEFINITION. The conversion and packing family (spec 04, R94 to R100; spec 02, R45, R49, R52, R54). -/

namespace Sys2Proof.Machine

open Sys2Proof

/-- What a format code names (R68): a floating-point format, an integer of some width, a scale, or nothing convertible. -/
inductive EFmt where
  | flt (t : FFmt)
  | int (t : IFmt)
  | scale
  | none
  deriving DecidableEq, Repr

/-- The format of a code (R68). -/
def EFmt.ofCode (c : Nat) : EFmt :=
  match c with
  | 0 => .int { w := 8, signed := true, b := false } | 1 => .int { w := 8, signed := false, b := false }
  | 2 => .int { w := 16, signed := true, b := false } | 3 => .int { w := 16, signed := false, b := false }
  | 4 => .int { w := 32, signed := true, b := false } | 5 => .int { w := 32, signed := false, b := false }
  | 6 => .int { w := 64, signed := true, b := false } | 7 => .int { w := 64, signed := false, b := false }
  | 0xA => .int { w := 4, signed := true, b := false } | 0xB => .int { w := 4, signed := false, b := false }
  | 0xC => .flt .f64 | 0xD => .flt .f32 | 0xE => .flt .f16 | 0xF => .flt .bf16
  | 0x10 => .flt .e4m3 | 0x11 => .flt .e5m2 | 0x12 => .flt .e3m2 | 0x13 => .flt .e2m3 | 0x14 => .flt .e2m1
  | 0x15 => .scale
  | _ => .none

/-- The width of a format's elements in bits. -/
def EFmt.bits : EFmt → Nat
  | .flt t => t.width
  | .int t => t.w
  | .scale => 8
  | .none => 32

/-- The slot that an element occupies in a register: 6-bit formats take 8 bits (R45). -/
def EFmt.slot (t : EFmt) : Nat := if t.bits = 6 then 8 else t.bits

/-- Whether a format is floating-point and not a scale. -/
def EFmt.isFlt : EFmt → Bool
  | .flt _ => true
  | .int _ | .scale | .none => false

/-- The largest magnitude of a format as m * 2^e. -/
def FFmt.maxMag (t : FFmt) : Nat × Int :=
  let mb := t.maxBits
  (if mb / 2 ^ t.f = 0 then mb % 2 ^ t.f else 2 ^ t.f + mb % 2 ^ t.f, (max (mb / 2 ^ t.f) 1 : Nat) - (t.bias : Int) - t.f)

/-- Whether some value of the source format cannot be held exactly by the destination (R94). -/
def canBeInexact (src dst : EFmt) : Bool :=
  match src, dst with
  | .flt a, .flt b =>
    decide (b.f < a.f) || decide (b.minExp > a.minExp) || decide (dyadicDiff a.maxMag.1 a.maxMag.2 b.maxMag.1 b.maxMag.2 > 0)
  | .int a, .flt b =>
    let bits := if a.signed then a.w - 1 else a.w
    decide (bits > b.f + 1) || decide (dyadicDiff (if a.signed then 2 ^ (a.w - 1) else 2 ^ a.w - 1) 0 b.maxMag.1 b.maxMag.2 > 0)
  | .flt _, .int _ => true
  | _, _ => false

/-- Convert an integer value to an integer format: wrapped, or clamped under .SAT (R52). -/
def convInt (t : IFmt) (sat : Bool) (z : Int) : Nat × Flags := (fitTo t sat z, 0)

/-- Convert a floating-point value to an integer format (R52). -/
def convToInt (t : IFmt) (k : Rnd) (v : FVal) : Nat × Flags :=
  match v with
  | .nan _ => (0, flNV)
  | .inf n => (clampTo t (if n then -(2 ^ 80) else 2 ^ 80), flNV)
  | .fin n m e =>
    let (r, nx) := roundAt k n m (min e 80) 0
    let z : Int := if n then -(r : Int) else r
    if tVal t (wrapTo t.w z) = z then (wrapTo t.w z, flIf nx flNX) else (clampTo t z, flNV)

/-- Convert a floating-point value to a floating-point format (R52). -/
def convToFlt (t : FFmt) (k : Rnd) (sat : Bool) (v : FVal) : Nat × Flags :=
  match v with
  | .nan sig => if t.kind = .finite then (0, flNV) else (t.qnan, flIf sig flNV)
  | .inf n =>
    match t.kind with
    | .finite => (t.sign n + t.maxBits, flNV)
    | .ieee => if sat then (t.sign n + t.maxBits, flOF ||| flNX) else (t.infBits n, 0)
    | .e4m3 => if sat then (t.sign n + t.maxBits, flOF ||| flNX) else (t.qnan, flNV)
  | .fin n m e => t.round k sat n m e

/-- The value of a scale code (R44): a power of two, or NaN without NV (R95). -/
def scaleVal (e : Nat) : FVal := if e = 0xFF then .nan false else .fin false 1 ((e : Int) - 127)

/-- Convert one element (R52, R95). -/
def convElem (src dst : EFmt) (k : Rnd) (sat : Bool) (x : Nat) : Nat × Flags :=
  let x := x % 2 ^ src.bits
  match src, dst with
  | .int a, .int b => convInt b sat (tVal a x)
  | .int a, .flt b => let z := tVal a x; b.round k sat (decide (z < 0)) z.natAbs 0
  | .flt a, .int b => convToInt b k (a.unpack x)
  | .flt a, .flt b => convToFlt b k sat (a.unpack x)
  | .scale, .flt b => convToFlt b k sat (scaleVal x)
  | _, _ => (0, 0)

/-- The draw of stochastic rounding for a lane and an element (R49). -/
def srDraw (seed : Word) (lane j : Nat) : Nat :=
  let z := seed + BitVec.ofNat 64 (16 * lane + j + 1) * 0x9E3779B97F4A7C15
  let z := (z ^^^ (z >>> 30)) * 0xBF58476D1CE4E5B9
  let z := (z ^^^ (z >>> 27)) * 0x94D049BB133111EB
  let z := z ^^^ (z >>> 31)
  z.toNat % 2 ^ 32

/-- The modifiers of R94. -/
structure CMods where
  dfmt : Nat
  sfmt : Nat
  rnd  : Nat
  sat  : Bool
  op   : Nat
  deriving DecidableEq, Repr

/-- Modifier bits taken apart by R94. -/
def CMods.ofNat (m : Nat) : CMods :=
  { dfmt := m / 2 ^ 11 % 32, sfmt := m / 2 ^ 6 % 32, rnd := m / 2 ^ 3 % 8, sat := decide (m / 4 % 2 = 1), op := m % 4 }

/-- Whether a rounding code is refused (R47, R94): reserved, nonzero where nothing rounds, .SR where it is not accepted. -/
def rndBad (rnd : Nat) (inexact sr : Bool) : Bool := decide (rnd > 4) || (decide (rnd ≠ 0) && !inexact) || (decide (rnd = 4) && !sr)

/-- The rounding of a lane and element. -/
def CMods.rounding (m : CMods) (seed : Word) (lane j : Nat) : Rnd :=
  { code := m.rnd, draw := if m.rnd = 4 then srDraw seed lane j else 0 }

/-- A conversion word: results per lane as register writes with flags; %seed advances once under .SR (R49). -/
def convWord (s : State) (w : FWord) (m : CMods) (sig : Sig) (lat : Nat) (f : Run → Nat → List (Reg × Word) × Flags)
    (lanes : Run → List Nat) : Host.Outcome State Fault Refusal :=
  issueF s w none sig (fun r s =>
    let outs := (lanes r).map (f r)
    let s1 := if m.rnd = 4 then s.updSub r.sid (fun sg => { sg with seed := sg.seed + 1 }) else s
    r.fixed s1 lat (outs.flatMap (fun o => o.1)) (flagsOf (outs.map (fun o => o.2))))

/-- The legality of CVT (R95). -/
def cvtSig (w : FWord) : Sig :=
  let m := CMods.ofNat (fMods w)
  let src := EFmt.ofCode m.sfmt
  let dst := EFmt.ofCode m.dfmt
  let okSrc := match src with | .none => false | .scale => decide (m.dfmt = 0xC) || decide (m.dfmt = 0xD) | .flt _ | .int _ => true
  let okDst := match dst with | .none | .scale => false | .flt _ | .int _ => true
  let inx := canBeInexact src dst
  { Sig.plain [w.b, w.c] [(Pos.src w.a Acc.vsz).wide (decide (src.bits = 64)), (Pos.dst w.dest Acc.vs).wide (decide (dst.bits = 64))] with
    resv := !okSrc || !okDst || decide (m.op ≠ 0), rnd := rndBad m.rnd inx (inx && dst.isFlt) }

/-- The result of CVT in a lane. -/
def cvtLane (w : FWord) (r : Run) (l : Nat) : List (Reg × Word) × Flags :=
  let m := CMods.ofNat (fMods w)
  let src := EFmt.ofCode m.sfmt
  let dst := EFmt.ofCode m.dfmt
  let sw := decide (src.bits = 64)
  let dw := decide (dst.bits = 64)
  let (x, fl) := convElem src dst (m.rounding r.sg.seed l 0) m.sat (r.val sw w.a l)
  (dstWrites w.dest dw l (if isS w.dest then scalarExt m.dfmt x else x), fl)

/-- CVT: element 0 of a to element 0 of d, the rest of the register cleared (R95). -/
def execCvt (w : FWord) (s : State) : Host.Outcome State Fault Refusal :=
  convWord s w (CMods.ofNat (fMods w)) (cvtSig w) 5 (cvtLane w) (fun r => r.workLanes w.dest)

/-- The legality of CVTF (R96). -/
def cvtfSig (w : FWord) : Sig :=
  let m := CMods.ofNat (fMods w)
  let src := EFmt.ofCode m.sfmt
  let dst := EFmt.ofCode m.dfmt
  let inx := canBeInexact src dst
  { Sig.plain [w.c] [(Pos.src w.a Acc.vsz).wide (decide (src.bits = 64)), Pos.src w.b Acc.vsz, ((Pos.dst w.dest Acc.vs).wide (decide (dst.bits = 64))).rw] with
    resv := !src.isFlt || !dst.isFlt || decide (m.op ≠ 0), rnd := rndBad m.rnd inx inx }

/-- The result of CVTF in a lane. -/
def cvtfLane (w : FWord) (r : Run) (l : Nat) : List (Reg × Word) × Flags :=
  let m := CMods.ofNat (fMods w)
  let src := EFmt.ofCode m.sfmt
  let dst := EFmt.ofCode m.dfmt
  let sw := decide (src.bits = 64)
  let dw := decide (dst.bits = 64)
  let i := if dst.slot ≥ 32 then 0 else r.val false w.b l % 8 % (32 / dst.slot)
  let (x, fl) := convElem src dst (m.rounding r.sg.seed l i) m.sat (r.val sw w.a l)
  let old := r.val dw w.dest l
  let lo := 2 ^ (dst.slot * i)
  let y := if dst.slot ≥ 32 then x else old % lo + x * lo + old / (lo * 2 ^ dst.slot) * (lo * 2 ^ dst.slot)
  (dstWrites w.dest dw l y, fl)

/-- CVTF: element 0 of a to the element of d that b selects, the others kept (R96). -/
def execCvtf (w : FWord) (s : State) : Host.Outcome State Fault Refusal :=
  convWord s w (CMods.ofNat (fMods w)) (cvtfSig w) 5 (cvtfLane w) (fun r => r.workLanes w.dest)

/-- The formats of the narrow and the wide side of PACK and UNPACK (R97). -/
def packNarrow : List Nat := [0xE, 0xF, 0x10, 0x11, 0x12, 0x13, 0x14, 2, 3, 0, 1, 0xA, 0xB]
def packWide : List Nat := [0xD, 0xE, 0xF, 4, 5]

/-- Whether two codes are a pair that PACK converts between (R97). -/
def packPair (narrow wide : Nat) : Bool :=
  packNarrow.contains narrow && packWide.contains wide && decide ((EFmt.ofCode narrow).bits < (EFmt.ofCode wide).bits)

/-- Whether a .DENSE form is legal but for its rounding code (R97). -/
def denseOk (m : CMods) : Bool := decide (m.dfmt = m.sfmt) && (decide (m.dfmt = 0x12) || decide (m.dfmt = 0x13)) && !m.sat

/-- The registers of a vector run as one number, the first the least significant. -/
def runVal (r : Run) (o : Operand) (l n : Nat) : Nat :=
  match o with
  | .v a => (List.range n).foldl (fun x i => x + (r.reg l (.v l (a.toNat + i))).toNat * 2 ^ (32 * i)) 0
  | _ => r.val false o l

/-- Write a number to a vector run, the least significant register first. -/
def runWrites (o : Operand) (l n x : Nat) : List (Reg × Word) :=
  match o with
  | .v a => (List.range n).map (fun i => (.v l (a.toNat + i), BitVec.ofNat 64 (x / 2 ^ (32 * i) % 2 ^ 32)))
  | _ => dstWrites o false l x

/-- The legality of PACK (R97). -/
def packSig (w : FWord) : Sig :=
  let m := CMods.ofNat (fMods w)
  let src := EFmt.ofCode m.sfmt
  let dst := EFmt.ofCode m.dfmt
  let dense := decide (m.op = 1)
  let ok := if dense then denseOk m else packPair m.dfmt m.sfmt
  let nin := if dense then 4 else 32 / dst.slot
  let inx := !dense && canBeInexact src dst
  { Sig.plain [w.b, w.c] [(Pos.src w.a Acc.vOnly).runOf nin 1, if dense then (Pos.dst w.dest Acc.vOnly).runOf 3 1 else Pos.dst w.dest Acc.vs] with
    resv := !ok || decide (m.op > 1), rnd := rndBad m.rnd inx (inx && dst.isFlt) }

/-- The result of PACK in a lane. -/
def packLane (w : FWord) (r : Run) (l : Nat) : List (Reg × Word) × Flags :=
  let m := CMods.ofNat (fMods w)
  let src := EFmt.ofCode m.sfmt
  let dst := EFmt.ofCode m.dfmt
  let dense := decide (m.op = 1)
  let n := 32 / dst.slot
  let nin := if dense then 4 else n
  let x := runVal r w.a l nin
  if dense then
    (runWrites w.dest l 3 ((List.range 16).foldl (fun y i => y + x / 2 ^ (8 * i) % 64 * 2 ^ (6 * i)) 0), 0)
  else
    let es := (List.range n).map (fun j => convElem src dst (m.rounding r.sg.seed l j) m.sat (x / 2 ^ (32 * j) % 2 ^ 32))
    (dstWrites w.dest false l ((es.zipIdx).foldl (fun y e => y + e.1.1 * 2 ^ (dst.slot * e.2)) 0), flagsOf (es.map (fun e => e.2)))

/-- PACK (R97). -/
def execPack (w : FWord) (s : State) : Host.Outcome State Fault Refusal :=
  convWord s w (CMods.ofNat (fMods w)) (packSig w) 5 (packLane w) (fun r => r.workLanes w.dest)

/-- The legality of UNPACK (R97). -/
def unpackSig (w : FWord) : Sig :=
  let m := CMods.ofNat (fMods w)
  let src := EFmt.ofCode m.sfmt
  let dst := EFmt.ofCode m.dfmt
  let dense := decide (m.op = 1)
  let ok := if dense then denseOk m else packPair m.sfmt m.dfmt && !m.sat
  let nout := if dense then 4 else 32 / src.slot
  let inx := !dense && canBeInexact src dst
  { Sig.plain [w.b, w.c] [if dense then (Pos.src w.a Acc.vOnly).runOf 3 1 else Pos.src w.a Acc.vsz, (Pos.dst w.dest Acc.vOnly).runOf nout 1] with
    resv := !ok || decide (m.op > 1), rnd := rndBad m.rnd inx false }

/-- The result of UNPACK in a lane. -/
def unpackLane (w : FWord) (r : Run) (l : Nat) : List (Reg × Word) × Flags :=
  let m := CMods.ofNat (fMods w)
  let src := EFmt.ofCode m.sfmt
  let dst := EFmt.ofCode m.dfmt
  let dense := decide (m.op = 1)
  let n := 32 / src.slot
  if dense then
    let x := runVal r w.a l 3
    (runWrites w.dest l 4 ((List.range 16).foldl (fun y i => y + x / 2 ^ (6 * i) % 64 * 2 ^ (8 * i)) 0), 0)
  else
    let x := r.val false w.a l
    let es := (List.range n).map (fun j => convElem src dst (m.rounding 0 l j) false (x / 2 ^ (src.slot * j) % 2 ^ src.slot))
    (runWrites w.dest l n ((es.zipIdx).foldl (fun y e => y + e.1.1 * 2 ^ (32 * e.2)) 0), flagsOf (es.map (fun e => e.2)))

/-- UNPACK (R97). -/
def execUnpack (w : FWord) (s : State) : Host.Outcome State Fault Refusal :=
  convWord s w (CMods.ofNat (fMods w)) (unpackSig w) 5 (unpackLane w) (fun r => lanesOf r.act)

/-- The five formats of block-scaled elements, with the exponent E of the largest power of two not above MAX (R98). -/
def blockExp (c : Nat) : Option Int :=
  match c with
  | 0x10 => some 8 | 0x11 => some 15 | 0x12 => some 4 | 0x13 => some 2 | 0x14 => some 2
  | _ => none

/-- The greatest magnitude among some finite values, as a floor of its base-2 logarithm; none when all are zero. -/
def maxLog (vs : List FVal) : Option Int :=
  vs.foldl (fun a v => match v with
    | .fin _ m e => if m = 0 then a else some (max (e + (Nat.log2 m : Int)) (a.getD (e + (Nat.log2 m : Int))))
    | .nan _ | .inf _ => a) none

/-- The scale code of a block and the factor it divides by, as an exponent; NV for a NaN or an infinity in it (R98). -/
def blockScale (ex : Int) (vs : List FVal) : Nat × Int × Flags :=
  if vs.any (fun v => match v with | .fin _ _ _ => false | .nan _ | .inf _ => true) then (0xFF, 0, flNV)
  else match maxLog vs with
    | none => (127, 0, 0)
    | some l => let e := max 0 (min 254 (l - ex + 127)); (e.toNat, 127 - e, 0)

/-- The legality of QSCALE (R98). -/
def qscaleSig (w : FWord) : Sig :=
  let m := CMods.ofNat (fMods w)
  { Sig.plain [w.b, w.c] [(Pos.src w.a Acc.vOnly).runOf 4 1, (Pos.dst w.dest Acc.vOnly).runOf 2 1] with
    resv := decide (m.sfmt ≠ 0xD) || (blockExp m.dfmt).isNone || m.sat || decide (m.op ≠ 0), rnd := rndBad m.rnd true true }

/-- The result of QSCALE in a lane. -/
def qscaleLane (w : FWord) (r : Run) (l : Nat) : List (Reg × Word) × Flags :=
  let m := CMods.ofNat (fMods w)
  let dst := EFmt.ofCode m.dfmt
  let vals := fun l => (List.range 4).map (fun i => FFmt.f32.unpack (runVal r w.a l 4 / 2 ^ (32 * i) % 2 ^ 32))
  let block := (lanesOf r.act).filter (fun x => decide (x / 8 = l / 8))
  let (e, k, fl) := blockScale ((blockExp m.dfmt).getD 0) (block.flatMap vals)
  let es := ((vals l).zipIdx).map (fun v =>
    let x := match v.1 with | .fin n a b => FVal.fin n a (b + k) | .nan g => .nan g | .inf n => .inf n
    match dst with
    | .flt t => convToFlt t (m.rounding r.sg.seed l v.2) true x
    | _ => (0, 0))
  (runWrites w.dest l 2 ((es.zipIdx).foldl (fun y x => y + x.1.1 * 2 ^ (dst.slot * x.2)) 0 + e * 2 ^ 32),
   fl ||| flagsOf (es.map (fun x => x.2)))

/-- QSCALE (R98). -/
def execQscale (w : FWord) (s : State) : Host.Outcome State Fault Refusal :=
  convWord s w (CMods.ofNat (fMods w)) (qscaleSig w) 10 (qscaleLane w) (fun r => lanesOf r.act)

/-- One element dequantised (R99). -/
def dqElem (t : FFmt) (k : Rnd) (e x : Nat) : Nat × Flags :=
  let d := FFmt.f32
  match t.unpack (x % 2 ^ t.width) with
  | .nan _ => (d.qnan, 0)
  | .inf n => if e = 0xFF then (d.qnan, flSNAN) else (d.infBits n, 0)
  | .fin n m q =>
    if m = 0 then (d.sign n, 0)
    else if e = 0xFF then (d.qnan, flSNAN)
    else d.round k false n m (q + e - 127)

/-- The legality of DQSCALE (R99). -/
def dqscaleSig (w : FWord) : Sig :=
  let m := CMods.ofNat (fMods w)
  { Sig.plain [w.c] [Pos.src w.a Acc.vsz, Pos.src w.b Acc.vsz, (Pos.dst w.dest Acc.vOnly).runOf 4 1] with
    resv := decide (m.dfmt ≠ 0xD) || (blockExp m.sfmt).isNone || m.sat || decide (m.op ≠ 0), rnd := rndBad m.rnd true false }

/-- The result of DQSCALE in a lane. -/
def dqscaleLane (w : FWord) (r : Run) (l : Nat) : List (Reg × Word) × Flags :=
  let m := CMods.ofNat (fMods w)
  let src := EFmt.ofCode m.sfmt
  let x := r.val false w.a l
  let es := (List.range 4).map (fun i => match src with
    | .flt t => dqElem t { code := m.rnd, draw := 0 } (r.val false w.b l % 256) (x / 2 ^ (src.slot * i))
    | _ => (0, 0))
  (runWrites w.dest l 4 ((es.zipIdx).foldl (fun y x => y + x.1.1 * 2 ^ (32 * x.2)) 0), flagsOf (es.map (fun x => x.2)))

/-- DQSCALE (R99). -/
def execDqscale (w : FWord) (s : State) : Host.Outcome State Fault Refusal :=
  convWord s w (CMods.ofNat (fMods w)) (dqscaleSig w) 10 (dqscaleLane w) (fun r => lanesOf r.act)

/-- FLDEXP: a times 2 to the power of b, rounded once; exponents beyond 4,000 either way act as 4,000, which no format tells
apart (R100). -/
def fopLdexp : FOp := fun t k _ xs =>
  match xs with
  | [a, b] =>
    match t.unpack a with
    | .nan g => (t.qnan, flIf g flNV)
    | .inf _ => (a, 0)
    | .fin n m e =>
      let z := tVal { w := 32, signed := true, b := false } b
      if m = 0 then (a, 0) else t.round k false n m (e + max (-4000) (min 4000 z))
  | _ => (0, 0)

/-- FFREXP: mantissa or exponent (R100). -/
def fopFrexp : FOp := fun t _ op xs =>
  match xs with
  | [a] =>
    match t.unpack a with
    | .nan g => (if op = 0 then t.qnan else 0, flIf g flNV)
    | .inf _ => (if op = 0 then a else 0, 0)
    | .fin n m e =>
      if m = 0 then (if op = 0 then a else 0, 0)
      else
        let l := Nat.log2 m
        if op = 0 then (t.sign n + t.encodeMag m (-(l : Int) - 1), 0)
        else (wrapTo 32 (e + l + 1), 0)
  | _ => (0, 0)

/-- The shape of FLDEXP: its exponent is a 32-bit integer at every format (R100). -/
def fldexpShape (w : FWord) : Shape :=
  let m := Mods.ofNat (fMods w)
  let p : FSpec := { fmts := [0xC, 0xD], maxRnd := 3, maxOp := 0, lat := 5, toP := false, narrow := false }
  p.shape m w.dest [fsrcOf m w.a, .op w.b false Acc.vsz] [w.c] false

/-- The shape of FFREXP: the exponent is a 32-bit integer at every format (R100). -/
def ffrexpShape (w : FWord) : Shape :=
  let m := Mods.ofNat (fMods w)
  let p : FSpec := { fmts := [0xC, 0xD], maxRnd := 0, maxOp := 1, lat := 5, toP := false, narrow := decide (m.op = 1) }
  { p.shape m w.dest [fsrcOf m w.a] [w.b, w.c] false with ext := if m.op = 1 then scalarExt 4 else id }

/-- FLDEXP (R100). -/
def execFldexp (w : FWord) (s : State) : Host.Outcome State Fault Refusal :=
  let m := Mods.ofNat (fMods w)
  aluWord s (hdF w) (fldexpShape w) (fopLdexp (ffmtOf m.fmt) (rndOf m) m.op)

/-- FFREXP (R100). -/
def execFfrexp (w : FWord) (s : State) : Host.Outcome State Fault Refusal :=
  let m := Mods.ofNat (fMods w)
  aluWord s (hdF w) (ffrexpShape w)
    (fopFrexp (ffmtOf m.fmt) (rndOf m) m.op)

end Sys2Proof.Machine
end

