-- ==== Sys2Proof/Machine/GroupOps.lean ====
section
/-! DEFINITION. Group operations: values combined across the active lanes in ascending order (spec 04, R101 to R103). -/

namespace Sys2Proof.Machine

open Sys2Proof

/-- The legality of a group word's modifiers: the bits that must be 0 and those that a rounding code may not take. -/
def groupSig (unused : List Operand) (pos : List Pos) (m : Mods) (resv rnd : Bool) : Sig :=
  { Sig.plain unused pos with resv := resv || decide (m.rsv ≠ 0), rnd := rnd }

/-- A word without format: fmt 0, no .EXCL, operation codes up to a largest (R102). -/
def noFmt (m : Mods) (maxOp : Nat) : Bool := decide (m.fmt ≠ 0) || m.sat || decide (m.op > maxOp)

/-- A predicate source, read in the participants. -/
def accP : Acc := { Acc.none with p := true }

/-- Write a value that is the same for all participants (R102): once to a scalar register, in every participant otherwise. -/
def commonWrites (r : Run) (dest : Operand) (wide : Bool) (x sx : Nat) : List (Reg × Word) :=
  if isS dest then dstWrites dest wide r.low sx else (lanesOf r.act).flatMap (fun l => dstWrites dest wide l x)

/-- XLANE: the lane that a participant reads from, if any (R103). -/
def xlaneFrom (mode seg n l : Nat) : Option Nat :=
  let base := l - l % seg
  match mode with
  | 0 => some (base + n % seg)
  | 1 => if n < seg && decide (base + n ≤ l) then some (l - n) else none
  | 2 => if n < seg && decide (l + n < base + seg) then some (l + n) else none
  | _ => some (l ^^^ (n % seg))

/-- The legality of XLANE (R103). -/
def xlaneSig (w : FWord) : Sig :=
  let m := Mods.ofNat (fMods w)
  let wide := decide (m.fmt = 9)
  groupSig [w.c] [(Pos.dst w.dest Acc.vOnly).wide wide, (Pos.src w.a Acc.vsz).wide wide, Pos.src w.b Acc.vsz] m
    (!(fmtsB.contains m.fmt) || m.sat || decide (m.op > 3) || decide (m.rnd > 6)) false

/-- The results of XLANE. -/
def xlaneOut (w : FWord) (r : Run) : List (Reg × Word) :=
  let m := Mods.ofNat (fMods w)
  let wide := decide (m.fmt = 9)
  let seg := min (2 ^ m.rnd) r.g.width
  let outs := (lanesOf r.act).flatMap (fun l =>
    let src := match xlaneFrom m.op seg (r.val false w.b l) l with
      | some k => if r.act.getLsbD k then k else l
      | none => l
    dstWrites w.dest wide l (r.val wide w.a src))
  outs

/-- XLANE (R103). -/
def execXlane (w : FWord) (s : State) : Host.Outcome State Fault Refusal :=
  issueF s w none (xlaneSig w) (fun r s => r.fixed s 6 (xlaneOut w r) 0)

/-- The legality of VOTE (R102). -/
def voteSig (w : FWord) : Sig :=
  let m := Mods.ofNat (fMods w)
  groupSig [w.b, w.c] [Pos.dst w.dest accP, Pos.src w.a accP] m (noFmt m 2) (decide (m.rnd ≠ 0))

/-- The results of VOTE. -/
def voteOut (w : FWord) (r : Run) : List (Reg × Word) :=
  let m := Mods.ofNat (fMods w)
  let vs := (lanesOf r.act).map (fun l => decide (r.val false w.a l = 1))
  let x := match m.op with
    | 0 => vs.all id
    | 1 => vs.any id
    | _ => vs.all id || !(vs.any id)
  commonWrites r w.dest false (if x then 1 else 0) 0

/-- VOTE (R102). -/
def execVote (w : FWord) (s : State) : Host.Outcome State Fault Refusal :=
  issueF s w none (voteSig w) (fun r s => r.fixed s 6 (voteOut w r) 0)

/-- The legality of BALLOT (R102). -/
def ballotSig (w : FWord) : Sig :=
  let m := Mods.ofNat (fMods w)
  groupSig [w.b, w.c] [(Pos.dst w.dest Acc.vs).wide true, Pos.src w.a accP] m (noFmt m 0) (decide (m.rnd ≠ 0))

/-- The results of BALLOT. -/
def ballotOut (w : FWord) (r : Run) : List (Reg × Word) :=
  let x := (maskOf ((lanesOf r.act).filter (fun l => decide (r.val false w.a l = 1)))).toNat
  commonWrites r w.dest true x x

/-- BALLOT (R102). -/
def execBallot (w : FWord) (s : State) : Host.Outcome State Fault Refusal :=
  issueF s w none (ballotSig w) (fun r s => r.fixed s 6 (ballotOut w r) 0)

/-- The legality of ACTIVE (R102). -/
def activeSig (w : FWord) : Sig :=
  let m := Mods.ofNat (fMods w)
  groupSig [w.a, w.b, w.c] [(Pos.dst w.dest Acc.vs).wide true] m (noFmt m 0) (decide (m.rnd ≠ 0))

/-- The results of ACTIVE. -/
def activeOut (w : FWord) (r : Run) : List (Reg × Word) :=
  commonWrites r w.dest true r.act.toNat r.act.toNat

/-- ACTIVE (R102). -/
def execActive (w : FWord) (s : State) : Host.Outcome State Fault Refusal :=
  issueF s w none (activeSig w) (fun r s => r.fixed s 6 (activeOut w r) 0)

/-- The legality of ELECT (R102). -/
def electSig (w : FWord) : Sig :=
  let m := Mods.ofNat (fMods w)
  groupSig [w.a, w.b, w.c] [Pos.dst w.dest accP] m (noFmt m 0) (decide (m.rnd ≠ 0))

/-- The results of ELECT. -/
def electOut (w : FWord) (r : Run) : List (Reg × Word) :=
  (lanesOf r.act).flatMap (fun l => dstWrites w.dest false l (if l = r.low then 1 else 0))

/-- ELECT (R102). -/
def execElect (w : FWord) (s : State) : Host.Outcome State Fault Refusal :=
  issueF s w none (electSig w) (fun r s => r.fixed s 6 (electOut w r) 0)

/-- The legality of MATCH (R102). -/
def matchSig (w : FWord) : Sig :=
  let m := Mods.ofNat (fMods w)
  groupSig [w.b, w.c] [(Pos.dst w.dest Acc.vOnly).wide true, (Pos.src w.a Acc.vsz).wide (decide (m.fmt = 9))] m
    (!(fmtsB.contains m.fmt) || m.sat || decide (m.op ≠ 0)) (decide (m.rnd ≠ 0))

/-- The results of MATCH. -/
def matchOut (w : FWord) (r : Run) : List (Reg × Word) :=
  let m := Mods.ofNat (fMods w)
  let wide := decide (m.fmt = 9)
  let ls := lanesOf r.act
  ls.flatMap (fun l =>
    dstWrites w.dest true l (maskOf (ls.filter (fun k => decide (r.val wide w.a k = r.val wide w.a l)))).toNat)

/-- MATCH (R102). -/
def execMatchM (w : FWord) (s : State) : Host.Outcome State Fault Refusal :=
  issueF s w none (matchSig w) (fun r s => r.fixed s 6 (matchOut w r) 0)

/-- Whether a format code is a float of the scans. -/
def scanFlt (fmt : Nat) : Bool := decide (fmt = 0xC) || decide (fmt = 0xD)

/-- Whether a scan accepts an operation at a format (R103). -/
def scanOk (op fmt : Nat) : Bool :=
  if op = 0 then fmtsAll.contains fmt || scanFlt fmt
  else if op ≤ 2 then fmtsIN.contains fmt || scanFlt fmt
  else decide (op ≤ 5) && fmtsAll.contains fmt

/-- One step of a scan (R103). -/
def scanStep (op fmt : Nat) (k : Rnd) (a b : Nat) : Nat × Flags :=
  if scanFlt fmt then
    match op with
    | 0 => (ffmtOf fmt).addOp k a b
    | 1 => (ffmtOf fmt).minMaxOp false a b
    | _ => (ffmtOf fmt).minMaxOp true a b
  else
    let t := IFmt.ofCode fmt
    (match op with
      | 0 => opAdd t false 0 [a, b]
      | 1 => opMin t false 0 [a, b]
      | 2 => opMax t false 0 [a, b]
      | 3 => a &&& b
      | 4 => a ||| b
      | _ => a ^^^ b, 0)

/-- The identity for .EXCL (R103). -/
def scanId (op fmt : Nat) : Nat :=
  if scanFlt fmt then
    match op with
    | 0 => 0
    | 1 => (ffmtOf fmt).infBits false
    | _ => (ffmtOf fmt).infBits true
  else
    let t := IFmt.ofCode fmt
    match op with
    | 1 => if t.signed then 2 ^ (t.w - 1) - 1 else 2 ^ t.w - 1
    | 2 => if t.signed then 2 ^ (t.w - 1) else 0
    | 3 => 2 ^ t.w - 1
    | _ => 0

/-- The value that begins a segment: a NaN is delivered as the canonical one, and a signalling one raises NV (R51, R56). -/
def scanFirst (fmt a : Nat) : Nat × Flags :=
  if scanFlt fmt then
    match (ffmtOf fmt).unpack a with
    | .nan s => ((ffmtOf fmt).qnan, flIf s flNV)
    | .inf _ | .fin _ _ _ => (a, 0)
  else (a, 0)

/-- Scan the participants in order: lane, value, whether it begins a segment; the results in order, with the last
accumulator and the flags (R103). -/
def scanGo (op fmt : Nat) (k : Rnd) (excl : Bool) : List (Nat × Nat × Bool) → Option Nat → Flags → List (Nat × Nat) → List (Nat × Nat) × Nat × Flags
  | [], acc, fl, out => (out, acc.getD 0, fl)
  | (l, a, head) :: xs, acc, fl, out =>
    match (if head then none else acc) with
    | none =>
      let (y, f) := scanFirst fmt a
      scanGo op fmt k excl xs (some y) (fl ||| f) (out ++ [(l, if excl then scanId op fmt else y)])
    | some p =>
      let (y, f) := scanStep op fmt k p a
      scanGo op fmt k excl xs (some y) (fl ||| f) (out ++ [(l, if excl then p else y)])

/-- The legality of a scan's modifiers. -/
def scanSig (unused : List Operand) (pos : List Pos) (m : Mods) (exclOk : Bool) : Sig :=
  groupSig unused pos m (!(scanOk m.op m.fmt) || (m.sat && !exclOk))
    (if decide (m.op = 0) && scanFlt m.fmt then decide (m.rnd > 3) else decide (m.rnd ≠ 0))

/-- Whether a scan's format is 64 bits wide. -/
def scanWide (fmt : Nat) : Bool := decide (fmt = 6) || decide (fmt = 7) || decide (fmt = 9) || decide (fmt = 0xC)

/-- The legality of SCAN (R103). -/
def scanWordSig (w : FWord) : Sig :=
  let m := Mods.ofNat (fMods w)
  scanSig [w.b, w.c] [(Pos.dst w.dest Acc.vOnly).wide (scanWide m.fmt), (Pos.src w.a Acc.vsz).wide (scanWide m.fmt)] m true

/-- The legality of SEGSCAN (R103). -/
def segscanSig (w : FWord) : Sig :=
  let m := Mods.ofNat (fMods w)
  scanSig [w.c] [(Pos.dst w.dest Acc.vOnly).wide (scanWide m.fmt), (Pos.src w.a Acc.vsz).wide (scanWide m.fmt), Pos.src w.b accP] m true

/-- The legality of REDUX (R103). -/
def reduxSig (w : FWord) : Sig :=
  let m := Mods.ofNat (fMods w)
  scanSig [w.b, w.c] [(Pos.dst w.dest Acc.vs).wide (scanWide m.fmt), (Pos.src w.a Acc.vsz).wide (scanWide m.fmt)] m false

/-- The results of SCAN. -/
def scanOut (w : FWord) (r : Run) : List (Reg × Word) × Flags :=
  let m := Mods.ofNat (fMods w)
  let wide := scanWide m.fmt
  let (outs, _, fl) := scanGo m.op m.fmt (rndOf m) m.sat ((lanesOf r.act).map (fun l => (l, r.val wide w.a l, false))) none 0 []
  ((outs.flatMap (fun o => dstWrites w.dest wide o.1 o.2)), fl)

/-- SCAN (R103). -/
def execScan (w : FWord) (s : State) : Host.Outcome State Fault Refusal :=
  issueF s w none (scanWordSig w) (fun r s => r.fixed s 10 (scanOut w r).1 (scanOut w r).2)

/-- The results of SEGSCAN. -/
def segscanOut (w : FWord) (r : Run) : List (Reg × Word) × Flags :=
  let m := Mods.ofNat (fMods w)
  let wide := scanWide m.fmt
  let (outs, _, fl) := scanGo m.op m.fmt (rndOf m) m.sat
    ((lanesOf r.act).map (fun l => (l, r.val wide w.a l, decide (r.val false w.b l = 1)))) none 0 []
  ((outs.flatMap (fun o => dstWrites w.dest wide o.1 o.2)), fl)

/-- SEGSCAN: a participant whose pb is 1 begins a segment (R103). -/
def execSegscan (w : FWord) (s : State) : Host.Outcome State Fault Refusal :=
  issueF s w none (segscanSig w) (fun r s => r.fixed s 10 (segscanOut w r).1 (segscanOut w r).2)

/-- The results of REDUX. -/
def reduxOut (w : FWord) (r : Run) : List (Reg × Word) × Flags :=
  let m := Mods.ofNat (fMods w)
  let wide := scanWide m.fmt
  let (_, x, fl) := scanGo m.op m.fmt (rndOf m) false ((lanesOf r.act).map (fun l => (l, r.val wide w.a l, false))) none 0 []
  ((commonWrites r w.dest wide x (scalarExt m.fmt x)), fl)

/-- REDUX (R103). -/
def execRedux (w : FWord) (s : State) : Host.Outcome State Fault Refusal :=
  issueF s w none (reduxSig w) (fun r s => r.fixed s 10 (reduxOut w r).1 (reduxOut w r).2)

end Sys2Proof.Machine
end

