-- ==== Sys2Proof/Machine/Control.lean ====
section
/-! DEFINITION. The control family and reserved words (spec 04, R104 to R113; spec 03, R61, R75; spec 09, R229). -/

namespace Sys2Proof.Machine

open Sys2Proof

/-- A signed field of n bits. -/
def signedField (x n : Nat) : Int := if x ≥ 2 ^ (n - 1) then (x : Int) - 2 ^ n else x

/-- The target of a PC-relative word: the address plus 8 times a signed count of words (R60). -/
def relTarget (pc : Word) (words : Int) : Word := pc + BitVec.ofInt 64 (8 * words)

/-- The target of BRA and CALL (R60). -/
def iTarget (w : IWord) (pc : Word) : Word :=
  relTarget pc (match w.x with | some _ => signedField (iLiteral w) 64 | none => signedField w.imm.toNat 30)

/-- The active lanes go to new PCs and the others to the next instruction (R104). -/
def Run.branch (r : Run) (s : State) (target : Nat → Word) : State :=
  s.retireAt r.sid r.set r.stall r.len (fun l => if r.act.getLsbD l then target l else r.pc + BitVec.ofNat 64 r.len) r.pc r.iw r.xw

/-- The legality of a branch with an immediate target: modifiers 0 (R105). -/
def branchSigI (w : IWord) (unused : List Operand) (pos : List Pos) : Sig :=
  { Sig.plain unused pos with resv := iResvX w || decide ((iMods w).getD 0 ≠ 0) }

/-- The legality of BRA (R105). -/
def braSig (w : IWord) : Sig := branchSigI w [w.dest, w.a] []

/-- The legality of CALL (R105). -/
def callSig (w : IWord) : Sig := branchSigI w [w.a] [(Pos.dst w.dest Acc.vsz).wide true]

/-- The writes of a link: per lane to a vector pair, once to a scalar (R105). -/
def linkWrites (o : Operand) (lanes : List Nat) (x : Word) : List (Reg × Option Word) :=
  (if isS o then dstWrites o true 0 x.toNat else lanes.flatMap (fun l => dstWrites o true l x.toNat)).map (fun w => (w.1, some w.2))

/-- Send out a link, a variable-latency result (R105). -/
def Run.link (r : Run) (s : State) (o : Operand) (lanes : Mask) (x : Word) : State :=
  let ws := linkWrites o (lanesOf lanes) x
  if ws.isEmpty then s else (s.outstand r.gid (lowest lanes) r.set ws).2

/-- BRA (R105). -/
def execBra (w : IWord) (s : State) : Host.Outcome State Fault Refusal :=
  issueI s w (braSig w) (fun r s => r.branch s (fun _ => iTarget w r.pc))

/-- CALL (R105). -/
def execCall (w : IWord) (s : State) : Host.Outcome State Fault Refusal :=
  issueI s w (callSig w) (fun r s =>
    r.branch (r.link s w.dest r.act (r.pc + BitVec.ofNat 64 r.len)) (fun _ => iTarget w r.pc))

/-- The checks of a target held in a register, then the branch (R104). Model's choice: where some lanes fail one check and other
lanes the other, misaligned-branch comes first, as the rule lists it first; neither R104 nor R75 gives an order. -/
def branchReg (r : Run) (s : State) (o : Operand) : State :=
  let t := fun l => BitVec.ofNat 64 (r.val true o l)
  let odd := maskOf ((lanesOf r.act).filter (fun l => decide ((t l).toNat % 8 ≠ 0)))
  let high := maskOf ((lanesOf r.act).filter (fun l => (t l).getLsbD 63 && !r.sg.sv))
  if odd ≠ 0 then r.trap s 7 0 (t (lowest odd)) odd
  else if high ≠ 0 then r.trap s 3 0 (t (lowest high)) high
  else r.branch s t

/-- The legality of a word whose modifier bits are all 0. -/
def zeroModSig (w : FWord) (unused : List Operand) (pos : List Pos) : Sig :=
  { Sig.plain unused pos with resv := decide (fMods w ≠ 0) }

/-- The legality of BRX and RET (R105). -/
def brxSig (w : FWord) : Sig := zeroModSig w [w.dest, w.b, w.c] [(Pos.src w.a Acc.vs).wide true]

/-- The legality of CALLI (R106). -/
def calliSig (w : FWord) : Sig := zeroModSig w [w.b, w.c] [(Pos.dst w.dest Acc.vsz).wide true, (Pos.src w.a Acc.vs).wide true]

/-- The legality of a word with no operands. -/
def bareSig (w : FWord) : Sig := zeroModSig w [w.dest, w.a, w.b, w.c] []

/-- BRX (R105). -/
def execBrx (w : FWord) (s : State) : Host.Outcome State Fault Refusal :=
  issueF s w none (brxSig w) (fun r s => branchReg r s w.a)

/-- RET (R105): the effect of BRX. -/
def execRet (w : FWord) (s : State) : Host.Outcome State Fault Refusal :=
  issueF s w none (brxSig w) (fun r s => branchReg r s w.a)

/-- CALLI (R106): privilege over the whole active mask, then a split by declared window budget. -/
def execCalli (w : FWord) (s : State) : Host.Outcome State Fault Refusal :=
  issueF s w none (calliSig w) (fun r s =>
    let t := fun l => r.val true w.a l
    let high := maskOf ((lanesOf r.act).filter (fun l => decide (t l ≥ 2 ^ 63) && !r.sg.sv))
    let fat := maskOf ((lanesOf r.act).filter (fun l => decide (t l % 8 + 1 > r.g.wins)))
    let go := r.act &&& ~~~fat
    let target := fun l => if go.getLsbD l then BitVec.ofNat 64 (t l / 8 * 8) else r.pc + 8
    if high ≠ 0 then r.trap s 3 0 (BitVec.ofNat 64 (t (lowest high))) high
    else if fat = 0 then r.branch (r.link s w.dest r.act (r.pc + 8)) target
    else
      -- the links are written before the failing lanes take their trap
      let s1 := s.updSub r.sid (fun sg => (linkWrites w.dest (lanesOf go) (r.pc + 8)).foldl
        (fun sg x => sg.writeNow x.1 (x.2.getD 0)) sg)
      let s2 := if go = 0 then s else s1
      let s3 := if r.set &&& ~~~fat = 0 then s2 else s2.retireAt r.sid (r.set &&& ~~~fat) r.stall r.len target r.pc r.iw r.xw
      s3.enterTrap r.sid fat { cause := 4, detail := 0, info := 0, fmask := fat, next := false, tpc := r.pc, len := 8, iword := r.iw, xword := r.xw })

/-! ## Tie points -/

/-- The most tie records of a station (R229). -/
def tieCapacity : Nat := 1024

/-- Whether a station has a record of M or room for one (R229). -/
def State.tieRoom (s : State) (gid m n : Nat) (meet : Word) : Bool :=
  s.ties.any (fun e => decide (e.2.gid = gid) && decide (e.2.mast = m) && decide (e.2.stn = n) && decide (e.2.m = meet)) ||
  decide ((s.ties.filter (fun e => decide (e.2.mast = m) && decide (e.2.stn = n))).length < tieCapacity)

/-- A TIE's lanes become members of M at a station: of its record, open or draining, or of a new one (R108 step 6, R229). -/
def State.tieMember (s : State) (gid m n : Nat) (meet : Word) (lanes : Mask) : State :=
  match s.ties.find? (fun e => decide (e.2.gid = gid) && decide (e.2.mast = m) && decide (e.2.stn = n) && decide (e.2.m = meet)) with
  | some (i, _) => { s with ties := SMap.upd s.ties i (fun t => { t with member := t.member ||| lanes }) }
  | none =>
    let (i, t) := s.fresh
    let tie : Tie := { gid := gid, mast := m, stn := n, m := meet, isOpen := true, opened := false, dl := 0, member := lanes, held := 0, sid := none }
    { t with ties := SMap.put t.ties i tie }

/-- TIE's effect on its lanes (R107). -/
def State.setTie (s : State) (sid : Nat) (lanes : Mask) (meet : Word) (place : BitVec 32) (live : BitVec 8) : State :=
  s.updSub sid (fun sg =>
    let t := sg.mapLanes lanes (fun l => { l with meet := meet })
    { t with rejoin := place, rlive := live })

/-- The meeting address that a TIE names (R107). -/
def tieMeet (pc : Word) (x : XWord) : Word := relTarget pc (signedField (fieldOf x 0 30) 30)

/-- The legality of TIE (R107). -/
def tieSig (w : FWord) (xw : XWord) : Sig :=
  { Sig.plain [w.dest, w.a, w.b, w.c] [] with resv := decide (w.lo.toNat > 1) || decide (fieldOf xw 30 32 ≠ 0), crew := true }

/-- TIE (R107, R229). -/
def execTie (w : FWord) (x : Option XWord) (s : State) : Host.Outcome State Fault Refusal :=
  match x with
  | none => issueBadX s 6
  | some xw =>
    issueF s w x (tieSig w xw) (fun r s =>
      let meet := tieMeet r.pc xw
      let here := s.placeAt r.sg.mast r.sg.stn
      let place := if w.lo.getLsbD 0 then s.crewPlace r.g else here
      let pm := s.gm (fieldOf place 10 10) (fieldOf place 6 4)
      let pn := fieldOf place 0 6
      if meet = 0 then r.trap s 1 4 0 r.act
      else if place = here then
        if s.tieRoom r.gid r.sg.mast r.sg.stn meet then
          r.done ((s.tieMember r.gid r.sg.mast r.sg.stn meet r.act).setTie r.sid r.act meet place w.hi)
        else r.waitFor s r.act .tie none (some r.sg.bound) .zero
      else
        let wid := s.nextId
        let s1 := r.waitFor s r.act .tie none (some r.sg.bound) .zero
        s1.send (stnPort r.sg.mast r.sg.stn) (stnPort pm pn) (.tieNotice wid r.gid meet r.act pm pn r.sid))

/-- The legality of JOIN (R109). -/
def joinSig (w : FWord) : Sig :=
  { zeroModSig w [] [Pos.dst w.dest Acc.sz, Pos.src w.a Acc.dOnly, Pos.src w.b Acc.sz, (Pos.src w.c Acc.vsz).wide true] with join := true }

/-- JOIN (R109): for the lanes that a tie point released, the return to the enclosing tie point; for others status OK only. -/
def execJoin (w : FWord) (s : State) : Host.Outcome State Fault Refusal :=
  issueF s w none (joinSig w) (fun r s =>
    let rel := (SMap.get? r.sg.lanes r.low).bind (fun l => l.rel)
    let status : Nat := match rel with | some (c, _) => c.toNat % 16 | none => 0
    let send := fun (s : State) =>
      if isS w.dest then (s.outstand r.gid r.low r.set ((dstWrites w.dest true 0 status).map (fun x => (x.1, some x.2)))).2 else s
    match rel with
    | none => r.done (send s)
    | some (code, dl) =>
      let zc := decide (w.c = .zero)
      let place : BitVec 32 := if zc then noRejoin else if w.b = .zero then s.crewPlace r.g else (r.sval w.b).setWidth 32
      let s1 := s.updSub r.sid (fun sg =>
        { sg with
          lanes := sg.lanes.map (fun e => if r.act.getLsbD e.1 then (e.1, { e.2 with meet := BitVec.ofNat 64 (r.val true w.c e.1) }) else e)
          rejoin := place
          rlive := if zc then sg.rlive else 0xFF })
      (if code = 0x83 || code = 3 then (send s1).noteLanes 3 r.sid r.act (BitVec.ofNat 64 (code.toNat % 16)) else send s1).finish r.sid r.g r.set r.act r.stall r.len (decide (code = 3)) (decide (code = 0)) dl r.iw r.xw)

/-- EXIT (R111). -/
def execExit (w : FWord) (s : State) : Host.Outcome State Fault Refusal :=
  issueF s w none (bareSig w) (fun r s =>
    let rest := r.set &&& ~~~r.act
    (if rest = 0 then s else s.retire r.sid rest r.stall r.len r.iw r.xw).endLanes r.sid r.act)

/-- YIELD: its issue set is placed last in the pick (R112, R212). -/
def execYield (w : FWord) (s : State) : Host.Outcome State Fault Refusal :=
  issueF s w none (bareSig w) (fun r s =>
    (r.done s).updSub r.sid (fun sg => sg.mapLanes r.set (fun l => { l with since := r.now + 1, starve := 0, yield := true })))

/-- NOP (R112). -/
def execNop (w : FWord) (s : State) : Host.Outcome State Fault Refusal :=
  issueF s w none (bareSig w) (fun r s => r.done s)

/-- The stream that an operand names. -/
def streamOf (g : Group) (o : Operand) : Option Stream :=
  match o with
  | .q n => SMap.get? g.streams n.toNat
  | .v _ | .s _ | .p _ | .k _ | .d _ | .zero | .rsv _ => none

/-- The legality of LOOPQ (R113). -/
def loopqSig (w : FWord) (xw : XWord) : Sig :=
  { Sig.plain [w.dest, w.b, w.c] [{ Pos.src w.a Acc.qOnly with qopen := true }] with
    resv := decide (w.hi ≠ 0) || decide (w.lo.toNat / 8 ≠ 0) || decide (w.lo.toNat % 4 = 3) || decide (fieldOf xw 30 32 ≠ 0) }

/-- LOOPQ (R113). -/
def execLoopq (w : FWord) (x : Option XWord) (s : State) : Host.Outcome State Fault Refusal :=
  match x with
  | none => issueBadX s 6
  | some xw =>
    issueF s w x (loopqSig w xw) (fun r s =>
      let e := match streamOf r.g w.a with | some q => q.e.getLsbD (w.lo.toNat % 4) | none => false
      if e = w.lo.getLsbD 2 then r.branch s (fun _ => tieMeet r.pc xw) else r.done s)

/-- The check that a word with no instruction fails (R75, order 3). -/
def noWordSig : Sig := { Sig.plain [] [] with pre := some ⟨3, 1, 1⟩ }

/-- A word with no instruction (R61, R75): an X word reached first, or an opcode that is reserved or has no form in its
class. -/
def execReservedEncoding (w : Word) (x : Option XWord) (s : State) : Host.Outcome State Fault Refusal :=
  if fieldOf w 62 2 = 3 then issueBadX s 5
  else
    issueWord s (w.getLsbD 51) (w.extractLsb' 48 3) (fieldOf w 44 4) (if x.isSome then 16 else 8)
      noWordSig (fun r _ => r.pc) (fun r s => r.done s)

end Sys2Proof.Machine
end

