-- ==== Sys2Proof/Machine/Errors.lean ====
section
/-! DEFINITION. Checked reads of sectors: corrected and uncorrectable errors and their registers (spec 18, R326, R327, R330). -/

namespace Sys2Proof.Machine

open Sys2Proof

/-- The mast of a cell. -/
def cellMast (cell : Nat) : Nat := cell / 2 ^ 37

/-- SRC and UEPA of the sector at a cell (R330). -/
def errPlace (cell : Nat) : Nat × Nat :=
  let c := cell % 2 ^ 37
  if c < 2 ^ 36 then (0, c)
  else
    let n := (c - 2 ^ 36) / 2 ^ 21
    let off := (c - 2 ^ 36) % 2 ^ 21
    if off < 0x40000 then (2, n * 2 ^ 20 + off) else (1, n * 2 ^ 20 + (off - 0x40000))

/-- A saturating count. -/
def satInc (x : BitVec 32) : BitVec 32 := if x = 0xFFFFFFFF then x else x + 1

/-- The report of a mast's error interrupt (R330): TYPE 0x08. -/
def State.errorEvent (s : State) (m : Nat) : State :=
  let t := s.mast m
  s.postAt m { typ := 8, code := 0, tag := 0, ctx := 0, w1 := BitVec.ofNat 64 (m % 16),
               w2 := packWord' t.uei t.cei, w3 := t.uepa.setWidth 64 }
where
  /-- UEI above CEI. -/
  packWord' (u c : Bool) : Word := (if u then 2 else 0) + (if c then 1 else 0)

/-- Count a corrected error (R326, R330). -/
def State.countCe (s : State) (m : Nat) : State :=
  let n := satInc (s.mast m).cecnt
  let hit := decide (n = (s.mast m).cethr)
  let was := (s.mast m).cei
  let s1 := s.updMast m (fun t => { t with cecnt := n, cei := t.cei || hit })
  if hit && !was then s1.errorEvent m else s1

/-- Count an uncorrectable error at a place (R327, R330). -/
def State.countUeAt (s : State) (m src uepa : Nat) : State :=
  let was := (s.mast m).uei
  let s1 := s.updMast m (fun t =>
    { t with uecnt := satInc t.uecnt, uei := true, uv := true,
             src := if t.uv then t.src else BitVec.ofNat 3 src,
             uepa := if t.uv then t.uepa else BitVec.ofNat 36 uepa })
  if was then s1 else s1.errorEvent m

/-- Count an uncorrectable error of a sector. -/
def State.countUe (s : State) (cell : Nat) : State :=
  s.countUeAt (cellMast cell) (errPlace cell).1 (errPlace cell).2

/-- The DRAM row of a physical address of a mast: rows lie within a bank group, PA[23:16] (R287; log entry 3). -/
def rowOf (pa : Nat) : Nat := Config.dramRow pa * 256 + pa / 2 ^ 16 % 256

/-- The DRAM bank of a physical address of a mast. -/
def bankOf (pa : Nat) : Nat := Config.dramBank (rowOf pa) * 256 + pa / 2 ^ 16 % 256

/-- Count a corrected error of a DRAM row in this scrub period; with AUTO, its fourth asks for the row to be spared unless a
repair is in progress (R329). -/
def State.countRow (s : State) (cell : Nat) : State :=
  let pa := cell % 2 ^ 37
  if pa ≥ 2 ^ 36 then s
  else s.updMast (cellMast cell) (fun t =>
    let n := RMap.get t.rowErrs (rowOf pa)
    let ask := t.auto && !t.busy && decide (n = 3)
    { t with rowErrs := RMap.set t.rowErrs (rowOf pa) (if n = 255 then n else n + 1)
             repair := if ask then BitVec.ofNat 64 (2 ^ 60 + pa) else t.repair
             busy := t.busy || ask })

/-- Read some sectors as part of sector operations: every corrected symbol and every uncorrectable sector is counted (R326,
R327). -/
def State.checkRead (s : State) (sectors : List Nat) : State :=
  sectors.foldl (fun s c => if s.bad.contains c then s.countUe c else if s.soft.contains c then (s.countCe (cellMast c)).countRow c else s) s

/-- Mark sectors written whole as good (R327). -/
def State.heal (s : State) (sectors : List Nat) : State :=
  { s with bad := s.bad.filter (fun c => !sectors.contains c) }

end Sys2Proof.Machine
end

