-- ==== Sys2Proof/Machine/Memory.lean ====
section
/-! DEFINITION. The memory family without streams and fences (spec 05, R114 to R132): address formation, the checks before
an access, moves to the home, the access at the home, and what each word does there. -/

namespace Sys2Proof.Machine

open Sys2Proof

/-! ## The memory operand -/

/-- Bytes of a size code (R117). -/
def szBytes (sz : Nat) : Nat := [1, 1, 2, 2, 4, 8, 16, 32].getD sz 1

/-- Vector registers of a size code (R117). -/
def szRegs (sz : Nat) : Nat := max 1 (szBytes sz / 4)

/-- The register run of a size code (R117). -/
def runPos (p : Pos) (sz : Nat) : Pos := p.runOf (szRegs sz) (szRegs sz)

/-- The classes of a run: scalars only up to 8 bytes (R117). -/
def runAcc (sz : Nat) : Acc := if szRegs sz > 2 then Acc.vOnly else Acc.vs

/-- The size field of the address byte (R115). -/
def szOf (w : FWord) : Nat := w.lo.toNat % 8

/-- The X bit of the address byte (R115). -/
def xBit (w : FWord) : Bool := w.lo.getLsbD 7

/-- The index width bit (R115). -/
def iwOf (w : FWord) : Bool := w.lo.getLsbD 4

/-- A memory operand's address in a lane (R114). -/
def memAddr (w : FWord) (x : Option XWord) (r : Run) (lane : Nat) : Word :=
  let base : Int := (r.val true w.a lane : Nat)
  let index : Int := if iwOf w then (r.val true w.b lane : Nat) else signedField (r.val false w.b lane) 32
  let off : Int := match x with | some x => signedField (fieldOf x 0 32) 32 | none => 0
  BitVec.ofInt 64 (base + index * 2 ^ fieldOf w.lo 5 2 + off)

/-- The operand field xa of an X word (R116). -/
def xaOf (x : XWord) : Operand := .ofCode (x.extractLsb' 32 7)

/-- The operand field xb of an X word (R116). -/
def xbOf (x : XWord) : Operand := .ofCode (x.extractLsb' 39 7)

/-- The legality that a memory operand adds: its two sources, the reserved bits of the address byte and the X word's fields
that its entry does not use (R114 to R116). -/
def memSig (w : FWord) (x : Option XWord) (unused : List Operand) (pos : List Pos) (resv useA useB useAux useType needX : Bool) : Sig :=
  let xr := match x with
    | none => false
    | some x => decide (fieldOf x 53 9 ≠ 0) || (!useType && decide (fieldOf x 50 3 ≠ 0)) || (!useAux && decide (fieldOf x 46 4 ≠ 0))
  let xu := match x with
    | none => []
    | some x => (if useA then [] else [xaOf x]) ++ (if useB then [] else [xbOf x])
  { Sig.plain (unused ++ xu) (pos ++ [Pos.src w.a Acc.sz, (Pos.src w.b Acc.vsz).wide (iwOf w)]) with
    resv := resv || w.lo.getLsbD 3 || xr || (needX && !(xBit w)) }

/-- Issue of a memory word: a head that asks for an X word and has none is refused first (R61, R115). -/
def issueMem (s : State) (w : FWord) (x : Option XWord) (needX : Bool) (sig : Sig) (body : Body) : Host.Outcome State Fault Refusal :=
  if (needX || xBit w) && x.isNone then issueBadX s 6
  else issueWord s w.gneg w.guard w.stall.toNat (if x.isSome then 16 else 8) sig (fun r l => memAddr w x r l) body

/-! ## Homes -/

/-- The spaces of an access (R120). -/
inductive Space where
  | glob | loc | spill
  deriving DecidableEq, Repr

/-- The windows that vector sources lie in (R121). -/
def srcWindows (ps : List Pos) : BitVec 8 :=
  ps.foldl (fun m p => match p.o with
    | .v n => (List.range p.run).foldl (fun m i => m ||| BitVec.ofNat 8 (2 ^ ((n.toNat + i) / 8))) m
    | .s _ | .p _ | .k _ | .q _ | .d _ | .zero | .rsv _ => m) 0

/-- The base of a group's spill stack and its limit; none where every access fails (R36, R37). -/
def spillLimit (pseg : Word) : Option (Nat × Nat) :=
  let base := fieldOf pseg 0 21
  let size := fieldOf pseg 32 21
  if base + size > 0x100000 then none else some (base, size)

/-- The context of a group. -/
def State.ctxOf (s : State) (g : Group) : Option Ctx := SMap.get? s.ctxs g.ctx

/-- The direct form of an address of a run's context. -/
def State.dirOf (s : State) (r : Run) (a : Word) : Word := ((s.ctxOf r.g).map (fun c => s.direct c a)).getD a

/-- The home of a lane's address: device number, mast, and station, or 64 for a mast's home (R120). -/
def State.laneHome (s : State) (r : Run) (sp : Space) (a : Word) : Option (Nat × Nat × Nat) :=
  match sp with
  | .loc | .spill => (s.crewOf r.g).map (fun c => (s.devNum (c.mast / 16), c.mast, c.stn))
  | .glob =>
    match (s.ctxOf r.g).map (fun c => s.home c a) with
    | some (.dram d m) => some (d, m, 64)
    | some (.window d m n _) => some (d, m, n)
    | some (.none _) | none => none

/-- Why a global address has no home that takes it (R119). -/
def State.homeWhy (s : State) (r : Run) (a : Word) : Option (BitVec 8) :=
  match (s.ctxOf r.g).map (fun c => s.home c a) with
  | some (.none d) => some d
  | some (.dram _ _) | some (.window _ _ _ _) => none
  | none => some 1

/-- Whether a home is here (R120). -/
def isHere (sg : SubGroup) (h : Nat × Nat × Nat) : Bool :=
  decide (h.2.1 = sg.mast) && (decide (h.2.2 = 64) || decide (h.2.2 = sg.stn))

/-- A failed check of R118: cause, detail and the failing lanes. -/
structure MemFail where
  cause  : BitVec 8
  detail : BitVec 8
  lanes  : List Nat

/-- Checks 1 to 5 of R118 in order; size 0 makes no alignment check. Model's choice: failing lanes whose details of migration-refused
differ report that of the lowest failing lane, whose address INFO holds (R198). -/
def State.memCheck (s : State) (r : Run) (sp : Space) (size : Nat) (bounds moves : Bool) (addr : Nat → Word) : Option MemFail :=
  let lanes := lanesOf r.act
  let mis := if size = 0 then [] else lanes.filter (fun l => decide ((addr l).toNat % size ≠ 0))
  let prv := if sp = .glob then lanes.filter (fun l => (addr l).getLsbD 63 && !r.sg.sv) else []
  let why := fun l => s.homeWhy r (addr l)
  let ref := if sp = .glob then lanes.filter (fun l => (why l).isSome) else []
  let lim : Option Nat := match sp with
    | .glob => none
    | .loc => some (((s.crewOf r.g).map Crew.limit).getD 0)
    | .spill => some (((spillLimit r.sg.pseg).map (fun b => b.2)).getD 0)
  let dead := decide (sp = .spill) && (spillLimit r.sg.pseg).isNone
  let bnd : List Nat := match lim with
    | none => []
    | some n => if bounds then lanes.filter (fun l => dead || decide ((addr l).toNat + size > n)) else []
  let mov := if moves && r.g.streaming then
      lanes.filter (fun l => match s.laneHome r sp (addr l) with | some h => !isHere r.sg h | none => false)
    else []
  if mis ≠ [] then some ⟨6, 0, mis⟩
  else if prv ≠ [] then some ⟨3, 0, prv⟩
  else if ref ≠ [] then some ⟨8, (why (ref.headD 0)).getD 0, ref⟩
  else if bnd ≠ [] then some ⟨if sp = .spill then 0x0A else 9, 0, bnd⟩
  else if mov ≠ [] then some ⟨8, 4, mov⟩
  else none

/-- Remote lanes move to their homes, one journey for each (R121); the walker group never moves (R291). -/
def State.moveRemote (s : State) (r : Run) (sp : Space) (live : BitVec 8) (addr : Nat → Word) : State × Mask :=
  let far := (lanesOf r.act).filterMap (fun l => match s.laneHome r sp (addr l) with
    | some h => if isHere r.sg h then none else some (l, h)
    | none => none)
  let homes := (far.map (fun e => e.2)).dedup
  if r.g.walker then (s, 0) else
  (homes.foldl (fun s h => s.departTo r.sid (maskOf ((far.filter (fun e => decide (e.2 = h))).map (fun e => e.1))) 1 live h.1 h.2.1 h.2.2) s,
   maskOf (far.map (fun e => e.1)))

/-! ## At the home -/

/-- Where an access stands at its home (R122): at a cell, outside the window's bounds, waiting for translation, or where the
walker group may not go (R291). -/
inductive AtHome where
  | cell (c : Nat) | hold | bounds | walkEnd
  deriving DecidableEq, Repr

/-- The place of a direct-form global address at its home for a context (R37, R122); access 3 is the walker group's, which takes
OFF as a physical address in a frame of its context (R291). -/
def State.placeOf (s : State) (ctx : Nat) (va : Word) (acc : BitVec 2) : AtHome :=
  let m := s.vaMast va
  let off := fieldOf va 0 49
  if acc = 3 then
    let pa := fieldOf va 0 36
    if off < 0x100000000000 && s.frameTag m (pa / 2 ^ 16) == BitVec.ofNat 16 ctx then .cell (dramCell m pa) else .walkEnd
  else if off ≥ 0x100000000000 then
    let n := off / 2 ^ 21 % 64
    let lim := match (s.stn m n).crew.bind (SMap.get? s.crews) with | some c => c.limit | none => 0
    if off % 2 ^ 21 < lim then .cell (localCell m n (off % 2 ^ 21)) else .bounds
  else match s.xlate ctx va acc with
    | .ok pa => .cell (dramCell m pa)
    | .miss | .fault _ => .hold

/-- Whether the place that a direct-form address names has been fenced (R332, R244). -/
def State.fencedAt (s : State) (va : Word) : Bool :=
  let m := s.vaMast va
  let off := fieldOf va 0 49
  (s.mast m).fenced || (decide (off ≥ 0x100000000000) && (s.stn m (off / 2 ^ 21 % 64)).fenced)

/-- The place of a lane's access at its home (R122, R291, R38). -/
def State.laneAt (s : State) (r : Run) (sp : Space) (a : Word) (acc : BitVec 2) : AtHome :=
  match sp with
  | .loc => match s.crewOf r.g with | some c => .cell (localCell c.mast c.stn a.toNat) | none => .walkEnd
  | .spill =>
    match s.crewOf r.g, spillLimit r.sg.pseg with
    | some c, some b => .cell (localCell c.mast c.stn (0x40000 + b.1 + a.toNat))
    | _, _ => .walkEnd
  | .glob =>
    if r.g.walker then
      match (s.ctxOf r.g).map (fun c => s.home c a) with
      | some (.dram _ m) => if m = r.sg.mast then s.placeOf r.g.ctx (s.dirOf r a) 3 else .walkEnd
      | some (.window _ _ _ _) | some (.none _) | none => .walkEnd
    else match s.ctxOf r.g with
      | some c => s.placeOf r.g.ctx (s.direct c a) acc
      | none => .walkEnd

/-- Lanes whose pages are not translated yet are held, page by page, with their accesses (R122, R296). -/
def State.holdLanes (s : State) (r : Run) (t : ThreadAcc) (acc : BitVec 2) (held : List LaneAcc) : State :=
  let pages := (held.map (fun o => pageOf o.addr)).dedup
  pages.foldl (fun s p =>
    let ops := held.filter (fun o => decide (pageOf o.addr = p))
    let va := ((ops.head?).map (fun o => o.addr)).getD 0
    let (s1, _, x) := s.tryXl (XlReq.mk' r.g.ctx va acc)
    s1.beginWait (r.waitRec (maskOf (ops.map (fun o => o.lane))) (.access x { t with ops := ops }) none (some r.sg.bound) .zero)) s

/-- Bytes that an operation accesses in each lane. -/
def ThreadOp.size : ThreadOp → Nat
  | .load sz | .store sz => szBytes sz
  | .atom _ at' => if at' = 2 || at' = 3 || at' = 5 || at' = 7 then 8 else 4
  | .cas wide => if wide then 8 else 4

/-- Whether an operation writes memory. -/
def ThreadOp.writes : ThreadOp → Bool
  | .load _ => false
  | .store _ | .atom _ _ | .cas _ => true

/-- The value that an atomic operation leaves in memory (R126). -/
def atomOp (aop at' old x : Nat) : Nat :=
  let t : IFmt := { w := if at' = 2 || at' = 3 || at' = 5 || at' = 7 then 64 else 32, signed := decide (at' = 0) || decide (at' = 2), b := false }
  let old := old % 2 ^ t.w
  let x := x % 2 ^ t.w
  let flt : FFmt := if at' = 5 then FFmt.f64 else FFmt.f32
  let isF := decide (at' = 4) || decide (at' = 5)
  match aop with
  | 0 => if isF then (flt.addOp Rnd.rne old x).1 else wrapTo t.w (tVal t old + tVal t x)
  | 1 => if isF then (flt.minMaxOp false old x).1 else if tVal t x < tVal t old then x else old
  | 2 => if isF then (flt.minMaxOp true old x).1 else if tVal t old < tVal t x then x else old
  | 3 => old &&& x
  | 4 => old ||| x
  | 5 => old ^^^ x
  | _ => x

/-- The types that an atomic operation accepts (R126). -/
def atomTypeOk (aop at' : Nat) : Bool :=
  if aop ≤ 2 then decide (at' ≤ 5) else if aop ≤ 5 then decide (at' ≤ 3) || decide (at' ≥ 6) else decide (aop = 6)

/-- A run's registers in a lane as one number, or the scalar's value (R117). -/
def runValue (r : Run) (o : Operand) (n lane : Nat) : Nat :=
  match o with
  | .v m => (List.range n).foldl (fun a i => a + (r.reg lane (.v lane (m.toNat + i))).toNat * 2 ^ (32 * i)) 0
  | .s m => (r.reg lane (.s m.toNat)).toNat
  | .p _ | .k _ | .q _ | .d _ | .zero | .rsv _ => 0

/-- The registers that a load of a size fills with a value (R117). -/
def fillWrites (o : Operand) (sz lane x : Nat) : List (Reg × Word) :=
  let x' : Nat → Nat := fun w =>
    if sz = 1 then wrapTo w (signedField x 8) else if sz = 3 then wrapTo w (signedField x 16) else x
  match o with
  | .v n => (List.range (szRegs sz)).map (fun i => (.v lane (n.toNat + i), BitVec.ofNat 64 (x' 32 / 2 ^ (32 * i) % 2 ^ 32)))
  | .s n => [(.s n.toNat, BitVec.ofNat 64 (x' 64))]
  | .p _ | .k _ | .q _ | .d _ | .zero | .rsv _ => []

/-- The number held in some bytes of memory. -/
def State.num (s : State) (cell n : Nat) : Nat := leNat (s.bytes cell n)

/-- One lane's access with its cell. -/
abbrev CellAcc := LaneAcc × Nat

/-- The sectors of some accesses. -/
def sectorsOf (items : List CellAcc) : List Nat := (items.map (fun i => sectorOf i.2)).dedup

/-- Whether stores cover a sector in all 32 bytes (R122). -/
def covers (items : List CellAcc) (size sec : Nat) : Bool :=
  (List.range 32).all (fun k => items.any (fun i => decide (i.2 ≤ sec + k) && decide (sec + k < i.2 + size)))

/-- The sectors that an operation reads (R122, R327). -/
def sectorsRead (op : ThreadOp) (items : List CellAcc) : List Nat :=
  match op with
  | .store sz => (sectorsOf items).filter (fun c => !covers items (szBytes sz) c)
  | .load _ | .atom _ _ | .cas _ => sectorsOf items

/-- The write of one lane, given the value it finds (R123, R127, R128). -/
def ThreadOp.result (op : ThreadOp) (o : LaneAcc) (old : Nat) : Option Nat :=
  match op with
  | .load _ => none
  | .store _ => some o.data
  | .atom aop at' => some (atomOp aop at' old o.data)
  | .cas wide => if old = o.data % 2 ^ (if wide then 64 else 32) then some o.swap else none

/-- The accesses in ascending lane order, each with the value it finds (R122, R127, R128). -/
def State.performOps (op : ThreadOp) : List CellAcc → State → State × List (Nat × Nat)
  | [], s => (s, [])
  | i :: is, s =>
    let old := s.num i.2 op.size
    let s1 := match op.result i.1 old with
      | some x => s.store i.2 (leBytes op.size x)
      | none => s
    let (s2, olds) := State.performOps op is s1
    (s2, (i.1.lane, old) :: olds)

/-- The registers that the values found are written to (R123, R124, R127). -/
def ThreadAcc.writes (t : ThreadAcc) (olds : List (Nat × Nat)) : List (Reg × Word) :=
  match t.op with
  | .store _ => []
  | .load sz => if isS t.dest then fillWrites t.dest sz 0 ((olds.head?.map (fun e => e.2)).getD 0)
      else olds.flatMap (fun e => fillWrites t.dest sz e.1 e.2)
  | .atom _ _ | .cas _ =>
    let wide := decide (t.op.size = 8)
    if isS t.dest then dstWrites t.dest true 0 ((olds.head?.map (fun e => e.2)).getD 0)
    else olds.flatMap (fun e => dstWrites t.dest wide e.1 e.2)

/-- The entry of a mast's journal for an atomic operation served there on a sector, with ATOM set (R338). -/
def State.noteAtom (s : State) (ctx : Nat) (req : Word) (cell : Nat) : State :=
  let m := cellMast cell
  s.on (m / 16) (fun s => if (s.jrnOf (m % 16)).atom then s.note (m % 16) 8 ctx (BitVec.ofNat 64 (cell % 2 ^ 37)) req 0 else s)

/-- The entries for the atomics of a word. -/
def State.noteAtoms (s : State) (op : ThreadOp) (gid ctx lane : Nat) (items : List CellAcc) : State :=
  match op with
  | .load _ | .store _ => s
  | .atom _ _ | .cas _ => (sectorsOf items).foldl (fun s c => s.noteAtom ctx (s.requester gid lane) c) s

/-- The accesses that meet an uncorrectable sector which the operation reads (R122 step 3, R327). -/
def State.failing (s : State) (t : ThreadAcc) (items : List CellAcc) : List CellAcc :=
  items.filter (fun i => (sectorsRead t.op items).contains (sectorOf i.2) && s.bad.contains (sectorOf i.2))

/-- The access at its home by the lanes of a run, their cells found (R122 step 3, R327): uncorrectable sectors trap; otherwise
it is performed, its results go out and the word completes. -/
def State.performAt (s : State) (r : Run) (t : ThreadAcc) (items : List CellAcc) : State :=
  let failing := s.failing t items
  let s1 := s.checkRead (sectorsRead t.op items)
  if failing ≠ [] then
    let info := failing.foldl (fun a i => if i.1.addr.toNat / 32 * 32 < a then i.1.addr.toNat / 32 * 32 else a) (2 ^ 64 - 1)
    r.trap s1 0x0B 0 (BitVec.ofNat 64 info) (maskOf (failing.map (fun i => i.1.lane)))
  else
    let whole := match t.op with
      | .store sz => (sectorsOf items).filter (fun c => covers items (szBytes sz) c)
      | .load _ | .atom _ _ | .cas _ => []
    let (s2, olds) := State.performOps t.op items (s1.noteAtoms t.op r.gid r.g.ctx r.low items)
    r.later (s2.heal whole) (t.writes olds) 0

/-- The lanes of a word that have completed it and are ready to go on. -/
def Run.passed (r : Run) (s : State) (lanes : Mask) : Mask :=
  match SMap.get? s.subs r.sid with
  | some sg => lanes &&& sg.laneMask (fun l => decide (l.st = .ready) && decide (l.pc = r.pc + BitVec.ofNat 64 r.len))
  | none => 0

/-- The lanes of an issue set for which no page is missing perform their access; while others are held, they and the lanes that the
guard leaves out stand by (R122, R296; log entry 17). -/
def performHere (go : Run) (s0 s : State) (t : ThreadAcc) (items : List CellAcc) : State :=
  let ks := (s.waits.filter (fun e => (SMap.get? s0.waits e.1).isNone)).map (fun e => e.1)
  if go.set = 0 then s
  else if ks.isEmpty || s.failing t items ≠ [] then (if go.act = 0 then go.done s else s.performAt go t items)
  else
    let s1 := if go.act = 0 then s else s.performAt { go with set := go.act } t items
    s1.standBy (go.waitRec ((go.set &&& ~~~go.act) ||| go.passed s1 go.act) (.standBy ks) none none .zero) ks

/-- THE COMMON PATH (R118 to R122): the checks over the active mask, the moves of remote lanes, and for lanes here the holds
and the access. srcs are the vector sources whose windows always travel. -/
def memPath (r : Run) (s : State) (sp : Space) (live : BitVec 8) (srcs : List Pos) (addr : Nat → Word) (t : ThreadAcc) : State :=
  match s.memCheck r sp t.op.size true true addr with
  | some f => r.trap s f.cause f.detail (addr (f.lanes.headD 0)) (maskOf f.lanes)
  | none =>
    let acc : BitVec 2 := if t.op.writes then 1 else 0
    let (s1, gone) := s.moveRemote r sp (live ||| srcWindows srcs) addr
    let dir := fun (a : Word) => if sp = .glob then s.dirOf r a else a
    let here := (t.ops.filter (fun o => !gone.getLsbD o.lane)).map (fun o => (o, s.laneAt r sp o.addr acc))
    let walkEnd := here.any (fun e => decide (e.2 = .walkEnd))
    let held := here.filterMap (fun e => if e.2 = .hold then some { e.1 with addr := dir e.1.addr } else none)
    let out := (here.filter (fun e => decide (e.2 = .bounds))).map (fun e => e.1)
    let items : List CellAcc := here.filterMap (fun e => match e.2 with | .cell c => some (e.1, c) | .hold | .bounds | .walkEnd => none)
    if walkEnd then s1.endWalker r.gid
    else
      let s2 := s1.holdLanes r t acc held
      let heldMask := maskOf (held.map (fun o => o.lane))
      let go : Run := { r with set := r.set &&& ~~~gone &&& ~~~heldMask, act := r.act &&& ~~~gone &&& ~~~heldMask }
      if out ≠ [] then
        go.trap s2 9 0 (BitVec.ofNat 64 (fieldOf ((out.head?.map (fun o => o.addr)).getD 0) 0 21)) (maskOf (out.map (fun o => o.lane)))
      else performHere go s1 s2 t items

/-! ## Loads, stores and atomics -/

/-- Whether an operand is a vector register. -/
def isV : Operand → Bool
  | .v _ => true
  | .s _ | .p _ | .k _ | .q _ | .d _ | .zero | .rsv _ => false

/-- The index of a memory operand as a source position (R114). -/
def indexPos (w : FWord) : Pos := (Pos.src w.b Acc.vsz).wide (iwOf w)

/-- The accesses of the active lanes. -/
def laneAccs (r : Run) (addr : Nat → Word) (data swap : Nat → Nat) : List LaneAcc :=
  (lanesOf r.act).map (fun l => { lane := l, addr := addr l, data := data l, swap := swap l })

/-- The legality of a plain load: a scalar destination takes no vector index (R123, R124). -/
def loadSig (w : FWord) (x : Option XWord) (sp : Space) : Sig :=
  { memSig w x [w.c] [runPos (Pos.dst w.dest (runAcc (szOf w))) (szOf w)] false false false false false false with
    illop := isS w.dest && isV w.b, crew := decide (sp ≠ .glob) }

/-- A plain load (R123, R124). -/
def loadWord (s : State) (w : FWord) (x : Option XWord) (sp : Space) : Host.Outcome State Fault Refusal :=
  let sz := szOf w
  issueMem s w x false (loadSig w x sp) (fun r s =>
    memPath r s sp w.hi [indexPos w] (memAddr w x r)
      { op := .load sz, dest := w.dest, ops := laneAccs r (memAddr w x r) (fun _ => 0) (fun _ => 0) })

/-- The legality of a plain store (R123). -/
def storeSig (w : FWord) (x : Option XWord) (sp : Space) : Sig :=
  { memSig w x [w.dest] [runPos (Pos.src w.c (runAcc (szOf w))) (szOf w)] (decide (szOf w = 1) || decide (szOf w = 3))
      false false false false false with crew := decide (sp ≠ .glob) }

/-- A plain store (R123). -/
def storeWord (s : State) (w : FWord) (x : Option XWord) (sp : Space) : Host.Outcome State Fault Refusal :=
  let sz := szOf w
  let data := runPos (Pos.src w.c (runAcc sz)) sz
  issueMem s w x false (storeSig w x sp) (fun r s =>
    memPath r s sp w.hi [indexPos w, data] (memAddr w x r)
      { op := .store sz, dest := .zero, ops := laneAccs r (memAddr w x r) (runValue r w.c (szRegs sz)) (fun _ => 0) })

/-- LDG (R123). -/
def execLdg (w : FWord) (x : Option XWord) (s : State) := loadWord s w x .glob
/-- STG (R123). -/
def execStg (w : FWord) (x : Option XWord) (s : State) := storeWord s w x .glob
/-- LDL (R123). -/
def execLdl (w : FWord) (x : Option XWord) (s : State) := loadWord s w x .loc
/-- STL (R123). -/
def execStl (w : FWord) (x : Option XWord) (s : State) := storeWord s w x .loc
/-- LDS (R123). -/
def execLds (w : FWord) (x : Option XWord) (s : State) := loadWord s w x .spill
/-- STS (R123). -/
def execSts (w : FWord) (x : Option XWord) (s : State) := storeWord s w x .spill

/-- Whether an atomic type has 64 bits (R126). -/
def atomWide (at' : Nat) : Bool := decide (at' = 2) || decide (at' = 3) || decide (at' = 5) || decide (at' = 7)

/-- The legality of ATOM (R127). -/
def atomSig (w : FWord) (x : Option XWord) : Sig :=
  let aop := fieldOf (x.getD 0) 46 4
  let at' := fieldOf (x.getD 0) 50 3
  { memSig w x [] [(Pos.dst w.dest Acc.vsz).wide (atomWide at'), (Pos.src w.c Acc.vsz).wide (atomWide at')]
      (decide (szOf w ≠ 0) || !atomTypeOk aop at') false false true true true with illop := isS w.dest && isV w.b }

/-- ATOM (R127). -/
def execAtom (w : FWord) (x : Option XWord) (s : State) : Host.Outcome State Fault Refusal :=
  let aop := fieldOf (x.getD 0) 46 4
  let at' := fieldOf (x.getD 0) 50 3
  let wide := atomWide at'
  let data := (Pos.src w.c Acc.vsz).wide wide
  issueMem s w x true (atomSig w x) (fun r s =>
    memPath r s .glob w.hi [indexPos w, data] (memAddr w x r)
      { op := .atom aop at', dest := w.dest, ops := laneAccs r (memAddr w x r) (r.val wide w.c) (fun _ => 0) })

/-- The legality of ATOMCAS (R128). -/
def atomcasSig (w : FWord) (x : Option XWord) : Sig :=
  let wide := decide (szOf w = 5)
  { memSig w x [] [(Pos.dst w.dest Acc.vsz).wide wide, (Pos.src w.c Acc.vsz).wide wide, (Pos.src (xaOf (x.getD 0)) Acc.vsz).wide wide]
      (decide (szOf w ≠ 4) && decide (szOf w ≠ 5)) true false false false true with illop := isS w.dest && isV w.b }

/-- ATOMCAS (R128). -/
def execAtomcas (w : FWord) (x : Option XWord) (s : State) : Host.Outcome State Fault Refusal :=
  let swap := xaOf (x.getD 0)
  let wide := decide (szOf w = 5)
  let data := (Pos.src w.c Acc.vsz).wide wide
  let sw := (Pos.src swap Acc.vsz).wide wide
  issueMem s w x true (atomcasSig w x) (fun r s =>
    memPath r s .glob w.hi [indexPos w, data, sw] (memAddr w x r)
      { op := .cas wide, dest := w.dest, ops := laneAccs r (memAddr w x r) (r.val wide w.c) (r.val wide swap) })

/-! ## The waiting load -/

/-- A wait's lanes as a run over the state as it now stands. -/
def State.runOf (s : State) (w : Wait) : Option Run :=
  match SMap.get? s.subs w.sid with
  | none => none
  | some sg => (SMap.get? s.groups sg.gid).map (fun g =>
      { sid := w.sid, gid := sg.gid, sg := sg, g := g, set := w.lanes, act := w.lanes, pc := w.pc, len := w.len,
        stall := stallOf w.iword, iw := w.iword, xw := w.xword, now := (s.stn sg.mast sg.stn).cycles })

/-- The comparisons of R90, codes 0 to 5. -/
def ldwHolds (cmp : Nat) (signed wide : Bool) (a b : Nat) : Bool :=
  let t : IFmt := { w := if wide then 64 else 32, signed := signed, b := false }
  let x := tVal t (a % 2 ^ t.w)
  let y := tVal t (b % 2 ^ t.w)
  match cmp with
  | 0 => decide (x = y) | 1 => decide (x ≠ y) | 2 => decide (x < y) | 3 => decide (x ≤ y) | 4 => decide (x > y) | _ => decide (x ≥ y)

/-- LDW ends: the last values read are written, and the status (R125). -/
def State.ldwEnd (s : State) (wid : Nat) (w : Wait) (vals : List (Nat × Word)) (wide : Bool) (dest : Operand) (status : Word) : State :=
  let s1 := s.updSub w.sid (fun sg =>
    (vals.flatMap (fun v => dstWrites dest wide v.1 v.2.toNat)).foldl (fun sg x => sg.writeNow x.1 x.2) sg)
  s1.endWait wid w (some status) (decide (status = 1)) (decide (status = 0)) (w.dk.getD 0)

/-- Whether one of some requests is for the page of an address. -/
def pageAsked (xs : List XlReq) (va : Word) : Bool := xs.any (fun x => decide (pageOf x.va = pageOf va))

/-- The pages of some addresses are asked for, those that are not held already (R122, R296). -/
def State.askPages (s : State) (ctx : Nat) (xs : List XlReq) (vas : List Word) : State × List XlReq :=
  vas.foldl (fun st va =>
    if pageAsked st.2 va then st
    else (let (s1, _, x) := st.1.tryXl (XlReq.mk' ctx va 0); (s1, st.2 ++ [x]))) (s, xs)

/-- Some lanes of a waiting LDW take a trap; the others wait on (R125, R254). -/
def State.ldwDrop (s : State) (wid : Nat) (w : Wait) (k : WaitKind) (lanes : Mask) (cause detail : BitVec 8) (info : Word) : State :=
  if w.lanes &&& ~~~lanes = 0 then s.trapWait wid w cause detail info lanes
  else
    let s1 : State := { s with waits := SMap.put s.waits wid { w with kind := k, lanes := w.lanes &&& ~~~lanes } }
    let (i, s2) := s1.fresh
    s2.trapWait i { w with lanes := lanes } cause detail info lanes

/-- One evaluation of an LDW at its home (R125): every lane whose page is translated reads and compares; the others are held, page
by page, with the implicit bound of R253 from the start of the hold. -/
def State.ldwEval (s : State) (wid : Nat) : State :=
  match SMap.get? s.waits wid with
  | none => s
  | some w =>
    match w.kind, s.runOf w with
    | .ldw ops vals wide cmp signed dest xs, some r =>
      let held := xs.filter (fun x => x.held.isSome || x.fail)
      let at' := ops.map (fun o => (o, if pageAsked held (s.dirOf r o.addr) then .hold else s.laneAt r .glob o.addr 0))
      if at'.any (fun e => decide (e.2 = .walkEnd)) then s.endWalker r.gid
      else
        let items : List CellAcc := at'.filterMap (fun e => match e.2 with | .cell c => some (e.1, c) | .hold | .bounds | .walkEnd => none)
        let stay := (at'.filter (fun e => decide (e.2 = .hold))).map (fun e => e.1)
        let out := (at'.filter (fun e => decide (e.2 = .bounds))).map (fun e => e.1)
        let failing := items.filter (fun i => s.bad.contains (sectorOf i.2))
        if out ≠ [] then
          s.trapWait wid w 9 0 (BitVec.ofNat 64 (fieldOf ((out.head?.map (fun o => o.addr)).getD 0) 0 21)) (maskOf (out.map (fun o => o.lane)))
        else
          let s1 := s.checkRead (sectorsOf items)
          if failing ≠ [] then
            let info := failing.foldl (fun a i => if i.1.addr.toNat / 32 * 32 < a then i.1.addr.toNat / 32 * 32 else a) (2 ^ 64 - 1)
            s1.trapWait wid w 0x0B 0 (BitVec.ofNat 64 info) (maskOf (failing.map (fun i => i.1.lane)))
          else
            let got := items.map (fun i => (i.1, s1.num i.2 (if wide then 8 else 4)))
            let vals' := got.foldl (fun m e => SMap.put m e.1.lane (BitVec.ofNat 64 e.2)) vals
            let left := (got.filter (fun e => !ldwHolds cmp signed wide e.2 e.1.data)).map (fun e => e.1)
            let (s2, xs') := s1.askPages r.g.ctx held (stay.map (fun o => s.dirOf r o.addr))
            let bound := if xs' = [] then none else if w.bound.isSome then w.bound else some r.sg.bound
            if left = [] && stay = [] then s2.ldwEnd wid w vals' wide dest 0
            else { s2 with waits := SMap.put s2.waits wid { w with kind := .ldw (left ++ stay) vals' wide cmp signed dest xs', bound := bound } }
    | _, _ => s

/-- A page that held lanes of an LDW is released with FAIL: those lanes take a translation trap (R299). -/
def State.ldwFail (s : State) (wid : Nat) : State :=
  match SMap.get? s.waits wid with
  | none => s
  | some w =>
    match w.kind, s.runOf w with
    | .ldw ops vals wide cmp signed dest xs, some r =>
      let failed := xs.filter (fun x => x.fail)
      let gone := ops.filter (fun o => pageAsked failed (s.dirOf r o.addr))
      let k : WaitKind := .ldw (ops.filter (fun o => !pageAsked failed (s.dirOf r o.addr))) vals wide cmp signed dest (xs.filter (fun x => !x.fail))
      if failed = [] then s.ldwEval wid
      else
        let s1 := s.ldwDrop wid w k (maskOf (gone.map (fun o => o.lane))) 0x11 0 ((gone.head?.map (fun o => o.addr)).getD 0)
        s1.ldwEval wid
    | _, _ => s

/-- The implicit bound of the lanes of an LDW that are held (R125, R254): they take the deadline trap. -/
def State.ldwHoldExpire (s : State) (wid : Nat) (w : Wait) (bound : Nat) : State :=
  match w.kind, s.runOf w with
  | .ldw ops vals wide cmp signed dest xs, some r =>
    let gone := ops.filter (fun o => pageAsked xs (s.dirOf r o.addr))
    let k : WaitKind := .ldw (ops.filter (fun o => !pageAsked xs (s.dirOf r o.addr))) vals wide cmp signed dest []
    s.ldwDrop wid { w with bound := none } k (maskOf (gone.map (fun o => o.lane))) 0x10 1 (BitVec.ofNat 64 bound)
  | _, _ => s

/-- The deadline of an LDW: completion is judged first (R125, R251). -/
def State.ldwExpire (s : State) (wid : Nat) : State :=
  let s1 := s.ldwEval wid
  match SMap.get? s1.waits wid with
  | none => s1
  | some w =>
    match w.kind, SMap.get? s1.subs w.sid with
    | .ldw _ vals wide _ _ dest _, some sg =>
      if (w.dk.getD 0).toNat ≤ sg.gclk.toNat then s1.ldwEnd wid w vals wide dest 1 else s1
    | _, _ => s1

/-- The legality of LDW (R125). -/
def ldwSig (w : FWord) (x : Option XWord) : Sig :=
  let xw := x.getD 0
  let wide := decide (szOf w = 5)
  memSig w x [] [(Pos.dst w.dest Acc.vOnly).wide wide, (Pos.src w.c Acc.vsz).wide wide, Pos.dst (xaOf xw) Acc.sz, Pos.src (xbOf xw) Acc.dOnly]
    ((decide (szOf w ≠ 4) && decide (szOf w ≠ 5)) || decide (fieldOf xw 46 3 > 5)) true true true false true

/-- LDW (R125). -/
def execLdw (w : FWord) (x : Option XWord) (s : State) : Host.Outcome State Fault Refusal :=
  let xw := x.getD 0
  let cmp := fieldOf xw 46 3
  let wide := decide (szOf w = 5)
  let st := xaOf xw
  let dk := xbOf xw
  let data := (Pos.src w.c Acc.vsz).wide wide
  issueMem s w x true (ldwSig w x) (fun r s =>
    let addr := memAddr w x r
    match s.memCheck r .glob (if wide then 8 else 4) true true addr with
    | some f => r.trap s f.cause f.detail (addr (f.lanes.headD 0)) (maskOf f.lanes)
    | none =>
      let (s1, gone) := s.moveRemote r .glob (w.hi ||| srcWindows [indexPos w, data]) addr
      let here := r.act &&& ~~~gone
      let go : Run := { r with set := r.set &&& ~~~gone, act := here }
      if here = 0 then go.done s1
      else
        let ops := (laneAccs go addr (r.val wide w.c) (fun _ => 0))
        let wid := s1.nextId
        let s2 := go.waitFor s1 here (.ldw ops [] wide cmp (xw.getLsbD 49) w.dest []) (some (r.sval dk)) none st
        s2.ldwExpire wid)

/-- A write to a watched sector wakes an LDW (R125). -/
def execLdwWake (wait : Nat) (s : State) : Host.Outcome State Fault Refusal := .next (s.ldwEval wait)

/-- The clock reaches an LDW's deadline (R125, R251). -/
def execLdwTimeout (wait : Nat) (s : State) : Host.Outcome State Fault Refusal := .next (s.ldwExpire wait)

/-! ## Posted operations -/

/-- How far a place lies from a group's crew station: 0 there, 1 on its mast, 2 on its device, 3 beyond (R139, R303). -/
def State.reachOf (s : State) (g : Group) (m n : Nat) : Nat :=
  match s.crewOf g with
  | some c => if m / 16 ≠ c.mast / 16 then 3 else if m ≠ c.mast then 2 else if n ≠ c.stn then 1 else 0
  | none => if s.own m then 2 else 3

/-- Count operations of a path issued (R130, R139). -/
def State.countOp (s : State) (gid path reach n : Nat) : State :=
  s.updGroup gid (fun g => { g with counts := RMap.set g.counts (path * 4 + reach) (RMap.get g.counts (path * 4 + reach) + BitVec.ofNat 32 n) })

/-- An acknowledgement of a path arrives (R130). -/
def State.ackOp (s : State) (gid path reach n : Nat) (err : Bool) : State :=
  s.updGroup gid (fun g =>
    { g with counts := RMap.set g.counts (path * 4 + reach) (RMap.get g.counts (path * 4 + reach) - BitVec.ofNat 32 n)
             errs := if err then setBit g.errs path true else g.errs })

/-- Send one word's operations on one sector to their home (R129, R130). -/
def State.sendPosted (s : State) (r : Run) (red : Option (Nat × Nat)) (size : Nat) (ops : List LaneAcc) (home : Nat × Nat × Nat) : State :=
  let reach := s.reachOf r.g home.2.1 home.2.2
  let va := ((ops.head?).map (fun o => o.addr)).getD 0
  let x := if r.g.walker then some (XlReq.mk' r.g.ctx va 3) else none
  (s.countOp r.gid 1 reach ops.length).send (stnPort r.sg.mast r.sg.stn)
    (if home.2.2 = 64 then mastPort home.2.1 else stnPort home.2.1 home.2.2) (.posted r.gid r.g.ctx red size ops reach x)

/-- POST and RED: checks 1 to 3 at issue, then one message per sector (R129). -/
def postPath (r : Run) (s : State) (red : Option (Nat × Nat)) (size : Nat) (addr : Nat → Word) (data : Nat → Nat) : State :=
  match s.memCheck r .glob size false false addr with
  | some f => r.trap s f.cause f.detail (addr (f.lanes.headD 0)) (maskOf f.lanes)
  | none =>
    let ops := laneAccs r addr data (fun _ => 0)
    if r.g.walker && ops.any (fun o => decide (s.laneAt r .glob o.addr 1 = .walkEnd)) then s.endWalker r.gid
    else
      let tagged := ops.filterMap (fun o => (s.laneHome r .glob o.addr).map (fun h =>
        ((h, (s.dirOf r o.addr).toNat / 32), { o with addr := s.dirOf r o.addr })))
      let keys := (tagged.map (fun e => e.1)).dedup
      r.done (keys.foldl (fun s k => s.sendPosted r red size ((tagged.filter (fun e => decide (e.1 = k))).map (fun e => e.2)) k.1) s)

/-- The legality of POST (R129). -/
def postSig (w : FWord) (x : Option XWord) : Sig :=
  let sz := szOf w
  let acc := if szRegs sz > 2 then Acc.vz else Acc.vsz
  memSig w x [w.dest] [runPos (Pos.src w.c acc) sz] (decide (w.hi ≠ 0) || decide (sz = 1) || decide (sz = 3)) false false false false false

/-- POST (R129). -/
def execPost (w : FWord) (x : Option XWord) (s : State) : Host.Outcome State Fault Refusal :=
  let sz := szOf w
  issueMem s w x false (postSig w x) (fun r s => postPath r s none (szBytes sz) (memAddr w x r) (runValue r w.c (szRegs sz)))

/-- The legality of RED (R129). -/
def redSig (w : FWord) (x : Option XWord) : Sig :=
  let aop := w.hi.toNat / 16
  let at' := w.hi.toNat % 8
  memSig w x [w.dest] [(Pos.src w.c Acc.vsz).wide (atomWide at')]
    (decide (szOf w ≠ 0) || w.hi.getLsbD 3 || decide (aop > 5) || !atomTypeOk aop at') false false false false false

/-- RED (R129). -/
def execRed (w : FWord) (x : Option XWord) (s : State) : Host.Outcome State Fault Refusal :=
  let aop := w.hi.toNat / 16
  let at' := w.hi.toNat % 8
  let wide := atomWide at'
  issueMem s w x false (redSig w x) (fun r s => postPath r s (some (aop, at')) (if wide then 8 else 4) (memAddr w x r) (r.val wide w.c))

/-- The mast and station that a direct-form address names; 64 for a mast's home. -/
def State.vaPlace (s : State) (va : Word) : Nat × Nat :=
  let off := fieldOf va 0 49
  (s.vaMast va, if off ≥ 0x100000000000 then off / 2 ^ 21 % 64 else 64)

/-- The end of messages at which a group's fence table stands: its crew's station (R39); for a walker group its own. -/
def State.fencePort (s : State) (gid : Nat) : Nat :=
  match (SMap.get? s.groups gid).bind s.crewOf with
  | some c => stnPort c.mast c.stn
  | none => match s.subs.find? (fun e => decide (e.2.gid = gid)) with
    | some e => stnPort e.2.mast e.2.stn
    | none => cpPort s.dev

/-- A POST or RED at its home (R129, R130). -/
def State.postedAt (s : State) (mid : Nat) (m : Msg) : State :=
  match m.body with
  | .posted gid ctx red size ops reach x =>
    let va := ((ops.head?).map (fun o => o.addr)).getD 0
    let fin := fun (t : State) (err : Bool) =>
      let t1 := { t with msgs := SMap.del t.msgs mid }
      t1.send m.dst (s.fencePort gid) (.ack gid 1 reach ops.length err)
    let acc : BitVec 2 := (x.map (fun x => if x.acc = 3 then 3 else 1)).getD 1
    if (x.map (fun x => x.fail)).getD false || s.fencedAt va then fin s true
    else if (x.bind (fun x => x.held)).isSome then s
    else match s.placeOf ctx va acc with
      | .bounds | .walkEnd => fin s true
      | .hold =>
        let (s1, _, x') := s.tryXl (XlReq.mk' ctx va acc)
        { s1 with msgs := SMap.put s1.msgs mid { m with body := .posted gid ctx red size ops reach (some x') } }
      | .cell c =>
        let items : List CellAcc := ops.map (fun o => (o, sectorOf c + o.addr.toNat % 32))
        let op : ThreadOp := match red with
          | some (a, t) => .atom a t
          | none => .store (match size with | 1 => 0 | 2 => 2 | 4 => 4 | 8 => 5 | 16 => 6 | _ => 7)
        let rd := sectorsRead op items
        let s1 := s.checkRead rd
        if rd.any (fun c => s.bad.contains c) then fin s1 true
        else fin ((State.performOps op items (s1.noteAtoms op gid ctx ((ops.head?.map (fun o => o.lane)).getD 0) items)).1.heal ((sectorsOf items).filter (fun c => !rd.contains c))) false
  | _ => s

/-- Whether what a device sends reaches another: a shroud path exists (R322). -/
def State.linked (s : State) (a b : Nat) : Bool :=
  decide (a = b) || (match s.partOf a, s.partOf b with
    | some p, some q => p.shroud.paths.contains q.regs.devnum.toNat
    | _, _ => false)

/-- Whether a message is a notice, which keeps its place among images (R222, R229). -/
def MsgBody.notice : MsgBody → Bool
  | .tieNotice _ _ _ _ _ _ _ | .exitNotice _ _ => true
  | .posted _ _ _ _ _ _ _ | .ack _ _ _ _ _ | .barArrive _ _ _ _ | .barWithdraw _ _ _ _ | .barExit _ _ | .barDone _ _
  | .escInc _ _ _ _ _ _ _ _ | .escReset _ | .escTrap _ _ _ _ _ _ _ | .segld _ _ _ | .tlbi _ _ _ | .done _ => false

/-- The end of messages that an image is bound for. -/
def Image.port (im : Image) : Nat := if im.tstn = 64 then mastPort im.tmast else stnPort im.tmast im.tstn

/-- Whether a message arrives next: first of those between its two places, a notice behind the images that its station sent there
before it (R222), over a path that exists (R322). -/
def State.firstMsg (s : State) (mid : Nat) (m : Msg) : Bool :=
  s.msgs.all (fun e => decide (e.1 ≥ mid) || decide (e.2.src ≠ m.src) || decide (e.2.dst ≠ m.dst)) &&
  (!m.body.notice || s.images.all (fun e => decide (e.2.phase ≠ .flying) || decide (e.2.arr ≥ mid) || decide (stnPort e.2.smast e.2.sstn ≠ m.src) ||
    decide (e.2.port ≠ m.dst))) &&
  s.linked (portDev m.src) (portDev m.dst)

/-- A POST or RED arrives at its home (R129). -/
def execPostedOperation (msg : Nat) (s : State) : Host.Outcome State Fault Refusal :=
  .next (match SMap.get? s.msgs msg with
    | some m => if s.firstMsg msg m then s.postedAt msg m else s
    | none => s)

/-! ## HOME and MIGR -/

/-- The word that HOME writes (R131). -/
def State.homeWord (s : State) (r : Run) (a : Word) : Nat :=
  let why := s.homeWhy r a
  let prv := a.getLsbD 63 && !r.sg.sv
  let blind := decide (fieldOf a 49 14 = 0x3FFF) && decide (((s.ctxOf r.g).map (fun c => c.stripe)).getD 0 = 0)
  let d := ((s.ctxOf r.g).map (fun c => s.direct c a)).getD a
  let off := fieldOf d 0 49
  let place := if blind then 0 else
    fieldOf d 53 10 * 2 ^ 10 + fieldOf d 49 4 * 2 ^ 6 + (if off ≥ 0x100008000000 then 0 else min (s.vaPlace d).2 63)
  if prv then 6 * 2 ^ 28 + place
  else match why with
    | some w => w.toNat % 8 * 2 ^ 28 + place
    | none => 2 ^ 31 + place

/-- The legality of HOME (R131). -/
def homeSig (w : FWord) (x : Option XWord) : Sig :=
  memSig w x [w.c] [Pos.dst w.dest Acc.vs] (decide (szOf w ≠ 0) || decide (w.hi ≠ 0)) false false false false false

/-- HOME (R131). -/
def execHome (w : FWord) (x : Option XWord) (s : State) : Host.Outcome State Fault Refusal :=
  issueMem s w x false (homeSig w x) (fun r s =>
    r.later s ((r.workLanes w.dest).flatMap (fun l => dstWrites w.dest false l (s.homeWord r (memAddr w x r l)))) 0)

/-- The move of MIGR (R132). -/
def migrPath (r : Run) (s : State) (sp : Space) (live : BitVec 8) (srcs : List Pos) (addr : Nat → Word) : State :=
  match s.memCheck r sp 0 false true addr with
  | some f => r.trap s f.cause f.detail (addr (f.lanes.headD 0)) (maskOf f.lanes)
  | none =>
    let far := (lanesOf r.act).any (fun l => match s.laneHome r sp (addr l) with | some h => !isHere r.sg h | none => true)
    if r.g.walker && far then s.endWalker r.gid
    else
      let (s1, gone) := s.moveRemote r sp (live ||| srcWindows srcs) addr
      { r with set := r.set &&& ~~~gone, act := r.act &&& ~~~gone }.done s1

/-- The legality of MIGR.G (R132). -/
def migrGSig (w : FWord) (x : Option XWord) : Sig := memSig w x [w.dest, w.c] [] (decide (szOf w ≠ 0)) false false false false false

/-- MIGR.G (R132). -/
def execMigrG (w : FWord) (x : Option XWord) (s : State) : Host.Outcome State Fault Refusal :=
  issueMem s w x false (migrGSig w x) (fun r s => migrPath r s .glob w.hi [indexPos w] (memAddr w x r))

/-- The legality of MIGR.L (R132). -/
def migrLSig (w : FWord) : Sig := { Sig.plain [w.dest, w.a, w.b, w.c] [] with resv := decide (w.lo ≠ 1), crew := true }

/-- MIGR.L (R132). -/
def execMigrL (w : FWord) (x : Option XWord) (s : State) : Host.Outcome State Fault Refusal :=
  issueMem s w x false (migrLSig w) (fun r s => migrPath r s .loc w.hi [] (fun _ => 0))

end Sys2Proof.Machine
end

