-- ==== Sys2Proof/Machine/Streams.lean ====
section
/-! DEFINITION. Streams and fences (spec 05, R133 to R141; spec 01, R28, R29). -/

namespace Sys2Proof.Machine

open Sys2Proof

/-! ## Fences -/

/-- Whether a thread-path access stores or is an atomic (R139). -/
def waitWrites : WaitKind → Bool
  | .access _ t => t.op.writes
  | _ => false

/-- Whether a reach lies within a fence scope (R139): station, station, mast, device, domain. -/
def inScope (scope reach : Nat) : Bool := decide (reach ≤ scope - 1)

/-- The operations of a path that a fence of a scope counts (R139). -/
def State.pathCount (s : State) (gid : Nat) (g : Group) (path scope : Nat) : Nat :=
  match path with
  | 0 =>
    (s.waits.filter (fun e => waitWrites e.2.kind && (match SMap.get? s.subs e.2.sid with
      | some sg => decide (sg.gid = gid) && inScope scope (s.reachOf g sg.mast 64)
      | none => false))).length
  | 2 =>
    (g.streams.map (fun e => (e.2.reqs.filter (fun q =>
      let va := (q.els.head?.map (fun x => x.va)).getD 0
      inScope scope (s.reachOf g (s.vaPlace va).1 (s.vaPlace va).2))).length)).sum
  | _ => ((List.range 4).map (fun k => if inScope scope k then (RMap.get g.counts (path * 4 + k)).toNat else 0)).sum

/-- The named paths that are complete within a scope (R140). -/
def State.pathsDone (s : State) (gid : Nat) (g : Group) (paths : BitVec 6) (scope : Nat) : BitVec 6 :=
  BitVec.ofNat 6 ((List.range 6).foldl (fun a p => if paths.getLsbD p && decide (s.pathCount gid g p scope = 0) then a + 2 ^ p else a) 0)

/-- Drop what the open streams of a group fetched and did not deliver, to be fetched again (R141, R138). -/
def Group.discard (g : Group) : Group :=
  let pos := fun (k : Nat) (q : Stream) => if q.bound then
      ((g.streams.find? (fun e => decide (e.2.qi = some k))).map (fun e => e.2.pos)).getD q.pos else q.pos
  { g with streams := g.streams.map (fun e => (e.1, { e.2 with pos := pos e.1 e.2, got := [], secs := [], reqs := [] })) }

/-- A fence leaves its loop: the bitmap, the status and, for FENCE.X, the step that orders path B (R140, R141). -/
def State.fenceEnd (s : State) (wid : Nat) (w : Wait) (gid : Nat) (g : Group) (paths dn : BitVec 6) (map : Operand) (bpath : Option Nat) : State :=
  let ok := decide (dn = paths)
  let err := ok && decide (g.errs &&& paths ≠ 0)
  let status : Word := if !ok then 1 else if err then 7 else 0
  let s1 := s.updSub w.sid (fun sg => sg.writeStatus map (dn.setWidth 64))
  let s2 := if err then s1.updGroup gid (fun g => { g with errs := g.errs &&& ~~~paths }) else s1
  let s3 := if ok && decide (bpath = some 2) then s2.updGroup gid Group.discard else s2
  s3.endWait wid w (some status) (!ok) (decide (status = 0)) (w.dk.getD 0)

/-- Judge a waiting fence: completion first, then its deadline (R140, R251). -/
def State.judgeFence (s : State) (wid : Nat) : State :=
  match SMap.get? s.waits wid with
  | none => s
  | some w =>
    match w.kind, SMap.get? s.subs w.sid with
    | .fence paths scope map bpath, some sg =>
      match SMap.get? s.groups sg.gid with
      | none => s
      | some g =>
        let dn := s.pathsDone sg.gid g paths scope
        if dn = paths || decide ((w.dk.getD 0).toNat ≤ sg.gclk.toNat) then s.fenceEnd wid w sg.gid g paths dn map bpath else s
    | _, _ => s

/-- Judge every waiting fence of a group (R140). -/
def State.judgeFences (s : State) (gid : Nat) : State :=
  let mine := s.waits.filter (fun e => (match e.2.kind with | .fence _ _ _ _ => true | _ => false) &&
    (match SMap.get? s.subs e.2.sid with | some sg => decide (sg.gid = gid) | none => false))
  mine.foldl (fun s e => s.judgeFence e.1) s

/-- The legality of a fence: resv says that its path fields are (R140, R141). -/
def fenceSig (w : FWord) (resv : Bool) : Sig :=
  { Sig.plain [w.c] [Pos.dst w.dest Acc.sz, Pos.src w.a Acc.dOnly, Pos.dst w.b Acc.sz] with
    resv := resv || decide (w.hi.toNat / 64 ≠ 0) || decide (w.lo.toNat / 8 ≠ 0) || decide (w.lo.toNat % 8 > 4) }

/-- Whether FENCE names no path (R140). -/
def fenceEmpty (w : FWord) : Bool := decide (w.hi.toNat % 64 = 0)

/-- Whether the paths of FENCE.X are no pair that it orders (R141). -/
def fenceXBad (w : FWord) : Bool :=
  let a := w.hi.toNat / 8 % 8
  let b := w.hi.toNat % 8
  decide (a = b) || decide (b = 1) || decide (a > 5) || decide (b > 5)

/-- The issue of a fence over some paths. -/
def fenceWord (s : State) (w : FWord) (resv : Bool) (paths : BitVec 6) (bpath : Option Nat) : Host.Outcome State Fault Refusal :=
  let scope := w.lo.toNat % 8
  issueF s w none (fenceSig w resv) (fun r s =>
    let wid := s.nextId
    (r.waitFor s r.act (.fence paths scope w.b bpath) (some (r.sval w.a)) none w.dest).judgeFence wid)

/-- FENCE (R140). -/
def execFence (w : FWord) (s : State) : Host.Outcome State Fault Refusal :=
  fenceWord s w (fenceEmpty w) (w.hi.setWidth 6) none

/-- FENCE.X (R141). -/
def execFenceX (w : FWord) (s : State) : Host.Outcome State Fault Refusal :=
  let a := w.hi.toNat / 8 % 8
  let b := w.hi.toNat % 8
  fenceWord s w (fenceXBad w) (BitVec.ofNat 6 (2 ^ a)) (some b)

/-- The clock reaches a fence's deadline (R140). -/
def execFenceTimeout (wait : Nat) (s : State) : Host.Outcome State Fault Refusal := .next (s.judgeFence wait)

/-- An acknowledgement reaches the fence table (R130, R161). -/
def execPostedAcknowledgement (msg : Nat) (s : State) : Host.Outcome State Fault Refusal :=
  .next (match SMap.get? s.msgs msg with
    | some m =>
      match m.body with
      | .ack gid path reach n err =>
        if s.firstMsg msg m then ({ s with msgs := SMap.del s.msgs msg }.ackOp gid path reach n err).judgeFences gid else s
      | _ => s
    | none => s)

/-! ## Streams -/

/-- The group of the issue set that issues now. -/
def State.issuingGroup (s : State) : Option Group :=
  (s.issuing.bind (fun is => SMap.get? s.subs is.sid)).bind (fun sg => SMap.get? s.groups sg.gid)

/-- Whether every lane of a group that has not exited stands on this station (R134). -/
def State.allHere (s : State) (r : Run) : Bool :=
  (List.range r.g.width).all (fun l => r.g.ended.getLsbD l ||
    (match (s.holderOf r.gid l).bind (SMap.get? s.subs) with
     | some sg => decide (sg.mast = r.sg.mast) && decide (sg.stn = r.sg.stn) &&
        (match SMap.get? sg.lanes l with | some x => decide (x.st ≠ .transit) | none => false)
     | none => false))

/-- The depth that a station's open streams take (R133). -/
def State.depthUsed (s : State) (m n : Nat) : Nat :=
  (s.groups.map (fun e => (e.2.streams.map (fun q => if q.2.mast = m && q.2.stn = n then q.2.depth else 0)).sum)).sum

/-- The depth that a descriptor names (R134). -/
def depthOf (w : Word) : Nat := if fieldOf w 32 12 = 0 then 4096 else fieldOf w 32 12

/-- The number of a stream register operand. -/
def qNum : Operand → Nat
  | .q n => n.toNat
  | .v _ | .s _ | .p _ | .k _ | .d _ | .zero | .rsv _ => 0

/-- The outcomes of QCFG and QIDX once the descriptor is read (R134, R135). -/
def openStream (r : Run) (s : State) (w : FWord) (bad : Bool) (q : Stream) (bind : Group → Group) : State :=
  if !s.allHere r then r.trap s 8 5 0 r.act
  else if bad then r.trap s 2 0 0 r.act
  else if s.depthUsed r.sg.mast r.sg.stn + q.depth > 4096 then r.later s (dstWrites w.c true 0 4) 0
  else
    let s1 := s.updGroup r.gid (fun g => bind { g with streams := SMap.put g.streams (qNum w.dest) q })
    r.later s1 (dstWrites w.c true 0 0) 0

/-- The legality of QCFG (R134). -/
def qcfgSig (w : FWord) : Sig := zeroModSig w [w.b] [Pos.dst w.dest Acc.qOnly, { Pos.src w.a Acc.sOnly with srun := 6 }, Pos.dst w.c Acc.sz]

/-- QCFG (R134). -/
def execQcfg (w : FWord) (s : State) : Host.Outcome State Fault Refusal :=
  issueF s w none (qcfgSig w) (fun r s =>
    let d : Nat → Word := fun i => match w.a with | .s n => r.reg r.low (.s (n.toNat + i)) | _ => 0
    let n0 := fieldOf (d 1) 0 32
    let n1 := fieldOf (d 1) 32 32
    let n2 := fieldOf (d 2) 0 32
    let esz := fieldOf (d 2) 44 3
    let odd := fun (x : Word) => decide (x.toNat % szBytes esz ≠ 0)
    let q : Stream := {
      mast := r.sg.mast, stn := r.sg.stn, ind := false, base := d 0, n0 := n0, n1 := n1, n2 := n2, st0 := d 3, st1 := d 4,
      st2 := d 5, esz := BitVec.ofNat 3 esz, depth := depthOf (d 2), sc := 0, qi := none, bound := false, desc := (List.range 6).map d,
      pos := 0, e := 0, got := [], secs := [], reqs := [] }
    let bad := (SMap.get? r.g.streams (qNum w.dest)).isSome || decide (n0 = 0) || decide (n1 = 0) || decide (n2 = 0) ||
      decide (n0 * n1 * n2 ≥ 2 ^ 32) || decide (esz > 5) || decide (fieldOf (d 2) 47 17 ≠ 0) || odd (d 0) || odd (d 3) || odd (d 4) || odd (d 5)
    openStream r s w bad q (fun g => g))

/-- The legality of QIDX (R135). -/
def qidxSig (w : FWord) : Sig :=
  zeroModSig w [] [Pos.dst w.dest Acc.qOnly, { Pos.src w.a Acc.sOnly with srun := 2 }, { Pos.src w.b Acc.qOnly with qopen := true }, Pos.dst w.c Acc.sz]

/-- QIDX (R135). -/
def execQidx (w : FWord) (s : State) : Host.Outcome State Fault Refusal :=
  issueF s w none (qidxSig w) (fun r s =>
    let d : Nat → Word := fun i => match w.a with | .s n => r.reg r.low (.s (n.toNat + i)) | _ => 0
    let esz := fieldOf (d 1) 0 3
    match SMap.get? r.g.streams (qNum w.b) with
    | none => r.trap s 2 0 0 r.act
    | some qi =>
      let q : Stream := { qi with
        ind := true, base := d 0, esz := BitVec.ofNat 3 esz, depth := depthOf (d 1), sc := fieldOf (d 1) 4 2,
        qi := some (qNum w.b), bound := false, desc := [d 0, d 1], pos := 0, e := 0, got := [], secs := [], reqs := [] }
      let bad := qi.ind || qi.bound || (SMap.get? r.g.streams (qNum w.dest)).isSome || decide (esz > 5) ||
        decide (fieldOf (d 1) 44 20 ≠ 0) || decide (fieldOf (d 1) 6 26 ≠ 0) || (d 1).getLsbD 3
      openStream r s w bad q (fun g => { g with streams := SMap.upd g.streams (qNum w.b) (fun qi => { qi with bound := true }) }))

/-- The elements of a walk. -/
def Stream.total (q : Stream) : Nat := q.n0 * q.n1 * q.n2

/-- The next element that a stream has not requested. -/
def Stream.next (q : Stream) : Nat := q.pos + q.got.length + (q.reqs.map (fun r => r.els.length)).sum

/-- The address of an element of an affine walk (R134). -/
def Stream.affine (q : Stream) (i : Nat) : Word :=
  q.base + BitVec.ofNat 64 (i % q.n0) * q.st0 + BitVec.ofNat 64 (i / q.n0 % q.n1) * q.st1 + BitVec.ofNat 64 (i / q.n0 / q.n1) * q.st2

/-- An index as B's element type reads it (R135). -/
def indexVal (esz : BitVec 3) (x : Word) : Int :=
  match esz.toNat with
  | 0 | 2 => x.toNat
  | 1 => signedField (x.toNat % 2 ^ 8) 8
  | 3 => signedField (x.toNat % 2 ^ 16) 16
  | 4 => signedField (x.toNat % 2 ^ 32) 32
  | _ => signedField x.toNat 64

/-- An element as it can be requested: its address and the trap that it can only raise, if any; none while its index has not
arrived (R135, R136). -/
def Group.element (g : Group) (q : Stream) (i : Nat) : Option StreamEl :=
  match q.qi with
  | none => some { i := i, va := q.affine i, val := 0, trap := none }
  | some k =>
    (SMap.get? g.streams k).bind (fun b => (b.got.find? (fun x => decide (x.i = i))).map (fun x =>
      { i := i, va := if x.trap.isSome then x.va else q.base + BitVec.ofInt 64 (indexVal b.esz x.val * 2 ^ q.sc), val := 0,
        trap := x.trap }))

/-- The trap that an element's address raises (R136): alignment, privilege, home. -/
def State.elementTrap (s : State) (c : Ctx) (sv : Bool) (q : Stream) (e : StreamEl) : Option (BitVec 8 × BitVec 8) :=
  if e.trap.isSome then e.trap
  else if e.va.toNat % szBytes q.esz.toNat ≠ 0 then some (6, 0)
  else if e.va.getLsbD 63 && !sv then some (3, 0)
  else match s.home c e.va with
    | .none d => some (8, d)
    | .dram _ _ | .window _ _ _ _ => none

/-- The elements from i on that lie in one sector and can be fetched, at most n of them (R133). -/
def Group.run (g : Group) (q : Stream) (sec : Nat) (ok : StreamEl → Bool) : Nat → Nat → List StreamEl
  | 0, _ => []
  | n + 1, i =>
    if i ≥ q.total then []
    else match g.element q i with
      | none => []
      | some e => if e.va.toNat / 32 = sec && ok e then e :: Group.run g q sec ok n (i + 1) else []

/-- Consume index elements below a place (R135). -/
def Group.consumeIndex (g : Group) (q : Stream) (upto : Nat) : Group :=
  match q.qi with
  | none => g
  | some k => { g with streams := SMap.upd g.streams k (fun b => { b with pos := upto, got := b.got.filter (fun x => decide (x.i ≥ upto)) }) }

/-- The sectors of the elements that a stream has fetched and not delivered (R133). -/
def Stream.gotSecs (q : Stream) : List Nat := ((q.got.filter (fun e => e.trap.isNone)).map (fun e => e.va.toNat / 32)).dedup

/-- The sector of a request. -/
def StreamReq.sec (r : StreamReq) : Nat := ((r.els.head?.map (fun (e : StreamEl) => e.va)).getD 0).toNat / 32

/-- Sectors that a stream holds for elements to come or has requested (R133). -/
def Stream.sectors (q : Stream) : Nat := (q.gotSecs ++ q.reqs.map StreamReq.sec).dedup.length

/-- An element's value in the 32 bytes of its sector. -/
def elemOf (esz : BitVec 3) (data : Nat) (va : Word) : Word :=
  BitVec.ofNat 64 (data / 2 ^ (8 * (va.toNat % 32)) % 2 ^ (8 * szBytes esz.toNat))

/-- How far ahead of its position a stream unit looks, in elements (the model's: a prefetch is bound only by the depth). -/
def Stream.ahead (q : Stream) : Nat := q.pos + 32 * q.depth + 64

/-- Elements of one sector join what a stream holds of it, or has asked for, or are asked for now; none where the depth allows no
further sector (R133): a sector with several elements is fetched once. -/
def Stream.want (q : Stream) (els : List StreamEl) (x : Option XlReq) : Option Stream :=
  let sec := ((els.head?.map (fun (e : StreamEl) => e.va)).getD 0).toNat / 32
  match q.secs.find? (fun e => decide (e.1 = sec)), q.reqs.findIdx? (fun r => decide (r.sec = sec)) with
  | some d, _ =>
    let new : List StreamEl := els.map (fun (e : StreamEl) => ({ e with val := elemOf q.esz d.2 e.va } : StreamEl))
    some { q with got := q.got ++ new }
  | none, some k => some { q with reqs := q.reqs.modify k (fun r => { r with els := r.els ++ els }) }
  | none, none =>
    if q.sectors ≥ q.depth then none
    else some { q with secs := q.secs.filter (fun e => q.gotSecs.contains e.1), reqs := q.reqs ++ [{ els := els, x := x }] }

/-- The elements that a QLD with n active lanes delivers (R136). -/
def Stream.take (q : Stream) (n : Nat) : Nat :=
  if q.pos = q.total then 0 else min n (q.n0 - q.pos % q.n0)

/-- Whether every element that a QLD delivers has arrived. -/
def Stream.arrived (q : Stream) (n : Nat) : Bool :=
  (List.range (q.take n)).all (fun k => q.got.any (fun e => decide (e.i = q.pos + k)))

/-- Waiting QLDs of a group whose elements have arrived issue again (R136). -/
def State.wakeQld (s : State) (gid : Nat) : State :=
  let mine := s.waits.filter (fun e => (match e.2.kind with | .qld => true | _ => false) &&
    (match SMap.get? s.subs e.2.sid with
     | some sg => decide (sg.gid = gid) && (match SMap.get? s.groups gid with
        | some g => (match SMap.get? g.streams (fieldOf e.2.iword 30 7 - 0x70) with | some q => q.arrived (popCount e.2.lanes) | none => true)
        | none => false)
     | none => false))
  mine.foldl (fun s e => s.redoWait e.1 e.2) s

/-- A stream unit requests the next elements (R133). The privilege of an element is that of the copy that holds the group's lowest
lane not ended, when the element is fetched, and no fence of its home is looked at later (the spec names neither: DESIGN CHOICE,
log entry 15). The walker group reaches its own mast only (R291). -/
def execStreamFetch (gid q : Nat) (s : State) : Host.Outcome State Fault Refusal :=
  .next (match SMap.get? s.groups gid with
    | none => s
    | some g =>
      match SMap.get? g.streams q, SMap.get? s.ctxs g.ctx with
      | some st, some c =>
        let i := st.next
        if i ≥ st.total || i ≥ st.ahead then s
        else match g.element st i with
          | none => s
          | some e =>
            let sv := (((g.lowestLive.bind (s.holderOf gid)).bind (SMap.get? s.subs)).map SubGroup.sv).getD false
            let put := fun (st' : Stream) (n : Nat) => (s.updGroup gid (fun g =>
              { g with streams := SMap.put g.streams q st' }.consumeIndex st (i + n))).wakeQld gid
            match s.elementTrap c sv st e with
            | some t => put { st with got := st.got ++ [{ e with trap := some t }] } 1
            | none =>
              let els := (g.run st (e.va.toNat / 32) (fun e => (s.elementTrap c sv st e).isNone) 32 i).map (fun e => { e with va := s.direct c e.va })
              let va := (els.head?.map (fun e => e.va)).getD 0
              if g.walker && (decide (s.vaMast va ≠ st.mast) || decide (s.placeOf g.ctx va 3 = .walkEnd)) then s.endWalker gid
              else match st.want els (if g.walker then some (XlReq.mk' g.ctx va 3) else none) with
                | some st' => put st' els.length
                | none => s
      | _, _ => s)

/-- Put the outcome of a stream's request in place of it. -/
def Stream.finishReq (q : Stream) (k : Nat) (els : List StreamEl) : Stream :=
  { q with reqs := q.reqs.eraseIdx k, got := q.got ++ els }

/-- A stream's request is tried at its home (R136, R138): it reads, waits for its page, or can only trap. -/
def State.streamArrive (s : State) (gid qn k : Nat) (ctx : Nat) (q : Stream) (r : StreamReq) : State :=
  let put := fun (s : State) (q : Stream) => s.updGroup gid (fun g => { g with streams := SMap.put g.streams qn q })
  let failWith := fun (s : State) (c d : BitVec 8) => (put s (q.finishReq k (r.els.map (fun e => { e with trap := some (c, d) })))).wakeQld gid
  let va := (r.els.head?.map (fun e => e.va)).getD 0
  let acc := (r.x.map (fun x => x.acc)).getD 0
  if (r.x.map (fun x => x.fail)).getD false then failWith s 0x11 0
  else if s.fencedAt va then failWith s 8 2
  else if (r.x.bind (fun x => x.held)).isSome then s
  else if !s.linked (q.mast / 16) (s.vaMast va / 16) then s
  else match s.placeOf ctx va acc with
    | .walkEnd => s.endWalker gid
    | .bounds => failWith s 9 0
    | .hold =>
      let (s1, _, x) := s.tryXl (XlReq.mk' ctx va 0)
      put s1 { q with reqs := q.reqs.set k { r with x := some x } }
    | .cell c =>
      let s1 := s.checkRead [sectorOf c]
      if s.bad.contains (sectorOf c) then failWith s1 0x0B 0
      else
        let data := s.num (sectorOf c) 32
        let els := r.els.map (fun (e : StreamEl) => { e with val := elemOf q.esz data e.va })
        (put s1 { q.finishReq k els with secs := q.secs ++ [(r.sec, data)] }).wakeQld gid

/-- A fetched sector returns to the stream unit: that of the first request not held (R138). -/
def execStreamElementArrival (gid q : Nat) (s : State) : Host.Outcome State Fault Refusal :=
  .next (match SMap.get? s.groups gid with
    | none => s
    | some g =>
      match SMap.get? g.streams q with
      | none => s
      | some st =>
        match st.reqs.findIdx? (fun r => (r.x.bind (fun x => x.held)).isNone) with
        | none => s
        | some k => match st.reqs[k]? with
          | none => s
          | some r => (s.streamArrive gid q k g.ctx st r).judgeFences gid)

/-- The legality of QLD: its stream is not bound to another and has its element size; p0 is no destination (R136). -/
def qldSig (s : State) (w : FWord) : Sig :=
  let illop := match s.issuingGroup.bind (fun g => streamOf g w.a) with
    | some q => q.bound || decide (q.esz.toNat ≠ szOf w)
    | none => false
  let p0 := match w.b with | .p n => decide (n = 0) | _ => false
  { Sig.plain [w.c] [runPos (Pos.dst w.dest Acc.vOnly) (szOf w), { Pos.src w.a Acc.qOnly with qopen := true }, Pos.dst w.b Acc.pz] with
    resv := decide (w.hi ≠ 0) || decide (w.lo.toNat / 8 ≠ 0), illop := illop || p0 }

/-- QLD (R136). Where its lanes' elements fail with different causes, the lowest failing lane's is raised and FMASK names every
failing lane (the spec states no order among lanes: DESIGN CHOICE, log entry 15). -/
def execQld (w : FWord) (s : State) : Host.Outcome State Fault Refusal :=
  let sz := szOf w
  issueF s w none (qldSig s w) (fun r s =>
    match streamOf r.g w.a with
    | none => r.trap s 2 0 0 r.act
    | some q =>
      let lanes := lanesOf r.act
      let n := lanes.length
      if !q.arrived n then r.waitFor s r.act .qld none (some r.sg.bound) .zero
      else
        let k := q.take n
        let feed := (lanes.zip (List.range n)).map (fun e => (e.1, if e.2 < k then q.got.find? (fun x => decide (x.i = q.pos + e.2)) else none))
        match (feed.filterMap (fun e => e.2.bind (fun x => x.trap.map (fun t => (t, x.va))))).head? with
        | some ((c, d), va) =>
          r.trap s c d (if c = 9 then va &&& 0x1FFFFF else if c = 0x0B then va &&& ~~~0x1F else va) (maskOf ((feed.filter (fun e => (e.2.bind (fun x => x.trap)).isSome)).map (fun e => e.1)))
        | none =>
          let pos := q.pos + k
          let e : Nat := (if pos % q.n0 = 0 then 1 else 0) + (if pos % (q.n0 * q.n1) = 0 then 2 else 0) + (if pos = q.total then 4 else 0)
          let q' := if k = 0 then q else { q with pos := pos, e := BitVec.ofNat 3 e, got := q.got.filter (fun x => decide (x.i ≥ pos)) }
          let s1 := s.updGroup r.gid (fun g => { g with streams := SMap.put g.streams (qNum w.a) q' })
          r.later s1 (feed.flatMap (fun f => match f.2 with
            | some x => fillWrites w.dest sz f.1 x.val.toNat ++ dstWrites w.b false f.1 1
            | none => fillWrites w.dest sz f.1 0 ++ dstWrites w.b false f.1 0)) 0)

/-- The legality of QCLOSE: its stream is not bound to another (R137). -/
def qcloseSig (s : State) (w : FWord) : Sig :=
  let illop := match s.issuingGroup.bind (fun g => streamOf g w.a) with
    | some q => q.bound
    | none => false
  { zeroModSig w [w.dest, w.b, w.c] [{ Pos.src w.a Acc.qOnly with qopen := true }] with illop := illop }

/-- QCLOSE (R137). -/
def execQclose (w : FWord) (s : State) : Host.Outcome State Fault Refusal :=
  issueF s w none (qcloseSig s w) (fun r s =>
    let qi := (SMap.get? r.g.streams (qNum w.a)).bind (fun q => q.qi)
    r.done (s.updGroup r.gid (fun g =>
      let m := SMap.del g.streams (qNum w.a)
      { g with streams := match qi with | some k => SMap.del m k | none => m })))

end Sys2Proof.Machine
end

