-- ==== Sys2Proof/Machine/Matrix.lean ====
section
/-! DEFINITION. The matrix and sparse family (spec 06, R142 to R158; spec 02, R45, R46, R53, R54). -/

namespace Sys2Proof.Machine

open Sys2Proof

/-! ## Collective words and register images -/

/-- The width of the group that issues now; 8 when none does. -/
def State.issuingWidth (s : State) : Nat := ((s.issuingGroup).map (fun g => g.width)).getD 8

/-- The sub-group that issues now. -/
def State.issuingSub (s : State) : Option SubGroup := s.issuing.bind (fun is => SMap.get? s.subs is.sid)

/-- A register's value as a word of the issuing set with a guard reads it in its lowest active lane (R67, R72). -/
def State.issuingReg (s : State) (gneg : Bool) (guard : BitVec 3) (x : Reg) : Word :=
  match s.issuing, s.issuingSub with
  | some is, some sg =>
    let now := (s.stn sg.mast sg.stn).cycles
    sg.read now (lowest (maskOf ((lanesOf is.lanes).filter (fun l => (sg.read now l (.p l guard.toNat) != 0) != gneg)))) x
  | _, _ => 0

/-- The registers that hold an image of some bits in a group of some width, at least one (R143, R145, R149). -/
def imgRegs (bits w : Nat) : Nat := max 1 ((bits + 32 * w - 1) / (32 * w))

/-- The alignment of a run (R143). -/
def runAlign (n : Nat) : Nat := if n ≤ 1 then 1 else if n = 2 then 2 else 4

/-- A position that holds a run of n vector registers: a run that would pass v63 is of a class that is not accepted (R142),
and its first register is aligned as R143 says. -/
def imgPos (p : Pos) (n : Nat) : Pos :=
  match p.o with
  | .v k => { p.runOf n (runAlign n) with acc := if k.toNat + n > 64 then Acc.none else p.acc }
  | .s _ | .p _ | .k _ | .q _ | .d _ | .zero | .rsv _ => p.runOf n (runAlign n)

/-- A source run of n vector registers. -/
def imgSrc (o : Operand) (n : Nat) : Pos := imgPos (Pos.src o Acc.vOnly) n

/-- A destination run of n vector registers. -/
def imgDst (o : Operand) (n : Nat) : Pos := imgPos (Pos.dst o Acc.vOnly) n

/-- The first vector register of an operand. -/
def vNum : Operand → Nat
  | .v n => n.toNat
  | .s _ | .p _ | .k _ | .q _ | .d _ | .zero | .rsv _ => 0

/-- Whether two runs share a register (R143). -/
def overlap (a b : Pos) : Bool :=
  isV a.o && isV b.o && decide (vNum a.o < vNum b.o + b.run) && decide (vNum b.o < vNum a.o + a.run)

/-- The tile predicate that a word names, as a source (R142). -/
def kpPos (kp : Nat) : Pos := Pos.src (.k (BitVec.ofNat 3 kp)) Acc.kz

/-- The value of a tile predicate that a word names. -/
def Run.kp (r : Run) (kp : Nat) : Bool := kp == 0 || r.reg r.low (.k kp) != 0

/-- Steps 2 and 3 of R142: the tile predicate, then collective issue, then the word's own data checks and effect. -/
def collective (r : Run) (s : State) (kp : Nat) (widthOk : Bool) (idle : State → State) (body : State → State) : State :=
  if !r.kp kp then r.done (idle s)
  else if !widthOk then r.trap s 0x0C 2 0 r.act
  else if r.act ≠ widthMask r.g.width then r.trap s 0x0C 1 0 r.act
  else body s

/-- The 32-bit words of a run in image order (R143). -/
def Run.image (r : Run) (o : Operand) (n : Nat) : Array Nat :=
  ((List.range n).flatMap (fun i => (List.range r.g.width).map (fun l => (r.reg l (.v l (vNum o + i))).toNat))).toArray

/-- Element e of width b bits of an image; 64-bit elements take two words (R145). -/
def imgElem (im : Array Nat) (b e : Nat) : Nat :=
  if b = 64 then im.getD (2 * e) 0 + im.getD (2 * e + 1) 0 * 2 ^ 32
  else im.getD (e * b / 32) 0 / 2 ^ (e * b % 32) % 2 ^ b

/-- Bit e of an image. -/
def imgBit (im : Array Nat) (e : Nat) : Bool := (im.getD (e / 32) 0).testBit (e % 32)

/-- The writes of a run whose image is made of some elements, the bytes left over being 0 (R143). -/
def imageWrites (o : Operand) (n w b : Nat) (els : Array Nat) : List (Reg × Word) :=
  (List.range n).flatMap (fun i => (List.range w).map (fun l =>
    let j := i * w + l
    let x := if b = 64 then els.getD (j / 2) 0 / 2 ^ (32 * (j % 2)) % 2 ^ 32
      else (List.range (32 / b)).foldl (fun a k => a + els.getD (j * (32 / b) + k) 0 % 2 ^ b * 2 ^ (k * b)) 0
    (.v l (vNum o + i), BitVec.ofNat 64 x)))

/-- An element as a format holds it: a 6-bit format ignores its slot's high bits (R45). -/
def EFmt.trim (t : EFmt) (x : Nat) : Nat := x % 2 ^ t.bits

/-! ## Matrix products -/

/-- What the formats of a product fix: K and the widths accepted (R144); none for a pair that is reserved. -/
structure MShape where
  k     : Nat
  small : Bool          -- width 32 is accepted as well as 64
  acc64 : Bool
  int   : Bool
  deriving DecidableEq, Repr

/-- The combination of two formats (R144). -/
def mShape (a b : Nat) : Option MShape :=
  let f8 := fun (c : Nat) => decide (0x10 ≤ c) && decide (c ≤ 0x14)
  let i8 := fun (c : Nat) => decide (c ≤ 1) || decide (c = 0xA) || decide (c = 0xB)
  if f8 a && f8 b then some { k := 32, small := true, acc64 := false, int := false }
  else if i8 a && i8 b then some { k := 32, small := true, acc64 := false, int := true }
  else if a = b && (decide (a = 0xE) || decide (a = 0xF)) then some { k := 16, small := true, acc64 := false, int := false }
  else if a = b && a = 0xD then some { k := 8, small := true, acc64 := false, int := false }
  else if a = b && a = 0xC then some { k := 4, small := false, acc64 := true, int := false }
  else none

/-- The A rows and B columns of a shape (R144). -/
def shapeRows (sh : Nat) : Nat × Nat := match sh with | 0 => (16, 64) | 1 => (32, 32) | 2 => (64, 16) | _ => (64, 64)

/-- The A row and B column of an output (R145). -/
def outPlace (sh o : Nat) : Nat × Nat :=
  match sh with
  | 0 => (o / 64, o % 64)
  | 1 => (o / 32, o % 32)
  | 2 => (o / 16, o % 16)
  | _ => (o / 256 * 16 + o % 256 / 16, o / 256 * 16 + o % 16)

/-- The fields of a matrix word (R146). -/
structure MWord where
  kp : Nat
  fa : Nat
  fb : Nat
  sh : Nat
  deriving DecidableEq, Repr

def MWord.ofF (w : FWord) : MWord :=
  let m := fMods w
  { kp := m / 2 ^ 13, fa := m / 2 ^ 8 % 32, fb := m / 2 ^ 3 % 32, sh := m / 2 % 4 }

/-- One pair's part of a quad (R53): an exact term, an infinity, a NaN, or nothing. -/
inductive Term where
  | none | nan (scale : Bool) | inf (neg : Bool) | fin (neg : Bool) (m : Nat) (e : Int)
  deriving DecidableEq, Repr

/-- A pair of factors with its scales (R53, R54). -/
def pairTerm (x y : FVal) (scale : Option (Nat × Nat)) : Term :=
  if x.isZero || y.isZero then .none
  else match scale with
    | some (sa, sb) => if sa = 0xFF || sb = 0xFF then .nan true else factors ((sa : Int) + sb - 254)
    | none => factors 0
where
  /-- The product of two factors, neither a zero, times a power of two. -/
  factors (q : Int) : Term :=
    match x, y with
    | .nan _, _ | _, .nan _ => .nan false
    | .inf a, .inf b | .inf a, .fin b _ _ | .fin b _ _, .inf a => .inf (a != b)
    | .fin a m e, .fin b n f => .fin (a != b) (m * n) (e + f + q)

/-- The exact sum of some terms. -/
def termSum (ts : List Term) : FVal :=
  ts.foldl (fun a t => match t with
    | .fin n m e => (a.add Rnd.rne (.fin n m e)).1
    | .none | .nan _ | .inf _ => a) (.fin false 0 0)

/-- One quad of one output in floating point (R53). -/
def quadStep (t : FFmt) (acc : Nat) (ts : List Term) : Nat × Flags :=
  let snan := flIf (ts.any (fun x => decide (x = .nan true))) flSNAN
  let nan := ts.any (fun x => decide (x = .nan true) || decide (x = .nan false))
  let pinf := ts.any (fun x => decide (x = .inf false))
  let ninf := ts.any (fun x => decide (x = .inf true))
  let a := t.unpack acc
  if nan then (t.qnan, snan)
  else if pinf && ninf then (t.qnan, flNV)
  else if pinf || ninf then
    let (z, f) := a.add Rnd.rne (.inf ninf)
    ((t.deliver Rnd.rne z).1, f)
  else
    let sm := termSum ts
    if sm.isZero then (acc, 0)
    else
      let (z, f) := a.add Rnd.rne sm
      let (x, g) := t.deliver Rnd.rne z
      (x, f ||| g)

/-- The signed or unsigned value of an integer element. -/
def intElem (t : EFmt) (x : Nat) : Int := match t with | .int f => tVal f x | .flt _ | .scale | .none => 0

/-- A floating-point element. -/
def fltElem (t : EFmt) (x : Nat) : FVal := match t with | .flt f => f.unpack x | .int _ | .scale | .none => .fin false 0 0

/-- One output over its quads from q0 to q1 - 1 (R53): the accumulator and the flags. -/
def outputOf (m : MWord) (sh : MShape) (a b : Nat → Nat) (scale : Option (Nat × Nat)) (q0 q1 acc : Nat) : Nat × Flags :=
  let ta := EFmt.ofCode m.fa
  let tb := EFmt.ofCode m.fb
  if sh.int then
    let z := ((List.range (4 * (q1 - q0))).map (fun i =>
      intElem ta (ta.trim (a (4 * q0 + i))) * intElem tb (tb.trim (b (4 * q0 + i))))).sum
    (wrapTo 32 ((acc : Int) + z), 0)
  else
    let t := if sh.acc64 then FFmt.f64 else FFmt.f32
    (List.range (q1 - q0)).foldl (fun st i =>
      let q := q0 + i
      let ts := (List.range 4).map (fun j => pairTerm (fltElem ta (ta.trim (a (4 * q + j)))) (fltElem tb (tb.trim (b (4 * q + j)))) scale)
      let (x, f) := quadStep t st.1 ts
      (x, st.2 ||| f)) (acc, 0)

/-- Accumulator element o of a run (R145). -/
def Run.accum (r : Run) (o : Operand) (wide : Bool) (i : Nat) : Nat :=
  let w := r.g.width
  if wide then (r.reg (i % w) (.v (i % w) (vNum o + 2 * (i / w)))).toNat + (r.reg (i % w) (.v (i % w) (vNum o + 2 * (i / w) + 1))).toNat * 2 ^ 32
  else (r.reg (i % w) (.v (i % w) (vNum o + i / w))).toNat

/-- The writes of accumulator element o of a run (R145). -/
def accWrites (o : Operand) (w : Nat) (wide : Bool) (i x : Nat) : List (Reg × Word) :=
  if wide then [(.v (i % w) (vNum o + 2 * (i / w)), BitVec.ofNat 64 (x % 2 ^ 32)), (.v (i % w) (vNum o + 2 * (i / w) + 1), BitVec.ofNat 64 (x / 2 ^ 32))]
  else [(.v (i % w) (vNum o + i / w), BitVec.ofNat 64 x)]

/-- Registers of an accumulator run (R145). -/
def accRegs (sh : MShape) (w : Nat) : Nat := imgRegs (1024 * (if sh.acc64 then 64 else 32)) w

/-- The operands of a matrix word as positions, with the registers of its A and B runs. -/
structure MOps where
  d  : Pos
  a  : Pos
  b  : Pos
  c  : Option Pos
  more : List Pos
  deriving DecidableEq, Repr

/-- The positions of a matrix word: nA and nB are the bits of its A and B images. -/
def mOps (w : FWord) (sh : MShape) (wd na nb : Nat) (more : List Pos) : MOps :=
  { d := imgDst w.dest (accRegs sh wd), a := imgSrc w.a (imgRegs na wd), b := imgSrc w.b (imgRegs nb wd),
    c := if w.c = .zero then none else some (imgSrc w.c (accRegs sh wd)), more := more }

/-- The legality of a matrix word (R142, R143, R146). -/
def mSig (w : FWord) (m : MWord) (o : MOps) (resv : Bool) (unused : List Operand) : Sig :=
  let clash := (o.a :: o.b :: o.more).any (overlap o.d) ||
    (match o.c with | some c => overlap o.d c && decide (o.d.o ≠ c.o) | none => false)
  { Sig.plain unused ([o.d, o.a, o.b] ++ o.c.toList ++ o.more ++ [kpPos m.kp]) with
    resv := resv || w.lo.getLsbD 0 || (mShape m.fa m.fb).isNone, illop := clash }

/-- All outputs of a product: their writes and flags. -/
def mResults (r : Run) (m : MWord) (sh : MShape) (dest : Operand) (a b : Nat → Nat) (scale : Nat → Nat → Option (Nat × Nat))
    (q0 q1 : Nat) (acc : Nat → Nat) : List (Reg × Word) × Flags :=
  let outs := (List.range 1024).map (fun o =>
    let (row, col) := outPlace m.sh o
    (o, outputOf m sh (fun k => a (row * sh.k + k)) (fun k => b (col * sh.k + k)) (scale row col) q0 q1 (acc o)))
  (outs.flatMap (fun x => accWrites dest r.g.width sh.acc64 x.1 x.2.1), flagsOf (outs.map (fun x => x.2.2)))

/-- The shape of a word's formats, or that of the block-scaled formats where they are reserved. -/
def mShapeOf (m : MWord) : MShape := (mShape m.fa m.fb).getD { k := 32, small := true, acc64 := false, int := false }

/-- Bits of an operand image (R145). -/
def imgBits (rows k fmt : Nat) : Nat := rows * k * (EFmt.ofCode fmt).slot

/-- Whether the group's width is one that the formats accept (R144). -/
def mWidthOk (sh : MShape) (g : Group) : Bool := decide (g.width = 64) || (sh.small && decide (g.width = 32))

/-- The starting accumulator of an output (R147). -/
def startAcc (r : Run) (w : FWord) (sh : MShape) (o : Nat) : Nat := if w.c = .zero then 0 else r.accum w.c sh.acc64 o

/-- The operands of MMA in a group of some width (R145). -/
def mmaOps (w : FWord) (wd : Nat) : MOps :=
  let m := MWord.ofF w
  let sh := mShapeOf m
  let (ra, cb) := shapeRows m.sh
  mOps w sh wd (imgBits ra sh.k m.fa) (imgBits cb sh.k m.fb) []

/-- The legality of MMA (R144, R147). -/
def mmaSig (s : State) (w : FWord) : Sig := mSig w (MWord.ofF w) (mmaOps w s.issuingWidth) false []

/-- The results of MMA in a group of some width (R147). -/
def mmaOut (wd : Nat) (w : FWord) (r : Run) : List (Reg × Word) × Flags :=
  let m := MWord.ofF w
  let sh := mShapeOf m
  let o := mmaOps w wd
  let ia := r.image w.a o.a.run
  let ib := r.image w.b o.b.run
  mResults r m sh w.dest (imgElem ia (EFmt.ofCode m.fa).slot) (imgElem ib (EFmt.ofCode m.fb).slot) (fun _ _ => none) 0 (sh.k / 4) (startAcc r w sh)

/-- The station cycles for which a dense product of some formats occupies the matrix array (R144). -/
def denseCycles (m : MWord) : Nat :=
  let small := fun (f : Nat) => decide ((EFmt.ofCode f).bits ≤ 6)
  if small m.fa && small m.fb then 4
  else if m.fa = 0xD then 16
  else if m.fa = 0xC then 32
  else 8

/-- The word occupies its station's matrix array for some cycles from its issue (R144). -/
def Run.takeArray (r : Run) (s : State) (n : Nat) : State :=
  s.updStn r.sg.mast r.sg.stn (fun st => { st with arrayFree := r.now + n })

/-- MMA (R147). -/
def execMma (w : FWord) (s : State) : Host.Outcome State Fault Refusal :=
  let m := MWord.ofF w
  let wd := s.issuingWidth
  issueF s w none (mmaSig s w) (fun r s =>
    collective r s m.kp (mWidthOk (mShapeOf m) r.g) id (fun s =>
      r.later (r.takeArray s (denseCycles m)) (mmaOut wd w r).1 (mmaOut wd w r).2))

/-- The first row of R144: the formats that block scaling accepts. -/
def mBlock (m : MWord) : Bool :=
  decide (0x10 ≤ m.fa) && decide (m.fa ≤ 0x14) && decide (0x10 ≤ m.fb) && decide (m.fb ≤ 0x14)

/-- The operands of MMA.BS in a group of some width (R145, R148). -/
def mmaBsOps (w : FWord) (xw : XWord) (wd : Nat) : MOps :=
  let m := MWord.ofF w
  let sh := mShapeOf m
  let (ra, cb) := shapeRows m.sh
  mOps w sh wd (imgBits ra sh.k m.fa) (imgBits cb sh.k m.fb)
    [imgSrc (Operand.ofCode (xw.extractLsb' 7 7)) 1, imgSrc (Operand.ofCode (xw.extractLsb' 0 7)) 1]

/-- The legality of MMA.BS (R147, R148). -/
def mmaBsSig (s : State) (w : FWord) (xw : XWord) : Sig :=
  let m := MWord.ofF w
  mSig w m (mmaBsOps w xw s.issuingWidth) (!mBlock m || decide (fieldOf xw 14 48 ≠ 0)) []

/-- The results of MMA.BS in a group of some width (R147, R148). -/
def mmaBsOut (wd : Nat) (w : FWord) (xw : XWord) (r : Run) : List (Reg × Word) × Flags :=
  let m := MWord.ofF w
  let sh := mShapeOf m
  let o := mmaBsOps w xw wd
  let ia := r.image w.a o.a.run
  let ib := r.image w.b o.b.run
  let ka := r.image (Operand.ofCode (xw.extractLsb' 7 7)) 1
  let kb := r.image (Operand.ofCode (xw.extractLsb' 0 7)) 1
  mResults r m sh w.dest (imgElem ia (EFmt.ofCode m.fa).slot) (imgElem ib (EFmt.ofCode m.fb).slot)
    (fun row col => some (imgElem ka 8 row, imgElem kb 8 col)) 0 (sh.k / 4) (startAcc r w sh)

/-- MMA.BS (R147, R148). -/
def execMmaBs (w : FWord) (x : Option XWord) (s : State) : Host.Outcome State Fault Refusal :=
  match x with
  | none => issueBadX s 6
  | some xw =>
    let m := MWord.ofF w
    let wd := s.issuingWidth
    issueF s w x (mmaBsSig s w xw) (fun r s =>
      collective r s m.kp (mWidthOk (mShapeOf m) r.g) id (fun s =>
        r.later (r.takeArray s (denseCycles m)) (mmaBsOut wd w xw r).1 (mmaBsOut wd w xw r).2))

/-- The logical elements of a sparse tile (R149): each set bit takes the next packed value. -/
def sparseElems (bm vals : Array Nat) (slot n : Nat) : Array Nat :=
  ((List.range n).foldl (fun (st : Array Nat × Nat) e =>
    if imgBit bm e then (st.1.push (imgElem vals slot st.2), st.2 + 1) else (st.1.push 0, st.2)) (#[], 0)).1

/-- The set bits of a bitmap of n bits. -/
def bitCount (bm : Array Nat) (n : Nat) : Nat := ((List.range n).filter (imgBit bm)).length

/-- The operands of MMA.SP in a group of some width (R145, R150). -/
def mmaSpOps (w : FWord) (xw : XWord) (wd : Nat) : MOps :=
  let m := MWord.ofF w
  let sh := mShapeOf m
  let (ra, cb) := shapeRows m.sh
  mOps w sh wd (imgBits ra sh.k m.fa / 2 ^ fieldOf xw 30 2) (imgBits cb sh.k m.fb / 2 ^ fieldOf xw 28 2)
    ([imgSrc (Operand.ofCode (xw.extractLsb' 21 7)) (imgRegs (ra * sh.k) wd), imgSrc (Operand.ofCode (xw.extractLsb' 14 7)) (imgRegs (cb * sh.k) wd)] ++
      (if xw.getLsbD 32 then [imgSrc (Operand.ofCode (xw.extractLsb' 7 7)) 1, imgSrc (Operand.ofCode (xw.extractLsb' 0 7)) 1] else []))

/-- The legality of MMA.SP (R150, R151): it reads and writes %tprog, and where that is not 0 it reads run d. -/
def mmaSpSig (s : State) (w : FWord) (xw : XWord) : Sig :=
  let m := MWord.ofF w
  let bs := xw.getLsbD 32
  let o := mmaSpOps w xw s.issuingWidth
  { mSig w m o ((bs && !mBlock m) || decide (fieldOf xw 33 29 ≠ 0))
      (if bs then [] else [Operand.ofCode (xw.extractLsb' 7 7), Operand.ofCode (xw.extractLsb' 0 7)]) with
    rds := [.x 0x0D], wrs := [.x 0x0D]
    reads := if s.issuingReg w.gneg w.guard (.x 0x0D) = 0 then [] else [{ o.d with rd := true }] }

/-- The quads completed of an MMA.SP that begins again (R151). -/
def Run.tprog (r : Run) : Nat := (r.reg r.low (.x 0x0D)).toNat

/-- The nonzero elements that the two bitmaps of MMA.SP count (R150). -/
def mmaSpCounts (wd : Nat) (w : FWord) (xw : XWord) (r : Run) : Nat × Nat :=
  let m := MWord.ofF w
  let sh := mShapeOf m
  let na := (shapeRows m.sh).1 * sh.k
  let nb := (shapeRows m.sh).2 * sh.k
  (bitCount (r.image (Operand.ofCode (xw.extractLsb' 21 7)) (imgRegs na wd)) na,
   bitCount (r.image (Operand.ofCode (xw.extractLsb' 14 7)) (imgRegs nb wd)) nb)

/-- The results of MMA.SP in a group of some width, from the quad that %tprog names to quad q1 - 1 (R150, R151). -/
def mmaSpOut (wd q1 : Nat) (w : FWord) (xw : XWord) (r : Run) : List (Reg × Word) × Flags :=
  let m := MWord.ofF w
  let sh := mShapeOf m
  let na := (shapeRows m.sh).1 * sh.k
  let nb := (shapeRows m.sh).2 * sh.k
  let bs := xw.getLsbD 32
  let o := mmaSpOps w xw wd
  let q0 := r.tprog
  let ba := r.image (Operand.ofCode (xw.extractLsb' 21 7)) (imgRegs na wd)
  let bb := r.image (Operand.ofCode (xw.extractLsb' 14 7)) (imgRegs nb wd)
  let ea := sparseElems ba (r.image w.a o.a.run) (EFmt.ofCode m.fa).slot na
  let eb := sparseElems bb (r.image w.b o.b.run) (EFmt.ofCode m.fb).slot nb
  let ka := r.image (Operand.ofCode (xw.extractLsb' 7 7)) 1
  let kb := r.image (Operand.ofCode (xw.extractLsb' 0 7)) 1
  mResults r m sh w.dest (fun i => ea.getD i 0) (fun i => eb.getD i 0)
    (fun row col => if bs then some (imgElem ka 8 row, imgElem kb 8 col) else none) q0 q1
    (fun i => if q0 > 0 then r.accum w.dest sh.acc64 i else startAcc r w sh i)

/-- The station cycles for which quads q0 to q1 - 1 of an MMA.SP occupy the matrix array: the dense time by the larger of a quarter
and the density of the pairs whose two bitmap bits are set (R8), or the dense time with %ctl.DIT set (R152). A part of a cycle
counts as one. -/
def mmaSpCycles (wd q0 q1 : Nat) (w : FWord) (xw : XWord) (r : Run) : Nat :=
  let m := MWord.ofF w
  let k := (mShapeOf m).k
  let ba := r.image (Operand.ofCode (xw.extractLsb' 21 7)) (imgRegs ((shapeRows m.sh).1 * k) wd)
  let bb := r.image (Operand.ofCode (xw.extractLsb' 14 7)) (imgRegs ((shapeRows m.sh).2 * k) wd)
  let total := 1024 * (4 * (q1 - q0))
  let alive := ((List.range 1024).map (fun o =>
    let (row, col) := outPlace m.sh o
    ((List.range (4 * (q1 - q0))).filter (fun i => imgBit ba (row * k + 4 * q0 + i) && imgBit bb (col * k + 4 * q0 + i))).length)).sum
  let dense := denseCycles m * (q1 - q0)
  let nq := max (k / 4) 1
  if r.sg.ctl.getLsbD 1 || total = 0 then (dense + nq - 1) / nq
  else (dense * max (4 * alive) total + 4 * total * nq - 1) / (4 * total * nq)

/-- The capacities of the packed sources of MMA.SP (R150). -/
def mmaSpCaps (w : FWord) (xw : XWord) : Nat × Nat :=
  let m := MWord.ofF w
  ((shapeRows m.sh).1 * (mShapeOf m).k / 2 ^ fieldOf xw 30 2, (shapeRows m.sh).2 * (mShapeOf m).k / 2 ^ fieldOf xw 28 2)

/-- An MMA.SP stops at a quad boundary, and its lanes stay at the word (R151). -/
def Run.stopQuads (r : Run) (s : State) (q : Nat) (out : List (Reg × Word) × Flags) : State :=
  s.updSub r.sid (fun sg => ((out.1 ++ [(Reg.x 0x0D, BitVec.ofNat 64 q)]).foldl (fun (sg : SubGroup) x => sg.writeNow x.1 x.2) sg).raise out.2)

/-- The boundary at which an MMA.SP of nq quads stops for a preemption, if the turn names one (R151). -/
def State.stopAt (s : State) (q0 nq : Nat) : Option Nat :=
  (s.issuing.bind (fun is => is.quads)).bind (fun q => if q0 < q && decide (q < nq) then some q else none)

/-- MMA.SP (R150, R151). -/
def execMmaSp (w : FWord) (x : Option XWord) (s : State) : Host.Outcome State Fault Refusal :=
  match x with
  | none => issueBadX s 6
  | some xw =>
    let m := MWord.ofF w
    let wd := s.issuingWidth
    issueF s w x (mmaSpSig s w xw) (fun r s =>
      let idle := fun (s : State) => s.updSub r.sid (fun sg => sg.writeNow (.x 0x0D) 0)
      let nq := (mShapeOf m).k / 4
      collective r s m.kp (mWidthOk (mShapeOf m) r.g) idle (fun s =>
        let c := mmaSpCounts wd w xw r
        if c.1 > (mmaSpCaps w xw).1 || c.2 > (mmaSpCaps w xw).2 then r.trap s 0x0D 0 (packWord [(c.1, 0), (c.2, 32)]) r.act
        else if r.tprog > nq then r.trap s 2 0 0 r.act
        else match s.stopAt r.tprog nq with
          | some q => r.stopQuads (r.takeArray s (mmaSpCycles wd r.tprog q w xw r)) q (mmaSpOut wd q w xw r)
          | none => r.later (r.takeArray s (mmaSpCycles wd r.tprog nq w xw r)) ((mmaSpOut wd nq w xw r).1 ++ [(.x 0x0D, 0)]) (mmaSpOut wd nq w xw r).2))

/-! ## Bitmaps and tile predicates -/

/-- The thirteen formats of R144. -/
def tileFmt (f : Nat) : Bool := decide (f ≤ 1) || (decide (0xA ≤ f) && decide (f ≤ 0x14))

/-- Whether an element is nonzero (R154). -/
def nonzeroElem (t : EFmt) (x : Nat) : Bool :=
  match t with
  | .int _ => decide (x ≠ 0)
  | .flt f => !(f.unpack x).isZero
  | .scale | .none => false

/-- The modifiers of BMC and BMX (R154): format, n, capacity. -/
structure TileMods where
  kp  : Nat
  fmt : Nat
  len : Nat
  cap : Nat
  bad : Bool
  deriving DecidableEq, Repr

def TileMods.ofF (w : FWord) : TileMods :=
  let m := fMods w
  { kp := m / 2 ^ 13, fmt := m / 2 ^ 8 % 32, len := m / 2 ^ 5 % 8, cap := m / 2 ^ 3 % 4,
    bad := !tileFmt (m / 2 ^ 8 % 32) || decide (m / 2 ^ 5 % 8 > 5) || decide (m % 8 ≠ 0) }

/-- Put b bits at bit position i of the image of a run into registers kept by their numbers, lane * 64 + register (R143). -/
def putImage (o : Operand) (w : Nat) (m : RMap 32) (i b x : Nat) : RMap 32 :=
  let put := fun (m : RMap 32) (j c y : Nat) =>
    let key := j / 32 % w * 64 + (vNum o + j / 32 / w)
    let old := (RMap.get m key).toNat
    RMap.set m key (BitVec.ofNat 32 (old - old / 2 ^ (j % 32) % 2 ^ c * 2 ^ (j % 32) + y % 2 ^ c * 2 ^ (j % 32)))
  if b = 64 then put (put m i 32 (x % 2 ^ 32)) (i + 32) 32 (x / 2 ^ 32) else put m i b x

/-- The legality of BMC (R154). -/
def bmcSig (s : State) (w : FWord) : Sig :=
  let m := TileMods.ofF w
  let t := EFmt.ofCode m.fmt
  let n := 64 * 2 ^ m.len
  let dv := imgDst w.dest (imgRegs (n / 2 ^ m.cap * t.slot) s.issuingWidth)
  let a := imgSrc w.a (imgRegs (n * t.slot) s.issuingWidth)
  let dm := imgDst w.b (imgRegs n s.issuingWidth)
  { Sig.plain [] [dv, a, dm, Pos.dst w.c Acc.sz, kpPos m.kp] with resv := m.bad, illop := overlap dv a || overlap dm a }

/-- The destination runs of BMC: packed elements and bitmap (R154). -/
def bmcDsts (wd : Nat) (w : FWord) : Pos × Pos :=
  let m := TileMods.ofF w
  let n := 64 * 2 ^ m.len
  (imgDst w.dest (imgRegs (n / 2 ^ m.cap * (EFmt.ofCode m.fmt).slot) wd), imgDst w.b (imgRegs n wd))

/-- The tile writes of BMC whose two destination runs share registers, in the order of the pseudocode: the bits and values of each
element in turn, then zero for the values left over (R154, R17). The bytes that an image leaves over are 0 before all of these:
the spec gives their value and no order. -/
def bmcMixed (w : FWord) (wd slot c : Nat) (ds : Pos × Pos) (els : List Nat) (nz : Nat → Bool) : List (Reg × Word) :=
  let bit := fun (st : RMap 32 × Nat × Nat) (x : Nat) =>
    let m := putImage w.b wd st.1 st.2.1 1 (if nz x then 1 else 0)
    if nz x then ((if st.2.2 < c then putImage w.dest wd m (st.2.2 * slot) slot x else m), st.2.1 + 1, st.2.2 + 1)
    else (m, st.2.1 + 1, st.2.2)
  let st := els.foldl bit ([], 0, 0)
  let m := (List.range (c - st.2.2)).foldl (fun m i => putImage w.dest wd m ((st.2.2 + i) * slot) slot 0) st.1
  let regs := fun (p : Pos) => (List.range p.run).flatMap (fun i => (List.range wd).map (fun l => (l, vNum p.o + i)))
  (regs ds.2 ++ regs ds.1).map (fun e => (.v e.1 e.2, (RMap.get m (e.1 * 64 + e.2)).setWidth 64))

/-- The tile writes of BMC and its count of nonzero elements (R154). -/
def bmcOut (wd : Nat) (w : FWord) (r : Run) : List (Reg × Word) × Nat :=
  let m := TileMods.ofF w
  let t := EFmt.ofCode m.fmt
  let n := 64 * 2 ^ m.len
  let im := r.image w.a (imgSrc w.a (imgRegs (n * t.slot) wd)).run
  let els := (List.range n).map (fun e => t.trim (imgElem im t.slot e))
  let nz := els.filter (nonzeroElem t)
  let bits := (els.map (fun x => if nonzeroElem t x then 1 else 0)).toArray
  (if overlap (bmcDsts wd w).1 (bmcDsts wd w).2 then bmcMixed w r.g.width t.slot (n / 2 ^ m.cap) (bmcDsts wd w) els (nonzeroElem t)
   else
    imageWrites w.b (bmcDsts wd w).2.run r.g.width 1 bits ++
    imageWrites w.dest (bmcDsts wd w).1.run r.g.width t.slot (nz.take (n / 2 ^ m.cap)).toArray, nz.length)

/-- BMC (R154). -/
def execBmc (w : FWord) (s : State) : Host.Outcome State Fault Refusal :=
  let wd := s.issuingWidth
  issueF s w none (bmcSig s w) (fun r s =>
    collective r s (TileMods.ofF w).kp true id (fun s => r.later s ((bmcOut wd w r).1 ++ dstWrites w.c true 0 (bmcOut wd w r).2) 0))

/-- The legality of BMX (R154). -/
def bmxSig (s : State) (w : FWord) : Sig :=
  let m := TileMods.ofF w
  let t := EFmt.ofCode m.fmt
  let n := 64 * 2 ^ m.len
  let d := imgDst w.dest (imgRegs (n * t.slot) s.issuingWidth)
  let a := imgSrc w.a (imgRegs (n / 2 ^ m.cap * t.slot) s.issuingWidth)
  let b := imgSrc w.b (imgRegs n s.issuingWidth)
  { Sig.plain [w.c] [d, a, b, kpPos m.kp] with resv := m.bad, illop := overlap d a || overlap d b }

/-- The results of BMX (R154). -/
def bmxOut (wd : Nat) (w : FWord) (r : Run) : List (Reg × Word) :=
  let m := TileMods.ofF w
  let t := EFmt.ofCode m.fmt
  let n := 64 * 2 ^ m.len
  let c := n / 2 ^ m.cap
  let d := imgDst w.dest (imgRegs (n * t.slot) wd)
  let va := r.image w.a (imgSrc w.a (imgRegs (c * t.slot) wd)).run
  let bm := r.image w.b (imgSrc w.b (imgRegs n wd)).run
  let els := ((List.range n).foldl (fun (st : Array Nat × Nat) e =>
    if imgBit bm e then (st.1.push (if st.2 < c then t.trim (imgElem va t.slot st.2) else 0), st.2 + 1) else (st.1.push 0, st.2)) (#[], 0)).1
  imageWrites w.dest d.run r.g.width t.slot els

/-- BMX (R154). -/
def execBmx (w : FWord) (s : State) : Host.Outcome State Fault Refusal :=
  let wd := s.issuingWidth
  issueF s w none (bmxSig s w) (fun r s =>
    collective r s (TileMods.ofF w).kp true id (fun s => r.later s (bmxOut wd w r) 0))

/-- The first source of KSET (R155). -/
def ksetPos (s : State) (w : FWord) : Pos :=
  match w.lo.toNat % 8 with
  | 0 => Pos.src w.a Acc.sz
  | 1 | 2 => Pos.src w.a { Acc.none with v := true, p := true }
  | 3 => imgSrc w.a (imgRegs (64 * 2 ^ (w.lo.toNat / 32)) s.issuingWidth)
  | _ => Pos.src w.a Acc.sOnly

/-- The legality of KSET (R155). -/
def ksetSig (s : State) (w : FWord) : Sig :=
  let op := w.lo.toNat % 8
  let len := w.lo.toNat / 32
  let kd := if op = 4 then [] else [Pos.dst w.dest { Acc.none with k := true }, Pos.src w.b Acc.kz]
  let loads := if op = 4 then (List.range 7).map (fun i => Pos.dst (.k (BitVec.ofNat 3 (i + 1))) Acc.kz) else []
  { Sig.plain ([w.c] ++ (if op = 4 then [w.dest, w.b] else [])) ([ksetPos s w] ++ kd ++ loads) with
    resv := decide (w.hi ≠ 0) || decide (w.lo.toNat / 8 % 4 ≠ 0) || decide (op > 4) || (if op = 3 then decide (len > 5) else decide (len ≠ 0)) }

/-- The results of KSET from its first source's position (R155). -/
def ksetOut (a : Pos) (w : FWord) (r : Run) : List (Reg × Word) :=
  let nz := fun l => r.val false w.a l != 0
  let put := fun (x : Bool) => dstWrites w.dest false 0 (if x && (w.b == .zero || r.val false w.b r.low != 0) then 1 else 0)
  match w.lo.toNat % 8 with
  | 0 => put (r.sval w.a != 0)
  | 1 => put ((lanesOf r.act).any nz)
  | 2 => put ((lanesOf r.act).all nz)
  | 3 => put ((List.range (64 * 2 ^ (w.lo.toNat / 32))).any (imgBit (r.image w.a a.run)))
  | _ => (List.range 7).map (fun i => (.k (i + 1), if (r.sval w.a).getLsbD (i + 1) then 1 else 0))

/-- KSET (R155). -/
def execKset (w : FWord) (s : State) : Host.Outcome State Fault Refusal :=
  let a := ksetPos s w
  issueF s w none (ksetSig s w) (fun r s =>
    if w.lo.toNat % 8 = 3 then collective r s 0 true id (fun s => r.later s (ksetOut a w r) 0)
    else r.later s (ksetOut a w r) 0)

/-- The legality of KTST (R156). -/
def ktstSig (w : FWord) : Sig :=
  let toP := match w.dest with | .p _ => true | _ => false
  let all := if isS w.dest then (List.range 7).map (fun i => Pos.src (.k (BitVec.ofNat 3 (i + 1))) Acc.kz) else []
  { zeroModSig w [w.b, w.c] ([Pos.dst w.dest { Acc.none with p := true, s := true }, Pos.src w.a Acc.kz] ++ all) with
    illop := (isS w.dest && w.a != .zero) || (toP && w.a == .zero) }

/-- The results of KTST (R156). -/
def ktstOut (w : FWord) (r : Run) : List (Reg × Word) :=
  if isS w.dest then dstWrites w.dest true 0 ((List.range 8).foldl (fun x i => if r.kp i then x + 2 ^ i else x) 0)
  else
    let kv := match w.a with | .k n => r.kp n.toNat | .v _ | .s _ | .p _ | .q _ | .d _ | .zero | .rsv _ => false
    (lanesOf r.act).flatMap (fun l => dstWrites w.dest false l (if kv then 1 else 0))

/-- KTST (R156). -/
def execKtst (w : FWord) (s : State) : Host.Outcome State Fault Refusal :=
  issueF s w none (ktstSig w) (fun r s => r.later s (ktstOut w r) 0)

/-! ## Partition and merge -/

/-- Steps of the merge path (R157). -/
def pathStep (e : Nat → Nat) (nr nnz : Nat) : Nat → Nat × Nat → Nat × Nat
  | 0, p => p
  | n + 1, (i, j) => pathStep e nr nnz n (if i < nr && (decide (j ≥ nnz) || decide (e i ≤ j)) then (i + 1, j) else (i, j + 1))

/-- The registers of the run that MPART's count names, for the scoreboard and the stall counts; the run is judged in step 4 of
R142. -/
def mpartCount (s : State) (w : FWord) : Nat :=
  let wd := s.issuingWidth
  let nr := match w.b with | .s n => (s.issuingReg w.gneg w.guard (.s n.toNat)).toNat % 2 ^ 32 | _ => 0
  if nr > 8 * wd then 0 else min ((nr + wd - 1) / wd) (64 - vNum w.a)

/-- The legality of MPART (R157). Model's choice: the single register c, which the rule does not call a run, counts as a source
run of one register for the ban on overlap of R143. -/
def mpartSig (s : State) (w : FWord) : Sig :=
  let d := imgDst w.dest 2
  { Sig.plain [] [d, Pos.src w.b Acc.sOnly, Pos.src w.c Acc.vs, kpPos (fMods w / 2 ^ 13)] with
    resv := decide (fMods w % 2 ^ 13 ≠ 0), illop := !isV w.a || overlap d (Pos.src w.c Acc.vs)
    unused := if opReserved w.a then [w.a] else []
    reads := [(Pos.src w.a Acc.vOnly).runOf (mpartCount s w) 1] }

/-- The registers of row ends that MPART reads in each lane (R157). -/
def mpartRegs (w : FWord) (r : Run) : Nat := ((r.sval w.b).toNat % 2 ^ 32 + r.g.width - 1) / r.g.width

/-- Whether the run of row ends that MPART's count names is no run that it accepts (R157); clash says that it meets the
destination. -/
def mpartBad (clash : Bool) (w : FWord) (r : Run) : Bool :=
  decide ((r.sval w.b).toNat % 2 ^ 32 > 8 * r.g.width) || decide (vNum w.a + mpartRegs w r > 64) || clash

/-- The results of MPART (R157). -/
def mpartOut (w : FWord) (r : Run) : List (Reg × Word) :=
  let x := (r.sval w.b).toNat
  let nr := x % 2 ^ 32
  let parts := max (x / 2 ^ 32) 1
  let e := fun i => (r.reg (i % r.g.width) (.v (i % r.g.width) (vNum w.a + i / r.g.width))).toNat
  let nnz := if nr = 0 then 0 else e (nr - 1)
  let t := nr + nnz
  let share := (t + parts - 1) / parts
  (lanesOf r.act).flatMap (fun l =>
    let diag := min (r.val false w.c l * share) t
    let p := pathStep e nr nnz diag (0, 0)
    [(.v l (vNum w.dest), BitVec.ofNat 64 (p.1 % 2 ^ 32)), (.v l (vNum w.dest + 1), BitVec.ofNat 64 (p.2 % 2 ^ 32))])

/-- Whether the run of row ends that MPART's count names meets its destination. -/
def mpartClash (w : FWord) (r : Run) : Bool :=
  isV w.a && decide (vNum w.a < vNum w.dest + 2) && decide (vNum w.dest < vNum w.a + mpartRegs w r)

/-- MPART (R157). Model's choice: with nr = 0 the run of row ends is empty, and where it would begin is judged by nothing. -/
def execMpart (w : FWord) (s : State) : Host.Outcome State Fault Refusal :=
  issueF s w none (mpartSig s w) (fun r s =>
    collective r s (fMods w / 2 ^ 13) true id (fun s =>
      if mpartBad (mpartClash w r) w r then r.trap s 2 0 0 r.act
      else if mpartRegs w r ≠ 0 && decide ((vNum w.a + mpartRegs w r - 1) / 8 ≥ r.g.wins) then r.trap s 4 0 0 r.act
      else r.later s (mpartOut w r) 0))

/-- The sum of SMERGE in a format (R158). Model's choice: a signalling NaN raises NV, as in a vector instruction; R51 sets vector
instructions, which raise it, against matrix instructions, which do not, and R158 names the flag NV without saying which SMERGE is. -/
def mergeSum (fmt rnd a b : Nat) : Nat × Flags :=
  if fmt = 0xD then FFmt.f32.addOp { code := rnd, draw := 0 } a b else (wrapTo 32 ((a : Int) + b), 0)

/-- Whether a sum is ±0 or integer 0 (R158). -/
def mergeZero (fmt x : Nat) : Bool := if fmt = 0xD then decide (x % 2 ^ 31 = 0) else decide (x = 0)

/-- The sorted union of two index lists with their values (R158). -/
def mergeGo (fmt rnd : Nat) (drop : Bool) : Nat → List (Nat × Nat) → List (Nat × Nat) → List (Nat × Nat) × Flags
  | 0, _, _ => ([], 0)
  | _ + 1, [], bs => (bs, 0)
  | _ + 1, a :: as, [] => (a :: as, 0)
  | n + 1, a :: as, b :: bs =>
    if a.1 < b.1 then let (o, f) := mergeGo fmt rnd drop n as (b :: bs); (a :: o, f)
    else if b.1 < a.1 then let (o, f) := mergeGo fmt rnd drop n (a :: as) bs; (b :: o, f)
    else
      let (v, g) := mergeSum fmt rnd a.2 b.2
      let (o, f) := mergeGo fmt rnd drop n as bs
      (if drop && mergeZero fmt v then o else (a.1, v) :: o, f ||| g)

/-- The legality of SMERGE (R158). Model's choice: the single registers a, b, va and vb, which the rule does not call runs, count
as source runs of one register for the ban on overlap of R143. -/
def smergeSig (w : FWord) (xw : XWord) : Sig :=
  let m := fMods w
  let fmt := m / 2 ^ 8 % 32
  let rnd := m / 2 ^ 5 % 8
  let d := imgDst w.dest 2
  let dv := imgDst (Operand.ofCode (xw.extractLsb' 21 7)) 2
  let srcs := [imgSrc w.a 1, imgSrc w.b 1, imgSrc (Operand.ofCode (xw.extractLsb' 14 7)) 1, imgSrc (Operand.ofCode (xw.extractLsb' 7 7)) 1]
  { Sig.plain [] ([d, dv] ++ srcs ++ [Pos.src w.c Acc.sOnly, Pos.dst (Operand.ofCode (xw.extractLsb' 0 7)) Acc.sz, kpPos (m / 2 ^ 13)]) with
    resv := decide (fieldOf xw 28 34 ≠ 0) || decide (m % 16 ≠ 0) || !(decide (fmt = 0xD) || decide (fmt = 4) || decide (fmt = 5)),
    rnd := if fmt = 0xD then decide (rnd > 3) else decide (rnd ≠ 0),
    illop := srcs.any (overlap d) || srcs.any (overlap dv) }

/-- The lengths of the two lists of SMERGE (R158). -/
def smergeLens (w : FWord) (r : Run) : Nat × Nat := ((r.sval w.c).toNat % 2 ^ 32, (r.sval w.c).toNat / 2 ^ 32)

/-- The tile writes of SMERGE, indices before values so that with d = dv the values stand (R158, R17), the length of its union, and its flags (R158). -/
def smergeOut (w : FWord) (xw : XWord) (r : Run) : List (Reg × Word) × Nat × Flags :=
  let m := fMods w
  let wd := r.g.width
  let at' := fun (o : Operand) i => (r.reg i (.v i (vNum o))).toNat
  let as := (List.range (smergeLens w r).1).map (fun i => (at' w.a i, at' (Operand.ofCode (xw.extractLsb' 14 7)) i))
  let bs := (List.range (smergeLens w r).2).map (fun i => (at' w.b i, at' (Operand.ofCode (xw.extractLsb' 7 7)) i))
  let u := mergeGo (m / 2 ^ 8 % 32) (m / 2 ^ 5 % 8) (decide (m / 2 ^ 4 % 2 = 1)) ((smergeLens w r).1 + (smergeLens w r).2 + 1) as bs
  let ix := (u.1.map (fun (e : Nat × Nat) => e.1) ++ List.replicate (2 * wd - u.1.length) 0xFFFFFFFF).toArray
  let vx := (u.1.map (fun (e : Nat × Nat) => e.2)).toArray
  (imageWrites w.dest 2 wd 32 ix ++ imageWrites (Operand.ofCode (xw.extractLsb' 21 7)) 2 wd 32 vx, u.1.length, u.2)

/-- SMERGE (R158). -/
def execSmerge (w : FWord) (x : Option XWord) (s : State) : Host.Outcome State Fault Refusal :=
  match x with
  | none => issueBadX s 6
  | some xw =>
    issueF s w x (smergeSig w xw) (fun r s =>
      collective r s (fMods w / 2 ^ 13) true id (fun s =>
        if (smergeLens w r).1 > r.g.width || (smergeLens w r).2 > r.g.width then r.trap s 2 0 0 r.act
        else r.later s ((smergeOut w xw r).1 ++ dstWrites (Operand.ofCode (xw.extractLsb' 0 7)) true 0 (smergeOut w xw r).2.1) (smergeOut w xw r).2.2))

end Sys2Proof.Machine
end

