-- ==== Sys2Proof/Machine/Engines.lean ====
section
/-! DEFINITION. What the engines share, and the Tackle engines (spec 07, R159 to R172; spec 14, R282 to R284). -/

namespace Sys2Proof.Machine

open Sys2Proof

/-! ## Sector accesses of an engine -/

/-- For whom an engine works: the context, the device on which the word issued, whose striped addresses and grants it uses (R286;
log entry 16), the engine's own device, and pages whose translation was released with FAIL (R299). -/
structure EngId where
  ctx  : Nat
  dev  : Nat
  at'  : Nat
  dead : List Nat
  deriving DecidableEq, Repr

/-- Why an engine's access does not go through (R160, R163, R299, R327). -/
inductive EngStop where
  | hold (va : Word) (acc : BitVec 2)  -- its page waits
  | owner
  | path                               -- no shroud path to its home now
  | lost (code : BitVec 8) (bad : Option Nat)
  deriving DecidableEq, Repr

/-- The direct form of an engine's address. -/
def State.engDirect (s : State) (e : EngId) (va : Word) : Word :=
  let t := s.enter e.dev
  ((SMap.get? t.ctxs e.ctx).map (fun c => t.direct c va)).getD va

/-- The home of an engine's address (R120, R160). -/
def State.engHome (s : State) (e : EngId) (va : Word) : Home :=
  let t := s.enter e.dev
  match SMap.get? t.ctxs e.ctx with
  | some c => t.home c va
  | none => .none 1

/-- Whether a context is known where an engine's word issued. -/
def State.engKnown (s : State) (e : EngId) : Bool := (SMap.get? (s.enter e.dev).ctxs e.ctx).isSome

/-- An engine's access to a translated address at its home mast, its owner tag compared (R160, R163). -/
def State.engDram (s : State) (e : EngId) (m : Nat) (va : Word) (acc : BitVec 2) : Except EngStop Nat :=
  match s.xlate e.ctx va acc with
  | .ok pa => if s.frameTag m (pa / 2 ^ 16) = BitVec.ofNat 16 e.ctx then .ok (dramCell m pa) else .error .owner
  | .miss | .fault _ => .error (if e.dead.contains (pageOf va) then .lost 7 none else .hold va acc)

/-- The place of one access of a context's engine operation (R160, R163); a home fenced since is REFUSED (R168). -/
def State.engAt (s : State) (e : EngId) (va : Word) (acc : BitVec 2) : Except EngStop Nat :=
  if !s.engKnown e then .error .owner
  else match s.engHome e va with
    | .none _ => .error (.lost 5 none)
    | .window _ m n off =>
      if (s.mast m).fenced || (s.stn m n).fenced then .error (.lost 5 none)
      else if !s.linked e.at' (m / 16) then .error .path
      else if (s.stn m n).tag ≠ BitVec.ofNat 16 e.ctx then .error .owner
      else match s.placeOf e.ctx (s.engDirect e va) acc with
        | .cell _ => .ok (localCell m n off)
        | .hold | .bounds | .walkEnd => .error (.lost 7 none)
    | .dram _ m =>
      if (s.mast m).fenced then .error (.lost 5 none)
      else if !s.linked e.at' (m / 16) then .error .path
      else s.engDram e m (s.engDirect e va) acc

/-- One sector's place for reading; an uncorrectable one is lost (R327). -/
def State.engRead (s : State) (e : EngId) (va : Word) : Except EngStop Nat :=
  match s.engAt e va 0 with
  | .ok c => if s.badAt c then .error (.lost 7 (some (sectorOf c))) else .ok c
  | .error x => .error x

/-- Some bytes read by an engine, each in its own sector. -/
def State.engBytes (s : State) (e : EngId) (va : Word) (n : Nat) : Except EngStop (List Byte) :=
  (List.range n).mapM (fun i => (s.engRead e (va + BitVec.ofNat 64 i)).map (fun c => RMap.get (n := 8) s.mem c))

/-- A little-endian number read by an engine. -/
def State.engNum (s : State) (e : EngId) (va : Word) (n : Nat) : Except EngStop Nat := (s.engBytes e va n).map leNat

/-- Wait for the page of an access, or give it up where its release was FAIL (R299). -/
def engWait (s : State) (ctx : Nat) (x : Option XlReq) (va : Word) (acc : BitVec 2) : State × Option XlReq × Bool :=
  match x with
  | some y =>
    if pageOf y.va = pageOf va && y.fail then (s, none, true)
    else if y.held.isSome then (s, x, false)
    else let (t, _, z) := s.tryXl (XlReq.mk' ctx va acc); (t, some z, false)
  | none => let (t, _, z) := s.tryXl (XlReq.mk' ctx va acc); (t, some z, false)

/-- The code that prevails (R161): OWNER_CHANGED, REFUSED, ERROR, OK. -/
def worstCode (a b : BitVec 8) : BitVec 8 :=
  if a = 6 || b = 6 then 6 else if a = 5 || b = 5 then 5 else if a = 7 || b = 7 then 7 else 0

/-- A completion status word (R161); counts reach it within their fields (State.count24). -/
def statusWord (code : BitVec 8) (tag round cnt skip : Nat) : Word :=
  packWord [(code.toNat, 0), (tag, 8), (round, 12), (cnt % 2 ^ 24, 16), (skip % 2 ^ 24, 40)]

/-! ## Copies -/

/-- Bytes of a sparse tile in memory (R171). -/
def tileBytes (n c slot : Nat) : Nat := 32 + 32 * ((n + 255) / 256) + 32 * ((c * slot + 255) / 256)

/-- Tiles of a conversion along rows and along columns (R171). -/
def tileGrid (nc nr tkl len : Nat) : Nat × Nat :=
  let tk := 2 ^ tkl
  let tr := 64 * 2 ^ len / tk
  ((nr + tr - 1) / tr, (nc + tk - 1) / tk)

/-- The transfers of a slice: destination sectors, one for all receivers of a CPM (R282). -/
def CopyKind.units : CopyKind → Nat
  | .cp _ _ len => len / 32
  | .cpm _ _ _ clen olen _ _ _ => (olen + clen) / 32
  | .cpcv _ _ _ _ nc nr _ _ _ fmt tkl len cap _ _ =>
    let g := tileGrid nc nr tkl len
    g.1 * g.2 * (tileBytes (64 * 2 ^ len) (64 * 2 ^ len / 2 ^ cap) (EFmt.ofCode fmt.toNat).slot / 32)

/-- Destination sectors of one transfer. -/
def CopyKind.fan : CopyKind → Nat
  | .cp _ _ _ => 1
  | .cpm _ _ _ _ _ _ _ nrcv => nrcv
  | .cpcv _ _ _ _ _ _ _ _ _ _ _ _ _ _ _ => 1

/-- Receiver j's destination (R169). -/
def recvDst (dst : Word) (dstr : BitVec 32) (j : Nat) : Word := dst + BitVec.ofInt 64 ((j : Int) * dstr.toInt)

/-- Reads and writes of transfer k of a CP or CPM: a source sector and the destinations that it goes to; where receivers
overlap, the higher-numbered one writes (R168, R169). -/
def CopyKind.moves (c : CopyKind) (k : Nat) : List (Word × List Word) :=
  match c with
  | .cp src dst _ => [(src + BitVec.ofNat 64 (32 * k), [dst + BitVec.ofNat 64 (32 * k)])]
  | .cpm osrc csrc dst clen olen dstr ostr nrcv =>
    let shadowed := fun (j : Nat) (a : Word) =>
      (List.range nrcv).any (fun j' => decide (j < j') && decide ((a - recvDst dst dstr j').toNat < olen + clen))
    let live := fun (j : Nat) (a : Word) => if shadowed j a then [] else [a]
    if k < olen / 32 then
      (List.range nrcv).map (fun (j : Nat) => (osrc + BitVec.ofInt 64 ((j : Int) * ostr.toInt) + BitVec.ofNat 64 (32 * k),
        live j (recvDst dst dstr j + BitVec.ofNat 64 (32 * k))))
    else
      let o := 32 * (k - olen / 32)
      [(csrc + BitVec.ofNat 64 o, (List.range nrcv).flatMap (fun (j : Nat) => live j (recvDst dst dstr j + BitVec.ofNat 64 (olen + o))))]
  | .cpcv _ _ _ _ _ _ _ _ _ _ _ _ _ _ _ => []

/-! ## Conversion (R170, R171) -/

/-- Element p of an array of values in memory: 6-bit values lie densely (R45). -/
def State.cvValue (s : State) (e : EngId) (base : Word) (t : EFmt) (p : Nat) : Except EngStop Nat :=
  let bit := p * t.bits
  (s.engNum e (base + BitVec.ofNat 64 (bit / 8)) ((bit % 8 + t.bits + 7) / 8)).map (fun x => x / 2 ^ (bit % 8) % 2 ^ t.bits)

/-- Entry p of an array of N32. -/
def State.cvIndex (s : State) (e : EngId) (base : Word) (p : Nat) : Except EngStop Nat :=
  s.engNum e (base + BitVec.ofNat 64 (4 * p)) 4

/-- The last of n entries from p on that names an element. -/
def lastEntry (hit : Nat → Except EngStop Bool) : Nat → Nat → Except EngStop (Option Nat)
  | 0, _ => .ok none
  | n + 1, p => do
    match ← lastEntry hit n (p + 1) with
    | some q => .ok (some q)
    | none => if ← hit p then .ok (some p) else .ok none

/-- Element (row, col) of the logical matrix of a conversion (R171). -/
def State.cvElem (s : State) (id : EngId) (a0 a1 a2 : Word) (form aux eb : Nat) (t : EFmt) (row col : Nat) : Except EngStop Nat :=
  match form with
  | 0 => do
    let b ← s.cvIndex id a0 row
    let e ← s.cvIndex id a0 (row + 1)
    match ← lastEntry (fun p => (s.cvIndex id a1 p).map (fun c => decide (c = col))) (e - b) b with
    | some p => s.cvValue id a2 t p
    | none => .ok 0
  | 1 => do
    match ← lastEntry (fun p => do
        let i ← s.cvIndex id a0 p
        let j ← s.cvIndex id a1 p
        .ok (decide (i = row) && decide (j = col))) aux 0 with
    | some p => s.cvValue id a2 t p
    | none => .ok 0
  | 2 => do
    let b := 2 ^ eb
    match ← lastEntry (fun p => (s.cvIndex id a0 p).map (fun c => decide (c ≠ 0xFFFFFFFF) && decide (c = col / b))) aux (row / b * aux) with
    | some p => s.cvValue id a1 t (p * b * b + row % b * b + col % b)
    | none => .ok 0
  | _ => s.cvValue id a0 t (row * aux + col)

/-- Whether a dense element counts as zero under a threshold (R171). -/
def belowThr (t : EFmt) (thr : BitVec 32) (x : Nat) : Bool :=
  match t with
  | .int f => decide ((tVal f x).natAbs ≤ thr.toNat)
  | .flt f =>
    (match f.unpack x, FFmt.f32.unpack thr.toNat with
     | .nan _, _ | _, .nan _ => false
     | .inf _, .inf n => !n
     | .inf _, .fin _ _ _ => false
     | .fin _ _ _, .inf n => !n
     | .fin _ m e, .fin n m' e' => if n && decide (m' ≠ 0) then false else decide (dyadicDiff m e m' e' ≤ 0))
  | .scale | .none => false

/-- The bytes of one tile (R149, R171). -/
def State.cvTile (s : State) (id : EngId) (a0 a1 a2 : Word) (nc nr aux : Nat) (thr : BitVec 32) (eb fmt tkl len cap : Nat) (tr' : Bool)
    (form a c : Nat) : Except EngStop (List Byte) := do
  let t := EFmt.ofCode fmt
  let n := 64 * 2 ^ len
  let tk := 2 ^ tkl
  let tr := n / tk
  let els ← (List.range n).mapM (fun e =>
    let i := if tr' then e % tr else e / tk
    let j := if tr' then e / tr else e % tk
    let row := a * tr + i
    let col := c * tk + j
    if row < nr && decide (col < nc) then
      (s.cvElem id a0 a1 a2 form aux eb t row col).map (fun x => if form = 3 && belowThr t thr x then 0 else x)
    else .ok 0)
  let nz := els.filter (nonzeroElem t)
  let cap' := n / 2 ^ cap
  let header := packWord [(fmt, 0), (len, 5), (cap, 8), (nz.length, 32)]
  let bits := ofBits n (fun e => nonzeroElem t (els.getD e 0))
  let vals := (nz.take cap').foldr (fun x acc => x + acc * 2 ^ t.slot) 0
  .ok (leBytes 8 header.toNat ++ List.replicate 24 0 ++ leBytes (32 * ((n + 255) / 256)) bits ++
    leBytes (32 * ((cap' * t.slot + 255) / 256)) vals)

/-- Entries that fall outside the matrix (R171). -/
def State.cvSkip (s : State) (id : EngId) (a0 a1 : Word) (nc nr aux eb form : Nat) : Except EngStop Nat :=
  let count := fun (n p : Nat) (f : Nat → Except EngStop Bool) =>
    ((List.range n).mapM (fun i => f (p + i))).map (fun bs => (bs.filter (fun b => b)).length)
  match form with
  | 0 => do
    let rows ← (List.range nr).mapM (fun i => do
      let b ← s.cvIndex id a0 i
      let e ← s.cvIndex id a0 (i + 1)
      count (e - b) b (fun p => (s.cvIndex id a1 p).map (fun c => decide (c ≥ nc))))
    .ok rows.sum
  | 1 => count aux 0 (fun p => do
      let i ← s.cvIndex id a0 p
      let j ← s.cvIndex id a1 p
      .ok (decide (i ≥ nr) || decide (j ≥ nc)))
  | 2 => count (nr / 2 ^ eb * aux) 0 (fun p => (s.cvIndex id a0 p).map (fun c => decide (c ≠ 0xFFFFFFFF) && decide (c * 2 ^ eb ≥ nc)))
  | _ => .ok 0

/-! ## One transfer -/

/-- The outcome of one transfer (R168, R282). -/
structure Xfer where
  s    : State
  lost : Nat
  code : BitVec 8
  stop : Option EngStop   -- hold, owner or path: the transfer was not made
  deriving Repr

/-- Write one sector at its destinations. -/
def State.xferPut (s : State) (e : EngId) (bytes : List Byte) : List Word → Xfer
  | [] => { s := s, lost := 0, code := 0, stop := none }
  | d :: ds =>
    match s.engAt e d 1 with
    | .ok c => let t := s.store c bytes; State.xferPut t e bytes ds
    | .error (.lost code _) => let r := State.xferPut s e bytes ds; { r with lost := r.lost + 1, code := worstCode code r.code }
    | .error x => { s := s, lost := 0, code := 0, stop := some x }

/-- The first access among some destinations that must wait or stops the operation. -/
def State.xferBlock (s : State) (e : EngId) (ds : List Word) : Option EngStop :=
  ds.findSome? (fun d => match s.engAt e d 1 with
    | .error (.lost _ _) | .ok _ => none
    | .error x => some x)

/-- Count the read of a sector that is uncorrectable. -/
def State.countLost (s : State) (bad : Option Nat) : State := match bad with | some b => s.countUe b | none => s

/-- Transfer of a source sector to its destinations (R168). -/
def State.xferMove (s : State) (e : EngId) (mv : Word × List Word) : Xfer :=
  match s.xferBlock e mv.2 with
  | some x => { s := s, lost := 0, code := 0, stop := some x }
  | none =>
    match s.engRead e mv.1 with
    | .ok c => (s.checkRead [sectorOf c]).xferPut e (s.bytes c 32) mv.2
    | .error (.lost code bad) => { s := s.countLost bad, lost := mv.2.length, code := code, stop := none }
    | .error x => { s := s, lost := 0, code := 0, stop := some x }

/-- Several moves of one transfer. -/
def State.xferMoves (s : State) (e : EngId) : List (Word × List Word) → Xfer
  | [] => { s := s, lost := 0, code := 0, stop := none }
  | m :: ms =>
    let a := s.xferMove e m
    if a.stop.isSome then a
    else
      let b := State.xferMoves a.s e ms
      { b with lost := a.lost + b.lost, code := worstCode a.code b.code }

/-- Destination sectors that transfer k of a copy writes. -/
def CopyKind.sinks (c : CopyKind) (k : Nat) : Nat :=
  match c with
  | .cp _ _ _ | .cpcv _ _ _ _ _ _ _ _ _ _ _ _ _ _ _ => 1
  | .cpm _ _ _ _ _ _ _ _ => ((c.moves k).map (fun m => m.2.length)).sum

/-- A transfer of a slice is over. -/
def Slice.took (sl : Slice) (us : List Nat) (lost : Nat) (code : BitVec 8) : Slice :=
  { sl with done := us ++ sl.done, lost := sl.lost + lost, code := worstCode sl.code code, dead := [], x := none }

/-- What is left of a slice counts as not written. -/
def Slice.giveUp (sl : Slice) (code : BitVec 8) : Slice :=
  let left := (List.range sl.kind.units).filter (fun u => !sl.done.contains u)
  sl.took left ((left.map sl.kind.sinks).sum) code

/-- Before it converts, a slice counts the entries that lie outside its matrix (R171). Where some cannot be read, the operation ends
with ERROR and the count is a value that the spec does not state (log entry 4). -/
def State.cvCount (s : State) (e : EngId) (sl : Slice) : State × Slice × Option EngStop :=
  match sl.kind with
  | .cpcv a0 a1 _ _ nc nr aux _ eb _ _ _ _ _ form =>
    (match s.cvSkip e a0 a1 nc nr aux eb form with
     | .ok n => (s, { sl with counted := true, skip := n, code := if n > 0 then worstCode sl.code 7 else sl.code }, none)
     | .error (.lost code bad) =>
       let (x, t) := (s.countLost bad).free
       (t, { sl with counted := true, skip := x.toNat % 2 ^ 24, code := worstCode sl.code code }, none)
     | .error x => (s, sl, some x))
  | .cp _ _ _ | .cpm _ _ _ _ _ _ _ _ => (s, sl, none)

/-- One sector of a conversion: its tile is read once, before its first sector is written (R171, R237); a tile that cannot be read
is not written. -/
def State.cvTransfer (s : State) (e : EngId) (sl : Slice) (u : Nat) : State × Slice × Option EngStop :=
  match sl.kind with
  | .cpcv a0 a1 a2 dst nc nr aux thr eb fmt tkl len cap t form =>
    let z := tileBytes (64 * 2 ^ len) (64 * 2 ^ len / 2 ^ cap) (EFmt.ofCode fmt.toNat).slot / 32
    let n := u / z
    let tj := (tileGrid nc nr tkl len).2
    let got : Except EngStop (List Byte) := match sl.tile with
      | some x => if x.1 = n then .ok x.2 else s.cvTile e a0 a1 a2 nc nr aux thr eb fmt.toNat tkl len cap t form (n / tj) (n % tj)
      | none => s.cvTile e a0 a1 a2 nc nr aux thr eb fmt.toNat tkl len cap t form (n / tj) (n % tj)
    (match got with
     | .ok bytes =>
       let sl1 := { sl with tile := some (n, bytes) }
       let d := dst + BitVec.ofNat 64 (32 * u)
       (match s.xferBlock e [d] with
        | some x => (s, sl1, some x)
        | none =>
          let o := s.xferPut e ((bytes.drop (32 * (u % z))).take 32) [d]
          (o.s, sl1.took [u] o.lost o.code, none))
     | .error (.lost code bad) =>
       let us := ((List.range z).map (fun i => n * z + i)).filter (fun u => !sl.done.contains u)
       (s.countLost bad, sl.took us us.length code, none)
     | .error x => (s, sl, some x))
  | .cp _ _ _ | .cpm _ _ _ _ _ _ _ _ => (s, sl, none)

/-- Transfer u of a slice: what it leaves of the slice, and what stops it. -/
def State.xfer (s : State) (e : EngId) (sl : Slice) (u : Nat) : State × Slice × Option EngStop :=
  match sl.kind with
  | .cp _ _ _ | .cpm _ _ _ _ _ _ _ _ =>
    let o := s.xferMoves e (sl.kind.moves u)
    if o.stop.isSome then (s, sl, o.stop) else (o.s, sl.took [u] o.lost o.code, none)
  | .cpcv _ _ _ _ _ _ _ _ _ _ _ _ _ _ _ => if sl.counted then s.cvTransfer e sl u else s.cvCount e sl

/-! ## Tags, waits and the end of a copy (R165, R172) -/

/-- The state of a copy tag. -/
def Crew.tag (c : Crew) (t : Nat) : TagSt := (SMap.get? c.tags t).getD .idle

/-- Judge a CPW: the tag's state, then the deadline (R172); without a path to the crew's device only the deadline. -/
def State.judgeCpw (s : State) (wid : Nat) : State :=
  match SMap.get? s.waits wid with
  | none => s
  | some w =>
    match w.kind, s.runOf w with
    | .cpw tag round, some r =>
      let fin := fun (x : Word) (own : Bool) => s.endWait wid w (some x) own (decide (x.toNat % 256 = 0)) (w.dk.getD 0)
      let refused := statusWord 5 tag round 0 0
      let busy := if (w.dk.getD 0).toNat ≤ r.sg.gclk.toNat then fin (statusWord 1 tag round 0 0) true else s
      let tg : Option TagSt := (s.crewOf r.g).map (fun c => c.tag tag)
      let near := ((s.crewOf r.g).map (fun c => s.linked (r.sg.mast / 16) (c.mast / 16))).getD true
      if !near then busy
      else (match tg with
       | some (.gathering rd _ _ _) | some (.running rd) => if rd = round then busy else fin refused false
       | some (.done rd st) | some (.abandoned rd st) => if rd = round then fin st false else fin refused false
       | some .idle | none => fin refused false)
    | _, _ => s

/-- Judge every CPW of a crew. -/
def State.judgeCpws (s : State) (cid : Nat) : State :=
  let mine := s.waits.filter (fun e => (match e.2.kind with | .cpw _ _ => true | _ => false) &&
    (match (SMap.get? s.subs e.2.sid).bind (fun sg => SMap.get? s.groups sg.gid) with
     | some g => decide (g.cid = some cid)
     | none => false))
  mine.foldl (fun s e => s.judgeCpw e.1) s

/-- The accepted slices of a copy. -/
def State.copyOf (s : State) (cid tag : Nat) : List (Nat × Slice) :=
  s.slices.filter (fun e => e.2.entry && decide (e.2.cid = cid) && decide (e.2.tag = tag))

/-- The escalation notice of an engine's status (R252, R255). -/
def State.engNotice (s : State) (gid m : Nat) (counted reset : Bool) (lanes : Mask) (dl pc : Word) (iw : Word) : State :=
  match SMap.get? s.groups gid with
  | none => s
  | some g =>
    if counted then s.send (mastPort m) (s.escPort g) (.escInc g.ctx gid lanes dl pc 8 iw 0)
    else if reset then s.send (mastPort m) (s.escPort g) (.escReset g.ctx)
    else s

/-- One slice of a copy ends: its status goes out, its entry is free, its count falls (R161, R162, R165). -/
def State.endSlice (s : State) (k : Nat) (sl : Slice) (x : Word) : State :=
  let code := x.toNat % 256
  let s1 := { s with slices := SMap.del s.slices k }
  let s2 := if sl.sreg = 0 then s1 else s1.setOutst sl.gid sl.sreg x
  let s3 := s2.ackOp sl.gid 3 sl.reach 1 (decide (code = 5) || decide (code = 6) || decide (code = 7))
  let m := ((SMap.get? s.crews sl.cid).map (fun c => c.mast)).getD 0
  (s3.engNotice sl.gid m (decide (code = 1)) (decide (code = 0)) sl.lanes sl.dl sl.pc sl.iword).judgeFences sl.gid

/-- A field of 24 bits for a count; of one that it cannot hold the spec does not state the value (log entry 4). -/
def State.count24 (s : State) (n : Nat) : Nat × State :=
  if n < 2 ^ 24 then (n, s) else (let (x, t) := s.free; (x.toNat % 2 ^ 24, t))

/-- A copy ends with a code: every slice gets the copy's status word (R165, R168). -/
def State.endCopy (s : State) (cid tag round : Nat) (code : BitVec 8) (abandoned : Bool) : State :=
  let sls := s.copyOf cid tag
  let (cnt, s0) := s.count24 (sls.map (fun e => e.2.lost)).sum
  let (skip, s1) := s0.count24 (sls.map (fun e => e.2.skip)).sum
  let x := statusWord code tag round cnt skip
  let s2 := sls.foldl (fun s e => s.endSlice e.1 e.2 x) s1
  (s2.updCrew cid (fun c => { c with tags := SMap.put c.tags tag (if abandoned then .abandoned round x else .done round x) })).judgeCpws cid

/-- The copy ends once every sector of every slice is written or given up (R165). -/
def State.checkCopy (s : State) (cid tag round : Nat) : State :=
  let sls := s.copyOf cid tag
  if sls.all (fun e => decide (e.2.done.length ≥ e.2.kind.units)) then
    s.endCopy cid tag round (sls.foldl (fun c e => worstCode c e.2.code) 0) false
  else s

/-- The copy begins to run; one with a slice marked refused writes nothing (R167). -/
def State.startCopy (s : State) (cid tag round : Nat) : State :=
  let s1 := s.updCrew cid (fun c => { c with tags := SMap.put c.tags tag (.running round) })
  let sls := s1.copyOf cid tag
  let s2 := if sls.any (fun e => e.2.refused) then
      sls.foldl (fun s e => { s with slices := SMap.put s.slices e.1 (e.2.giveUp 5) }) s1
    else s1
  s2.checkCopy cid tag round

/-! ## Acceptance (R164, R165, R283) -/

/-- The crews bound to the stations of a Tackle engine's quad. -/
def State.quadCrews (s : State) (m quad : Nat) : List Nat :=
  (List.range 4).filterMap (fun i => (s.stn m (4 * quad + i)).crew)

/-- The reserved entries of a crew (R164). -/
def State.crewRsv (s : State) (cid : Nat) : Nat := ((SMap.get? s.crews cid).map (fun c => c.rsv)).getD 0

/-- The slices that hold an entry of a quad's engine. -/
def State.quadEntries (s : State) (m quad : Nat) : List (Nat × Slice) :=
  s.slices.filter (fun e => e.2.entry && (match SMap.get? s.crews e.2.cid with
    | some c => decide (c.mast = m) && decide (c.stn / 4 = quad)
    | none => false))

/-- Whether a crew has a free reserved entry: crews that have left may still hold entries of the 64. -/
def State.rsvFree (s : State) (cid m quad : Nat) : Bool :=
  let held := s.quadEntries m quad
  decide ((held.filter (fun e => e.2.reserved && decide (e.2.cid = cid))).length < s.crewRsv cid) && decide (held.length < 64)

/-- Whether the engine of a quad has a free shared entry (R164, R283): beside those reserved for its bound crews, and those that
crews no longer bound still hold. -/
def State.sharedFree (s : State) (m quad : Nat) : Bool :=
  let crews := s.quadCrews m quad
  let used := (s.quadEntries m quad).filter (fun e => !(e.2.reserved && crews.contains e.2.cid))
  decide (used.length + (crews.map s.crewRsv).sum < 64)

/-- What a tag's state answers to a slice (R165). -/
inductive TagAnswer where
  | take | wait | error | timeout (x : Word)
  deriving DecidableEq, Repr

/-- What a tag answers to a slice of a round (R165). -/
def TagSt.answer (t : TagSt) (round parts : Nat) : TagAnswer :=
  match t with
  | .idle | .done _ _ => .take
  | .abandoned r x => if r = round then .timeout x else .take
  | .gathering r p _ _ => if r ≠ round then .wait else if p = parts then .take else .error
  | .running r => if r = round then .error else .wait

/-- Whether a waiting slice is the earliest that may take a free entry (R283). -/
def State.entryFor (s : State) (k : Nat) (sl : Slice) (cr : Crew) : Option Bool :=
  let waiting := s.slices.filter (fun e => !e.2.entry && (match SMap.get? s.crews e.2.cid with
    | some c => decide (c.mast = cr.mast) && decide (c.stn / 4 = cr.stn / 4) && (c.tag e.2.tag).answer e.2.round e.2.parts == .take
    | none => false))
  let quad := cr.stn / 4
  if s.rsvFree sl.cid cr.mast quad then
    (if waiting.all (fun e => decide (e.2.cid ≠ sl.cid) || decide (e.1 ≥ k)) then some true else none)
  else if s.sharedFree cr.mast quad then
    (if waiting.all (fun e => s.rsvFree e.2.cid cr.mast quad || decide (e.1 ≥ k)) then some false else none)
  else none

/-- A slice that takes no entry ends at once (R165). -/
def State.refuseSlice (s : State) (wid : Nat) (w : Wait) (k : Nat) (sl : Slice) (x : Word) (counted : Bool) : State :=
  let s1 := { s with slices := SMap.del s.slices k }
  let s2 := if x.toNat % 256 = 7 then s1.updGroup sl.gid (fun g => { g with errs := setBit g.errs 3 true }) else s1
  s2.endWait wid w (some x) counted false (w.dk.getD 0)

/-- A waiting slice meets its tag and its engine (R165): it is accepted, ends at once, or waits on. -/
def State.trySlice (s : State) (wid : Nat) : State :=
  match SMap.get? s.waits wid with
  | none => s
  | some w =>
    match w.kind with
    | .slice k =>
      match SMap.get? s.slices k, s.runOf w with
      | some sl, some r =>
        match SMap.get? s.crews sl.cid with
        | none => s
        | some cr =>
          if !s.linked (r.sg.mast / 16) (cr.mast / 16) then s
          else match (cr.tag sl.tag).answer sl.round sl.parts with
          | .wait => s
          | .error => s.refuseSlice wid w k sl (statusWord 7 sl.tag sl.round 0 0) false
          | .timeout _ => s.refuseSlice wid w k sl (statusWord 1 sl.tag sl.round 0 0) true
          | .take =>
            match s.entryFor k sl cr with
            | none => s
            | some rsv =>
              let (sreg, s1) : Nat × State := if isS w.status then s.outstand sl.gid sl.lane w.lanes ((dstWrites w.status true 0 0).map (fun x => (x.1, none))) else (0, s)
              let s2 := (s1.countOp sl.gid 3 sl.reach 1).noteAt cr.mast 6 sl.ctx (BitVec.ofNat 64 (0x30000 + cr.stn / 4)) (s.requester sl.gid sl.lane) 0
              let (ord, s3) := s2.fresh
              let s4 := { s3 with slices := SMap.put s3.slices k { sl with entry := true, reserved := rsv, order := ord, sreg := sreg } }
              let left := (w.dk.getD 0) - (if (w.dk.getD 0).toNat < r.sg.gclk.toNat then w.dk.getD 0 else r.sg.gclk)
              let now := match cr.tag sl.tag with | .gathering _ _ n l => (n, l) | _ => (0, left)
              let s5 := s4.endWait wid { w with status := .zero } none false false 0
              if now.1 + 1 = sl.parts then s5.startCopy sl.cid sl.tag sl.round
              else s5.updCrew sl.cid (fun c => { c with tags := SMap.put c.tags sl.tag (.gathering sl.round sl.parts (now.1 + 1) now.2) })
      | _, _ => s
    | _ => s

/-- The deadline of a waiting slice, acceptance judged first (R165, R251). -/
def State.sliceExpire (s : State) (wid : Nat) : State :=
  let s1 := s.trySlice wid
  match SMap.get? s1.waits wid with
  | none => s1
  | some w =>
    match w.kind, SMap.get? s1.subs w.sid with
    | .slice k, some sg =>
      match SMap.get? s1.slices k with
      | some sl => if (w.dk.getD 0).toNat ≤ sg.gclk.toNat then s1.refuseSlice wid w k sl (statusWord 4 sl.tag sl.round 0 0) true else s1
      | none => s1
    | _, _ => s1

/-! ## Issue (R167, R169, R170) -/

/-- A run of addresses that a copy names: its first address and its bytes. -/
abbrev Range := Word × Nat

/-- Whether a range lies within one value of the home field (R167). -/
def oneHome (x : Range) : Bool :=
  x.2 == 0 || (decide (x.1.toNat + x.2 ≤ 2 ^ 64) && decide (x.1.toNat / 2 ^ 49 = (x.1.toNat + x.2 - 1) / 2 ^ 49))

/-- The addresses of a range at which its home can change (R167): its ends; the station windows in it; and in a striped window every
run of 64 KiB (R286). -/
def rangeMarks (x : Range) : List Word :=
  let a := x.1.toNat
  let z := a + x.2 - 1
  let off := fun (b : Nat) => a / 2 ^ 49 * 2 ^ 49 + b
  let runs := if fieldOf x.1 49 14 = 0x3FFF then (List.range (z / 2 ^ 16 - a / 2 ^ 16)).map (fun i => (a / 2 ^ 16 + i + 1) * 2 ^ 16) else []
  let wins := ((List.range 64).map (fun i => off (0x100000000000 + i * 2 ^ 21))).filter (fun b => decide (a < b) && decide (b ≤ z))
  if x.2 = 0 then [] else x.1 :: BitVec.ofNat 64 z :: (runs ++ wins).map (BitVec.ofNat 64)

/-- What a copy word fixes at issue. -/
structure CopyReq where
  kind  : CopyKind
  tag   : Nat
  round : Nat
  parts : Nat
  bad   : Bool          -- check 1 fails
  fixed : List Range    -- ranges whose first address is 32-byte aligned
  srcs  : List Range
  dsts  : List Range

/-- The issue of a copy: the checks of R167, then the slice is offered (R165). A copy whose destinations have several reaches is
counted under the farthest (the spec names one reach of its destination homes: DESIGN CHOICE, log entry 12). -/
def offerCopy (r : Run) (s : State) (w : FWord) (q : CopyReq) : State :=
  let all := q.srcs ++ q.dsts
  let mis := q.fixed.filter (fun x => decide (x.1.toNat % 32 ≠ 0))
  let prv := all.filter (fun x => decide (x.2 ≠ 0) && ((x.1).getLsbD 63 || (x.1 + BitVec.ofNat 64 (x.2 - 1)).getLsbD 63) && !r.sg.sv)
  if q.bad then r.trap s 2 0 0 r.act
  else if mis ≠ [] then r.trap s 6 0 ((mis.headD (0, 0)).1) r.act
  else if prv ≠ [] then r.trap s 3 0 ((prv.headD (0, 0)).1) r.act
  else if !all.all oneHome then r.trap s 2 0 0 r.act
  else
    let refused := all.any (fun x => (rangeMarks x).any (fun a => (s.homeWhy r a).isSome))
    let reach := (q.dsts.flatMap rangeMarks).foldl (fun m a =>
      let p := s.vaPlace (s.dirOf r a)
      max m (s.reachOf r.g p.1 p.2)) 0
    let dk := r.sval w.a
    let (k, s1) := s.fresh
    let sl : Slice := {
      dev := s.dev, gid := r.gid, ctx := r.g.ctx, cid := r.g.cid.getD 0, lane := r.low, tag := q.tag, round := q.round, parts := q.parts, sreg := 0
      kind := q.kind, refused := refused, entry := false, reserved := false, order := 0, done := [], lost := 0, code := 0, skip := 0, counted := false, tile := none, dead := []
      reach := reach, lanes := r.act, dl := dk, pc := r.pc, iword := r.iw, x := none }
    let wid := s1.nextId
    let s2 := r.waitFor { s1 with slices := SMap.put s1.slices k sl } r.act (.slice k) (some dk) none w.dest
    s2.sliceExpire wid

/-- A descriptor scalar. -/
def descAt (r : Run) (o : Operand) (i : Nat) : Word := match o with | .s n => r.reg r.low (.s (n.toNat + i)) | _ => 0

/-- The legality of CP, CPM and CPCV (R159). -/
def copySig (w : FWord) (n : Nat) : Sig :=
  { zeroModSig w [w.c] [Pos.dst w.dest Acc.sz, Pos.src w.a Acc.dOnly, { Pos.src w.b Acc.sOnly with srun := n }] with crew := true }

/-- What CP fixes at issue (R167). -/
def cpReq (w : FWord) (r : Run) : CopyReq :=
  let d := descAt r w.b
  let len := fieldOf (d 2) 0 32
  let parts := fieldOf (d 3) 8 8
  { kind := .cp (d 0) (d 1) len, tag := fieldOf (d 3) 0 4, round := fieldOf (d 3) 4 4, parts := parts
    bad := decide (fieldOf (d 2) 32 32 ≠ 0) || decide (fieldOf (d 3) 16 48 ≠ 0) || decide (len % 32 ≠ 0) || decide (len > 0x1000000) ||
      decide (parts = 0) || decide (parts > 64)
    fixed := [(d 0, len), (d 1, len)], srcs := [(d 0, len)], dsts := [(d 1, len)] }

/-- CP (R167). -/
def execCp (w : FWord) (s : State) : Host.Outcome State Fault Refusal :=
  issueF s w none (copySig w 4) (fun r s => offerCopy r s w (cpReq w r))

/-- What CPM fixes at issue (R169). -/
def cpmReq (w : FWord) (r : Run) : CopyReq :=
  let d := descAt r w.b
  let clen := fieldOf (d 3) 32 32
  let olen := fieldOf (d 3) 0 32
  let dstr := (d 4).extractLsb' 32 32
  let ostr := (d 4).extractLsb' 0 32
  let n := fieldOf (d 5) 8 8
  let badLen := fun (l : Nat) => decide (l % 32 ≠ 0) || decide (l > 0x1000000)
  { kind := .cpm (d 0) (d 1) (d 2) clen olen dstr ostr n, tag := fieldOf (d 5) 0 4, round := fieldOf (d 5) 4 4, parts := 1
    bad := badLen clen || badLen olen || decide (dstr.toNat % 32 ≠ 0) || decide (ostr.toNat % 32 ≠ 0) || decide (fieldOf (d 5) 16 48 ≠ 0) ||
      decide (n = 0) || decide (n > 64)
    fixed := [(d 0, olen), (d 1, clen), (d 2, olen + clen)]
    srcs := (d 1, clen) :: (List.range n).map (fun j => (recvDst (d 0) ostr j, olen))
    dsts := (List.range n).map (fun j => (recvDst (d 2) dstr j, olen + clen)) }

/-- CPM (R169). -/
def execCpm (w : FWord) (s : State) : Host.Outcome State Fault Refusal :=
  issueF s w none (copySig w 6) (fun r s => offerCopy r s w (cpmReq w r))

/-- The row starts of a CSR matrix as they stand at issue, where they can be read (log entry 12). -/
def State.rowStarts (s : State) (r : Run) (a : Word) (n : Nat) : Option (List Nat) :=
  (s.ctxOf r.g).bind (fun c => (List.range n).mapM (fun i =>
    let va := a + BitVec.ofNat 64 (4 * i)
    (s.cpWord r.g.ctx c (va &&& ~~~7)).map (fun w => fieldOf w (8 * (va.toNat % 8)) 32)))

/-- The entries that the rows of a CSR matrix read: the first and one past the last; none where no row has any. -/
def rowSpan : List Nat → Option (Nat × Nat)
  | b :: e :: xs =>
    let rest := rowSpan (e :: xs)
    if b < e then some (rest.elim (b, e) (fun p => (min b p.1, max e p.2))) else rest
  | _ => none

/-- What CPCV fixes at issue (R170). The extent of CSR's index and value arrays is that which the row starts give as they stand then;
where they cannot be read at once, those arrays' first elements stand for them (log entry 12). -/
def cpcvReq (w : FWord) (r : Run) (s : State) : CopyReq :=
  let d := descAt r w.b
  let nc := fieldOf (d 4) 32 32
  let nr := fieldOf (d 4) 0 32
  let aux := fieldOf (d 5) 32 32
  let thr := (d 5).extractLsb' 0 32
  let eb := fieldOf (d 6) 29 3
  let fmt := fieldOf (d 6) 24 5
  let tkl := fieldOf (d 6) 20 4
  let len := fieldOf (d 6) 16 3
  let cap := fieldOf (d 6) 12 2
  let form := fieldOf (d 6) 8 2
  let t := EFmt.ofCode fmt
  let n := 64 * 2 ^ len
  let b := 2 ^ eb
  let vbytes := fun (k : Nat) => (k * t.bits + 7) / 8
  let kind : CopyKind := .cpcv (d 0) (d 1) (d 2) (d 3) nc nr aux thr eb (BitVec.ofNat 5 fmt) tkl len cap ((d 6).getLsbD 11) form
  let srcs : List Range := match form with
    | 0 =>
      let span := ((s.rowStarts r (d 0) (nr + 1)).map (fun b => (rowSpan b).getD (0, 0))).getD (0, 1)
      let p := span.1 * t.bits / 8
      [(d 0, 4 * (nr + 1)), (d 1 + BitVec.ofNat 64 (4 * span.1), 4 * (span.2 - span.1)),
       (d 2 + BitVec.ofNat 64 p, if span.1 < span.2 then vbytes span.2 - p else 0)]
    | 1 => [(d 0, 4 * aux), (d 1, 4 * aux), (d 2, vbytes aux)]
    | 2 => [(d 0, 4 * (nr / b * aux)), (d 1, vbytes (nr / b * aux * b * b))]
    | _ => [(d 0, vbytes ((nr - 1) * aux + nc))]
  { kind := kind, tag := fieldOf (d 6) 0 4, round := fieldOf (d 6) 4 4, parts := 1
    bad := decide (nc = 0) || decide (nr = 0) || decide (nc > 0x1000000) || decide (nr > 0x1000000) ||
      decide (fieldOf (d 6) 32 32 ≠ 0) || (d 6).getLsbD 19 || decide (fieldOf (d 6) 14 2 ≠ 0) || (d 6).getLsbD 10 ||
      !tileFmt fmt || decide (len > 5) || decide (2 ^ tkl < 4) || decide (2 ^ tkl > n) ||
      (form != 2 && eb != 0) || decide (eb > 5) || (form != 3 && thr != 0) || (form == 0 && aux != 0) ||
      (form == 2 && (d 2 != 0 || decide (nr % b ≠ 0) || decide (nc % b ≠ 0))) ||
      (form == 3 && (d 1 != 0 || d 2 != 0 || decide (aux < nc)))
    fixed := [(d 3, 32), (d 0, 4), (d 1, 4), (d 2, 4)], srcs := srcs, dsts := [(d 3, 32 * kind.units)] }

/-- CPCV (R170). -/
def execCpcv (w : FWord) (s : State) : Host.Outcome State Fault Refusal :=
  issueF s w none (copySig w 7) (fun r s => offerCopy r s w (cpcvReq w r s))

/-- The legality of CPW (R172). -/
def cpwSig (w : FWord) : Sig :=
  { Sig.plain [w.b, w.c] [Pos.dst w.dest Acc.sz, Pos.src w.a Acc.dOnly] with resv := decide (w.hi ≠ 0), crew := true }

/-- CPW (R172). -/
def execCpw (w : FWord) (s : State) : Host.Outcome State Fault Refusal :=
  issueF s w none (cpwSig w) (fun r s =>
    let wid := s.nextId
    (r.waitFor s r.act (.cpw (w.lo.toNat % 16) (w.lo.toNat / 16)) (some (r.sval w.a)) none w.dest).judgeCpw wid)

/-! ## What happens at a Tackle engine -/

/-- A waiting copy slice is accepted (R165). -/
def execSliceAccept (wait : Nat) (s : State) : Host.Outcome State Fault Refusal := .next (s.trySlice wait)

/-- A waiting slice reaches its deadline (R165). -/
def execSliceWaitTimeout (wait : Nat) (s : State) : Host.Outcome State Fault Refusal := .next (s.sliceExpire wait)

/-- The clock reaches a CPW's deadline (R172). -/
def execCpwTimeout (wait : Nat) (s : State) : Host.Outcome State Fault Refusal := .next (s.judgeCpw wait)

/-- The waits of a crew's slices for a tag, in order of arrival. -/
def State.tagWaits (s : State) (cid tag : Nat) : List Nat :=
  (s.slices.filter (fun e => !e.2.entry && decide (e.2.cid = cid) && decide (e.2.tag = tag))).filterMap (fun e =>
    (s.waits.find? (fun w => match w.2.kind with | .slice k => decide (k = e.1) | _ => false)).map (fun w => w.1))

/-- A gathering's count has reached 0 and it is abandoned; acceptance of waiting slices is judged first (R166). -/
def execGatheringExpiry (cid tag : Nat) (s : State) : Host.Outcome State Fault Refusal :=
  let s1 := (s.tagWaits cid tag).foldl State.trySlice s
  let tg : Option TagSt := (SMap.get? s1.crews cid).map (fun c => c.tag tag)
  .next (match tg with
    | some (.gathering round _ _ left) => if left = 0 then s1.endCopy cid tag round 1 true else s1
    | some .idle | some (.running _) | some (.done _ _) | some (.abandoned _ _) | none => s1)

/-- Whether a slice belongs to a running copy of its crew. -/
def State.isRunning (s : State) (sl : Slice) : Bool :=
  let tg : Option TagSt := (SMap.get? s.crews sl.cid).map (fun c => c.tag sl.tag)
  sl.entry && (match tg with
    | some (.running r) => decide (r = sl.round)
    | some .idle | some (.gathering _ _ _ _) | some (.done _ _) | some (.abandoned _ _) | none => false)

/-- The next transfer not yet made of a slice: the one asked for, or the first. -/
def Slice.pick (sl : Slice) (want : Option Nat) : Option Nat :=
  match want with
  | some u => if u < sl.kind.units && !sl.done.contains u then some u else (List.range sl.kind.units).find? (fun u => !sl.done.contains u)
  | none => (List.range sl.kind.units).find? (fun u => !sl.done.contains u)

/-- The slices that may make a transfer for a crew: those of its running copy accepted first, of those that wait for no released
fault. -/
def State.movable (s : State) (cid : Nat) : List (Nat × Slice) :=
  let live := s.slices.filter (fun e => decide (e.2.cid = cid) && s.isRunning e.2 && decide (e.2.done.length < e.2.kind.units) &&
    (e.2.x.bind (fun x => x.held)).isNone)
  live.filter (fun e => live.all (fun f =>
    decide (f.2.tag = e.2.tag) || (live.filter (fun g => decide (g.2.tag = e.2.tag))).any (fun g => decide (g.2.order < f.2.order))))

/-- One transfer of a crew, from its running copies in order of acceptance (R282). -/
def State.transferOne (s : State) (cid : Nat) (want : Option (Nat × Nat)) : State :=
  let live := s.movable cid
  let chosen := match want with
    | some (k, _) => (match SMap.get? live k with | some sl => some (k, sl) | none => live.head?)
    | none => live.head?
  match chosen with
  | none => s
  | some (k, sl) =>
    match sl.pick (want.map (fun p => p.2)) with
    | none => s
    | some u =>
      let at' := (((SMap.get? s.crews cid).map (fun c => c.mast)).getD 0) / 16
      let put := fun (s : State) (sl : Slice) => { s with slices := SMap.put s.slices k sl }
      let (s1, sl1, stop) := s.xfer { ctx := sl.ctx, dev := sl.dev, at' := at', dead := sl.dead } sl u
      match stop with
      | none => (put s1 sl1).checkCopy sl.cid sl.tag sl.round
      | some .owner =>
        -- no later sector of the operation is read or written
        ((s1.copyOf sl.cid sl.tag).foldl (fun s e => { s with slices := SMap.put s.slices e.1 (e.2.giveUp 6) }) s1).checkCopy sl.cid sl.tag sl.round
      | some (.hold va acc) =>
        let (s2, x, gone) := engWait s1 sl.ctx sl.x va acc
        put s2 (if gone then { sl1 with dead := pageOf va :: sl1.dead, x := none } else { sl1 with x := x })
      | some .path | some (.lost _ _) => s

/-- Up to n transfers of a crew. -/
def State.transfers (s : State) (cid : Nat) : Nat → List (Nat × Nat) → State
  | 0, _ => s
  | n + 1, ps => State.transfers (s.transferOne cid ps.head?) cid n ps.tail

/-- The crews of a station that have a running copy: the crew bound there, and others whose context is saved, reset or whose lanes
have ended (R162, R165, R284). -/
def State.servedAt (s : State) (m n : Nat) : List (Nat × Crew) :=
  s.crews.filter (fun c => decide (c.2.mast = m) && decide (c.2.stn = n) && s.slices.any (fun e => decide (e.2.cid = c.1) && s.isRunning e.2))

/-- A Tackle engine visits the next station of its quad with a crew that has a running copy (R282). -/
def execTackleTransfer (mast quad : Nat) (picks : List (Nat × Nat)) (s : State) : Host.Outcome State Fault Refusal :=
  let last := (RMap.get (s.mast mast).tackPtr quad).toNat
  .next (match ((List.range 4).map (fun i => (last + i) % 4)).find? (fun i => !(s.servedAt mast (4 * quad + i)).isEmpty) with
    | none => s
    | some i =>
      (s.servedAt mast (4 * quad + i)).foldl (fun s c =>
          s.transfers c.1 c.2.weight (picks.filter (fun p => ((SMap.get? s.slices p.1).map (fun sl => decide (sl.cid = c.1))).getD false)))
        (s.updMast mast (fun t => { t with tackPtr := RMap.set t.tackPtr quad (BitVec.ofNat 8 (i + 1)) })))

end Sys2Proof.Machine
end

