-- ==== Sys2Proof/Machine/Capstan.lean ====
section
/-! DEFINITION. The Capstan: CAPR, CAPW and the reduction (spec 07, R173 to R177). -/

namespace Sys2Proof.Machine

open Sys2Proof

/-! ## The block address (R173, R177) -/

/-- The legality of CAPR and CAPW (R159). -/
def capSig (w : FWord) : Sig :=
  { zeroModSig w [w.c] [Pos.dst w.dest Acc.sz, Pos.src w.a Acc.dOnly, Pos.src w.b Acc.sOnly] with crew := true }

/-- The checks of a block address: the trap that it raises, if any (R173, step 1). -/
def State.blockTrap (s : State) (r : Run) (blk : Word) : Option (BitVec 8 × BitVec 8) :=
  let last := blk + 191
  if blk.toNat % 32 ≠ 0 then some (6, 0)
  else if (blk.getLsbD 63 || last.getLsbD 63) && !r.sg.sv then some (3, 0)
  else match s.homeWhy r blk with
    | some d => some (8, d)
    | none => if s.laneHome r .glob last = s.laneHome r .glob blk then none else some (2, 0)

/-- The direct form of an address under a group's context. -/
def State.directOf (s : State) (g : Group) (a : Word) : Word := ((s.ctxOf g).map (fun c => s.direct c a)).getD a

/-! ## Acceptance (R173) -/

/-- The entries of a Capstan. -/
def capEntries : Nat := 32

/-- What the Capstan meets when it reads a block and writes its STAT. -/
def State.blockMeets (s : State) (e : EngId) (blk : Word) : Option EngStop :=
  let rd := (List.range 6).findSome? (fun i => match s.engRead e (blk + BitVec.ofNat 64 (32 * i)) with
    | .error x => some x
    | .ok _ => none)
  match rd with
  | some x => some x
  | none => match s.engAt e (blk + 0x20) 1 with | .error x => some x | .ok _ => none

/-- A CAPR ends without acceptance because its block cannot be read or written (R173). -/
def State.capFail (s : State) (wid : Nat) (w : Wait) (gid : Nat) (code : Word) : State :=
  (s.updGroup gid (fun g => { g with errs := setBit g.errs 4 true })).endWait wid w (some code) false false (w.dk.getD 0)

/-- A waiting CAPR meets its Capstan: accepted, failed, or waiting on (R173). -/
def State.tryCapr (s : State) (wid : Nat) : State :=
  match SMap.get? s.waits wid with
  | none => s
  | some w =>
    match w.kind, s.runOf w with
    | .capr blk x, some r =>
      let m := s.vaMast blk
      let ctx := r.g.ctx
      let dev := r.sg.mast / 16
      let id : EngId := { ctx := ctx, dev := dev, at' := m / 16, dead := [] }
      if !s.linked dev (m / 16) then s
      else if (x.map (fun y => y.fail)).getD false then s.capFail wid w r.gid 7
      else if (x.bind (fun y => y.held)).isSome || decide ((s.mast m).caps.length ≥ capEntries) then s
      else match s.blockMeets id blk with
        | some (.hold va acc) =>
          let (s1, _, y) := s.tryXl (XlReq.mk' ctx va acc)
          { s1 with waits := SMap.put s1.waits wid { w with kind := .capr blk (some y) } }
        | some .owner => s.capFail wid w r.gid 6
        | some (.lost _ bad) => (s.countLost bad).capFail wid w r.gid 7
        | some .path => s
        | none =>
          let cell := fun (i : Nat) => match s.engAt id (blk + BitVec.ofNat 64 (8 * i)) 0 with | .ok c => c | .error _ => 0
          let words := (List.range 24).map (fun i => s.word (cell i))
          let reach := s.reachOf r.g (s.vaPlace blk).1 (s.vaPlace blk).2
          let s1 := (s.checkRead (((List.range 6).map (fun i => sectorOf (cell (4 * i)))).dedup)).store (cell 4) (leBytes 8 0xFF)
          let e : CapEntry := { dev := dev, gid := r.gid, ctx := ctx, blk := blk, words := words, x := none, dead := [], fin := none, reach := reach }
          ((s1.updMast m (fun t => { t with caps := t.caps ++ [e] })).countOp r.gid 4 reach 1).endWait wid w (some 0) false true (w.dk.getD 0)
    | _, _ => s

/-- A CAPR at its deadline, acceptance judged first (R173 step 4, R251). -/
def State.caprExpire (s : State) (wid : Nat) : State :=
  let s1 := s.tryCapr wid
  match SMap.get? s1.waits wid with
  | none => s1
  | some w =>
    match w.kind, SMap.get? s1.subs w.sid with
    | .capr _ _, some sg => if (w.dk.getD 0).toNat ≤ sg.gclk.toNat then s1.endWait wid w (some 4) true false (w.dk.getD 0) else s1
    | _, _ => s1

/-- CAPR (R173). -/
def execCapr (w : FWord) (s : State) : Host.Outcome State Fault Refusal :=
  issueF s w none (capSig w) (fun r s =>
    let blk := r.sval w.b
    match s.blockTrap r blk with
    | some (c, d) => r.trap s c d (if c = 2 then 0 else blk) r.act
    | none =>
      let wid := s.nextId
      let va := s.directOf r.g blk
      (r.waitFor s r.act (.capr va none) (some (r.sval w.a)) none w.dest).caprExpire wid)

/-- A waiting CAPR is accepted (R173). -/
def execCapstanAccept (wait : Nat) (s : State) : Host.Outcome State Fault Refusal := .next (s.tryCapr wait)

/-- The clock reaches a CAPR's deadline (R173). -/
def execCaprTimeout (wait : Nat) (s : State) : Host.Outcome State Fault Refusal := .next (s.caprExpire wait)

/-! ## The reduction (R174 to R176) -/

/-- A parameter block's fields (R174). -/
structure CapBlock where
  op    : Nat
  fmt   : Nat
  rnd   : Nat
  n     : Nat
  len   : Nat
  out   : Word
  flag  : Word
  flagv : Word
  ins   : List Word
  deriving DecidableEq, Repr

/-- The fields of a block as read. -/
def CapBlock.ofWords (ws : List Word) : CapBlock :=
  let w0 := ws.getD 0 0
  let n := fieldOf w0 16 5
  { op := fieldOf w0 0 4, fmt := fieldOf w0 8 5, rnd := fieldOf w0 13 3, n := n, len := fieldOf w0 32 32, out := ws.getD 1 0,
    flag := ws.getD 2 0, flagv := ws.getD 3 0, ins := (ws.drop 8).take n }

/-- The bytes of an element; none for a format that a block cannot name (R174). -/
def CapBlock.elem (b : CapBlock) : Option Nat :=
  if b.fmt = 0xD || b.fmt = 4 || b.fmt = 5 then some 4
  else if b.fmt = 0xC || b.fmt = 6 || b.fmt = 7 then some 8
  else none

/-- The bytes of a buffer. -/
def CapBlock.bytes (b : CapBlock) : Nat := b.len * b.elem.getD 4

/-- The sectors of OUT where LEN and FMT are valid, and otherwise 0 (R174). -/
def CapBlock.sectors (b : CapBlock) : Nat :=
  if b.elem.isSome && decide (1 ≤ b.len) && decide (b.len ≤ 0x1000000) then (b.bytes + 31) / 32 else 0

/-- Whether a buffer lies wholly on a mast; a striped one is judged at every 64 KiB (R174, R286). -/
def State.onMast (s : State) (e : EngId) (m : Nat) (a : Word) (n : Nat) : Bool :=
  decide (a.toNat % 32 = 0) && decide (a.toNat + n ≤ 2 ^ 64) && (rangeMarks (a, n)).all (fun x => match s.engHome e x with
    | .dram _ k | .window _ k _ _ => decide (k = m)
    | .none _ => false)

/-- Whether FLAG names a place that can be written (R174). -/
def State.flagOk (s : State) (e : EngId) (flag : Word) : Bool :=
  flag != 0 && decide (flag.toNat % 8 = 0) && (match s.engHome e flag with
    | .none _ => false
    | .dram _ m => !(s.mast m).fenced
    | .window _ m n _ => !(s.mast m).fenced && !(s.stn m n).fenced)

/-- Whether a block is valid (R174): OUT and the inputs are compared by their direct forms. -/
def State.blockValid (s : State) (e : EngId) (m : Nat) (ws : List Word) (b : CapBlock) : Bool :=
  let k := b.bytes
  let out := (s.engDirect e b.out).toNat
  let clash := fun (j : Nat) (a : Word) =>
    let x := (s.engDirect e a).toNat
    decide (out < x + k) && decide (x < out + k) && !(decide (j = 0) && decide (x = out))
  decide (fieldOf (ws.getD 0 0) 21 11 = 0) && decide (fieldOf (ws.getD 0 0) 4 4 = 0) &&
  (ws.getD 5 0 == 0) && (ws.getD 6 0 == 0) && (ws.getD 7 0 == 0) &&
  decide (b.sectors ≠ 0) && decide (1 ≤ b.n) && decide (b.n ≤ 16) && decide (b.op ≤ 2) &&
  decide (b.rnd ≤ 3) && (b.rnd == 0 || ((b.fmt == 0xC || b.fmt == 0xD) && b.op == 0)) &&
  (b.flag == 0 || s.flagOk e b.flag) && s.onMast e m b.out k && b.ins.all (fun a => s.onMast e m a k) &&
  ((List.range b.n).zip b.ins).all (fun x => !clash x.1 x.2)

/-- One operation of a reduction (R175). -/
def CapBlock.combine (b : CapBlock) (x y : Nat) : Nat :=
  if b.fmt = 0xC || b.fmt = 0xD then
    let t := if b.fmt = 0xC then FFmt.f64 else FFmt.f32
    match b.op with
    | 0 => (t.addOp { code := b.rnd, draw := 0 } x y).1
    | 1 => (t.minMaxOp false x y).1
    | _ => (t.minMaxOp true x y).1
  else
    let t : IFmt := { w := 8 * b.elem.getD 4, signed := decide (b.fmt = 4) || decide (b.fmt = 6), b := false }
    match b.op with
    | 0 => wrapTo t.w (tVal t x + tVal t y)
    | 1 => if tVal t y < tVal t x then y else x
    | _ => if tVal t x < tVal t y then y else x

/-- One round: neighbours are combined and an odd last one stays (R175). -/
def pairUp (f : Nat → Nat → Nat) : List Nat → List Nat
  | x :: y :: xs => f x y :: pairUp f xs
  | xs => xs

/-- The fixed pairwise order: rounds until one value is left; 16 inputs take 4 rounds (R175). -/
def pairTree (f : Nat → Nat → Nat) (xs : List Nat) : Nat :=
  ((List.range 4).foldl (fun ys _ => pairUp f ys) xs).headD 0

/-- One output sector: the input sectors are read, and the results of its elements are written (R175). -/
def State.reduceSector (s : State) (id : EngId) (b : CapBlock) (k : Nat) : Xfer :=
  let n := min 32 (b.bytes - 32 * k)
  let sz := b.elem.getD 4
  let off := BitVec.ofNat 64 (32 * k)
  let out := b.out + off
  let get : List (Except EngStop Nat) := b.ins.map (fun a => s.engRead id (a + off))
  let stop : Option EngStop := get.findSome? (fun g => match g with | .error e => some e | .ok _ => none)
  match stop with
  | some (.lost code bad) => { s := s.countLost bad, lost := 1, code := code, stop := none }
  | some e => { s := s, lost := 0, code := 0, stop := some e }
  | none =>
    let cells := get.filterMap (fun g => match g with | .ok c => some c | .error _ => none)
    let elem := fun (i : Nat) => pairTree b.combine (cells.map (fun c => s.num (c + sz * i) sz))
    let bytes := (List.range (n / sz)).flatMap (fun i => leBytes sz (elem i))
    let s1 := s.checkRead (cells.map sectorOf).dedup
    match (if n < 32 then s1.engRead id out else s1.engAt id out 1), s1.engAt id out 1 with
    | .ok c, .ok _ => { s := s1.store c bytes, lost := 0, code := 0, stop := none }
    | .error (.lost code bad), _ => { s := s1.countLost bad, lost := 1, code := code, stop := none }
    | _, .error (.lost code _) => { s := s1, lost := 1, code := code, stop := none }
    | .error e, _ | _, .error e => { s := s1, lost := 0, code := 0, stop := some e }

/-- The output sectors in order. -/
def State.reduceAll (s : State) (id : EngId) (b : CapBlock) : List Nat → Xfer
  | [] => { s := s, lost := 0, code := 0, stop := none }
  | k :: ks =>
    let a := s.reduceSector id b k
    if a.stop.isSome then a
    else
      let r := State.reduceAll a.s id b ks
      { r with lost := a.lost + r.lost, code := worstCode a.code r.code }

/-- One word that a reduction writes, its owner compared (R163, R176). -/
def State.engPut (s : State) (id : EngId) (va : Word) (x : Word) : State × Option EngStop :=
  match s.engAt id va 1 with
  | .ok c => if s.badAt c then (s, some (.lost 7 (some (sectorOf c)))) else (s.store c (leBytes 8 x.toNat), none)
  | .error e => (s, some e)

/-- The reduction's count falls and its entry is free (R176 step 4). -/
def State.capDone (s : State) (m : Nat) (e : CapEntry) (code : BitVec 8) : State :=
  ((s.updMast m (fun t => { t with caps := t.caps.tail })).ackOp e.gid 4 e.reach 1 (decide (code ≠ 0))).judgeFences e.gid

/-- The head entry stands as it is now. -/
def State.capPut (s : State) (m : Nat) (e : CapEntry) : State := s.updMast m (fun t => { t with caps := e :: t.caps.tail })

/-- The head entry waits for a page. -/
def State.capHold (s : State) (m : Nat) (e : CapEntry) (va : Word) (acc : BitVec 2) : State :=
  let (s1, _, y) := s.tryXl (XlReq.mk' e.ctx va acc)
  s1.capPut m { e with x := some y }

/-- For whom an entry of a Capstan works. -/
def CapEntry.eng (e : CapEntry) (m : Nat) : EngId := { ctx := e.ctx, dev := e.dev, at' := m / 16, dead := e.dead }

/-- FLAG, then the count (R176, steps 3 and 4). -/
def State.capFlag (s : State) (m : Nat) (e : CapEntry) (b : CapBlock) (code : BitVec 8) : State :=
  if !s.flagOk (e.eng m) b.flag then s.capDone m e code
  else match s.engPut (e.eng m) b.flag b.flagv with
    | (_, some (.hold va acc)) => s.capHold m e va acc
    | (_, some .path) => s.capPut m e
    | (_, some .owner) => s.capDone m e 6
    | (_, some (.lost x bad)) => (s.countLost bad).capDone m e (worstCode code x)
    | (s1, none) => s1.capDone m e code

/-- What is left of an entry once OUT is performed (R176): STAT, then FLAG, then the count; once the owner has changed nothing more is
written (R163), and a STAT that cannot be written makes the reduction end with ERROR (R299). -/
def State.capFinish (s : State) (m : Nat) (e : CapEntry) (b : CapBlock) (code : BitVec 8) (cnt : Nat) : State :=
  if code = 6 then s.capDone m e 6
  else match s.engPut (e.eng m) (e.blk + 0x20) (statusWord code 0 0 cnt 0) with
    | (_, some (.hold va acc)) => s.capHold m { e with fin := some (code, cnt, false) } va acc
    | (_, some .path) => s.capPut m { e with fin := some (code, cnt, false) }
    | (_, some .owner) => s.capDone m e 6
    | (_, some (.lost x bad)) => (s.countLost bad).capFlag m { e with fin := some (worstCode code x, cnt, true) } b (worstCode code x)
    | (s1, none) => s1.capFlag m { e with fin := some (code, cnt, true) } b code

/-- The Capstan of a mast serves its oldest entry (R175, R176): the elements are taken together, in one step, and no OUT sector is
written while one of the pages waits. -/
def execCapstanReduction (mast : Nat) (s : State) : Host.Outcome State Fault Refusal :=
  .next (match (s.mast mast).caps with
    | [] => s
    | e0 :: _ =>
      let e := match e0.x with
        | some y => if y.fail then { e0 with dead := pageOf y.va :: e0.dead, x := none } else e0
        | none => e0
      if !s.engKnown (e.eng mast) then s.capDone mast e 6
      else if (e.x.bind (fun y => y.held)).isSome then s
      else
        let b := CapBlock.ofWords e.words
        match e.fin with
        | some (code, _, true) => s.capFlag mast e b code
        | some (code, cnt, false) => s.capFinish mast e b code cnt
        | none =>
          let valid := s.blockValid (e.eng mast) mast e.words b
          let o : Xfer := if valid then s.reduceAll (e.eng mast) b (List.range b.sectors) else { s := s, lost := b.sectors, code := 7, stop := none }
          match o.stop with
          | some (.hold va acc) => s.capHold mast e va acc
          | some .owner => o.s.capDone mast e 6
          | some .path | some (.lost _ _) => s
          | none =>
            let (cnt, s1) := o.s.count24 o.lost
            s1.capFinish mast e b o.code cnt)

/-! ## CAPW (R177) -/

/-- One reading of STAT by a waiting CAPW (R177). -/
def State.capwEval (s : State) (wid : Nat) : State :=
  match SMap.get? s.waits wid with
  | none => s
  | some w =>
    match w.kind, s.runOf w with
    | .capw blk x, some r =>
      let va := blk + 0x20
      if (x.bind (fun y => y.held)).isSome || !s.linked (r.sg.mast / 16) (s.vaMast va / 16) then s
      else match s.placeOf r.g.ctx va 0 with
        | .walkEnd => s
        | .bounds => s.trapWait wid w 9 0 (BitVec.ofNat 64 (fieldOf va 0 21)) w.lanes
        | .hold =>
          let (s1, _, y) := s.tryXl (XlReq.mk' r.g.ctx va 0)
          let bound := if w.bound.isSome then w.bound else some r.sg.bound
          { s1 with waits := SMap.put s1.waits wid { w with kind := .capw blk (some y), bound := bound } }
        | .cell c =>
          let s1 := s.checkRead [sectorOf c]
          if s.badAt c then s1.trapWait wid w 0x0B 0 (BitVec.ofNat 64 (va.toNat / 32 * 32)) w.lanes
          else
            let st := s.word c
            if fieldOf st 0 8 = 0xFF then { s1 with waits := SMap.put s1.waits wid { w with kind := .capw blk none, bound := none } }
            else s1.endWait wid w (some st) (decide (fieldOf st 0 8 = 1)) (decide (fieldOf st 0 8 = 0)) (w.dk.getD 0)
    | _, _ => s

/-- A CAPW at its deadline, completion judged first (R177, R251). -/
def State.capwExpire (s : State) (wid : Nat) : State :=
  let s1 := s.capwEval wid
  match SMap.get? s1.waits wid with
  | none => s1
  | some w =>
    match w.kind, SMap.get? s1.subs w.sid with
    | .capw _ _, some sg => if (w.dk.getD 0).toNat ≤ sg.gclk.toNat then s1.endWait wid w (some 1) true false (w.dk.getD 0) else s1
    | _, _ => s1

/-- CAPW (R177). -/
def execCapw (w : FWord) (s : State) : Host.Outcome State Fault Refusal :=
  issueF s w none (capSig w) (fun r s =>
    let blk := r.sval w.b
    match s.blockTrap r blk with
    | some (c, d) => r.trap s c d (if c = 2 then 0 else blk) r.act
    | none =>
      let wid := s.nextId
      let va := s.directOf r.g blk
      (r.waitFor s r.act (.capw va none) (some (r.sval w.a)) none w.dest).capwExpire wid)

/-- A write to STAT's sector wakes a CAPW (R177). -/
def execCapwWake (wait : Nat) (s : State) : Host.Outcome State Fault Refusal := .next (s.capwEval wait)

/-- The clock reaches a CAPW's deadline (R177). -/
def execCapwTimeout (wait : Nat) (s : State) : Host.Outcome State Fault Refusal := .next (s.capwExpire wait)

end Sys2Proof.Machine
end

