-- ==== Sys2Proof/Machine/Jib.lean ====
section
/-! DEFINITION. The jib units: BCALL, BWAIT and the calls (spec 07, R178 to R184). -/

namespace Sys2Proof.Machine

open Sys2Proof

/-! ## Issue (R178) -/

/-- The legality of BCALL (R159): size codes above 1 are reserved. -/
def bcallSig (w : FWord) (x : Option XWord) : Sig :=
  { memSig w x [w.c] [Pos.dst w.dest Acc.vz] (decide (w.hi ≠ 0) || decide (szOf w > 1)) false false false false false with crew := true }

/-- One call goes out (R178): its count, its pending status and its place among the calls. -/
def State.sendCall (s : State) (r : Run) (dest : Operand) (park : Option Nat) (lane : Nat) (rec : Word) : State :=
  let va := s.directOf r.g rec
  let reach := s.reachOf r.g (s.vaPlace va).1 (s.vaPlace va).2
  let s1 := s.countOp r.gid 5 reach 1
  let (sreg, s2) : Nat × State := if isV dest then
      s1.outstand r.gid lane (BitVec.allOnes 64) ((dstWrites dest false lane 0).map (fun w => (w.1, none)))
    else (0, s1)
  let (k, s3) := s2.fresh
  let call : JibCall := {
    dev := s.dev, gid := r.gid, ctx := r.g.ctx, lane := lane, sreg := sreg, record := va, wait := park, after := r.pc + BitVec.ofNat 64 r.len
    wait2 := park.isNone, unit := none, arr := 0, phase := .queued, reach := reach, x := none }
  { s3 with calls := SMap.put s3.calls k call }

/-- Lanes go to the waiting pool. -/
def State.park (s : State) (sid : Nat) (lanes : Mask) : State := s.updSub sid (fun sg => (sg.setSt lanes .parked).settle lanes)

/-- The issue of BCALL.T and BCALL.N (R178). -/
def bcallPath (r : Run) (s : State) (dest : Operand) (parks : Bool) (addr : Nat → Word) : State :=
  match s.memCheck r .glob 32 false false addr with
  | some f => r.trap s f.cause f.detail (addr (f.lanes.headD 0)) (maskOf f.lanes)
  | none =>
    let wid := s.nextId
    let s1 := if parks then (r.waitFor s r.act .bcall none (some r.sg.bound) .zero).park r.sid r.act else s
    let s2 := (lanesOf r.act).foldl (fun s l => s.sendCall r dest (if parks then some wid else none) l (addr l)) s1
    if parks then s2 else r.done s2

/-- BCALL.T (R178). -/
def execBcallT (w : FWord) (x : Option XWord) (s : State) : Host.Outcome State Fault Refusal :=
  issueMem s w x false (bcallSig w x) (fun r s => bcallPath r s w.dest true (memAddr w x r))

/-- BCALL.N (R178). -/
def execBcallN (w : FWord) (x : Option XWord) (s : State) : Host.Outcome State Fault Refusal :=
  issueMem s w x false (bcallSig w x) (fun r s => bcallPath r s w.dest false (memAddr w x r))

/-! ## The computation of a call (R179, R180) -/

/-- For whom a call is served. -/
def State.callEng (s : State) (c : JibCall) : EngId := { ctx := c.ctx, dev := c.dev, at' := s.vaMast c.record / 16, dead := [] }

/-- The number of a bank group within its mast (R287). -/
def bankGroup (pa : Nat) : Nat := pa / 2 ^ 16 % 256

/-- One byte's place as a jib unit reads it: whatever does not lie in its bank group breaks the record (R179); a fenced bank group is
refused (R182). -/
def State.bankAt (s : State) (e : EngId) (m unit : Nat) (va : Word) : Except EngStop Nat :=
  if !s.engKnown e then .error .owner
  else if (s.mast m).fenced && decide (s.vaMast (s.engDirect e va) = m) then .error (.lost 5 none)
  else match s.engHome e va with
    | .none _ | .window _ _ _ _ => .error (.lost 7 none)
    | .dram _ k =>
      if k ≠ m then .error (.lost 7 none)
      else match s.xlate e.ctx (s.engDirect e va) 0 with
        | .ok pa =>
          if bankGroup pa ≠ unit then .error (.lost 7 none)
          else if s.frameTag m (pa / 2 ^ 16) ≠ BitVec.ofNat 16 e.ctx then .error .owner
          else if s.badAt (dramCell m pa) then .error (.lost 7 (some (sectorOf (dramCell m pa))))
          else .ok (dramCell m pa)
        | .miss | .fault _ => .error (.hold (s.engDirect e va) 0)

/-- Bytes read by a jib unit. -/
def State.bankBytes (s : State) (e : EngId) (m unit : Nat) (va : Word) (n : Nat) : Except EngStop (List Nat) :=
  (List.range n).mapM (fun i => s.bankAt e m unit (va + BitVec.ofNat 64 i))

/-- The number that some cells hold. -/
def State.cellNum (s : State) (cells : List Nat) : Nat := leNat (cells.map (fun c => RMap.get (n := 8) s.mem c))

/-- Elements of two bytes from some cells on. -/
def State.halves (s : State) (t : FFmt) (cells : List Nat) (n : Nat) : List FVal :=
  (List.range n).map (fun i => t.unpack (s.cellNum ((cells.drop (2 * i)).take 2)))

/-- The exact dot product rounded once; a zero sum is -0 only when every term is (R180). -/
def jibDot (q k : List FVal) : Nat :=
  let terms := (q.zip k).map (fun e => (e.1.mul e.2).1)
  let sum := terms.tail.foldl (fun a t => (a.add Rnd.rne t).1) (terms.headD (.fin false 0 0))
  (FFmt.f32.deliver Rnd.rne sum).1

/-- The running state of a call: m, l and o (R180). -/
structure JibAcc where
  m : Nat
  l : Nat
  o : List Nat
  deriving DecidableEq, Repr

/-- One key (R180). -/
def jibKey (scale : Nat) (q : List FVal) (a : JibAcc) (key val : List FVal) : JibAcc :=
  let t := FFmt.f32
  let s := (t.mulOp Rnd.rne scale (jibDot q key)).1
  let mn := (t.minMaxOp true a.m s).1
  let al := (fexp2Op (t.subOp Rnd.rne a.m mn).1).1
  let p := (fexp2Op (t.subOp Rnd.rne s mn).1).1
  let o := (a.o.zip val).map (fun e =>
    let oa := t.unpack (t.mulOp Rnd.rne e.1 al).1
    (t.deliver Rnd.rne ((((t.unpack p).mul e.2).1.add Rnd.rne oa).1)).1)
  { m := mn, l := (t.addOp Rnd.rne (t.mulOp Rnd.rne a.l al).1 p).1, o := o }

/-- What a call read and what it replies. -/
structure JibOut where
  reply : List Byte
  addr  : Word
  cells : List Nat
  deriving DecidableEq, Repr

/-- One whole call (R179, R180). -/
def State.jibRun (s : State) (id : EngId) (m unit : Nat) (rec : Word) : Except EngStop JibOut := do
  let head ← s.bankBytes id m unit rec 0x40
  let w : Nat → Word := fun i => BitVec.ofNat 64 (s.cellNum ((head.drop (8 * i)).take 8))
  let nk := fieldOf (w 0) 32 16
  let dh := fieldOf (w 0) 16 5
  let fmt := fieldOf (w 0) 8 5
  let bad := decide (fieldOf (w 0) 48 16 ≠ 0) || decide (fieldOf (w 0) 21 11 ≠ 0) || decide (fieldOf (w 0) 13 3 ≠ 0) ||
    decide (fieldOf (w 0) 0 8 ≠ 0) || decide (fieldOf (w 1) 32 32 ≠ 0) || (w 4 != 0) || (w 5 != 0) || (w 6 != 0) || (w 7 != 0) ||
    decide (dh = 0) || decide (dh > 16) || (fmt != 0xE && fmt != 0xF) || decide ((w 3).toNat % 32 ≠ 0)
  if bad then .error (.lost 7 none)
  else
    let t := (match EFmt.ofCode fmt with | .flt f => f | .int _ | .scale | .none => FFmt.f16)
    let d := 16 * dh
    let qc ← s.bankBytes id m unit (rec + 0x40) (2 * d)
    let rows ← (List.range nk).mapM (fun j => do
      let ent ← s.bankBytes id m unit (w 2 + BitVec.ofNat 64 (16 * (j / 32))) 16
      let row := BitVec.ofNat 64 (2 * d * (j % 32))
      let kc ← s.bankBytes id m unit (BitVec.ofNat 64 (s.cellNum (ent.take 8)) + row) (2 * d)
      let vc ← s.bankBytes id m unit (BitVec.ofNat 64 (s.cellNum (ent.drop 8)) + row) (2 * d)
      .ok (ent, kc, vc))
    let q := s.halves t qc d
    let start : JibAcc := { m := FFmt.f32.infBits true, l := 0, o := List.replicate d 0 }
    let r := rows.foldl (fun a x => jibKey (fieldOf (w 1) 0 32) q a (s.halves t x.2.1 d) (s.halves t x.2.2 d)) start
    let cells := head ++ qc ++ rows.flatMap (fun x => x.1 ++ x.2.1 ++ x.2.2)
    let spared := fun (c : Nat) => ((s.mast m).rows.map rowOf).contains (rowOf (c % 2 ^ 37)) || ((s.mast m).banks.map bankOf).contains (bankOf (c % 2 ^ 37))
    let spare := (((cells.filter spared).map (fun c => rowOf (c % 2 ^ 37))).dedup).length
    .ok { reply := leBytes 4 r.m ++ leBytes 4 r.l ++ leBytes 4 spare ++ leBytes 4 0 ++ r.o.flatMap (leBytes 4), addr := w 3, cells := cells }

/-! ## The unit (R178, R181) -/

/-- Change a call. -/
def State.setCall (s : State) (k : Nat) (c : JibCall) : State := { s with calls := SMap.put s.calls k c }

/-- A call ends without a reply; its status is delivered by R182. -/
def State.endCall (s : State) (k : Nat) (c : JibCall) (code : BitVec 8) : State :=
  s.setCall k { c with phase := .replying code [] 0, x := none }

/-- A call reaches its unit, or the dispatcher ends it (R178): a record in a station window lies in no bank group. -/
def State.callArrive (s : State) (k : Nat) (c : JibCall) : State :=
  let m := s.vaMast c.record
  if !s.linked c.dev (m / 16) then s
  else if (c.x.map (fun y => y.fail)).getD false || decide ((s.vaPlace c.record).2 ≠ 64) then s.endCall k c 7
  else if (c.x.bind (fun y => y.held)).isSome then s
  else match s.engAt (s.callEng c) c.record 0 with
    | .ok cell =>
      let (n, s1) := s.fresh
      s1.setCall k { c with unit := some (bankGroup (cell % 2 ^ 37)), arr := n, x := none }
    | .error (.hold va acc) => let (s1, _, y) := s.tryXl (XlReq.mk' c.ctx va acc); s1.setCall k { c with x := some y }
    | .error .owner => s.endCall k c 6
    | .error (.lost code _) => s.endCall k c code
    | .error .path => s

/-- Whether a call is next at its unit, which is free (R181). -/
def State.callNext (s : State) (k : Nat) (c : JibCall) : Bool :=
  let m := s.vaMast c.record
  s.calls.all (fun e => decide (e.1 = k) || decide (s.vaMast e.2.record ≠ m) || decide (e.2.unit ≠ c.unit) ||
    (match e.2.phase with | .queued => decide (c.arr < e.2.arr) | .replying _ _ _ => false))

/-- A unit computes the call that it takes (R180, R181). -/
def State.callCompute (s : State) (k : Nat) (c : JibCall) (unit : Nat) : State :=
  let m := s.vaMast c.record
  if (c.x.map (fun y => y.fail)).getD false then s.setCall k { c with phase := .replying 7 [] 0, x := none }
  else if (c.x.bind (fun y => y.held)).isSome then s
  else
    let s0 := s.updMast m (fun t => { t with busyUnits := if t.busyUnits.contains unit then t.busyUnits else unit :: t.busyUnits })
    match s.jibRun (s.callEng c) m unit c.record with
    | .ok o => (s0.checkRead ((o.cells.map sectorOf).dedup)).setCall k { c with phase := .replying 0 o.reply o.addr, x := none }
    | .error (.hold va acc) => let (s1, _, y) := s0.tryXl (XlReq.mk' c.ctx va acc); s1.setCall k { c with x := some y }
    | .error .owner => s0.setCall k { c with phase := .replying 6 [] 0, x := none }
    | .error (.lost code bad) => (s0.countLost bad).setCall k { c with phase := .replying code [] 0, x := none }
    | .error .path => s0

/-- A call at its dispatcher or its unit (R178, R181). -/
def execJibCall (call : Nat) (s : State) : Host.Outcome State Fault Refusal :=
  .next (match SMap.get? s.calls call with
    | none => s
    | some c0 =>
      match c0.phase with
      | .replying _ _ _ => s
      | .queued =>
        let s1 := if c0.unit.isNone then s.callArrive call c0 else s
        match SMap.get? s1.calls call with
        | some c =>
          (match c.phase, c.unit with
           | .queued, some u => if s1.callNext call c then s1.callCompute call c u else s1
           | _, _ => s1)
        | none => s1)

/-! ## The reply (R182) -/

/-- A lane leaves the pool: the word retires for it at a new PC (R178, R183). -/
def State.unpark (s : State) (wid : Nat) (w : Wait) (lanes : Mask) (pc : Nat → Word) : State :=
  let left := w.lanes &&& ~~~lanes
  let s1 := { s with waits := if left = 0 then SMap.del s.waits wid else SMap.put s.waits wid { w with lanes := left } }
  s1.atSub w.sid (fun s => s.retireAt w.sid lanes (stallOf w.iword) w.len pc w.pc w.iword w.xword)

/-- The PC of a lane that a reply releases (R178). -/
def State.afterCall (s : State) (sid : Nat) (after : Word) (lane : Nat) : Word :=
  match ((SMap.get? s.subs sid).bind (fun sg => SMap.get? sg.lanes lane)).map (fun l => l.meet) with
  | some m => if m = 0 then after else m
  | none => after

/-- Whether every non-blocking call of some lanes has replied (R183). -/
def State.callsDone (s : State) (gid : Nat) (lanes : Mask) : Bool :=
  s.calls.all (fun e => !(decide (e.2.gid = gid) && e.2.wait2 && lanes.getLsbD e.2.lane))

/-- Judge a BWAIT: completion first, then its deadline (R183, R251). -/
def State.judgeBwait (s : State) (wid : Nat) : State :=
  match SMap.get? s.waits wid with
  | none => s
  | some w =>
    match w.kind, s.runOf w with
    | .bwait sreg, some r =>
      let fin := fun (x : Word) =>
        let s1 := if sreg = 0 then s else (s.setOutst r.gid sreg x).deliver r.gid sreg
        s1.endWait wid w none (decide (x = 1)) (decide (x = 0)) (w.dk.getD 0)
      if s.callsDone r.gid w.lanes then fin 0
      else if (w.dk.getD 0).toNat ≤ r.sg.gclk.toNat then fin 1 else s
    | _, _ => s

/-- Judge every BWAIT of a group. -/
def State.judgeBwaits (s : State) (gid : Nat) : State :=
  let mine := s.waits.filter (fun e => (match e.2.kind with | .bwait _ => true | _ => false) &&
    (match SMap.get? s.subs e.2.sid with | some sg => decide (sg.gid = gid) | none => false))
  mine.foldl (fun s e => s.judgeBwait e.1) s

/-- The sectors of a reply, with their bytes. -/
def replySectors (addr : Word) (reply : List Byte) : List (Word × List Byte) :=
  (List.range ((reply.length + 31) / 32)).map (fun i => (addr + BitVec.ofNat 64 (32 * i), (reply.drop (32 * i)).take 32))

/-- Write the sectors of a reply; what stops it, if anything (R163, R182). -/
def State.putReply (s : State) (id : EngId) : List (Word × List Byte) → State × Option EngStop
  | [] => (s, none)
  | e :: es =>
    match s.engAt id e.1 1 with
    | .error x => (s, some x)
    | .ok c =>
      if e.2.length < 32 && s.badAt c then (s.countUe c, some (.lost 7 (some c)))
      else State.putReply (s.store c e.2) id es

/-- A call's status goes out, its lane is released, its count falls (R182). -/
def State.callDone (s : State) (k : Nat) (c : JibCall) (code : BitVec 8) : State :=
  let m := s.vaMast c.record
  let s1 := { s with calls := SMap.del s.calls k }
  let idle := match c.unit with
    | some u => s1.calls.all (fun e => decide (s.vaMast e.2.record ≠ m) || decide (e.2.unit ≠ some u))
    | none => false
  let s2 := if idle then s1.updMast m (fun t => { t with busyUnits := t.busyUnits.filter (fun u => decide (c.unit ≠ some u)) }) else s1
  let s3 := if c.sreg = 0 then s2 else (s2.setOutst c.gid c.sreg (code.setWidth 64)).deliver c.gid c.sreg
  let s4 := match c.wait with
    | some wid =>
      (match SMap.get? s3.waits wid with
       | some w => s3.unpark wid w (BitVec.ofNat 64 (2 ^ c.lane)) (fun l => s3.afterCall w.sid c.after l)
       | none => s3)
    | none => s3
  ((s4.ackOp c.gid 5 c.reach 1 (decide (code ≠ 0))).judgeBwaits c.gid).judgeFences c.gid

/-- A call's reply is performed (R182). -/
def execJibReply (call : Nat) (s : State) : Host.Outcome State Fault Refusal :=
  .next (match SMap.get? s.calls call with
    | none => s
    | some c =>
      match c.phase with
      | .queued => s
      | .replying code reply addr =>
        if (c.x.map (fun y => y.fail)).getD false then s.callDone call c 7
        else if (c.x.bind (fun y => y.held)).isSome then s
        else
          let secs := replySectors addr reply
          let id := s.callEng c
          let stop := secs.findSome? (fun e => match s.engAt id e.1 1 with
            | .error (.hold va acc) => some (EngStop.hold va acc)
            | .error .path => some EngStop.path
            | .error .owner | .error (.lost _ _) | .ok _ => none)
          match stop with
          | some (.hold va acc) => let (s1, _, y) := s.tryXl (XlReq.mk' c.ctx va acc); s1.setCall call { c with x := some y }
          | some _ => s
          | none =>
            match s.putReply id secs with
            | (s1, none) => s1.callDone call c code
            | (s1, some .owner) => s1.callDone call c 6
            | (s1, some (.lost x _)) => s1.callDone call c x
            | (s1, some .path) | (s1, some (.hold _ _)) => s1.callDone call c 7)

/-- A parked lane of BCALL.T reaches its bound (R178, R254): it goes to its meeting address, or takes the deadline trap; its
call runs on. -/
def execBcallParkExpiry (wait : Nat) (s : State) : Host.Outcome State Fault Refusal :=
  .next (match SMap.get? s.waits wait with
    | none => s
    | some w =>
      match w.kind, SMap.get? s.subs w.sid with
      | .bcall, some sg =>
        if w.bound.getD 0 ≤ sg.gclk.toNat then
          let meets := w.lanes &&& sg.laneMask (fun l => decide (l.meet ≠ 0))
          let traps := w.lanes &&& ~~~meets
          let calls := s.calls.map (fun (e : Nat × JibCall) => if e.2.wait = some wait then (e.1, { e.2 with wait := none, wait2 := true }) else e)
          let s1 : State := { s with calls := calls, waits := SMap.del s.waits wait }.noteLanes 3 w.sid w.lanes 0x10
          let s2 := if traps = 0 then s1 else s1.enterTrap w.sid traps
            { cause := 0x10, detail := 1, info := BitVec.ofNat 64 (w.bound.getD 0), fmask := traps, next := true, tpc := w.pc, len := w.len, iword := w.iword, xword := w.xword }
          if meets = 0 then s2
          else s2.retireAt w.sid meets (stallOf w.iword) w.len (fun l => s.afterCall w.sid 0 l) w.pc w.iword w.xword
        else s
      | _, _ => s)

/-! ## BWAIT (R183) -/

/-- The legality of BWAIT (R183). -/
def bwaitSig (w : FWord) : Sig := { zeroModSig w [w.b, w.c] [Pos.dst w.dest Acc.sz, Pos.src w.a Acc.dOnly] with crew := true }

/-- BWAIT (R183). -/
def execBwait (w : FWord) (s : State) : Host.Outcome State Fault Refusal :=
  issueF s w none (bwaitSig w) (fun r s =>
    let dk := r.sval w.a
    let mine := maskOf ((lanesOf r.act).filter (fun l =>
      s.calls.any (fun e => decide (e.2.gid = r.gid) && e.2.wait2 && decide (e.2.lane = l))))
    let out := fun (s : State) (x : Option Word) (lanes : Mask) =>
      if isS w.dest then s.outstand r.gid (lowest lanes) r.set ((dstWrites w.dest true 0 0).map (fun e => (e.1, x))) else (0, s)
    if mine = 0 then (out s (some 0) r.act).2.finish r.sid r.g r.set r.act r.stall r.len false true dk r.iw r.xw
    else
      let (sreg, s1) := out s none mine
      let wid := s1.nextId
      ((r.waitFor s1 mine (.bwait sreg) (some dk) none .zero).park r.sid mine).judgeBwait wid)

/-- The clock reaches a BWAIT's deadline (R183). -/
def execBwaitTimeout (wait : Nat) (s : State) : Host.Outcome State Fault Refusal := .next (s.judgeBwait wait)

end Sys2Proof.Machine
end

