-- ==== Sys2Proof/Machine/Sync.lean ====
section
/-! DEFINITION. Barriers and crew queues (spec 08, R185 to R195). -/

namespace Sys2Proof.Machine

open Sys2Proof

/-! ## Counters (R185) -/

/-- A barrier at launch (R185). -/
def Barrier.start : Barrier := { phase := 0, count := 0, expct := none }

/-- A barrier's counter. -/
def State.bar (s : State) (r : BarRef) : Barrier :=
  (match r with
   | .crew cid b => (SMap.get? s.crews cid).bind (fun c => SMap.get? c.bars b)
   | .mast lid m b => (SMap.get? s.launches lid).bind (fun l => SMap.get? l.mbars (m * 8 + b))
   | .grid lid b => (SMap.get? s.launches lid).bind (fun l => SMap.get? l.grid b)).getD Barrier.start

/-- Write a barrier's counter. -/
def State.putBar (s : State) (r : BarRef) (x : Barrier) : State :=
  match r with
  | .crew cid b => s.updCrew cid (fun c => { c with bars := SMap.put c.bars b x })
  | .mast lid m b => s.updLaunch lid (fun l => { l with mbars := SMap.put l.mbars (m * 8 + b) x })
  | .grid lid b => s.updLaunch lid (fun l => { l with grid := SMap.put l.grid b x })

/-- The place of a counter, as an end of messages (R185). -/
def State.barPort (s : State) (r : BarRef) : Nat :=
  match r with
  | .crew cid _ => match SMap.get? s.crews cid with | some c => stnPort c.mast c.stn | none => 0
  | .mast _ m _ => mastPort m
  | .grid lid _ => cpPort (((SMap.get? s.launches lid).map (fun l => l.dev)).getD s.dev)

/-- Whether a counter is known. -/
def State.barHere (s : State) (r : BarRef) : Bool :=
  match r with
  | .crew cid _ => (SMap.get? s.crews cid).isSome
  | .mast lid _ _ | .grid lid _ => (SMap.get? s.launches lid).isSome

/-- The entry of a journal for a message that a barrier counter serves (R338). -/
def State.noteBar (s : State) (r : BarRef) (wait : Nat) : State :=
  match (SMap.get? s.waits wait).bind (fun w => (SMap.get? s.subs w.sid).map (fun sg => s.requester sg.gid (lowest w.lanes))) with
  | none => s
  | some who =>
    match r with
    | .crew cid b =>
      (match SMap.get? s.crews cid with
       | some c => s.noteAt c.mast 6 0 (BitVec.ofNat 64 (c.stn * 256 + b)) who 0
       | none => s)
    | .mast _ m b => s.noteAt m 6 0 (BitVec.ofNat 64 (0x10000 + b)) who 0
    | .grid lid b => s.on (((SMap.get? s.launches lid).map (fun l => l.dev)).getD s.dev) (fun s => s.note deckUnit 6 0 (BitVec.ofNat 64 (0x20000 + b)) who 0)

/-- Lanes of a group that have not ended. -/
def Group.liveLanes (g : Group) : Nat := popCount (widthMask g.width &&& ~~~g.ended)

/-- Lanes of a crew's groups that have not ended. -/
def State.crewLanes (s : State) (c : Crew) : Nat :=
  (c.groups.map (fun g => ((SMap.get? s.groups g).map Group.liveLanes).getD 0)).sum

/-- Whether a barrier counts for another's exits: one message tells every barrier of a crew, a mast or a launch. -/
def BarRef.same (a b : BarRef) : Bool :=
  match a, b with
  | .crew c _, .crew d _ => decide (c = d)
  | .mast l m _, .mast k n _ => decide (l = k) && decide (m = n)
  | .grid l _, .grid k _ => decide (l = k)
  | .crew _ _, _ | .mast _ _ _, _ | .grid _ _, _ => false

/-- Exits on their way to a counter. -/
def State.exitsComing (s : State) (r : BarRef) : Nat :=
  (s.msgs.map (fun e => match e.2.body with | .barExit k n => if r.same k then n else 0 | _ => 0)).sum

/-- The live-lane count as the counter knows it (R185): lanes that have not exited, or whose exit has not reached it. -/
def State.liveCount (s : State) (r : BarRef) : Nat :=
  (match r with
   | .crew cid _ => ((SMap.get? s.crews cid).map s.crewLanes).getD 0
   | .mast lid m _ => ((s.crews.filter (fun e => decide (e.2.lid = lid) && decide (e.2.mast = m))).map (fun e => s.crewLanes e.2)).sum
   | .grid lid _ => ((s.crews.filter (fun e => decide (e.2.lid = lid))).map (fun e => s.crewLanes e.2)).sum +
      (match SMap.get? s.launches lid with | some l => (l.crews - l.placed) * l.groups * l.width | none => 0)) + s.exitsComing r

/-- Judge a counter: a complete phase moves on, and its notice goes out, one for every part that waits (R185, R189). -/
def State.judgeBar (s : State) (r : BarRef) : State :=
  let b := s.bar r
  let full := match b.expct with | some e => decide (b.count ≥ e) | none => decide (b.count ≥ s.liveCount r)
  if b.count > 0 && full then
    (s.putBar r { phase := b.phase + 1, count := 0, expct := none }).send (s.barPort r) (s.barPort r) (.barDone r b.phase)
  else s

/-- Whether the completion of a phase has been received (R189). -/
def State.phaseOver (s : State) (r : BarRef) (t : BitVec 32) : Bool :=
  decide ((s.bar r).phase ≠ t) && s.msgs.all (fun e => match e.2.body with
    | .barDone k p => !(decide (k = r) && decide (p = t))
    | _ => true)

/-- A token (R186). -/
def barToken (phase : BitVec 32) (code : Nat) : Word := packWord [(phase.toNat, 32), (code, 0)]

/-- A barrier wait ends with a status (R189, R190, R252). -/
def State.endBarrier (s : State) (wid : Nat) (w : Wait) (code : Nat) : State :=
  let counted := decide (code = 1) || decide (code = 2)
  let (dl, s1) : Word × State := match w.dk with
    | some d => (d, s)
    | none => if counted then s.free else (0, s)
  s1.endWait wid w (some (BitVec.ofNat 64 code)) counted (decide (code = 0)) dl

/-- Judge a waiting part: completion first, then its deadline (R189). -/
def State.judgePart (s : State) (wid : Nat) : State :=
  match SMap.get? s.waits wid with
  | none => s
  | some w =>
    match w.kind, SMap.get? s.subs w.sid with
    | .barrier r tok keep mb .waiting, some sg =>
      if s.phaseOver r tok then s.endBarrier wid w 0
      else if (w.dk.getD 0).toNat ≤ sg.gclk.toNat then
        if keep then s.endBarrier wid w 1
        else
          { s with waits := SMap.put s.waits wid { w with kind := .barrier r tok keep mb .withdrawing } }.send
            (stnPort sg.mast sg.stn) (s.barPort r) (.barWithdraw r tok (popCount w.lanes) wid)
      else s
    | _, _ => s

/-! ## At the counter -/

/-- Whether the context of a sub-group's lanes is being saved where they stand (R302). -/
def State.stopping (s : State) (sid : Nat) : Bool :=
  match SMap.get? s.subs sid with
  | none => false
  | some sg => (((SMap.get? s.groups sg.gid).bind (fun g => s.ctxAt sg.mast g.ctx)).map (fun c => decide (c.st = .saving))).getD false

/-- An MBAR whose arrival is counted is saved as a counted arrival, its word unperformed (R192, R347). -/
def State.countedArrival (s : State) (wid : Nat) (w : Wait) (b : Nat) (phase : BitVec 32) : State :=
  match SMap.get? s.subs w.sid with
  | none => s
  | some sg => (s.updGroup sg.gid (fun g => { g with arrived := g.arrived ++ [(b, w.lanes, phase)] })).redoWait wid w

/-- The answer to an arrival reaches the word that waits for it (R186, R188, R191); while the context is being saved a counted MBAR
waits no further (R192). -/
def State.answerArrival (s : State) (wid : Nat) (phase : BitVec 32) (ok : Bool) : State :=
  match SMap.get? s.waits wid with
  | none => s
  | some w =>
    match w.kind with
    | .barrier r _ keep true .arriving =>
      if !ok then s.endBarrier wid w 7
      else
        (match r, s.stopping w.sid with
         | .mast _ _ b, true => s.countedArrival wid w b phase
         | _, _ => { s with waits := SMap.put s.waits wid { w with kind := .barrier r phase keep true .waiting } })
    | .barrier _ _ _ false .arriving =>
      -- a token's PHASE is the phase in which the arrival was counted; the spec names none for one that was not
      let (p, s1) : BitVec 32 × State := if ok then (phase, s) else (let (x, t) := s.free; (x.setWidth 32, t))
      s1.endWait wid w (some (barToken p (if ok then 0 else 7))) false false 0
    | _ => s

/-- An arrival reaches its counter (R185, R186). -/
def execBarrierArrival (msg : Nat) (s : State) : Host.Outcome State Fault Refusal :=
  .next (match SMap.get? s.msgs msg with
    | some m =>
      match m.body with
      | .barArrive r n expct wait =>
        if !s.firstMsg msg m || !s.barHere r then s
        else
          let s1 := { s with msgs := SMap.del s.msgs msg }.noteBar r wait
          let b := s.bar r
          let ok := match expct, b.expct with | some x, some y => decide (x = y) | _, _ => true
          if ok then
            let s2 := s1.putBar r { b with count := b.count + n, expct := if b.expct.isSome then b.expct else expct }
            ((s2.answerArrival wait b.phase true).judgeBar r).judgePart wait
          else s1.answerArrival wait 0 false
      | _ => s
    | none => s)

/-- The notice of a completed phase reaches the parts that wait for it (R189). -/
def execBarrierCompletionNotice (msg : Nat) (s : State) : Host.Outcome State Fault Refusal :=
  .next (match SMap.get? s.msgs msg with
    | some m =>
      match m.body with
      | .barDone r phase =>
        if !s.firstMsg msg m then s
        else
          let s1 : State := { s with msgs := SMap.del s.msgs msg }
          let parts := s.waits.filter (fun e => match e.2.kind with
            | .barrier k t _ _ .waiting => decide (k = r) && decide (t = phase)
            | _ => false)
          parts.foldl (fun s e => s.judgePart e.1) s1
      | _ => s
    | none => s)

/-- A barrier wait reaches its deadline (R189). -/
def execBarrierWaitTimeout (wait : Nat) (s : State) : Host.Outcome State Fault Refusal := .next (s.judgePart wait)

/-- A withdrawal reaches its counter (R190). -/
def execBarrierWithdrawal (msg : Nat) (s : State) : Host.Outcome State Fault Refusal :=
  .next (match SMap.get? s.msgs msg with
    | some m =>
      match m.body with
      | .barWithdraw r t n wait =>
        if !s.firstMsg msg m || !s.barHere r then s
        else
          let s1 := { s with msgs := SMap.del s.msgs msg }.noteBar r wait
          let b := s.bar r
          let code : Nat := if b.phase ≠ t then 0 else if n ≤ b.count then 2 else 7
          let left := b.count - n
          let s2 := if b.phase ≠ t then s1 else s1.putBar r { b with count := left, expct := if left = 0 then none else b.expct }
          match SMap.get? s2.waits wait with
          | some w => s2.endBarrier wait w code
          | none => s2
      | _ => s
    | none => s)

/-- The barriers that an exit message concerns. -/
def BarRef.all (r : BarRef) : List BarRef :=
  match r with
  | .crew c _ => (List.range 16).map (.crew c)
  | .mast l m _ => (List.range 8).map (.mast l m)
  | .grid l _ => (List.range 4).map (.grid l)

/-- An exit reaches the counters that count it (R185). -/
def execBarrierExit (msg : Nat) (s : State) : Host.Outcome State Fault Refusal :=
  .next (match SMap.get? s.msgs msg with
    | some m =>
      match m.body with
      | .barExit r _ =>
        if s.firstMsg msg m && s.barHere r then r.all.foldl State.judgeBar { s with msgs := SMap.del s.msgs msg } else s
      | _ => s
    | none => s)

/-! ## The barrier instructions (R187) -/

/-- The expected count that an arrival names; the second part tells a count out of range (R186). -/
def expectOf (r : Run) (o : Operand) : Option Nat × Bool :=
  match o with
  | .s _ => let n := r.val false o r.low; (some n, decide (n = 0) || decide (n > 0x1000000))
  | .v _ | .p _ | .k _ | .q _ | .d _ | .zero | .rsv _ => (none, false)

/-- The legality of a barrier word: its positions and the modifier bits that it may set (R187). -/
def barSig (w : FWord) (unused : List Operand) (pos : List Pos) (bits : Nat) : Sig :=
  { Sig.plain unused pos with resv := decide (w.hi ≠ 0) || decide (w.lo.toNat &&& (255 - bits) ≠ 0), crew := true }

/-- A barrier of the issuing group: 0 crew, 1 mast, 2 grid (R185). -/
def State.barRef (s : State) (g : Group) (kind b : Nat) : BarRef :=
  match s.crewOf g with
  | some c => match kind with | 0 => .crew (g.cid.getD 0) b | 1 => .mast c.lid c.mast b | _ => .grid c.lid b
  | none => .crew 0 b

/-- Send an arrival and wait for the counter's answer (R188). -/
def arrive (r : Run) (s : State) (ref : BarRef) (n : Option Nat) (mb : Bool) (dk : Option Word) (st : Operand) : State :=
  let wid := s.nextId
  (r.waitFor s r.act (.barrier ref 0 false mb .arriving) dk none st).send (stnPort r.sg.mast r.sg.stn) (s.barPort ref)
    (.barArrive ref (popCount r.act) n wid)

/-- The legality of BARC and GBARA (R187). -/
def arriveSig (w : FWord) (bits : Nat) : Sig := barSig w [w.b, w.c] [Pos.dst w.dest Acc.sz, Pos.src w.a Acc.sz] bits

/-- BARC and GBARA (R187). -/
def arriveWord (s : State) (w : FWord) (kind bits : Nat) : Host.Outcome State Fault Refusal :=
  issueF s w none (arriveSig w bits) (fun r s =>
    let (n, bad) := expectOf r w.a
    if bad then r.trap s 2 0 0 r.act else arrive r s (s.barRef r.g kind (w.lo.toNat &&& bits)) n false none w.dest)

/-- BARC (R187). -/
def execBarc (w : FWord) (s : State) := arriveWord s w 0 15
/-- GBARA (R187). -/
def execGbara (w : FWord) (s : State) := arriveWord s w 2 3

/-- Wait on a phase (R189). -/
def waitPhase (r : Run) (s : State) (ref : BarRef) (t : BitVec 32) (keep mb : Bool) (dk : Word) (st : Operand) : State :=
  let wid := s.nextId
  (r.waitFor s r.act (.barrier ref t keep mb .waiting) (some dk) none st).judgePart wid

/-- The legality of BARW and GBARW (R189). -/
def phaseSig (w : FWord) (bits : Nat) : Sig :=
  barSig w [w.c] [Pos.dst w.dest Acc.sz, Pos.src w.a Acc.dOnly, Pos.src w.b Acc.sOnly] (bits + 16)

/-- BARW and GBARW (R189). -/
def phaseWord (s : State) (w : FWord) (kind bits : Nat) : Host.Outcome State Fault Refusal :=
  issueF s w none (phaseSig w bits) (fun r s =>
    let tok := r.sval w.b
    if fieldOf tok 0 8 ≠ 0 then r.later s (dstWrites w.dest true 0 7) 0
    else waitPhase r s (s.barRef r.g kind (w.lo.toNat &&& bits)) (tok.extractLsb' 32 32) (w.lo.getLsbD 4) false (r.sval w.a) w.dest)

/-- BARW (R189). -/
def execBarw (w : FWord) (s : State) := phaseWord s w 0 15
/-- GBARW (R189). -/
def execGbarw (w : FWord) (s : State) := phaseWord s w 2 3

/-- The legality of BARX: a grid barrier is one of four (R190). -/
def barxSig (w : FWord) : Sig :=
  let g := barSig w [w.a, w.c] [Pos.dst w.dest Acc.sz, Pos.src w.b Acc.sOnly] 0x2F
  { g with resv := g.resv || (w.lo.getLsbD 5 && decide (w.lo.toNat % 16 > 3)) }

/-- BARX (R190). -/
def execBarx (w : FWord) (s : State) : Host.Outcome State Fault Refusal :=
  let grid := w.lo.getLsbD 5
  issueF s w none (barxSig w) (fun r s =>
    let tok := r.sval w.b
    if fieldOf tok 0 8 ≠ 0 then r.later s (dstWrites w.dest true 0 7) 0
    else
      let ref := s.barRef r.g (if grid then 2 else 0) (w.lo.toNat % 16)
      let wid := s.nextId
      (r.waitFor s r.act (.barrier ref (tok.extractLsb' 32 32) false false .withdrawing) none none w.dest).send
        (stnPort r.sg.mast r.sg.stn) (s.barPort ref) (.barWithdraw ref (tok.extractLsb' 32 32) (popCount r.act) wid))

/-- The legality of MBAR (R191). -/
def mbarSig (w : FWord) : Sig := barSig w [w.c] [Pos.dst w.dest Acc.sz, Pos.src w.a Acc.dOnly, Pos.src w.b Acc.sz] 7

/-- The counted arrivals of a mast barrier that cover some lanes: the lanes of each phase (R192). -/
def Group.arrivedParts (g : Group) (b : Nat) (act : Mask) : List (Mask × BitVec 32) :=
  let mine := g.arrived.filter (fun e => decide (e.1 = b) && decide (e.2.1 &&& act ≠ 0))
  ((mine.map (fun e => e.2.2)).dedup).map (fun p => ((mine.filter (fun e => decide (e.2.2 = p))).foldl (fun m e => m ||| (e.2.1 &&& act)) 0, p))

/-- Lanes that issue again leave the counted arrivals of a barrier. -/
def Group.dropArrived (g : Group) (b : Nat) (act : Mask) : Group :=
  { g with arrived := g.arrived.filterMap (fun e =>
      if e.1 = b then (if e.2.1 &&& ~~~act = 0 then none else some (e.1, e.2.1 &&& ~~~act, e.2.2)) else some e) }

/-- Some lanes of an issue set. -/
def Run.only (r : Run) (m : Mask) : Run := { r with set := m, act := m }

/-- MBAR (R191); lanes whose arrival was counted before the context was saved wait on its phase and arrive no second time (R192). -/
def execMbar (w : FWord) (s : State) : Host.Outcome State Fault Refusal :=
  issueF s w none (mbarSig w) (fun r s =>
    let (n, bad) := expectOf r w.b
    let b := w.lo.toNat % 8
    let ref := s.barRef r.g 1 b
    if bad then r.trap s 2 0 0 r.act
    else
      let parts := r.g.arrivedParts b r.act
      if parts = [] then arrive r s ref n true (some (r.sval w.a)) w.dest
      else
        let known := parts.foldl (fun m e => m ||| e.1) 0
        let rest : Run := { r with set := r.set &&& ~~~known, act := r.act &&& ~~~known }
        let s1 := parts.foldl (fun s e => waitPhase (r.only e.1) s ref e.2 false true (r.sval w.a) w.dest)
          (s.updGroup r.gid (fun g => g.dropArrived b r.act))
        if rest.set = 0 then s1 else if rest.act = 0 then rest.done s1 else arrive rest s1 ref n true (some (r.sval w.a)) w.dest)

/-! ## Crew queues (R193 to R195) -/

/-- A queue's descriptor (R193). -/
structure QDesc where
  head  : Nat
  tail  : Nat
  slots : Nat
  base  : Nat
  allow : Nat
  bad   : Bool
  deriving DecidableEq, Repr

/-- The local offset of a queue's descriptor (R193). -/
def qdescOff (q : Nat) : Nat := 0x3FF00 + 32 * q

/-- Read a queue's descriptor (R193). -/
def State.qdesc (s : State) (c : Crew) (q : Nat) : QDesc :=
  let w : Nat → Word := fun i => s.word (localCell c.mast c.stn (qdescOff q + 8 * i))
  let slots := fieldOf (w 1) 32 16
  let base := fieldOf (w 1) 0 20
  let stop := base + 32 * slots
  { head := fieldOf (w 0) 32 32, tail := fieldOf (w 0) 0 32, slots := slots, base := base, allow := fieldOf (w 2) 0 16,
    bad := decide (slots = 0) || decide (slots > 4096) || decide (fieldOf (w 1) 48 16 ≠ 0) || decide (fieldOf (w 1) 20 12 ≠ 0) ||
      decide (fieldOf (w 2) 16 48 ≠ 0) || (w 3 != 0) || decide (stop > 0x140000) || (decide (base < 0x40000) && decide (stop > 0x3FF00)) }

/-- Entries in a queue. -/
def QDesc.fill (d : QDesc) : Nat := (d.tail + 2 ^ 32 - d.head) % 2 ^ 32

/-- The local offset of an entry (R193). -/
def QDesc.entry (d : QDesc) (e : Nat) : Nat := d.base + 32 * (e % d.slots)

/-- Write HEAD and TAIL. -/
def State.putEnds (s : State) (c : Crew) (q head tail : Nat) : State :=
  s.store (localCell c.mast c.stn (qdescOff q)) (leBytes 4 (tail % 2 ^ 32) ++ leBytes 4 (head % 2 ^ 32))

/-- OUT of a group and queue changes (R193). -/
def State.addOut (s : State) (gid q : Nat) (x : BitVec 16) : State :=
  s.updGroup gid (fun g => { g with qout := RMap.set g.qout q (RMap.get g.qout q + x) })

/-- What one try of a queue operation gives (R194). -/
inductive QTry where
  | done (s : State) (code : Nat) (got : List Word)
  | wait

/-- The group recorded beside an entry, whose place in the ring is given by its local offset (R193). -/
def Crew.setPusher (c : Crew) (q off gid : Nat) : Crew :=
  { c with pushers := c.pushers.filter (fun e => !(decide (e.1 = q) && decide (e.2.1 = off))) ++ [(q, off, gid)] }

/-- Try a push by a group (R194); an uncorrectable sector gives status 7 (R327). -/
def State.tryPush (s : State) (cid : Nat) (c : Crew) (gid : Nat) (g : Group) (q : Nat) (entry : List Word) : QTry :=
  let desc := localCell c.mast c.stn (qdescOff q)
  if s.badAt desc then .done (s.countUe desc) 7 []
  else
    let d := s.qdesc c q
    let out := (RMap.get g.qout q).toNat
    if d.bad then .done s 7 []
    else if d.fill < d.slots && (decide (d.allow = 0) || decide (out < d.allow)) then
      let s1 := s.store (localCell c.mast c.stn (d.entry d.tail)) (entry.flatMap (fun w => leBytes 8 w.toNat))
      let s2 := (s1.putEnds c q d.head (d.tail + 1)).updCrew cid (fun c => c.setPusher q (d.entry d.tail) gid)
      .done (s2.addOut gid q 1) 0 []
    else .wait

/-- Try a pop (R194). -/
def State.tryPop (s : State) (c : Crew) (q : Nat) : QTry :=
  let desc := localCell c.mast c.stn (qdescOff q)
  if s.badAt desc then .done (s.countUe desc) 7 []
  else
    let d := s.qdesc c q
    if d.bad then .done s 7 []
    else if d.fill = 0 then .wait
    else
      let cell := localCell c.mast c.stn (d.entry d.head)
      if s.badAt cell then .done (s.countUe cell) 7 []
      else
        let got := (List.range 4).map (fun i => s.word (cell + 8 * i))
        let s1 := (s.checkRead [sectorOf cell]).putEnds c q (d.head + 1) d.tail
        let s2 := match c.pushers.find? (fun e => decide (e.1 = q) && decide (e.2.1 = d.entry d.head)) with
          | some e => s1.addOut e.2.2 q 0xFFFF
          | none => s1
        .done s2 0 got

/-- One try of a queue operation by the unit of the crew's station (R194); while no path leads there it gets no answer. -/
def State.tryQueue (s : State) (r : Run) (k : WaitKind) : QTry :=
  match r.g.cid, s.crewOf r.g with
  | some cid, some c =>
    if !s.linked (r.sg.mast / 16) (c.mast / 16) then .wait
    else match k with
    | .queuePush q entry => s.tryPush cid c r.gid r.g q entry
    | .queuePop q _ => s.tryPop c q
    | _ => .wait
  | _, _ => .wait

/-- The scalars that a pop writes. -/
def popWrites (k : WaitKind) (got : List Word) : List (Reg × Word) :=
  match k with
  | .queuePop _ first => got.zipIdx.map (fun e => (.s (first + e.2), e.1))
  | _ => []

/-- The entry of a journal for an operation that a queue unit serves (R338). -/
def State.noteQueue (s : State) (r : Run) (k : WaitKind) : State :=
  match s.crewOf r.g, k with
  | some c, .queuePush q _ => s.noteAt c.mast 6 r.g.ctx (BitVec.ofNat 64 (0x100 * c.stn + 0x10 + q)) (s.requester r.gid r.low) 0
  | some c, .queuePop q _ => s.noteAt c.mast 6 r.g.ctx (BitVec.ofNat 64 (0x100 * c.stn + 0x18 + q)) (s.requester r.gid r.low) 0
  | _, _ => s

/-- A waiting queue operation tries again, then its deadline is judged (R194). -/
def State.judgeQueue (s : State) (wid : Nat) (expire : Bool) : State :=
  match SMap.get? s.waits wid with
  | none => s
  | some w =>
    match s.runOf w with
    | none => s
    | some r =>
      let late := fun (s : State) =>
        if expire && decide ((w.dk.getD 0).toNat ≤ r.sg.gclk.toNat) then s.endWait wid w (some 1) true false (w.dk.getD 0) else s
      match s.tryQueue r w.kind with
      | .done s0 code got =>
        let s1 := s0.noteQueue r w.kind
        let s2 := s1.updSub w.sid (fun sg => (popWrites w.kind got).foldl (fun sg x => sg.writeNow x.1 x.2) sg)
        s2.endWait wid w (some (BitVec.ofNat 64 code)) false (decide (code = 0)) (w.dk.getD 0)
      | .wait => late s

/-- The queue that a wait waits for and its direction. -/
def queueOf : WaitKind → Option (Nat × Bool)
  | .queuePush q _ => some (q, true)
  | .queuePop q _ => some (q, false)
  | _ => none

/-- Whether a waiter is the first of its queue and direction: they are served in the order in which they began to wait (R195). -/
def State.firstWaiter (s : State) (wid : Nat) : Bool :=
  match SMap.get? s.waits wid with
  | none => false
  | some w =>
    let crew := fun (w : Wait) => ((SMap.get? s.subs w.sid).bind (fun sg => SMap.get? s.groups sg.gid)).bind (fun g => g.cid)
    s.waits.all (fun e => decide (e.1 ≥ wid) || decide (queueOf e.2.kind ≠ queueOf w.kind) || decide (crew e.2 ≠ crew w))

/-- A waiting push or pop tries again when its queue has changed (R195). -/
def execQueueRetry (wait : Nat) (s : State) : Host.Outcome State Fault Refusal :=
  .next (match (SMap.get? s.waits wait).bind (fun w => queueOf w.kind) with
    | some _ => if s.firstWaiter wait then s.judgeQueue wait false else s
    | none => s)

/-- A queue operation whose turn has not come meets its deadline (R194). -/
def State.queueLate (s : State) (wid : Nat) : State :=
  match SMap.get? s.waits wid with
  | some w =>
    (match SMap.get? s.subs w.sid with
     | some sg => if (w.dk.getD 0).toNat ≤ sg.gclk.toNat then s.endWait wid w (some 1) true false (w.dk.getD 0) else s
     | none => s)
  | none => s

/-- A waiting push or pop reaches its deadline (R194). -/
def execQueueWaitTimeout (wait : Nat) (s : State) : Host.Outcome State Fault Refusal :=
  .next (match SMap.get? s.waits wait with
    | none => s
    | some w =>
      if (queueOf w.kind).isNone then s
      else if s.firstWaiter wait then s.judgeQueue wait true
      else s.queueLate wait)

/-- The legality of a queue word (R194). -/
def queueSig (w : FWord) (unused : List Operand) (pos : List Pos) (pop : Bool) (bits : Nat) : Sig :=
  let run : Pos := { (if pop then (Pos.dst w.b Acc.sOnly) else (Pos.src w.b Acc.sOnly)) with srun := 4 }
  barSig w (w.c :: unused) (Pos.dst w.dest Acc.sz :: run :: pos) bits

/-- The scalar that an operand names. -/
def sNum : Operand → Nat
  | .s n => n.toNat
  | .v _ | .p _ | .k _ | .q _ | .d _ | .zero | .rsv _ => 0

/-- What a push or pop waits with (R194). -/
def queueKind (r : Run) (w : FWord) (pop : Bool) : WaitKind :=
  if pop then .queuePop (w.lo.toNat % 8) (sNum w.b) else .queuePush (w.lo.toNat % 8) ((List.range 4).map (descAt r w.b))

/-- QPUSH and QPOP: one try, then a wait (R194). -/
def queueWord (s : State) (w : FWord) (pop : Bool) : Host.Outcome State Fault Refusal :=
  issueF s w none (queueSig w [] [Pos.src w.a Acc.dOnly] pop 7) (fun r s =>
    let wid := s.nextId
    let s1 := r.waitFor s r.act (queueKind r w pop) (some (r.sval w.a)) none w.dest
    if s1.firstWaiter wid then s1.judgeQueue wid true else s1.queueLate wid)

/-- QPUSH (R194). -/
def execQpush (w : FWord) (s : State) := queueWord s w false
/-- QPOP (R194). -/
def execQpop (w : FWord) (s : State) := queueWord s w true

/-- QTRY: one try, BUSY when it would wait (R194). -/
def tryWord (s : State) (w : FWord) (pop : Bool) : Host.Outcome State Fault Refusal :=
  issueF s w none (queueSig w [w.a] [] pop 15) (fun r s =>
    let k := queueKind r w pop
    match s.tryQueue r k with
    | .done s1 code got => r.later (s1.noteQueue r k) (popWrites k got ++ dstWrites w.dest true 0 code) 0
    | .wait => r.later s (dstWrites w.dest true 0 4) 0)

/-- QTRY.PUSH (R194). -/
def execQtryPush (w : FWord) (s : State) := tryWord s w false
/-- QTRY.POP (R194). -/
def execQtryPop (w : FWord) (s : State) := tryWord s w true

end Sys2Proof.Machine
end

