-- ==== Sys2Proof/Machine/System.lean ====
section
/-! DEFINITION. Traps by instruction, trap return, special registers, translation and clock words, HALT and DSTEP (spec 08,
R199 to R206; spec 01, R32 to R36; spec 15, R292). -/

namespace Sys2Proof.Machine

open Sys2Proof

/-! ## TRAP and settling points (R199, R57) -/

/-- The legality of TRAP in F form (R199). -/
def trapSig (w : FWord) : Sig := zeroModSig w [w.dest, w.a, w.c] [Pos.src w.b Acc.sOnly]

/-- The legality of TRAP in I form (R199). -/
def trapISig (w : IWord) : Sig := { Sig.plain [w.dest, w.a] [] with resv := iResvX w || decide ((iMods w).getD 0 ≠ 0) }

/-- TRAP in F form (R199). -/
def execTrap (w : FWord) (s : State) : Host.Outcome State Fault Refusal :=
  issueF s w none (trapSig w) (fun r s =>
    r.trapOf s r.act 0x0F 0 (r.sval w.b) r.act true)

/-- TRAP in I form: the code is the immediate (R199). -/
def execTrapI (w : IWord) (s : State) : Host.Outcome State Fault Refusal :=
  issueI s w (trapISig w) (fun r s =>
    r.trapOf s r.act 0x0F 0 (BitVec.ofNat 64 (iIntImm w false 64)) r.act true)

/-- A settling point: the word waits until every earlier word of the group has written its results, which its issue set then
sees (R57, R72). -/
def settled (r : Run) (s : State) (go : State → State) : State :=
  let ids := r.g.outst.map (fun o => o.id)
  if ids = [] then go (s.settlePoint r) else r.waitFor s r.set (.scoreboard ids) none (some r.sg.bound) .zero

/-- TFENCE (R199). -/
def execTfence (w : FWord) (s : State) : Host.Outcome State Fault Refusal :=
  issueF s w none (bareSig w) (fun r s =>
    settled r s (fun s =>
      let hit := r.sg.trapFlags &&& 0x3F
      if hit = 0 then r.done s else r.trapOf s r.act 0x0E 0 (hit.setWidth 64) r.act true))

/-! ## Reading memory on a system word's behalf -/

/-- The outcome of reading words for a system word (R118, R122, R327). -/
inductive SysRead where
  | words (ws : List Word) (cells : List Nat)
  | hold (va : Word)
  | path                               -- no shroud path to its home now
  | refused (detail : BitVec 8)
  | bounds
  | bad (va : Word) (cell : Nat)
  deriving DecidableEq, Repr

/-- Words from an address on, each read at its home as a thread-path read of the context. -/
def State.sysRead (s : State) (ctx : Nat) (c : Ctx) (va : Word) : Nat → SysRead
  | 0 => .words [] []
  | n + 1 =>
    match s.home c va with
    | .none d => .refused d
    | .dram _ m | .window _ m _ _ =>
      if s.fencedAt (s.direct c va) then .refused 2
      else if !s.linked s.dev (m / 16) then .path
      else match s.placeOf ctx (s.direct c va) 0 with
        | .bounds | .walkEnd => .bounds
        | .hold => .hold (s.direct c va)
        | .cell p =>
          if s.badAt p then .bad (BitVec.ofNat 64 (va.toNat / 32 * 32)) p
          else match State.sysRead s ctx c (va + 8) n with
            | .words ws cs => .words (s.word p :: ws) (p :: cs)
            | r => r

/-- The lanes of a system word wait for a page; the word issues again (R122, R253). -/
def Run.waitPage (r : Run) (s : State) (va : Word) (acc : BitVec 2) : State :=
  let (s1, _, x) := s.tryXl (XlReq.mk' r.g.ctx va acc)
  r.waitFor s1 r.act (.page x) none (some r.sg.bound) .zero

/-- The lanes of a system word wait while no path leads to a home; the word issues again (R322). -/
def Run.waitPath (r : Run) (s : State) (va : Word) (acc : BitVec 2) : State :=
  r.waitFor s r.act (.page (XlReq.mk' r.g.ctx va acc)) none (some r.sg.bound) .zero

/-- What a system word does with words that it read, or with the failure to read them. -/
def Run.withWords (r : Run) (s : State) (va : Word) (n : Nat) (go : List Word → State → State) : State :=
  match s.ctxOf r.g with
  | none => r.trap s 8 1 va r.act
  | some c =>
    match s.sysRead r.g.ctx c va n with
    | .words ws cells => go ws (s.checkRead ((cells.map sectorOf).dedup))
    | .hold v => r.waitPage s v 0
    | .path => r.waitPath s (s.direct c va) 0
    | .refused d => r.trap s 8 d va r.act
    | .bounds => r.trap s 9 0 (BitVec.ofNat 64 (fieldOf va 0 21)) r.act
    | .bad v cell => r.trap (s.countUe cell) 0x0B 0 v r.act

/-! ## TRET (R200) -/

/-- A trap frame as TRET reads it (R197). -/
structure Frame where
  psv   : Bool
  amask : Mask
  rmask : Mask
  hmask : Mask
  prev  : Word
  save  : List Word
  rpc   : List Word
  deriving DecidableEq, Repr

/-- The fields of a frame's words. -/
def Frame.ofWords (ws : List Word) : Frame :=
  { psv := (ws.getD 0 0).getLsbD 24, amask := ws.getD 6 0, rmask := ws.getD 7 0, hmask := ws.getD 8 0, prev := ws.getD 9 0,
    save := (ws.drop 10).take 4, rpc := ws.drop 16 }

/-- Held lanes that a handler moves leave the hold with a copy of their own; they remain members (R110, R200). -/
def State.leaveHold (s : State) (tid : Nat) (t : Tie) (lanes : Mask) (pc : Nat → Word) : State :=
  match t.sid with
  | none => s
  | some sid =>
    match SMap.get? s.subs sid with
    | none => s
    | some sg =>
      let now := (s.stn t.mast t.stn).cycles
      let go := fun (g : SubGroup) => { g with lanes := g.lanes.map (fun (e : Nat × Lane) =>
        if lanes.getLsbD e.1 then (e.1, { e.2 with pc := pc e.1, st := .ready, readyAt := now, since := now, starve := 0 }) else e) }
      let rest := sg.keepLanes (~~~lanes)
      if rest.lanes.isEmpty then
        let s1 := s.updSub sid go
        { s1 with ties := SMap.put s1.ties tid { t with held := 0, sid := none } }
      else
        let (i, s1) := s.fresh
        { s1 with
          subs := SMap.put (SMap.put s1.subs sid rest) i (go (sg.keepLanes lanes))
          ties := SMap.put s1.ties tid { t with held := t.held &&& ~~~lanes } }

/-- Held lanes of a group whose frame entry is not their meeting address leave the hold, wherever they are held (R200). -/
def State.freeHeld (s : State) (gid : Nat) (f : Frame) : State :=
  (s.ties.filter (fun e => decide (e.2.gid = gid))).foldl (fun s e =>
    let lanes := maskOf ((lanesOf (e.2.held &&& f.hmask)).filter (fun l => decide (f.rpc.getD l 0 ≠ e.2.m)))
    if lanes = 0 then s
    else match SMap.get? s.ties e.1 with
      | some t => s.leaveHold e.1 t lanes (fun l => f.rpc.getD l 0)
      | none => s) s

/-- The number of the frame of a group at an address. -/
def State.frameNo (s : State) (g : Group) (va : Word) : Option Nat :=
  (s.crewOf g).bind (fun cr => (List.range 3).find? (fun f => decide (s.frameOf g cr f = some va)))

/-- What a trap return does to its sub-group: SAVE, the status, the frame chain (R200). -/
def SubGroup.leaveFrame (sg : SubGroup) (f : Frame) : SubGroup :=
  let sg1 := f.save.zipIdx.foldl (fun sg e => sg.writeNow (.s (28 + e.2)) e.1) sg
  { sg1 with ctl := if f.psv then sg.ctl ||| 4 else sg.ctl &&& ~~~4#64, tframe := f.prev, depth := sg.depth - 1 }

/-- The issue set that holds the lane that DSTEP named takes one step (R206). -/
def State.armStep (s : State) (sid : Nat) : State :=
  match SMap.get? s.subs sid with
  | none => s
  | some sg =>
    match sg.armed with
    | none => s
    | some l =>
      let s1 := s.updSub sid (fun sg => { sg with armed := none })
      match SMap.get? sg.lanes l with
      | some x =>
        s1.updSub sid (fun g => g.mapLanes (g.laneMask (fun y => decide (y.st = .ready) && decide (y.pc = x.pc))) (fun y => { y with step := true }))
      | none => s1

/-- The effect of a trap return whose checks hold (R200). -/
def Run.returnTo (r : Run) (s : State) (f : Frame) : State :=
  let res := r.act &&& f.rmask
  let ends := r.act &&& ~~~f.rmask
  let s1 := s.freeHeld r.gid f
  let s2 := s1.updGroup r.gid (fun g => match s.frameNo r.g r.sg.tframe with
    | some n => { g with frames := SMap.del g.frames n }
    | none => g)
  let s3 := s2.updSub r.sid (fun sg => (sg.leaveFrame f).settle r.act)
  let s4 := s3.advance r.sid (r.set &&& ~~~ends) r.stall r.len (fun l => if res.getLsbD l then f.rpc.getD l 0 else r.pc + 8) r.pc r.iw r.xw
  let s5 := if ends = 0 then s4 else s4.endLanes r.sid ends
  (s5.armStep r.sid).holdReady r.sid

/-- The lanes of a mask whose resume PC is misaligned (R200). -/
def Frame.odd (f : Frame) (m : Mask) : Mask := maskOf ((lanesOf m).filter (fun l => decide ((f.rpc.getD l 0).toNat % 8 ≠ 0)))

/-- The resume PCs that user code may not have (R200): the check is of every entry of RPC, as the rule says "an RPC". -/
def Frame.high (f : Frame) : Mask := maskOf ((List.range 64).filter (fun l => (f.rpc.getD l 0).getLsbD 63 && !f.psv))

/-- The checks of TRET, then its effect (R200). -/
def Run.returnFrom (r : Run) (s : State) (f : Frame) : State :=
  let odd := f.odd (r.act &&& f.rmask)
  let high := f.high
  if r.act ≠ f.amask &&& ~~~r.g.ended then r.trap s 0x0C 3 0 r.act
  else if odd ≠ 0 then r.trap s 7 0 (f.rpc.getD (lowest odd) 0) odd
  else if high ≠ 0 then r.trap s 3 0 (f.rpc.getD (lowest high) 0) high
  else r.returnTo s f

/-- The legality of a privileged word with no operands. -/
def privSig (w : FWord) : Sig := { bareSig w with priv := true }

/-- The legality of TRET (R200): it writes s28 to s31, so it waits for results outstanding to them (R73). -/
def tretSig (w : FWord) : Sig := { privSig w with wrs := [.s 28, .s 29, .s 30, .s 31] }

/-- TRET (R200). -/
def execTret (w : FWord) (s : State) : Host.Outcome State Fault Refusal :=
  issueF s w none (tretSig w) (fun r s =>
    if r.sg.tframe = 0 then r.trap s 1 4 0 r.act
    else r.withWords s r.sg.tframe 80 (fun ws s => r.returnFrom s (Frame.ofWords ws)))

/-! ## Special registers (R32 to R36, R201) -/

/-- The last selector (R32). -/
def lastSel : Nat := 0x14

/-- Whether a special register has 64 bits (R32). -/
def wideSel (sel : Nat) : Bool :=
  [0x08, 0x09, 0x0B, 0x0C, 0x0E, 0x11, 0x12, 0x13, 0x14].contains sel

/-- The value of a special register in a lane (R32). -/
def specialReg (s : State) (r : Run) (sel lane : Nat) : Word :=
  let cr := s.crewOf r.g
  match sel with
  | 0x00 => BitVec.ofNat 64 lane
  | 0x01 => BitVec.ofNat 64 r.g.width
  | 0x02 => BitVec.ofNat 64 r.g.wins
  | 0x03 => BitVec.ofNat 64 r.g.gix
  | 0x04 => BitVec.ofNat 64 ((cr.map (fun c => c.cix)).getD 0)
  | 0x05 => BitVec.ofNat 64 r.sg.stn
  | 0x06 => BitVec.ofNat 64 (r.sg.mast % 16)
  | 0x07 => BitVec.ofNat 64 (s.devNum (r.sg.mast / 16))
  | 0x08 => r.pc
  | 0x09 => ((SMap.get? r.sg.lanes lane).map (fun l => l.meet)).getD 0
  | 0x0A => r.sg.rejoin.setWidth 64
  | 0x0B => r.sg.gclk
  | 0x0C | 0x0D | 0x11 => r.reg lane (.x sel)
  | 0x0E => r.sg.tframe
  | 0x0F => (r.sg.aflags &&& 0x3F).setWidth 64
  | 0x10 => r.reg lane (.x sel) &&& 0x3F
  | 0x12 => r.reg lane (.x sel) &&& 7
  | 0x13 => (cr.map (fun c => c.lseg)).getD 0
  | _ => r.sg.pseg

/-- The special registers that are read and written with a latency (R201). -/
def isSpecial (sel : Nat) : Bool := [0x0C, 0x0D, 0x10, 0x11, 0x12].contains sel

/-- The registers that a word naming a selector reads or writes besides its operands. -/
def specialRegs (sel : Nat) : List Reg := if isSpecial sel then [.x sel] else []

/-- What a write of a special register writes, by the access codes of its fields; supervisor writes reach PRIV fields (R32 to
R34). -/
def SubGroup.specialWrites (sg : SubGroup) (sel : Nat) (priv : Bool) (x : Word) : List (Reg × Word) :=
  match sel with
  | 0x0C | 0x11 => [(.x sel, x)]
  | 0x0D => if priv then [(.x sel, x)] else []
  | 0x10 => [(.x sel, x &&& 0x3F)]
  | 0x12 => if priv then [(.x sel, (sg.ctl &&& 4) ||| (x &&& 3))] else []
  | _ => []

/-- The selector of MOVS (R201). -/
def selOf (w : FWord) : Nat := w.lo.toNat

/-- The legality of a read (R201). -/
def movsReadSig (w : FWord) (priv : Bool) : Sig :=
  { Sig.plain [w.a, w.b, w.c] [(Pos.dst w.dest Acc.vs).wide (wideSel (selOf w))] with
    resv := decide (w.hi.toNat / 2 ≠ 0), sel := decide (selOf w > lastSel), priv := priv, crew := decide (selOf w = 0x13),
    rds := specialRegs (selOf w) }

/-- A read of a special register (R201): latency 2 to a scalar, but for %aflags, which settles first. -/
def readSpecial (s : State) (w : FWord) (priv : Bool) : Host.Outcome State Fault Refusal :=
  let sel := selOf w
  issueF s w none (movsReadSig w priv) (fun r s0 =>
    let (clk, s) : Word × State := if sel = 0x0B then s0.clockRead r.sid r.act r.sg.gclk else (0, s0)
    let val := fun (l : Nat) => if sel = 0x0B then clk else specialReg s r sel l
    let ws := (r.workLanes w.dest).flatMap (fun l => dstWrites w.dest (wideSel sel) l (val l).toNat)
    if sel = 0x0F then settled r s (fun s => r.later s ws 0)
    else if isS w.dest then r.fixed s 2 ws 0
    else r.later s ws 0)

/-- MOVS, reading (R201). -/
def execMovsRead (w : FWord) (s : State) := readSpecial s w false
/-- MOVSP, reading (R201). -/
def execMovspRead (w : FWord) (s : State) := readSpecial s w true

/-- The legality of a write (R201). -/
def movsWriteSig (w : FWord) (priv : Bool) : Sig :=
  let sel := selOf w
  { Sig.plain [w.dest, w.b, w.c] [Pos.src w.a Acc.vsz] with
    resv := decide (w.hi.toNat / 2 ≠ 0), sel := decide (sel > lastSel) || (priv && (decide (sel = 0x13) || decide (sel = 0x14))), priv := priv,
    wrs := specialRegs sel }

/-- A write of a special register, of latency 2 (R201): a v register gives the lowest active lane's 32 bits (log entry 8). -/
def writeSpecialWord (s : State) (w : FWord) (priv : Bool) : Host.Outcome State Fault Refusal :=
  let sel := selOf w
  issueF s w none (movsWriteSig w priv) (fun r s =>
    let x := BitVec.ofNat 64 (r.val (isS w.a) w.a r.low)
    if !priv && (decide (sel = 0x0D) || decide (sel = 0x12)) then r.trap s 3 0 0 r.act
    else if sel = 0x0F then settled r s (fun s => r.done (s.updSub r.sid (fun sg => sg.clearFlags x)))
    else r.fixed s 2 (r.sg.specialWrites sel priv x) 0)

/-- MOVS, writing (R201). -/
def execMovsWrite (w : FWord) (s : State) := writeSpecialWord s w false
/-- MOVSP, writing (R201). -/
def execMovspWrite (w : FWord) (s : State) := writeSpecialWord s w true

/-! ## Segments (R202) -/

/-- Whether a value breaks the layout of LSEG (R35). -/
def badLseg (x : Word) : Bool := decide (fieldOf x 21 43 ≠ 0) || decide (fieldOf x 0 5 ≠ 0)

/-- Whether a value breaks the layout of PSEG, its limits included (R36). -/
def badPseg (x : Word) : Bool :=
  decide (fieldOf x 53 11 ≠ 0) || decide (fieldOf x 21 11 ≠ 0) || decide (fieldOf x 0 5 ≠ 0) ||
  decide (fieldOf x 32 21 % 32 ≠ 0) || decide (fieldOf x 32 21 > 0x100000)

/-- The legality of SEGLD (R202). -/
def segldSig (w : FWord) : Sig :=
  { Sig.plain [w.dest, w.b, w.c] [Pos.src w.a Acc.sOnly] with resv := decide (w.hi ≠ 0) || decide (w.lo.toNat > 1), priv := true }

/-- The legality of SEGLD.L (R202). -/
def segldLSig (w : FWord) : Sig := { segldSig w with crew := true }

/-- A crew's LSEG is loaded at its station (R202). -/
def State.loadLseg (s : State) (cid : Nat) (x : Word) : State := s.updCrew cid (fun c => { c with lseg := x })

/-- A word asks units of other devices, and its lanes wait for their answers, which an implicit bound limits (R253, R254): each is a
place and what is asked of it by the word's wait. -/
def Run.askUnits (r : Run) (s : State) (asks : List (Nat × (Nat → MsgBody))) : State :=
  let wid := s.nextId
  asks.foldl (fun s a => s.send (stnPort r.sg.mast r.sg.stn) a.1 (a.2 wid)) (r.waitFor s r.act (.sent asks.length) none (some r.sg.bound) .zero)

/-- SEGLD.L: performed at the crew's station, at once where that is on this device, and else when the request reaches it (R202). -/
def execSegldL (w : FWord) (s : State) : Host.Outcome State Fault Refusal :=
  issueF s w none (segldLSig w) (fun r s =>
    let x := r.sval w.a
    if badLseg x then r.trap s 2 0 0 r.act
    else match r.g.cid, s.crewOf r.g with
      | some cid, some c =>
        if s.own c.mast then r.done (s.loadLseg cid x) else r.askUnits s [(stnPort c.mast c.stn, fun wid => .segld cid x wid)]
      | _, _ => r.done s)

/-- SEGLD.P (R202). -/
def execSegldP (w : FWord) (s : State) : Host.Outcome State Fault Refusal :=
  issueF s w none (segldSig w) (fun r s =>
    let x := r.sval w.a
    if badPseg x then r.trap s 2 0 0 r.act else r.done (s.updSub r.sid (fun sg => { sg with pseg := x })))

/-! ## The TLB (R203, R292) -/

/-- The page-aligned direct address of an entry (R290). -/
def pageBase (ent va : Word) : Word := BitVec.ofNat 64 (va.toNat / 2 ^ entBits ent * 2 ^ entBits ent)

/-- The entries that a TLB holds (R290). -/
def tlbSize : Nat := 16384

/-- Insert an entry, replacing every entry of the context whose page overlaps it (R292, order 6). -/
def tlbInsert (t : List TlbEnt) (ctx : Nat) (va ent : Word) : List TlbEnt :=
  let base := pageBase ent va
  let n := entBits ent
  let keep := t.filter (fun e => !(decide (e.ctx = ctx) &&
    decide (e.va.toNat / 2 ^ (max n (entBits e.ent)) = base.toNat / 2 ^ (max n (entBits e.ent)))))
  ({ ctx := ctx, va := base, ent := ent } :: keep).take tlbSize

/-- Whether every frame of a page carries a context's tag (R292, order 4). -/
def State.pageOwned (s : State) (m ctx : Nat) (ent : Word) : Bool :=
  let f := fieldOf ent 8 36 / 2 ^ 16
  (List.range (2 ^ (entBits ent - 16))).all (fun i => s.frameTag m (f + i) = BitVec.ofNat 16 ctx)

/-- The walk that a group runs. -/
def State.walkOf (s : State) (gid : Nat) (m : Nat) : Option Walk :=
  match (s.mast m).walk with
  | some w => if w.gid = gid then some w else none
  | none => none

/-- Record the outcome of a TLBF for the walked page (R291, R292). -/
def State.walkOut (s : State) (gid m : Nat) (va ent : Word) (out : Option (BitVec 8)) : State :=
  s.updMast m (fun t => { t with walk := t.walk.map (fun w =>
    if w.gid = gid && decide (w.req.va.toNat / 2 ^ entBits ent = va.toNat / 2 ^ entBits ent) then { w with out := out } else w) })

/-- The legality of TLBF (R203). -/
def tlbfSig (w : FWord) : Sig := { zeroModSig w [w.dest, w.c] [Pos.src w.a Acc.sOnly, Pos.src w.b Acc.sOnly] with priv := true }

/-- TLBF (R203, R292). -/
def execTlbf (w : FWord) (s : State) : Host.Outcome State Fault Refusal :=
  issueF s w none (tlbfSig w) (fun r s =>
    let va := r.sval w.a
    let ent := r.sval w.b
    let m := r.sg.mast
    let va' := s.directOf r.g va
    let home := (s.ctxOf r.g).map (fun c => s.home c va)
    let here := match home with
      | some (.dram _ k) => decide (k = m)
      | some (.window _ _ _ _) | some (.none _) | none => false
    let walk := s.walkOf r.gid m
    let strict := match walk with
      | some k => decide (fieldOf ent 0 2 ≥ 2) && (!ent.getLsbD 4 || (decide (k.req.kind = 1) && ent.getLsbD 2 && !ent.getLsbD 5))
      | none => false
    if !here || badEntry ent || strict then r.trap s 2 0 0 r.act
    else if fieldOf ent 0 2 = 0 then r.done (s.walkOut r.gid m va' ent (some 1))
    else if !s.pageOwned m r.g.ctx ent then r.done (s.walkOut r.gid m va' ent (some 4))
    else if (walk.map (fun k => k.again)).getD false then r.done (s.walkOut r.gid m va' ent (some 0xFF))
    else r.done ((s.updMast m (fun t => { t with tlb := tlbInsert t.tlb r.g.ctx va' ent })).walkOut r.gid m va' ent (some 0)))

/-- Remove the entries of a mast's TLB that a test names; a running walk that the test covers starts again (R292, order 5). -/
def Mast.drop (t : Mast) (f : TlbEnt → Bool) (g : WalkReq → Bool) : Mast :=
  { t with tlb := t.tlb.filter (fun e => !f e), walk := t.walk.map (fun w => if g w.req then { w with again := true } else w) }

/-- Remove code sectors that a test names, by station, from the instruction stores (R214). -/
def State.dropCode (s : State) (f : Nat → CodeSector → Bool) : State :=
  { s with stns := s.stns.map (fun (e : Nat × Station) => (e.1, { e.2 with store := e.2.store.filter (fun c => !f e.1 c) })) }

/-- Remove code sectors that a test names from the instruction stores of the device in place (R214). -/
def State.dropOwnCode (s : State) (f : CodeSector → Bool) : State := s.dropCode (fun k c => decide (k / 1024 = s.dev) && f c)

/-- The legality of TLBI (R203). -/
def tlbiSig (w : FWord) (code : Nat) (unused : List Operand) (pos : List Pos) : Sig :=
  { Sig.plain unused pos with resv := decide (w.hi ≠ 0) || decide (w.lo.toNat ≠ code), priv := true }

/-- The legality of TLBI.VA (R203): its entry names no class for source a, so R66 gives v, s or 0x7C. -/
def tlbiVaSig (w : FWord) : Sig := tlbiSig w 0 [w.dest, w.b, w.c] [(Pos.src w.a Acc.vsz).wide true]

/-- A page's TLB entries go from its home mast and its code sectors from every station (R203, R214). The page is that of the
entry found; where there is none it may be a page of 2 MiB. -/
def State.dropPage (s : State) (ctx : Nat) (va : Word) : State :=
  let m := s.vaMast va
  let n := (((s.mast m).tlb.find? (fun e => e.hits ctx va)).map (fun e => entBits e.ent)).getD 21
  let in' := fun (k : Nat) (a : Word) => decide (k = ctx) && decide (a.toNat / 2 ^ n = va.toNat / 2 ^ n)
  let direct := fun (k : Nat) (a : Word) =>
    let t := s.enter (k / 1024)
    match SMap.get? t.ctxs ctx with | some c => t.direct c a | none => a
  (s.updMast m (fun t => t.drop (fun e => e.hits ctx va) (fun q => in' q.ctx q.va))).dropCode (fun k c => in' c.ctx (direct k c.va))

/-- The pages that TLBI.VA names: that of a scalar, or those of the active lanes (R203). -/
def Run.pages (r : Run) (o : Operand) : List Word :=
  if isV o then (lanesOf r.act).map (fun l => BitVec.ofNat 64 (r.val true o l)) else [r.sval o]

/-- TLBI.VA: pages of this device at once, others when the request reaches their home (R203). An address with no home holds no
page. -/
def execTlbiVa (w : FWord) (s : State) : Host.Outcome State Fault Refusal :=
  issueF s w none (tlbiVaSig w) (fun r s =>
    let vas := (r.pages w.a).filterMap (fun a => match (s.ctxOf r.g).map (fun c => s.home c a) with
      | some (.dram _ m) => some (m, s.directOf r.g a)
      | some (.window _ _ _ _) | some (.none _) | none => none)
    let far := (vas.filter (fun e => !s.own e.1)).dedup
    let s1 := (vas.filter (fun e => s.own e.1)).foldl (fun s e => s.dropPage r.g.ctx e.2) s
    if far = [] then r.done s1
    else r.askUnits s1 (far.map (fun e => (mastPort e.1, fun wid => .tlbi r.g.ctx e.2 wid))))

/-- Change every mast of the device in place. -/
def State.everyMast (s : State) (f : Mast → Mast) : State := { s with masts := s.masts.map (fun e => (e.1, if s.own e.1 then f e.2 else e.2)) }

/-- TLBI.CTX (R203). -/
def execTlbiCtx (w : FWord) (s : State) : Host.Outcome State Fault Refusal :=
  issueF s w none (tlbiSig w 1 [w.dest, w.a, w.b, w.c] []) (fun r s =>
    r.done ((s.everyMast (fun t => t.drop (fun e => decide (e.ctx = r.g.ctx)) (fun q => decide (q.ctx = r.g.ctx)))).dropOwnCode
      (fun c => decide (c.ctx = r.g.ctx))))

/-- TLBI.ALL (R203). -/
def execTlbiAll (w : FWord) (s : State) : Host.Outcome State Fault Refusal :=
  issueF s w none (tlbiSig w 2 [w.dest, w.a, w.b, w.c] []) (fun r s =>
    r.done ((s.everyMast (fun t => t.drop (fun _ => true) (fun _ => true))).dropOwnCode (fun _ => true)))

/-- A request of SEGLD.L or TLBI.VA reaches its unit, which performs it whether its lanes still wait or not (R254), or the answer
reaches them (R202, R203). -/
def State.serveUnit (s : State) (mid : Nat) (m : Msg) : State :=
  let s1 : State := { s with msgs := SMap.del s.msgs mid }
  if !s.firstMsg mid m then s
  else match m.body with
    | .segld cid x wid => (s1.loadLseg cid x).send m.dst m.src (.done wid)
    | .tlbi ctx va wid => (s1.dropPage ctx va).send m.dst m.src (.done wid)
    | .done wid =>
      (match SMap.get? s1.waits wid with
       | some w => (match w.kind with
         | .sent n => if n ≤ 1 then s1.endWait wid w none false false 0 else { s1 with waits := SMap.put s1.waits wid { w with kind := .sent (n - 1) } }
         | _ => s1)
       | none => s1)
    | .posted _ _ _ _ _ _ _ | .ack _ _ _ _ _ | .tieNotice _ _ _ _ _ _ _ | .exitNotice _ _ | .barArrive _ _ _ _ | .barWithdraw _ _ _ _
    | .barExit _ _ | .barDone _ _ | .escInc _ _ _ _ _ _ _ _ | .escReset _ | .escTrap _ _ _ _ _ _ _ => s

/-! ## Deadlines and clocks (R204, R205) -/

/-- A deadline that lies an interval ahead (R204). -/
def SubGroup.ahead (sg : SubGroup) (b : Nat) : Nat := min (sg.gclk.toNat + b) (2 ^ 64 - 1)

/-- What DLSET writes (R204). -/
def dlset (r : Run) (s : State) (dest : Operand) (op b : Nat) : State :=
  match op with
  | 0 => r.fixed s 2 (dstWrites dest true 0 (r.sg.ahead b)) 0
  | 1 => r.fixed s 2 (dstWrites dest true 0 b) 0
  | _ => r.fixed s 2 [(.x 0x0C, BitVec.ofNat 64 b)] 0

/-- The legality of DLSET in F form (R204). -/
def dlsetSig (w : FWord) (op : Nat) : Sig :=
  { Sig.plain (if op = 2 then [w.dest, w.a, w.c] else [w.a, w.c])
      (Pos.src w.b Acc.sOnly :: (if op = 2 then [] else [Pos.dst w.dest Acc.dOnly])) with
    resv := decide (w.hi ≠ 0) || decide (w.lo.toNat ≠ op), wrs := if op = 2 then specialRegs 0x0C else [] }

/-- DLSET.REL (R204). -/
def execDlsetRel (w : FWord) (s : State) : Host.Outcome State Fault Refusal :=
  issueF s w none (dlsetSig w 0) (fun r s => dlset r s w.dest 0 (r.sval w.b).toNat)

/-- DLSET.ABS (R204). -/
def execDlsetAbs (w : FWord) (s : State) : Host.Outcome State Fault Refusal :=
  issueF s w none (dlsetSig w 1) (fun r s => dlset r s w.dest 1 (r.sval w.b).toNat)

/-- DLSET.DEF (R204). -/
def execDlsetDef (w : FWord) (s : State) : Host.Outcome State Fault Refusal :=
  issueF s w none (dlsetSig w 2) (fun r s => dlset r s w.dest 2 (r.sval w.b).toNat)

/-- The legality of DLSET in I form (R204). -/
def dlsetISig (w : IWord) : Sig :=
  let op := (iMods w).getD 0
  { Sig.plain (if op = 2 then [w.dest, w.a] else [w.a]) (if op = 2 then [] else [Pos.dst w.dest Acc.dOnly]) with
    resv := iResvX w || decide (op > 2), wrs := if op = 2 then specialRegs 0x0C else [] }

/-- DLSET in I form: .REL, or the operation that its X word's modifiers name (R61, R204). -/
def execDlsetI (w : IWord) (s : State) : Host.Outcome State Fault Refusal :=
  let op := (iMods w).getD 0
  issueI s w (dlsetISig w) (fun r s => dlset r s w.dest op (iIntImm w false 64))

/-- The legality of CLKRD (R205). -/
def clkrdSig (w : FWord) : Sig :=
  { Sig.plain [w.a, w.b, w.c] [Pos.dst w.dest Acc.sOnly] with
    resv := decide (w.hi ≠ 0) || decide (w.lo.toNat / 4 ≠ 0) || decide (w.lo.toNat % 4 = 3) }

/-- CLKRD (R205). -/
def execClkrd (w : FWord) (s : State) : Host.Outcome State Fault Refusal :=
  let op := w.lo.toNat % 4
  issueF s w none (clkrdSig w) (fun r s =>
    let x : Word := match op with
      | 0 => r.sg.gclk
      | 1 => (s.mast r.sg.mast).refs
      | _ => BitVec.ofNat 64 (s.stn r.sg.mast r.sg.stn).cycles
    let (y, s1) := s.clockRead r.sid r.act x
    r.fixed s1 2 (dstWrites w.dest true 0 y.toNat) 0)

/-! ## HALT and DSTEP (R206) -/

/-- HALT (R206). -/
def execHalt (w : FWord) (s : State) : Host.Outcome State Fault Refusal :=
  issueF s w none (privSig w) (fun r s =>
    let s1 := s.advance r.sid r.set r.stall r.len (fun _ => r.pc + 8) r.pc r.iw r.xw
    let stop := r.act &&& ~~~r.sg.laneMask (fun l => l.step)
    let s2 := s1.updSub r.sid (fun sg => sg.setSt stop .halted)
    (s2.post { typ := 6, code := 0, tag := 0, ctx := BitVec.ofNat 16 r.g.ctx,
               w1 := packWord [((s.crewPlace r.g).toNat % 2 ^ 20, 0), (r.g.gix, 20)], w2 := r.act, w3 := r.pc + 8 }).holdReady r.sid)

/-- The legality of DSTEP (R206). -/
def dstepSig (w : FWord) : Sig := { zeroModSig w [w.dest, w.b, w.c] [Pos.src w.a Acc.sz] with priv := true }

/-- DSTEP (R206). -/
def execDstep (w : FWord) (s : State) : Host.Outcome State Fault Refusal :=
  issueF s w none (dstepSig w) (fun r s =>
    if r.sg.tframe = 0 then r.trap s 2 0 0 r.act
    else r.withWords s (r.sg.tframe + 0x38) 1 (fun ws s =>
      let rmask := ws.getD 0 0
      let lane := if isS w.a then (r.sval w.a).toNat else lowest rmask
      if lane < 64 && rmask.getLsbD lane then r.done (s.updSub r.sid (fun sg => { sg with armed := some lane }))
      else r.trap s 2 0 0 r.act))

end Sys2Proof.Machine
end

