-- ==== Sys2Proof/Machine/Migrate.lean ====
section
/-! DEFINITION. Continuation images, their departure, landing and admission, notices between stations, instruction fetch and
expiry of implicit waits (spec 09, R208 to R233; spec 11, R249, R253, R254), CTXSAVE and CTXLOAD (spec 08, R207). -/

namespace Sys2Proof.Machine

open Sys2Proof

/-! ## The image (R216 to R218) -/

/-- The code of a group width. -/
def widthCode (w : Nat) : Nat := match w with | 8 => 0 | 16 => 1 | 32 => 2 | _ => 3

/-- Lanes of an image. -/
def Image.count (im : Image) : Nat := im.sg.lanes.length

/-- LENGTH without stream records (R218). -/
def Image.flits (im : Image) : Nat := 14 + im.count * popCount im.live

/-- Bytes that an image takes in a landing buffer or hold. -/
def Image.size (im : Image) : Nat := 32 * im.flits

/-- The lane of an image whose PC and %meet stand for all. -/
def Image.first (im : Image) : Option Lane := SMap.get? im.sg.lanes (lowest im.sg.all)

/-- Whether a step is pending in an image (R216). -/
def Image.stepping (im : Image) : Bool := im.sg.lanes.any (fun e => e.2.step)

/-- A mask of the lanes whose predicate i is set (R217). -/
def predMask (sg : SubGroup) (i : Nat) : Word :=
  maskOf ((sg.lanes.map (fun e => e.1)).filter (fun l => sg.reg (.p l i) != 0))

/-- Neighbouring 32-bit values as 64-bit words, the first below. -/
def pairWords : List Nat → List Word
  | a :: b :: xs => BitVec.ofNat 64 (a + b * 2 ^ 32) :: pairWords xs
  | [a] => [BitVec.ofNat 64 a]
  | [] => []

/-- The section of one window (R218). -/
def windowWords (sg : SubGroup) (n : Nat) : List Word :=
  pairWords ((List.range 8).flatMap (fun r => sg.lanes.map (fun e => (sg.reg (.v e.1 (8 * n + r))).toNat)))

/-- The words of an image: header, predicate block, scalar block and windows (R216 to R218). -/
def State.imageWords (s : State) (im : Image) (g : Group) (extra : Nat) : List Word :=
  let sg := im.sg
  let cr := s.crewOf g
  let l := im.first
  let flag := fun (b : Bool) => if b then 1 else 0
  [packWord [(im.kind.toNat, 60), (1, 56), (im.live.toNat, 48), (im.flits + extra, 32), (sg.depth, 30), (flag im.stepping, 29),
      (flag im.halted, 28), (flag im.held, 27), (g.wins - 1, 24), (widthCode g.width, 22),
      (im.tdev * 1024 + im.tmast % 16 * 64 + min im.tstn 63, 0)],
   packWord [(g.ctx, 48), (g.gix, 42), ((cr.map (fun c => c.cix)).getD 0, 20), ((s.crewPlace g).toNat % 2 ^ 20, 0)],
   sg.all, (l.map (fun x => x.pc)).getD 0, (l.map (fun x => x.meet)).getD 0, sg.gclk,
   sg.reg (.d 0), sg.reg (.d 1), sg.reg (.d 2), sg.reg (.d 3), sg.dldef,
   packWord [((sg.k ||| 1).toNat, 56), (sg.aflags.toNat % 64, 48), (sg.atrap.toNat % 64, 40), (sg.rlive.toNat, 32), (sg.rejoin.toNat, 0)],
   sg.seed, packWord [(sg.tprog.toNat, 32), (fieldOf sg.ctl 0 3, 0)], sg.tframe, sg.pseg] ++
  (List.range 7).map (fun i => predMask sg (i + 1)) ++ [0] ++
  (List.range 32).map (fun i => sg.reg (.s i)) ++
  ((List.range 8).filter (fun n => im.live.getLsbD n)).flatMap (windowWords sg)

/-- What an image's header says besides its sub-group. -/
structure ImageHead where
  kind  : Nat
  live  : BitVec 8
  len   : Nat
  held  : Bool
  halted : Bool
  wins  : Nat
  width : Nat
  tdev  : Nat
  tmast : Nat
  tstn  : Nat
  ctx   : Nat
  gix   : Nat
  cix   : Nat
  cstn  : Nat
  lmask : Mask
  ok    : Bool         -- no reserved field is nonzero, and the layout holds
  deriving DecidableEq, Repr

/-- The header of an image read from words (R216, R217). -/
def ImageHead.ofWords (ws : List Word) : ImageHead :=
  let w : Nat → Word := fun i => ws.getD i 0
  let lmask := w 2
  let live := BitVec.ofNat 8 (fieldOf (w 0) 48 8)
  let width := 8 * 2 ^ fieldOf (w 0) 22 2
  let tstn := fieldOf (w 0) 0 6
  { kind := fieldOf (w 0) 60 4, live := live, len := fieldOf (w 0) 32 16, held := (w 0).getLsbD 27, halted := (w 0).getLsbD 28,
    wins := fieldOf (w 0) 24 3 + 1, width := width, tdev := fieldOf (w 0) 10 10, tmast := fieldOf (w 0) 6 4,
    tstn := if tstn = 63 then 64 else tstn, ctx := fieldOf (w 1) 48 16, gix := fieldOf (w 1) 42 6, cix := fieldOf (w 1) 20 20,
    cstn := fieldOf (w 1) 0 20, lmask := lmask,
    ok := decide (fieldOf (w 0) 60 4 ≥ 1) && decide (fieldOf (w 0) 60 4 ≤ 4) && decide (fieldOf (w 0) 56 4 = 1) &&
      decide (fieldOf (w 0) 20 2 = 0) && decide (fieldOf (w 1) 40 2 = 0) && decide (fieldOf (w 13) 3 29 = 0) &&
      decide (fieldOf (w 11) 54 2 = 0) && decide (fieldOf (w 11) 46 2 = 0) && (w 11).getLsbD 56 &&
      (List.range 7).all (fun i => w (16 + i) &&& ~~~lmask == 0) && (w 23 == 0) &&
      decide (lmask ≠ 0) && (lmask &&& ~~~widthMask width == 0) && decide ((w 3).toNat % 8 = 0) }

/-- The sub-group that an image's words describe, for a group and a mast; its identity is set by the reader. -/
def subOfWords (gid m : Nat) (h : ImageHead) (ws : List Word) : SubGroup :=
  let w : Nat → Word := fun i => ws.getD i 0
  let ls := lanesOf h.lmask
  let c := ls.length
  let wins := (List.range 8).filter (fun n => h.live.getLsbD n)
  let lane : Lane :=
    { pc := w 3, meet := w 4, st := .ready, dist := 0, readyAt := 0, since := 0, starve := 0, yield := false, step := (w 0).getLsbD 29,
      rel := none, refuse := none }
  let half := fun (i : Nat) => fieldOf (w (56 + i / 2)) (32 * (i % 2)) 32
  let v := wins.zipIdx.foldl (fun (v : RMap 32) n =>
    ls.zipIdx.foldl (fun v l => (List.range 8).foldl (fun v r =>
      RMap.set v (l.1 * 64 + 8 * n.1 + r) (BitVec.ofNat 32 (half (8 * c * n.2 + r * c + l.2)))) v) v) []
  let p := ls.foldl (fun (p : RMap 1) l => (List.range 7).foldl (fun p i =>
    RMap.set p (l * 8 + i + 1) (if (w (16 + i)).getLsbD l then 1 else 0)) p) []
  { gid := gid, mast := m, stn := h.tstn, lanes := ls.map (fun l => (l, lane)), v := v, p := p,
    s := (List.range 32).foldl (fun (m : RMap 64) i => RMap.set m i (w (24 + i))) [], k := BitVec.ofNat 8 (fieldOf (w 11) 56 8),
    d := (List.range 4).foldl (fun (m : RMap 64) i => RMap.set m i (w (6 + i))) [], gclk := w 5, dldef := w 10,
    rejoin := BitVec.ofNat 32 (fieldOf (w 11) 0 32), rlive := BitVec.ofNat 8 (fieldOf (w 11) 32 8),
    tprog := BitVec.ofNat 32 (fieldOf (w 13) 32 32), tframe := w 14, depth := fieldOf (w 0) 30 2,
    aflags := BitVec.ofNat 8 (fieldOf (w 11) 48 6), atrap := BitVec.ofNat 8 (fieldOf (w 11) 40 6), seed := w 12,
    ctl := w 13 &&& 7, pseg := w 15, stale := [], armed := none }

/-- An image of a group read from words, bound for a mast. -/
def imageOfWords (gid m : Nat) (h : ImageHead) (ws : List Word) : Image :=
  { kind := BitVec.ofNat 4 h.kind, live := h.live, sg := subOfWords gid m h ws, held := h.held, halted := h.halted, smast := m,
    sstn := h.tstn, sid0 := 0, tdev := h.tdev, tmast := m, tstn := h.tstn, arr := 0, awaits := [], phase := .flying, refuse := 0,
    restored := false, streams := [], bundle := none }

/-- The group that an image's header names. -/
def State.groupOf (s : State) (h : ImageHead) : Option Nat :=
  (s.groups.find? (fun e => decide (e.2.ctx = h.ctx) && decide (e.2.gix = h.gix) && (match s.crewOf e.2 with
    | some c => decide (c.cix = h.cix) && decide ((s.crewPlace e.2).toNat = h.cstn)
    | none => false))).map (fun e => e.1)

/-! ## Station resources (R23, R209, R225) -/

/-- The groups that hold an allocation on a station; the walker's slot is reserved and not among them. -/
def State.residents (s : State) (m n : Nat) : List Nat :=
  (((s.subs.filter (fun e => decide (e.2.mast = m) && decide (e.2.stn = n))).map (fun e => e.2.gid)).filter
    (fun g => match SMap.get? s.groups g with | some g => !g.walker | none => true)).dedup

/-- The register bytes of a group's allocation (R23). -/
def Group.bytes (g : Group) : Nat := g.width * g.wins * 32

/-- The station whose slot the walker of a mast uses (R225). -/
def State.walkerStn (s : State) (m : Nat) : Option Nat := (List.range 64).find? (fun n => !(s.stn m n).fenced)

/-- Free group slots of a station. -/
def State.freeSlots (s : State) (m n : Nat) : Nat := (if s.walkerStn m = some n then 63 else 64) - (s.residents m n).length

/-- Free register bytes of a station. -/
def State.freeBytes (s : State) (m n : Nat) : Nat :=
  0x80000 - ((s.residents m n).map (fun g => ((SMap.get? s.groups g).map Group.bytes).getD 0)).sum

/-- Whether a station has room for some groups. -/
def State.fits (s : State) (m n count bytes : Nat) : Bool :=
  !(s.stn m n).fenced && decide (count ≤ s.freeSlots m n) && decide (bytes ≤ s.freeBytes m n)

/-- The group of an image. -/
def State.imgBytes (s : State) (im : Image) : Nat := ((SMap.get? s.groups im.sg.gid).map Group.bytes).getD 0

/-- Whether a station's stream allowance takes the streams that reopen with an image (R224, R304). -/
def State.streamsFit (s : State) (im : Image) (m n : Nat) : Bool :=
  decide (s.depthUsed m n + (im.streams.map (fun e => e.2.depth)).sum ≤ 4096)

/-! ## Admission (R219, R224, R225) -/

/-- Two parts of one saved sub-group are one again (R305). -/
def SubGroup.rejoinPart (a b : SubGroup) : SubGroup :=
  { a with lanes := SMap.union a.lanes b.lanes, v := SMap.union a.v b.v, p := SMap.union a.p b.p }

/-- Admission of an image at a station (R219): the lanes issue, are held at MEET, or resume as saved; a returned image's lanes
are refused at their word (R226). -/
def State.takeIn (s : State) (i : Nat) (im : Image) (m n : Nat) : State :=
  let now := (s.stn m n).cycles
  let st : LaneSt := if im.halted then .halted else .ready
  let sg : SubGroup := { im.sg with
    mast := m, stn := n, stale := []
    lanes := im.sg.lanes.map (fun (e : Nat × Lane) =>
      (e.1, { e.2 with st := st, readyAt := now, since := now, starve := 0, yield := false, refuse := if im.refuse = 0 then none else some im.refuse })) }
  let (sid, s1) : Nat × State := match im.bundle with | some b => (b, s) | none => s.fresh
  let whole := match SMap.get? s1.subs sid with | some o => o.rejoinPart sg | none => sg
  let s1' : State := { s1 with images := SMap.del s1.images i, subs := SMap.put s1.subs sid whole }
  let s2 := s1'.noteAt m 5 (((SMap.get? s.groups sg.gid).map Group.ctx).getD 0) (s.requester sg.gid (lowest sg.all) + BitVec.ofNat 64 (im.arr % 2 ^ 20)) sg.all (BitVec.ofNat 64 n)
  let s3 := s2.updGroup sg.gid (fun g => { g with
    streams := im.streams.foldl (fun q e => SMap.put q e.1 { e.2 with mast := m, stn := n }) g.streams })
  if im.refuse ≠ 0 || im.halted then s3
  else if im.kind = 2 || im.held then
    s3.joinOccurrence sid sg.all ((im.first.map (fun l => l.meet)).getD 0)
  else s3.holdReady sid

/-- Whether an image may be admitted: its context runs, or is being restored, on its device (R231, R302, R305). -/
def State.admits (s : State) (im : Image) : Bool :=
  match (SMap.get? s.groups im.sg.gid).bind (fun g => s.ctxAt im.tmast g.ctx) with
  | some c => decide (c.st = .running) || (decide (c.st = .restoring) && im.restored)
  | none => !im.restored

/-- The station where an image is to merge: its group already holds an allocation there (R224). -/
def State.mergeStn (s : State) (im : Image) : Option Nat :=
  if !s.admits im then none else
  let at' := fun (n : Nat) => (s.residents im.tmast n).contains im.sg.gid && !(s.stn im.tmast n).fenced
  if im.tstn = 64 then (List.range 64).find? at' else if at' im.tstn then some im.tstn else none

/-- The station that an image merges at now: the streams that it carries fit there too (R224). -/
def State.mergePlace (s : State) (im : Image) : Option Nat := (s.mergeStn im).filter (s.streamsFit im im.tmast)

/-- Whether an image stands landed at a mast. -/
def Image.landedAt (im : Image) (m : Nat) : Bool :=
  decide (im.tmast = m) && (match im.phase with | .landed _ => true | .departing | .flying | .returning => false)

/-- Every landed image of a mast whose group now holds an allocation is admitted (R224). -/
def State.mergeLanded (s : State) (m : Nat) : State :=
  (s.images.filter (fun e => e.2.landedAt m)).foldl (fun s e =>
    match SMap.get? s.images e.1 with
    | some im => (match s.mergePlace im with | some n => s.takeIn e.1 im m n | none => s)
    | none => s) s

/-- The head of an admission queue, which is in order of arrival; queue 64 is the mast's. A returned image stands before the others
(R226), and an image that is to merge waits ahead of every queue (R224). -/
def State.queueHead (s : State) (m q : Nat) : Option (Nat × Image) :=
  let mine := s.images.filter (fun e => e.2.landedAt m && decide (e.2.tstn = q) && s.admits e.2 && (s.mergeStn e.2).isNone)
  let rank := fun (a : Image) => if a.refuse ≠ 0 then 0 else 1
  let before := fun (a b : Image) => decide (rank a < rank b) || (decide (rank a = rank b) && decide (a.arr < b.arr))
  mine.foldl (fun (best : Option (Nat × Image)) e => match best with
    | some x => if before e.2 x.2 then some e else some x
    | none => some e) none

/-- Whether a station can take an image that does not merge: room, allowance and no reservation before it (R224, R276). -/
def State.canTake (s : State) (m n : Nat) (im : Image) : Bool :=
  s.fits m n 1 (s.imgBytes im) && s.streamsFit im m n &&
  (match (s.stn m n).resv with | some (_, _, at') => decide (im.arr < at') | none => true)

/-- The best of some stations by free bytes, then by a second measure that is smallest, then in list order (R225, R276). -/
def bestStn (bytes groups : Nat → Nat) (ns : List Nat) : Option Nat :=
  ns.foldl (fun b n => match b with
    | none => some n
    | some x => if bytes n > bytes x || (decide (bytes n = bytes x) && decide (groups n < groups x)) then some n else some x) none

/-! ## Reservations (R275, R276, R278) -/

/-- Whether a place of this device takes a crew: an anchor's home (R269, R275), its mast and its station for a window. -/
def State.anchorAt (s : State) (c : Ctx) (a : Word) : Option (Nat × Option Nat) :=
  match s.home c a with
  | .none _ => none
  | .dram _ m => if s.own m then some (m, none) else none
  | .window _ m n _ => if s.own m then some (m, some n) else none

/-- Whether a station is free for a reservation or a placement: unfenced, unbound, reserved by none or by this crew. -/
def State.openFor (s : State) (lid cix m n : Nat) : Bool :=
  let st := s.stn m n
  !st.fenced && st.crew.isNone && (match st.resv with | some (l, c, _) => decide (l = lid) && decide (c = cix) | none => true)

/-- The stations that a crew may use (R275). -/
def State.candidates (s : State) (l : Launch) (m : Nat) (win : Option Nat) : List Nat :=
  let ns := match win with | some n => [n] | none => List.range 64
  ns.filter (fun n => !(decide (l.groups = 64) && decide (s.walkerStn m = some n)))

/-- Whether a station can take a crew at once (R275). From a reservation on, the head of its admission queue that arrived earlier goes
first (R276, step 2). -/
def State.takesCrew (s : State) (lid cix : Nat) (l : Launch) (m n : Nat) : Bool :=
  s.openFor lid cix m n && s.fits m n l.groups (l.groups * l.width * l.wins * 32) &&
  (match (s.stn m n).resv, s.queueHead m n with
   | some (_, _, at'), some (_, im) => decide (at' ≤ im.arr)
   | _, _ => true)

/-- The station reserved for a crew. -/
def State.reservedFor (s : State) (lid cix m : Nat) : Option Nat :=
  (List.range 64).find? (fun n => match (s.stn m n).resv with | some (l, c, _) => decide (l = lid) && decide (c = cix) | none => false)

/-- The station with the most free bytes of some, then the lowest (R276). -/
def State.roomiest (s : State) (m : Nat) (ns : List Nat) : Option Nat := bestStn (s.freeBytes m) (fun _ => 0) ns

/-- A crew reserves a station, if one that it may use is unbound and not reserved (R276, step 1). -/
def State.reserve (s : State) (lid cix : Nat) (l : Launch) (m : Nat) (win : Option Nat) : State :=
  if (s.reservedFor lid cix m).isSome then s
  else
    let free := (s.candidates l m win).filter (fun n => s.openFor lid cix m n)
    let fit := free.filter (fun n => s.takesCrew lid cix l m n)
    match s.roomiest m (if fit = [] then free else fit) with
    | some n => s.updStn m n (fun st => { st with resv := some (lid, cix, (s.mast m).nextArr.toNat) })
    | none => s

/-- Whether a pending gang holds back the crews of a launch (R279). -/
def State.gangBlocks (s : State) (lid : Nat) (l : Launch) : Bool :=
  s.launches.any (fun e => decide (e.2.dev = l.dev) && decide (e.1 ≠ lid) && e.2.gangHeld && e.2.gangAge.isSome && decide (l.order > e.2.order) &&
    decide (l.prio ≤ e.2.prio))

/-- Whether a crew's context runs, so that it may be placed (R302). -/
def State.crewRuns (s : State) (lid : Nat) : Bool :=
  match (SMap.get? s.launches lid).bind (fun l => SMap.get? s.ctxs l.ctx) with
  | some c => decide (c.st = .running)
  | none => false

/-- The launch of a waiting crew. -/
def State.gangOf (s : State) (lid : Nat) : Nat := ((SMap.get? s.launches lid).map (fun l => l.gang)).getD 0

/-- The head of a mast's placement order that is no gang's: the first crew whose context runs. -/
def State.headCrew (s : State) (m : Nat) : Option (Nat × Nat) :=
  (s.mast m).order.find? (fun e => s.crewRuns e.1 && decide (s.gangOf e.1 = 0))

/-- One waiting crew reserves a station if it may. -/
def State.reserveFor (s : State) (m : Nat) (e : Nat × Nat) : State :=
  match SMap.get? s.launches e.1 with
  | none => s
  | some l =>
    if s.bosun.hold || !s.crewRuns e.1 || s.gangBlocks e.1 l then s
    else match (SMap.get? s.ctxs l.ctx).bind (fun c => s.anchorAt c (l.anchors.getD e.2 0)) with
      | some (k, win) => if k = m then s.reserve e.1 e.2 l m win else s
      | none => s

/-- The crews of a pending gang, then the head of a mast's order, reserve stations that have become unbound: before anything else may
use them (R276, R278). -/
def State.reserveHeads (s : State) (m : Nat) : State :=
  let gang := (s.mast m).order.filter (fun e => decide (s.gangOf e.1 ≠ 0))
  (gang ++ ((s.headCrew m).map (fun e => [e])).getD []).foldl (fun s e => s.reserveFor m e) s

/-- The station chosen for a mast-bound image (R225). -/
def State.chooseStn (s : State) (m : Nat) (im : Image) : Option Nat :=
  let last := (s.mast m).lastChosen
  let ns := ((List.range 64).map (fun i => (last + i) % 64)).filter (fun n =>
    s.fits m n 1 (s.imgBytes im) && (s.stn m n).resv.isNone)
  bestStn (s.freeBytes m) (fun n => (s.residents m n).length) ns

/-- Whether a station can take two images at once. -/
def State.takesBoth (s : State) (m n : Nat) (a b : Image) : Bool := s.fits m n 2 (s.imgBytes a + s.imgBytes b)

/-- The head of an admission queue is admitted, if its turn has come (R224, R225). -/
def State.admitHead (s : State) (m q : Nat) : State :=
  match s.queueHead m q with
  | none => s
  | some (i, im) =>
    if q = 64 then
      match s.chooseStn m im with
      | none => s
      | some n =>
        let blocked := match s.queueHead m n with
          | some (_, a) => decide (a.arr < im.arr) && s.canTake m n a && !s.takesBoth m n a im
          | none => false
        if blocked then s
        else ((s.updMast m (fun t => { t with lastChosen := n })).takeIn i im m n).mergeLanded m
    else
      let blocked := match s.queueHead m 64 with
        | some (_, b) => decide (b.arr < im.arr) && decide (s.chooseStn m b = some q) && !s.takesBoth m q im b
        | none => false
      if s.canTake m q im && !blocked then (s.takeIn i im m q).mergeLanded m else s

/-- IMAGE ADMISSION (R224): a merge goes ahead of the queue. -/
def execImageAdmission (mast queue : Nat) (s0 : State) : Host.Outcome State Fault Refusal :=
  let s := s0.reserveHeads mast
  .next (
    let merging := (s.images.filter (fun e => e.2.landedAt mast && decide (e.2.tstn = queue))).find? (fun e => (s.mergePlace e.2).isSome)
    match merging with
    | some (i, im) => (match s.mergePlace im with | some n => s.takeIn i im mast n | none => s)
    | none => s.admitHead mast queue)

/-! ## Departure and landing (R220 to R223, R226) -/

/-- Bytes of landing buffer and of hold that images use at a mast (R223). -/
def State.landedBytes (s : State) (m : Nat) (hold : Bool) : Nat :=
  ((s.images.filter (fun e => decide (e.2.tmast = m) && decide (e.2.phase = .landed hold))).map (fun e => e.2.size)).sum

/-- The bytes of a landing buffer and of a hold (R223). -/
def bufferBytes : Nat := 0x100000
def holdBytes : Nat := 0x10000000

/-- Whether a mast can take an image that departs for it now (R222). -/
def State.roomFor (s : State) (im : Image) : Bool :=
  let coming := ((s.images.filter (fun e => decide (e.2.tmast = im.tmast) && decide (e.2.phase = .flying))).map (fun e => e.2.size)).sum
  decide (s.landedBytes im.tmast false + s.landedBytes im.tmast true + coming + im.size ≤ bufferBytes + holdBytes)

/-- Remove the lanes of an image from the place they leave (R24, R208). -/
def State.releaseSource (s : State) (i : Nat) (im : Image) : State :=
  let lanes := im.sg.all
  let subs := match SMap.get? s.subs im.sid0 with
    | some sg => let left := sg.keepLanes (~~~lanes)
                 if left.lanes.isEmpty then SMap.del s.subs im.sid0 else SMap.put s.subs im.sid0 left
    | none => s.subs
  { s with subs := subs, waits := s.waits.filter (fun e => match e.2.kind with | .transit k => decide (k ≠ i) | _ => true) }

/-- An image is sent back to the station it left (R226), the charge of its way out added to its clock (R249). -/
def Image.turnBack (im : Image) (detail : BitVec 8) : Image :=
  { im with phase := .returning, refuse := detail, sg := { im.sg with gclk := im.sg.gclk + BitVec.ofNat 64 (hopCharge im.smast im.tmast) } }

/-- Whether a device of the domain knows a domain number as a member's, or as its own (R322). -/
def State.knows (s : State) (d num : Nat) : Bool :=
  match s.partOf d with
  | some p => decide (num = p.regs.devnum.toNat) || p.regs.member.getLsbD num
  | none => false

/-- The image as it departs: its clock is that of the copy it leaves, which advanced while its lanes stood in transit (R248, R250). -/
def State.launchImage (s : State) (im : Image) : Image :=
  { im with sg := { im.sg with gclk := ((SMap.get? s.subs im.sid0).map (fun sg => sg.gclk)).getD im.sg.gclk } }

/-- A continuation departs (R220, R222). -/
def execContinuationDeparture (img : Nat) (s : State) : Host.Outcome State Fault Refusal :=
  .next (match SMap.get? s.images img with
    | none => s
    | some im =>
      let first := s.images.all (fun e => decide (e.1 ≥ img) || decide (e.2.phase ≠ .departing) || e.2.awaits != [] || decide (e.2.tmast ≠ im.tmast))
      let go := s.launchImage im
      let left := s.releaseSource img im
      if im.phase ≠ .departing || im.awaits != [] then s
      else if !s.knows (im.smast / 16) im.tdev then { left with images := SMap.put left.images img (go.turnBack 1) }
      else if !s.linked (im.smast / 16) (im.tmast / 16) || !first || !s.roomFor im then s
      else
        let (ord, s1) := left.fresh
        { s1 with images := SMap.put s1.images img { go with phase := .flying, arr := ord } })

/-- An image takes the next arrival number of its mast, and its place in the landing buffer or, where that is full, in the hold
(R223). -/
def State.arrive (s0 : State) (i : Nat) (im : Image) : State :=
  let m := im.tmast
  let s := s0.on (m / 16) (fun s => s.reserveHeads m)
  let full := decide (s.landedBytes m false + im.size > bufferBytes)
  { s with images := SMap.put s.images i { im with arr := (s.mast m).nextArr.toNat, phase := .landed full } }.updMast m
    (fun t => { t with nextArr := t.nextArr + 1 })

/-- An image lands, its charge added to its clock; a merge is admitted at once (R223, R224, R249). -/
def State.land (s : State) (i : Nat) (im : Image) (charge : Nat) : State :=
  let s1 := s.arrive i { im with sg := { im.sg with gclk := im.sg.gclk + BitVec.ofNat 64 charge } }
  match SMap.get? s1.images i with
  | none => s1
  | some im' =>
    match s1.mergePlace im' with
    | some n => s1.takeIn i im' im.tmast n
    | none => s1


/-- Whether an image is next of those from its station to its target, notices included (R222). -/
def State.nextOnRoute (s : State) (i : Nat) (im : Image) : Bool :=
  s.images.all (fun e => decide (e.1 = i) || decide (e.2.phase ≠ im.phase) || decide (e.2.smast ≠ im.smast) || decide (e.2.sstn ≠ im.sstn) ||
    decide (e.2.port ≠ im.port) || decide (e.2.arr ≥ im.arr)) &&
  s.msgs.all (fun e => decide (e.1 ≥ im.arr) || !e.2.body.notice || decide (e.2.src ≠ stnPort im.smast im.sstn) || decide (e.2.dst ≠ im.port))

/-- An image lands at its mast, or is sent back from a fenced place or a device that has left, or lands at the station it left when
it was sent back (R223, R226). -/
def execImageLanding (img : Nat) (s : State) : Host.Outcome State Fault Refusal :=
  .next (match SMap.get? s.images img with
    | none => s
    | some im =>
      match im.phase with
      | .departing | .landed _ => s
      | .flying =>
        if !s.knows (im.smast / 16) im.tdev then { s with images := SMap.put s.images img (im.turnBack 1) }
        else if !s.linked (im.smast / 16) (im.tmast / 16) || !s.nextOnRoute img im then s
        else if (s.mast im.tmast).fenced || (decide (im.tstn ≠ 64) && (s.stn im.tmast im.tstn).fenced) then
          { s with images := SMap.put s.images img (im.turnBack 2) }
        else s.land img im (hopCharge im.smast im.tmast)
      | .returning =>
        s.land img { im with kind := 1, tdev := s.devNum (im.smast / 16), tmast := im.smast, tstn := im.sstn } (hopCharge im.smast im.tmast))

/-- Images pass from the hold into the landing buffer in order of arrival (R223). -/
def execHoldTransfer (mast : Nat) (s : State) : Host.Outcome State Fault Refusal :=
  let held := s.images.filter (fun e => decide (e.2.tmast = mast) && decide (e.2.phase = .landed true))
  let first := held.foldl (fun (b : Option (Nat × Image)) e => match b with
    | some x => if x.2.arr ≤ e.2.arr then some x else some e
    | none => some e) none
  .next (match first with
    | some (i, im) => if s.landedBytes mast false + im.size ≤ bufferBytes then s.updImg i (fun im => { im with phase := .landed false }) else s
    | none => s)

/-! ## Notices and tie points (R229, R108) -/

/-- The wait of a TIE ends with the word performed (R107, R229). -/
def State.tieDone (s : State) (wid : Nat) (w : Wait) (meet : Word) (place : BitVec 32) : State :=
  (s.setTie w.sid w.lanes meet place (BitVec.ofNat 8 (fieldOf w.iword 8 8))).endWait wid w none false false 0

/-- A TIE notice reaches the rejoin station (R229); there it waits while no record is free. -/
def execTieNotice (msg : Nat) (s : State) : Host.Outcome State Fault Refusal :=
  .next (match SMap.get? s.msgs msg with
    | some m =>
      match m.body with
      | .tieNotice wid gid meet _ mast stn _ =>
        (match SMap.get? s.waits wid with
         | some w =>
           if s.firstMsg msg m && s.tieRoom gid mast stn meet then
             ({ s with msgs := SMap.del s.msgs msg }.tieMember gid mast stn meet w.lanes).tieDone wid w meet (s.placeAt mast stn)
           else s
         | none => { s with msgs := SMap.del s.msgs msg })
      | _ => s
    | none => s)

/-- TIEs that wait at their own station for a record issue again once one is free (R229). -/
def State.wakeTies (s : State) : State :=
  let noticed := fun (wid : Nat) => s.msgs.any (fun e => match e.2.body with | .tieNotice k _ _ _ _ _ _ => decide (k = wid) | _ => false)
  let ready := s.waits.filter (fun e => (match e.2.kind with | .tie => true | _ => false) && !noticed e.1 &&
    (match SMap.get? s.subs e.2.sid with
     | some sg => s.tieRoom sg.gid sg.mast sg.stn (tieMeet e.2.pc (BitVec.ofNat 62 e.2.xword.toNat))
     | none => false))
  ready.foldl (fun s e => s.redoWait e.1 e.2) s

/-- Lanes that ended leave a tie record (R229): it may complete, and is freed once it drains. -/
def State.tieExit (s : State) (tid : Nat) (t : Tie) (lanes : Mask) : State :=
  let t' := { t with member := t.member &&& ~~~lanes }
  if t'.member = 0 then { s with ties := SMap.del s.ties tid }
  else { s with ties := SMap.put s.ties tid t' }.judgeTie tid

/-- The notice of an exit reaches the crew's station and every record of the group (R229). -/
def execExitNotice (msg : Nat) (s : State) : Host.Outcome State Fault Refusal :=
  .next (match SMap.get? s.msgs msg with
    | some m =>
      match m.body with
      | .exitNotice gid lanes =>
        if s.firstMsg msg m then
          (s.ties.filter (fun e => decide (e.2.gid = gid))).foldl (fun s e => match SMap.get? s.ties e.1 with
            | some t => s.tieExit e.1 t lanes
            | none => s) { s with msgs := SMap.del s.msgs msg }
        else s
      | _ => s
    | none => s)

/-- The clock of a held set reaches its deadline (R108). -/
def execTieExpiry (tie : Nat) (s : State) : Host.Outcome State Fault Refusal := .next (s.judgeTie tie)

/-- A variable-latency result arrives (R73). -/
def execVariableLatencyWrite (gid id : Nat) (s : State) : Host.Outcome State Fault Refusal := .next (s.deliver gid id)

/-! ## Implicit waits (R253, R254) -/

/-- Lanes that could not enter their handler stop, their frame free again (R196). -/
def State.stopEntry (s : State) (wid : Nat) (w : Wait) (t : TrapReq) (frame : Nat) : State :=
  match (SMap.get? s.subs w.sid).bind (fun sg => (SMap.get? s.groups sg.gid).map (fun g => (sg.gid, g))) with
  | some (gid, g) =>
    let s1 : State := { s with waits := SMap.del s.waits wid }
    (s1.updGroup gid (fun g => { g with frames := SMap.del g.frames frame })).stopLanes w.sid w.lanes g t
  | none => { s with waits := SMap.del s.waits wid }

/-- The bound of an implicit wait is reached (R254). -/
def State.implicitExpire (s : State) (wid : Nat) (w : Wait) (bound : Nat) : State :=
  match w.kind with
  | .trapEntry t frame _ => s.stopEntry wid w t frame
  | .transit i => { s with images := SMap.del s.images i }.trapWait wid w 0x10 1 (BitVec.ofNat 64 bound) w.lanes
  | .bcall | .standBy _ => s
  | .ldw _ _ _ _ _ _ _ => s.ldwHoldExpire wid w bound
  | .scoreboard _ | .fetch _ | .access _ _ | .fence _ _ _ _ | .barrier _ _ _ _ _ | .queuePush _ _ | .queuePop _ _ | .slice _ | .cpw _ _
  | .capr _ _ | .capw _ _ | .bwait _ | .qld | .tie | .page _ | .sent _ => s.trapWait wid w 0x10 1 (BitVec.ofNat 64 bound) w.lanes

/-- The clock of a waiting sub-group reaches the bound of its implicit wait (R254). -/
def execImplicitWaitExpiry (wait : Nat) (s : State) : Host.Outcome State Fault Refusal :=
  .next (match SMap.get? s.waits wait with
    | none => s
    | some w =>
      match w.bound, SMap.get? s.subs w.sid with
      | some b, some sg => if b ≤ sg.gclk.toNat then s.implicitExpire wait w b else s
      | _, _ => s)

/-! ## Instruction fetch (R214, R215) -/

/-- The sectors of an instruction store: 64 KiB of 32 bytes (R214). -/
def storeSectors : Nat := 2048

/-- The word that a station's store holds for a context and a code address. -/
def Station.code (st : Station) (ctx : Nat) (va : Word) : Option Word :=
  (st.store.find? (fun c => decide (c.ctx = ctx) && decide (c.va.toNat / 32 = va.toNat / 32))).bind
    (fun c => c.data[va.toNat % 32 / 8]?)

/-- Put a sector into a station's store, the oldest leaving when it is full. -/
def Station.fill (st : Station) (c : CodeSector) : Station :=
  { st with store := (c :: st.store.filter (fun d => !(decide (d.ctx = c.ctx) && decide (d.va = c.va)))).take storeSectors }

/-- How a code sector is fetched: the walker's own mast is read untranslated (R291). -/
def State.codeAcc (s : State) (sg : SubGroup) (g : Group) (d : Word) : BitVec 2 :=
  if g.walker && decide (s.vaPlace d = (sg.mast, 64)) then 3 else 2

/-- The sector that a waiting fetch needs, by the address of its word or of its X word. -/
def State.fetchVa (s : State) (g : Group) (w : Wait) (x : XlReq) : Word :=
  let a := if s.directOf g w.pc = x.va then w.pc else w.pc + 8
  BitVec.ofNat 64 (a.toNat / 32 * 32)

/-- A missing code sector returns, or its word traps (R214, R215, R299). -/
def State.fetchArrive (s : State) (wid : Nat) (w : Wait) (x : XlReq) : State :=
  match SMap.get? s.subs w.sid with
  | none => s
  | some sg =>
    match SMap.get? s.groups sg.gid with
    | none => s
    | some g =>
      let va := s.fetchVa g w x
      let why := (s.ctxOf g).map (fun c => s.home c va)
      if x.fail then s.trapWait wid w 0x11 0 w.pc w.lanes
      else if x.held.isSome then s
      else match why with
        | some (.none d) => s.trapWait wid w 8 d w.pc w.lanes
        | none => s.trapWait wid w 8 1 w.pc w.lanes
        | some (.dram _ m) | some (.window _ m _ _) =>
          if s.fencedAt x.va then s.trapWait wid w 8 2 w.pc w.lanes
          else if !s.linked (sg.mast / 16) (m / 16) then s
          else match s.placeOf g.ctx (s.directOf g va) (s.codeAcc sg g x.va) with
            | .walkEnd => s.endWalker sg.gid
            | .bounds => s.trapWait wid w 9 0 (BitVec.ofNat 64 (fieldOf va 0 21)) w.lanes
            | .hold =>
              let (s1, _, y) := s.tryXl (XlReq.mk' g.ctx x.va 2)
              { s1 with waits := SMap.put s1.waits wid { w with kind := .fetch y } }
            | .cell c =>
              let s1 := s.checkRead [sectorOf c]
              if s.badAt c then s1.trapWait wid w 0x0B 0 va w.lanes
              else
                let sec : CodeSector := { ctx := g.ctx, va := va, data := (List.range 4).map (fun i => s.word (c + 8 * i)) }
                (s1.updStn sg.mast sg.stn (fun st => st.fill sec)).redoWait wid w

/-- INSTRUCTION FETCH (R214). -/
def execInstructionFetch (wait : Nat) (s : State) : Host.Outcome State Fault Refusal :=
  .next (match SMap.get? s.waits wait with
    | some w => (match w.kind with | .fetch x => s.fetchArrive wait w x | _ => s)
    | none => s)

/-- An issue set waits for a code sector that its station does not hold (R214, R215). -/
def State.beginFetch (s : State) (sid : Nat) (lanes : Mask) (pc va : Word) (iword : Word) : State :=
  match SMap.get? s.subs sid with
  | none => s
  | some sg =>
    match SMap.get? s.groups sg.gid with
    | none => s
    | some g =>
      let why := match (s.ctxOf g).map (fun c => s.home c va) with
        | some (.none d) => some d
        | some (.dram _ _) | some (.window _ _ _ _) => none
        | none => some 1
      match why with
      | some d => s.enterTrap sid lanes
          { cause := 8, detail := d, info := pc, fmask := lanes, next := false, tpc := pc, len := 8, iword := iword, xword := 0 }
      | none =>
        s.beginWait
          { sid := sid, lanes := lanes, kind := .fetch (XlReq.mk' g.ctx (s.directOf g va) 2), dk := none, bound := some sg.bound, status := .zero, pc := pc,
            len := 8, iword := iword, xword := 0 }

/-! ## CTXSAVE and CTXLOAD (R207) -/

/-- The legality of CTXSAVE and CTXLOAD (R207). -/
def ctxSig (w : FWord) (x : Option XWord) (unused : List Operand) (pos : List Pos) : Sig :=
  { memSig w x (w.b :: w.c :: unused) pos (decide (szOf w ≠ 0) || decide (w.hi ≠ 0)) false false false false false with priv := true, crew := true }

/-- Write words at an address on a system word's behalf; what stops it before anything is written. -/
def State.sysPlaces (s : State) (ctx : Nat) (c : Ctx) (va : Word) : Nat → SysRead
  | 0 => .words [] []
  | n + 1 =>
    match s.home c va with
    | .none d => .refused d
    | .dram _ m | .window _ m _ _ =>
      if s.fencedAt (s.direct c va) then .refused 2
      else if !s.linked s.dev (m / 16) then .path
      else match s.placeOf ctx (s.direct c va) 1 with
        | .bounds | .walkEnd => .bounds
        | .hold => .hold (s.direct c va)
        | .cell p => match State.sysPlaces s ctx c (va + 32) n with
          | .words ws cs => .words ws (p :: cs)
          | r => r

/-- Store words, four to a sector. -/
def State.putSectors (s : State) : List Nat → List Word → State
  | [], _ => s
  | p :: ps, ws => State.putSectors (s.store p ((ws.take 4).flatMap (fun w => leBytes 8 w.toNat))) ps (ws.drop 4)

/-- The image that CTXSAVE writes: every window of the budget, mast-bound, at the address after the word (log entry 13). -/
def State.saveImage (s : State) (r : Run) : Image × State :=
  let meets := ((r.sg.lanes.filter (fun e => r.act.getLsbD e.1)).map (fun e => e.2.meet)).dedup
  let (mt, s1) : Word × State := if meets.length ≤ 1 then (meets.headD 0, s) else s.free
  let live := BitVec.ofNat 8 (2 ^ r.g.wins - 1)
  let part := (r.sg.keepLanes r.act).mapLanes r.act (fun l => { l with pc := r.pc + BitVec.ofNat 64 r.len, meet := mt })
  ({ kind := 4, live := live, sg := part, held := false, halted := false, smast := r.sg.mast, sstn := r.sg.stn, sid0 := r.sid,
     tdev := s.devNum (r.sg.mast / 16), tmast := r.sg.mast, tstn := 64, arr := 0, awaits := [], phase := .flying, refuse := 0, restored := false,
     streams := [], bundle := none }, s1)

/-- The lanes of CTXSAVE end, their identity reserved for the image (R207). -/
def Run.saved (r : Run) (s : State) : State :=
  let rest := r.set &&& ~~~r.act
  let s1 := if rest = 0 then s else s.retire r.sid rest r.stall r.len r.iw r.xw
  (s1.updGroup r.gid (fun g => { g with imaged := g.imaged ||| r.act })).endLanes r.sid r.act

/-- CTXSAVE (R207). -/
def execCtxsave (w : FWord) (x : Option XWord) (s : State) : Host.Outcome State Fault Refusal :=
  issueMem s w x false (ctxSig w x [w.dest] []) (fun r s =>
    let addr := memAddr w x r
    let va := addr r.low
    let pending := (r.g.outst.filter (s.outstFor r.gid r.sid r.act)).map (fun o => o.id)
    match s.memCheck r .glob 32 false false addr, s.ctxOf r.g with
    | some f, _ => r.trap s f.cause f.detail va (maskOf f.lanes)
    | none, none => r.trap s 8 1 va r.act
    | none, some c =>
      if r.g.streaming then r.trap s 8 4 va r.act
      else if pending ≠ [] then r.waitFor s r.set (.scoreboard pending) none (some r.sg.bound) .zero
      else
        let (im, s1) := s.saveImage r
        let ws := s1.imageWords im r.g 0
        match s1.sysPlaces r.g.ctx c va im.flits with
        | .words _ cells => r.saved (s1.putSectors cells ws)
        | .hold v => r.waitPage s v 1
        | .path => r.waitPath s (s.direct c va) 1
        | .refused d => r.trap s 8 d va r.act
        | .bounds | .bad _ _ => r.trap s 9 0 (BitVec.ofNat 64 (fieldOf va 0 21)) r.act)

/-- Whether CTXLOAD takes an image: of its own context, in the form of CTXSAVE, of lanes that are not live (R207). Model's choice: an
image of a group that is gone, no identity of it reserved, is refused too. -/
def State.loadOk (s : State) (r : Run) (h : ImageHead) : Option Nat :=
  if h.ok && decide (h.kind = 4) && decide (h.ctx = r.g.ctx) && decide (h.len = 14 + popCount h.lmask * popCount h.live) then
    match s.groupOf h with
    | some gid =>
      (match SMap.get? s.groups gid with
       | some g =>
         let gone := decide (g.ended = BitVec.allOnes 64) && decide (g.imaged = 0)
         if h.lmask &&& ~~~g.ended = 0 && !gone && decide (g.width = h.width) && decide (g.wins = h.wins) then some gid else none
       | none => none)
    | none => none
  else none

/-- The router of a mast takes an image that CTXLOAD read (R207). -/
def State.loadImage (s : State) (gid mast : Nat) (h : ImageHead) (ws : List Word) : State :=
  let im := imageOfWords gid mast h ws
  let stn := if s.gm h.tdev h.tmast = mast then h.tstn else 64
  let (i, s1) := s.fresh
  let s2 := s1.updGroup gid (fun g => { g with imaged := g.imaged &&& ~~~h.lmask, ended := g.ended &&& ~~~h.lmask })
  s2.land i { im with tdev := s.devNum (mast / 16), tstn := stn, sstn := stn } 0

/-- CTXLOAD (R207). -/
def execCtxload (w : FWord) (x : Option XWord) (s : State) : Host.Outcome State Fault Refusal :=
  issueMem s w x false (ctxSig w x [] [Pos.dst w.dest Acc.sz]) (fun r s =>
    let addr := memAddr w x r
    let va := addr r.low
    match s.memCheck r .glob 32 false false addr with
    | some f => r.trap s f.cause f.detail va (maskOf f.lanes)
    | none =>
      r.withWords s va 16 (fun head s =>
        let h := ImageHead.ofWords (head ++ List.replicate 8 0)
        match (if h.len ≤ 526 then s.loadOk r h else none) with
        | none => r.later s (dstWrites w.dest true 0 7) 0
        | some gid =>
          r.withWords s va (4 * h.len) (fun ws s =>
            let full := ImageHead.ofWords ws
            if full.ok then r.later (s.loadImage gid (s.vaMast (s.directOf r.g va)) full ws) (dstWrites w.dest true 0 0) 0
            else r.later s (dstWrites w.dest true 0 7) 0)))

end Sys2Proof.Machine
end

