-- ==== Sys2Proof/Machine/Launch.lean ====
section
/-! DEFINITION. Command queues, launches, arbitration and placement (spec 14, R262 to R281; spec 01, R41). -/

namespace Sys2Proof.Machine

open Sys2Proof

/-! ## Groups at launch (R41) -/

/-- A sub-group as a group begins (R41), every lane at one address. -/
def SubGroup.launch (gid m n width : Nat) (pc : Word) (now : Nat) (s : List Word) (ctl dldef seed pseg : Word) : SubGroup :=
  let lane : Lane :=
    { pc := pc, meet := 0, st := .ready, dist := 0, readyAt := now, since := now, starve := 0, yield := false, step := false,
      rel := none, refuse := none }
  { gid := gid, mast := m, stn := n, lanes := (List.range width).map (fun l => (l, lane)), v := [], p := [],
    s := s.zipIdx.foldl (fun (r : RMap 64) e => RMap.set r e.2 e.1) [], k := 0xFF
    d := (List.range 4).foldl (fun (r : RMap 64) i => RMap.set r i dldef) [], gclk := 0, dldef := dldef, rejoin := noRejoin, rlive := 0,
    tprog := 0, tframe := 0, depth := 0, aflags := 0, atrap := 0, seed := seed, ctl := ctl, pseg := pseg, stale := [], armed := none }

/-- The record of a group as it begins. -/
def Group.launch (ctx : Nat) (cid : Option Nat) (gix width wins : Nat) : Group :=
  { ctx := ctx, cid := cid, gix := gix, width := width, wins := wins, ended := BitVec.allOnes 64 &&& ~~~widthMask width, streams := [],
    frames := [], counts := [], errs := 0, qout := [], outst := [], waits := [], arrived := [], imaged := 0 }

/-! ## Commands (R263 to R265) -/

/-- The words of a queue's head command (R262). -/
def State.headCmd (s : State) (q : Queue) : Option (List Word) :=
  (SMap.get? s.ctxs q.ctx).bind (fun c => s.cpWords q.ctx c (q.base + BitVec.ofNat 64 (64 * (q.head.toNat % q.slots))) 8)

/-- Whether a launch of a queue has not completed (R264, R266). -/
def State.launchesOpen (s : State) (k : Nat) : Bool := s.launches.any (fun e => decide (e.2.queue = k) && !e.2.counted)

/-- The head command of a queue, when it may start (R264): its context runs, the one before it has been performed, and with
AFTER every earlier LAUNCH has completed. -/
def State.startable (s : State) (k : Nat) : Option (Queue × Ctx × Option (List Word)) :=
  match SMap.get? s.queues k with
  | none => none
  | some q =>
    match SMap.get? s.ctxs q.ctx with
    | none => none
    | some c =>
      if c.st ≠ .running || q.stopped || q.phase ≠ .idle || decide (q.head = q.tail) || s.halting then none
      else
        let ws := s.headCmd q
        if ((ws.map (fun w => (w.getD 0 0).getLsbD 8)).getD false) && s.launchesOpen k then none else some (q, c, ws)

/-- Stop a queue and report it (R264); commands already started go on. -/
def State.stopQueue (s : State) (k : Nat) (q : Queue) (no : BitVec 32) (w0 : Word) : State :=
  (s.putQueue k { q with stopped := true }).post
    { typ := 3, code := 0, tag := 0, ctx := BitVec.ofNat 16 q.ctx, w1 := BitVec.ofNat 64 q.num, w2 := no.setWidth 64, w3 := w0 }

/-- A command starts: HEAD advances (R262, R264). -/
def State.startCmd (s : State) (k : Nat) (q : Queue) (p : QPhase) : State :=
  (s.note deckUnit 1 q.ctx (BitVec.ofNat 64 q.num) (q.head.setWidth 64) (((s.headCmd q).getD []).headD 0)).putQueue k
    { q with head := q.head + 1, phase := p }

/-- Whether a command breaks the form of its OP (R263, R264): a reserved OP or bit, or a misaligned address. -/
def badCmd (ws : List Word) : Bool :=
  let w : Nat → Word := fun i => ws.getD i 0
  let op := fieldOf (w 0) 0 8
  let used := match op with | 1 => 4 | 2 => 4 | 3 => 3 | _ => 1
  decide (op > 3) || decide (fieldOf (w 0) 9 55 ≠ 0) || (ws.drop used).any (fun x => x != 0) ||
  (op == 1 && (decide ((w 1).toNat % 32 ≠ 0) || decide ((w 2).toNat % 8 ≠ 0))) ||
  (decide (op ≥ 2) && decide ((w 1).toNat % 8 ≠ 0))

/-- Whether an address has a home that takes an access of the context (R265). -/
def State.reachable (s : State) (c : Ctx) (va : Word) : Bool := match s.home c va with | .none _ => false | .dram _ _ | .window _ _ _ _ => true

/-- NOP, or a head command that no other command is (R263, R264): it is performed at once, or stops the queue. -/
def execCmdNop (queue : Nat) (s : State) : Host.Outcome State Fault Refusal :=
  .next (match s.startable queue with
    | none => s
    | some (q, _, none) => s.stopQueue queue q q.head 0
    | some (q, _, some ws) =>
      let op := fieldOf (ws.getD 0 0) 0 8
      if op = 0 || op > 3 then
        (if badCmd ws then s.stopQueue queue q q.head (ws.getD 0 0) else s.startCmd queue q .idle)
      else s)

/-- One attempt of the Command Processor at a counter (R265): the counter's cell, a wait for its page, or failure. -/
inductive Counter where
  | at (cell : Nat) | wait (x : Option XlReq) | failed

/-- The counter of a command as it stands at its home (R265, R296). -/
def State.counterAt (s : State) (ctx : Nat) (va : Word) (acc : BitVec 2) (x : Option XlReq) : State × Counter :=
  match SMap.get? s.ctxs ctx with
  | none => (s, .failed)
  | some c =>
    if (x.map (fun y => y.fail)).getD false then (s, .failed)
    else if (x.bind (fun y => y.held)).isSome then (s, .wait x)
    else match s.home c va with
      | .none _ => (s, .failed)
      | .dram _ m | .window _ m _ _ =>
        if s.fencedAt (s.direct c va) then (s, .failed)
        else if !s.linked s.dev (m / 16) then (s, .wait x)
        else match s.placeOf ctx (s.direct c va) acc with
          | .cell cell => if s.badAt cell then (s.countUe cell, .failed) else (s.checkRead [sectorOf cell], .at cell)
          | .hold => let (s1, _, y) := s.tryXl (XlReq.mk' ctx (s.direct c va) acc); (s1, .wait (some y))
          | .bounds | .walkEnd => (s, .failed)

/-- A WAIT reads its counter (R265). -/
def State.judgeCmdWait (s : State) (k : Nat) : State :=
  match SMap.get? s.queues k with
  | none => s
  | some q =>
    match q.phase with
    | .waiting w0 addr v left x =>
      (match s.counterAt q.ctx addr 0 x with
       | (s1, .at cell) =>
         if v.toNat ≤ (s.word cell).toNat then s1.putQueue k { q with phase := .idle }
         else s1.putQueue k { q with phase := .waiting w0 addr v left none }
       | (s1, .wait y) => s1.putQueue k { q with phase := .waiting w0 addr v left y }
       | (s1, .failed) => s1.stopQueue k { q with phase := .idle } q.head w0)
    | .idle | .launching _ | .adding _ _ _ _ => s

/-- WAIT (R263, R265). -/
def execWait (queue : Nat) (s : State) : Host.Outcome State Fault Refusal :=
  .next (match s.startable queue with
    | some (q, c, some ws) =>
      let w : Nat → Word := fun i => ws.getD i 0
      if fieldOf (w 0) 0 8 ≠ 2 then s
      else if badCmd ws || !s.reachable c (w 1) then s.stopQueue queue q q.head (w 0)
      else (s.startCmd queue q (.waiting (w 0) (w 1) (w 2) (if w 3 = 0 then none else some (w 3)) none)).judgeCmdWait queue
    | some (_, _, none) | none => s)

/-- A write to a WAIT's counter sector makes the Command Processor read it again (R265). -/
def execWaitReread (queue : Nat) (s : State) : Host.Outcome State Fault Refusal := .next (s.judgeCmdWait queue)

/-- TMO deck cycles have passed: a stall record, once (R265). -/
def execStallRecord (queue : Nat) (s : State) : Host.Outcome State Fault Refusal :=
  .next (match SMap.get? s.queues queue with
    | none => s
    | some q =>
      match q.phase with
      | .waiting w0 addr v (some left) x =>
        if left = 0 then
          { s with queues := SMap.put s.queues queue { q with phase := .waiting w0 addr v none x } }.post
            { typ := 4, code := 0, tag := 0, ctx := BitVec.ofNat 16 q.ctx, w1 := BitVec.ofNat 64 q.num, w2 := addr, w3 := v }
        else s
      | .waiting _ _ _ none _ | .idle | .launching _ | .adding _ _ _ _ => s)

/-- Add to a counter in memory, as ATOM.ADD.N64 does (R265). -/
def State.addAt (s : State) (ctx cell : Nat) (v : Word) : State :=
  (s.noteAtom ctx 0 (sectorOf cell)).store cell (leBytes 8 (s.word cell + v).toNat)

/-- A SIGNAL's add at the counter's home (R265). -/
def State.judgeAdd (s : State) (k : Nat) : State :=
  match SMap.get? s.queues k with
  | none => s
  | some q =>
    match q.phase with
    | .adding w0 addr v x =>
      (match s.counterAt q.ctx addr 1 x with
       | (s1, .at cell) => (s1.addAt q.ctx cell v).putQueue k { q with phase := .idle }
       | (s1, .wait y) => s1.putQueue k { q with phase := .adding w0 addr v y }
       | (s1, .failed) => s1.stopQueue k { q with phase := .idle } q.head w0)
    | .idle | .launching _ | .waiting _ _ _ _ _ => s

/-- SIGNAL (R263, R265): it starts, or its held add is tried again. -/
def execSignal (queue : Nat) (s : State) : Host.Outcome State Fault Refusal :=
  .next (match s.startable queue with
    | some (q, c, some ws) =>
      let w : Nat → Word := fun i => ws.getD i 0
      if fieldOf (w 0) 0 8 ≠ 3 then s
      else if badCmd ws || !s.reachable c (w 1) then s.stopQueue queue q q.head (w 0)
      else (s.startCmd queue q (.adding (w 0) (w 1) (w 2) none)).judgeAdd queue
    | some (_, _, none) | none => s.judgeAdd queue)

/-! ## Launches (R268 to R270, R281) -/


/-- Whether the fields of a launch record break R269. -/
def State.badRecord (s : State) (ws : List Word) : Bool :=
  let w : Nat → Word := fun i => ws.getD i 0
  let crews := fieldOf (w 3) 32 21
  let groups := fieldOf (w 3) 20 6 + 1
  let wins := fieldOf (w 3) 17 3 + 1
  let width := 8 * 2 ^ fieldOf (w 3) 15 2
  decide (fieldOf (w 3) 53 11 ≠ 0) || decide (fieldOf (w 3) 26 6 ≠ 0) || decide (fieldOf (w 3) 13 2 ≠ 0) || decide (fieldOf (w 3) 2 9 ≠ 0) ||
  decide (fieldOf (w 4) 13 35 ≠ 0) || decide (fieldOf (w 4) 4 4 ≠ 0) || badLseg (w 6) || badPseg (w 7) ||
  decide (crews = 0) || decide (crews > 0x100000) || decide (fieldOf (w 4) 8 5 > 16) || decide (fieldOf (w 4) 0 4 = 0) ||
  decide ((w 0).toNat % 8 ≠ 0) || decide ((w 2).toNat % 8 ≠ 0) || decide (groups * width * wins * 32 > 0x80000) ||
  ((w 3).getLsbD 1 && !s.regs.active.getLsbD 4)

/-- The launch that a record describes. -/
def launchOf (dev : Nat) (q : Queue) (k : Nat) (cmd ws anchors : List Word) : Launch :=
  let w : Nat → Word := fun i => ws.getD i 0
  { dev := dev, ctx := q.ctx, queue := k, entry := w 0, param := w 1, anchors := anchors, crews := fieldOf (w 3) 32 21, groups := fieldOf (w 3) 20 6 + 1,
    wins := fieldOf (w 3) 17 3 + 1, width := 8 * 2 ^ fieldOf (w 3) 15 2, prio := fieldOf (w 3) 11 2, dit := (w 3).getLsbD 1, chk := (w 3).getLsbD 0,
    gang := fieldOf (w 4) 48 16, rsv := fieldOf (w 4) 8 5, weight := fieldOf (w 4) 0 4, dldef := w 5, lseg := w 6, pseg := w 7,
    counter := cmd.getD 2 0, incr := cmd.getD 3 0, admitted := 0, placed := 0, retired := 0, grid := [], mbars := [], gangAge := none,
    gangHeld := false, order := 0, headNo := q.head, word0 := cmd.getD 0 0, counted := false, x := none }

/-- The launches for which the Command Processor holds grid-barrier counters (R281). -/
def State.gridsHeld (s : State) : Nat := (s.launches.filter (fun e => decide (e.2.dev = s.dev) && !e.2.counted)).length

/-- LAUNCH (R269): the record is checked and its crews stand to be admitted; the stations' code of the context is fetched
afresh (R214). It waits at the head while no grid-barrier counters are free (R281). -/
def execLaunch (queue : Nat) (s : State) : Host.Outcome State Fault Refusal :=
  .next (match s.startable queue with
    | some (q, c, some cmd) =>
      let w : Nat → Word := fun i => cmd.getD i 0
      let stop := s.stopQueue queue q q.head (w 0)
      if fieldOf (w 0) 0 8 ≠ 1 then s
      else if badCmd cmd || (decide (w 2 ≠ 0) && !s.reachable c (w 2)) then stop
      else match s.cpWords q.ctx c (w 1) 8 with
        | none => stop
        | some ws =>
          if s.badRecord ws then stop
          else match s.cpWords q.ctx c (ws.getD 2 0) (fieldOf (ws.getD 3 0) 32 21) with
            | none => stop
            | some anchors =>
              if anchors.any (fun a => (s.anchorAt c a).isNone) then stop
              else if s.gridsHeld ≥ 256 then s
              else
                let (lid, s1) := s.fresh
                let s2 : State := { s1 with launches := SMap.put s1.launches lid (launchOf s.dev q queue cmd ws anchors) }
                (s2.dropOwnCode (fun e => decide (e.ctx = q.ctx))).startCmd queue q (.launching lid)
    | some (_, _, none) | none => s)

/-! ## Arbitration (R272, R273) -/

/-- The pending gang of the device (R278). -/
def State.pendingGang (s : State) : Option Nat :=
  (s.launches.find? (fun e => decide (e.2.dev = s.dev) && e.2.gangAge.isSome)).map (fun e => e.1)

/-- The launch whose crews a queue would have admitted, if it is eligible (R272). -/
def State.eligible (s : State) (q : Queue) : Option (Nat × Launch) :=
  match q.phase with
  | .launching lid =>
    (match SMap.get? s.launches lid, SMap.get? s.ctxs q.ctx with
     | some l, some c =>
       if c.st = .running && decide (l.admitted < l.crews) && (decide (l.gang = 0) || s.pendingGang.isNone) then some (lid, l) else none
     | _, _ => none)
  | .idle | .waiting _ _ _ _ _ | .adding _ _ _ _ => none

/-- A launch some of whose crews can have no place any more fails: its unplaced crews go, and its queue stops (R269); later commands
of the queue that have started go on (R264). -/
def State.failLaunch (s : State) (lid : Nat) (l : Launch) : State :=
  let s1 := s.everyMast (fun t => { t with order := t.order.filter (fun e => decide (e.1 ≠ lid)) })
  let s2 : State := { s1 with stns := s1.stns.map (fun (e : Nat × Station) =>
    (e.1, match e.2.resv with | some (k, _, _) => if k = lid then { e.2 with resv := none } else e.2 | none => e.2)) }
  let s3 := s2.updLaunch lid (fun l => { l with crews := l.placed, admitted := l.placed, gangAge := none, gangHeld := false })
  match SMap.get? s3.queues l.queue with
  | some q => s3.stopQueue l.queue { q with phase := if q.phase = .launching lid then .idle else q.phase } l.headNo l.word0
  | none => s3

/-- Whether a crew of a launch has no place yet, whether it waits in a placement order or is still to be admitted. -/
def State.unplaced (s : State) (lid cix : Nat) (l : Launch) : Bool :=
  decide (l.admitted ≤ cix) || s.ownMasts.any (fun m => (s.mast m).order.contains (lid, cix))

/-- Launches of this device that have a crew whose anchor has lost its home fail (R269). -/
def State.failHomeless (s : State) : State :=
  s.launches.foldl (fun s e =>
    match SMap.get? s.ctxs e.2.ctx with
    | none => s
    | some c =>
      if decide (e.2.dev = s.dev) && (List.range e.2.crews).any (fun cix => s.unplaced e.1 cix e.2 && (s.anchorAt c (e.2.anchors.getD cix 0)).isNone)
      then s.failLaunch e.1 e.2 else s) s

/-- One crew is admitted to placement (R273). -/
def State.admitCrew (s : State) (lid : Nat) : State :=
  match SMap.get? s.launches lid with
  | none => s
  | some l =>
    if l.crews ≤ l.admitted then s
    else match (SMap.get? s.ctxs l.ctx).bind (fun c => s.anchorAt c (l.anchors.getD l.admitted 0)) with
    | none => s.failLaunch lid l
    | some (m, win) =>
      let (ord, s1) := (s.note deckUnit 2 l.ctx (l.headNo.setWidth 64) (BitVec.ofNat 64 l.admitted) (BitVec.allOnes 64)).fresh
      let s2 := s1.updLaunch lid (fun l => { l with admitted := l.admitted + 1, order := if l.order = 0 then ord else l.order })
      let s3 := s2.updMast m (fun t => { t with order := t.order ++ [(lid, l.admitted)] })
      if l.gang = 0 then s3 else s3.reserve lid l.admitted l m win

/-- Some crews are admitted, in ascending index. -/
def State.admitCrews (s : State) (lid : Nat) : Nat → State
  | 0 => s
  | n + 1 => State.admitCrews (s.admitCrew lid) lid n

/-- A queue's turn in its class (R273): it admits crews while its deficit lasts; at most n of them. -/
def State.turn (s : State) (k lid : Nat) : Nat → State
  | 0 => s
  | n + 1 =>
    match SMap.get? s.queues k with
    | none => s
    | some q =>
      match s.eligible q with
      | none => s
      | some (_, l) =>
        if q.dc ≤ 0 then s
        else if l.gang ≠ 0 then
          let s1 := (s.admitCrews lid l.crews).updLaunch lid (fun l' => if l'.crews = l.crews then { l' with gangAge := some 0 } else l')
          s1.putQueue k { q with dc := q.dc - ((l.crews * q.adv * 4096 : Nat) : Int) }
        else
          State.turn ((s.admitCrew lid).putQueue k { q with dc := q.dc - ((q.adv * 4096 : Nat) : Int) }) k lid n

/-- The queue of a class that is served next (R273). -/
def State.nextQueue (s : State) (cls : Nat) : Option (Nat × Queue × Nat × Launch) :=
  let mine := s.queues.filterMap (fun e => match s.eligible e.2 with
    | some (lid, l) => if l.prio = cls then some (e.1, e.2, lid, l) else none
    | none => none)
  let p := (RMap.get s.ptrs cls).toNat
  (mine.find? (fun e => decide (e.1 ≥ p))).orElse (fun _ => mine.head?)

/-- CREW ADMISSION: one turn of the deficit round-robin (R272, R273). -/
def execCrewAdmission (s : State) : Host.Outcome State Fault Refusal :=
  let best := [3, 2, 1, 0].findSome? (fun cls => (s.nextQueue cls).map (fun e => (cls, e)))
  .next (if s.bosun.hold then s else match best with
    | none => s
    | some (cls, k, q, lid, l) =>
      let s1 := s.putQueue k { q with dc := q.dc + ((q.quant * 4096 : Nat) : Int) }
      let s2 := s1.turn k lid (l.crews - l.admitted)
      let s3 := { s2 with ptrs := RMap.set s2.ptrs cls (BitVec.ofNat 32 (k + 1)) }
      let left := match SMap.get? s3.launches lid with | some l => decide (l.admitted < l.crews) | none => false
      match SMap.get? s3.queues k with
      | some q => if left then s3 else s3.putQueue k { q with dc := if q.dc > 0 then 0 else q.dc, phase := .idle }
      | none => s3)

/-! ## Placement (R275 to R279) -/

/-- Zero a station's local space on a change of owner, and give it to a context (R277). -/
def State.giveStation (s : State) (m n : Nat) (ctx : Nat) : State :=
  if (s.stn m n).tag = BitVec.ofNat 16 ctx then s
  else
    let lo := localCell m n 0
    let hi := lo + 0x140000
    let off := fun (c : Nat) => !(decide (lo ≤ c) && decide (c < hi))
    ({ s with mem := s.mem.filter (fun e => off e.1), bad := s.bad.filter off, soft := s.soft.filter off }).updStn m n
      (fun st => { st with tag := BitVec.ofNat 16 ctx })

/-- Group g of a crew begins (R270). A BASE that passes its field stays at the field's last value, so that R36 fails every access of
that stack; what the field then holds is the model's choice. -/
def State.beginGroup (s : State) (l : Launch) (cid cix m n g : Nat) (anchor : Word) : State :=
  let (gid, s1) := s.fresh
  let (sid, s2) := s1.fresh
  let base := min (fieldOf l.pseg 0 21 + g * fieldOf l.pseg 32 21) 0x1FFFE0
  let pseg := BitVec.ofNat 64 (l.pseg.toNat / 2 ^ 21 * 2 ^ 21 + base)
  let ctl : Word := (if l.dit then 2 else 0) + (if l.chk then 1 else 0)
  let sg := SubGroup.launch gid m n l.width l.entry (s.stn m n).cycles [l.param, anchor] ctl l.dldef (BitVec.ofNat 64 (cix * l.groups + g)) pseg
  { s2 with groups := SMap.put s2.groups gid (Group.launch l.ctx (some cid) g l.width l.wins), subs := SMap.put s2.subs sid sg }.updCrew cid
    (fun c => { c with groups := c.groups ++ [gid] })

/-- A crew is bound to a station and its groups begin (R270, R275, R277). -/
def State.placeCrew (s : State) (lid cix : Nat) (l : Launch) (m n : Nat) : State :=
  let anchor := l.anchors.getD cix 0
  let s1 := (s.note deckUnit 2 l.ctx (l.headNo.setWidth 64) (BitVec.ofNat 64 cix) (BitVec.ofNat 64 (m % 16 * 64 + n))).giveStation m n l.ctx
  let (cid, s2) := s1.fresh
  let cr : Crew := { lid := lid, cix := cix, mast := m, stn := n, anchor := anchor, lseg := l.lseg, bars := [], tags := [], pushers := [],
                     groups := [], rsv := l.rsv, weight := l.weight, placedAt := (s.stn m n).cycles, saved := none }
  let s3 : State := { s2 with crews := SMap.put s2.crews cid cr }
  let s4 := s3.updStn m n (fun st => { st with crew := some cid, resv := none })
  let s5 := s4.updMast m (fun t => { t with order := t.order.filter (fun e => decide (e ≠ (lid, cix))) })
  let s6 := s5.updLaunch lid (fun l => { l with placed := l.placed + 1 })
  (List.range l.groups).foldl (fun s g => s.beginGroup l cid cix m n g anchor) s6

/-- CREW PLACEMENT (R275, R276): the crew at some place of the mast's placement order. The head is placed, or has reserved a
station; one behind it is placed only where it fits at once; a gang's crew only reserves. -/
def execCrewPlacement (mast crew : Nat) (s0 : State) : Host.Outcome State Fault Refusal :=
  let s := s0.reserveHeads mast
  .next (match (s.mast mast).order[crew]? with
    | none => s
    | some (lid, cix) =>
      match SMap.get? s.launches lid with
      | none => s
      | some l =>
        match SMap.get? s.ctxs l.ctx with
        | none => s
        | some c =>
          if c.st ≠ .running || s.bosun.hold || s.gangBlocks lid l || decide (l.gang ≠ 0) then s
          else match s.anchorAt c (l.anchors.getD cix 0) with
            | none => s.failLaunch lid l
            | some (m, win) =>
              let head := decide (s.headCrew mast = some (lid, cix))
              let own := s.reservedFor lid cix mast
              let fit := (s.candidates l m win).filter (fun n => s.takesCrew lid cix l m n && (head || (s.stn m n).resv.isNone))
              match s.roomiest m fit with
              | some n =>
                let s1 := match own with | some k => s.updStn m k (fun st => { st with resv := none }) | none => s
                s1.placeCrew lid cix l m n
              | none => s)

/-- The places of a gang's crews: mast, station and crew index (R278). -/
def State.gangPlaces (s : State) (lid : Nat) (l : Launch) : List (Nat × Nat × Nat) :=
  (List.range l.crews).filterMap (fun cix => s.ownMasts.findSome? (fun m => (s.reservedFor lid cix m).map (fun n => (m, n, cix))))

/-- GANG START (R278): every crew of the pending gang is placed in one step. -/
def execGangStart (s : State) : Host.Outcome State Fault Refusal :=
  .next (match s.pendingGang with
    | none => s
    | some lid =>
      match SMap.get? s.launches lid with
      | none => s
      | some l =>
        let ps := s.gangPlaces lid l
        if s.bosun.hold || !s.crewRuns lid || decide (ps.length < l.crews) || ps.any (fun e => !s.takesCrew lid e.2.2 l e.1 e.2.1) then s
        else (ps.foldl (fun s e => s.placeCrew lid e.2.2 l e.1 e.2.1) s).updLaunch lid (fun l => { l with gangAge := none, gangHeld := false }))

/-- The age from which a pending gang holds back later crews (R279). -/
def gangLimit : Nat := 65536

/-- A pending gang reaches its age limit (R279). -/
def execGangAgeLimit (s : State) : Host.Outcome State Fault Refusal :=
  .next (match s.pendingGang with
    | none => s
    | some lid => s.updLaunch lid (fun l =>
        match l.gangAge with
        | some a => if a.toNat ≥ gangLimit then { l with gangHeld := true } else l
        | none => l))

/-! ## Completion (R266) -/

/-- Whether some work of a group is still outstanding (R266): operations not yet acknowledged, statuses not yet delivered,
lanes not yet ended. -/
def State.groupBusy (s : State) (gid : Nat) : Bool :=
  match SMap.get? s.groups gid with
  | none => false
  | some g =>
    g.ended != BitVec.allOnes 64 || g.imaged != 0 || g.counts.any (fun e => decide (e.2 ≠ 0)) || !g.outst.isEmpty ||
    s.slices.any (fun e => decide (e.2.gid = gid)) || s.calls.any (fun e => decide (e.2.gid = gid)) ||
    s.masts.any (fun e => e.2.caps.any (fun c => decide (c.gid = gid)))

/-- The crews of a launch. -/
def State.crewsOf (s : State) (lid : Nat) : SMap Crew := s.crews.filter (fun e => decide (e.2.lid = lid))

/-- Whether a launch has completed (R266). -/
def State.launchDone (s : State) (lid : Nat) (l : Launch) : Bool :=
  decide (l.admitted ≥ l.crews) && decide (l.placed ≥ l.crews) && decide (l.retired ≥ l.crews) &&
  (s.crewsOf lid).all (fun e => e.2.groups.all (fun g => !s.groupBusy g))

/-- The add to a completed launch's counter (R265, R266). -/
def State.judgeCount (s : State) (lid : Nat) (l : Launch) : State :=
  let gone := fun (s : State) => { s with launches := SMap.del s.launches lid }
  if l.counter = 0 then gone s
  else match s.counterAt l.ctx l.counter 1 l.x with
    | (s1, .at cell) => gone (s1.addAt l.ctx cell l.incr)
    | (s1, .wait y) => s1.updLaunch lid (fun l => { l with x := y })
    | (s1, .failed) =>
      match SMap.get? s1.queues l.queue with
      | some q => gone (s1.stopQueue l.queue q l.headNo l.word0)
      | none => gone s1

/-- LAUNCH COMPLETE (R266): the counters of its grid barriers are free, and its increment is added. -/
def execLaunchComplete (launch : Nat) (s : State) : Host.Outcome State Fault Refusal :=
  .next (match SMap.get? s.launches launch with
    | none => s
    | some l =>
      if l.dev ≠ s.dev then s
      else if l.counted then s.judgeCount launch l
      else if s.launchDone launch l then
        let gs := (s.crewsOf launch).flatMap (fun e => e.2.groups)
        let s1 : State := { s with
          groups := s.groups.filter (fun e => !gs.contains e.1)
          ties := s.ties.filter (fun e => !gs.contains e.2.gid)
          crews := s.crews.filter (fun e => decide (e.2.lid ≠ launch)) }
        let l1 : Launch := { l with counted := true, grid := [], mbars := [] }
        ({ s1 with launches := SMap.put s1.launches launch l1 }).judgeCount launch l1
      else s)

end Sys2Proof.Machine
end

