-- ==== Sys2Proof/Machine/Walker.lean ====
section
/-! DEFINITION. The hardware walker, faults held at their homes and their release (spec 15, R291 to R300). -/

namespace Sys2Proof.Machine

open Sys2Proof

/-! ## The requests that wait for a page (R296) -/

/-- The requests of a wait. -/
def WaitKind.xs : WaitKind → List XlReq
  | .fetch x | .access x _ | .page x | .trapEntry _ _ x => [x]
  | .ldw _ _ _ _ _ _ xs => xs
  | .capr _ x | .capw _ x => x.toList
  | .scoreboard _ | .fence _ _ _ _ | .barrier _ _ _ _ _ | .queuePush _ _ | .queuePop _ _ | .slice _ | .cpw _ _ | .bwait _ | .bcall | .qld
  | .tie | .transit _ | .sent _ | .standBy _ => []

/-- The requests of a wait, each with the number of lanes that it holds (R297). -/
def State.waitXs (s : State) (w : Wait) : List (Nat × XlReq) :=
  match w.kind, s.runOf w with
  | .ldw ops _ _ _ _ _ xs, some r =>
    let t := s.enter (r.sg.mast / 16)
    xs.map (fun x => ((ops.filter (fun o => decide (pageOf (t.dirOf r o.addr) = pageOf x.va))).length, x))
  | k, _ => k.xs.map (fun x => (popCount w.lanes, x))

/-- Change the request of a wait. -/
def WaitKind.mapX (f : XlReq → XlReq) : WaitKind → WaitKind
  | .fetch x => .fetch (f x)
  | .access x t => .access (f x) t
  | .page x => .page (f x)
  | .trapEntry t n x => .trapEntry t n (f x)
  | .ldw a b c d e g x => .ldw a b c d e g (x.map f)
  | .capr b x => .capr b (x.map f)
  | .capw b x => .capw b (x.map f)
  | k => k

/-- The request of a message. -/
def MsgBody.x : MsgBody → Option XlReq
  | .posted _ _ _ _ _ _ x => x
  | _ => none

/-- Change the request of a message. -/
def MsgBody.mapX (f : XlReq → XlReq) : MsgBody → MsgBody
  | .posted a b c d e g x => .posted a b c d e g (x.map f)
  | b => b

/-- The request of a queue. -/
def QPhase.x : QPhase → Option XlReq
  | .waiting _ _ _ _ x | .adding _ _ _ x => x
  | .idle | .launching _ => none

/-- Change the request of a queue. -/
def QPhase.mapX (f : XlReq → XlReq) : QPhase → QPhase
  | .waiting a b c d x => .waiting a b c d (x.map f)
  | .adding a b c x => .adding a b c (x.map f)
  | p => p

/-- Every request that waits for a page, with the number of lanes that it holds; 0 where no lane waits (R297). -/
def State.xreqs (s : State) : List (Nat × XlReq) :=
  let bare := fun (x : Option XlReq) => x.map (fun y => (0, y))
  s.waits.flatMap (fun e => s.waitXs e.2) ++
  s.msgs.filterMap (fun e => bare e.2.body.x) ++
  s.groups.flatMap (fun e => e.2.streams.flatMap (fun q => q.2.reqs.filterMap (fun r => bare r.x))) ++
  s.slices.filterMap (fun e => bare e.2.x) ++
  s.masts.flatMap (fun e => e.2.caps.filterMap (fun c => bare c.x)) ++
  s.calls.filterMap (fun e => bare e.2.x) ++
  s.launches.filterMap (fun e => bare e.2.x) ++
  (s.part :: s.others.map (fun e => e.2)).flatMap (fun p =>
    p.queues.filterMap (fun e => bare e.2.phase.x) ++ p.qps.filterMap (fun e => bare e.2.x))

/-- Change the requests of a device's queues. -/
def mapQueues (f : XlReq → XlReq) (m : SMap Queue) : SMap Queue := m.map (fun (e : Nat × Queue) => (e.1, { e.2 with phase := e.2.phase.mapX f }))

/-- Change the requests of a device's queue pairs. -/
def mapQps (f : XlReq → XlReq) (m : SMap Qp) : SMap Qp := m.map (fun (e : Nat × Qp) => (e.1, { e.2 with x := e.2.x.map f }))

/-- Change every request that waits for a page. -/
def State.mapX (s : State) (f : XlReq → XlReq) : State :=
  { s with
    waits := s.waits.map (fun (e : Nat × Wait) => (e.1, { e.2 with kind := e.2.kind.mapX f }))
    msgs := s.msgs.map (fun (e : Nat × Msg) => (e.1, { e.2 with body := e.2.body.mapX f }))
    groups := s.groups.map (fun (e : Nat × Group) => (e.1, { e.2 with streams := e.2.streams.map (fun (q : Nat × Stream) =>
      (q.1, { q.2 with reqs := q.2.reqs.map (fun (r : StreamReq) => { r with x := r.x.map f }) })) }))
    slices := s.slices.map (fun (e : Nat × Slice) => (e.1, { e.2 with x := e.2.x.map f }))
    masts := s.masts.map (fun (e : Nat × Mast) => (e.1, { e.2 with caps := e.2.caps.map (fun (c : CapEntry) => { c with x := c.x.map f }) }))
    calls := s.calls.map (fun (e : Nat × JibCall) => (e.1, { e.2 with x := e.2.x.map f }))
    launches := s.launches.map (fun (e : Nat × Launch) => (e.1, { e.2 with x := e.2.x.map f }))
    queues := mapQueues f s.queues
    qps := mapQps f s.qps
    others := s.others.map (fun (e : Nat × Device) => (e.1, { e.2 with queues := mapQueues f e.2.queues, qps := mapQps f e.2.qps })) }

/-- The mast where a request waits. -/
def State.xmast (s : State) (x : XlReq) : Nat := s.vaMast x.va

/-! ## Requests that go on (R122, R296, R299) -/

/-- Lanes in fault hold try their access again (R122, R299); fences that count it are judged anew (R140). -/
def State.accessAgain (s : State) (wid : Nat) (w : Wait) (x : XlReq) (t : ThreadAcc) : State :=
  match s.runOf w with
  | none => s
  | some r =>
    if x.fail then (s.trapWait wid w 0x11 0 x.va w.lanes).judgeFences r.gid
    else if x.held.isSome then s
    else
      let acc : BitVec 2 := if t.op.writes then 1 else 0
      let items : List CellAcc := t.ops.filterMap (fun o => match s.placeOf r.g.ctx o.addr acc with
        | .cell c => some (o, c)
        | .hold | .bounds | .walkEnd => none)
      if items.length = t.ops.length then
        let s1 := { s with waits := SMap.del s.waits wid }.performAt r t items
        (if s.failing t items = [] then s1.joinStand wid r.sid (r.passed s1 r.act) else s1).judgeFences r.gid
      else
        let (s1, _, y) := s.tryXl (XlReq.mk' x.ctx x.va acc)
        { s1 with waits := SMap.put s1.waits wid { w with kind := .access y t } }

/-- Lanes that wait for the page of their trap frame try to enter again (R196). -/
def State.entryAgain (s : State) (wid : Nat) (w : Wait) (t : TrapReq) (f : Nat) (x : XlReq) : State :=
  match SMap.get? s.subs w.sid with
  | none => s
  | some sg =>
    match SMap.get? s.groups sg.gid with
    | none => s
    | some g =>
      match SMap.get? s.ctxs g.ctx, s.crewOf g with
      | some c, some cr =>
        let va := (s.frameOf g cr f).getD 0
        let last := va + 0x278
        if x.fail then s.stopEntry wid w t f
        else if x.held.isSome then s
        else match s.frameAt g.ctx c va, s.frameAt g.ctx c last with
          | .bad, _ | _, .bad => s.stopEntry wid w t f
          | .cell _, .cell _ => (({ s with waits := SMap.del s.waits wid }).enterFrame w.sid w.lanes sg g c va f t).holdReady w.sid
          | .wait, _ | _, .wait =>
            let page := match s.frameAt g.ctx c va with | .wait => va | .cell _ | .bad => last
            let (s1, _, y) := s.tryXl (XlReq.mk' g.ctx (s.direct c page) 1)
            { s1 with waits := SMap.put s1.waits wid { w with kind := .trapEntry t f y } }
      | _, _ => s

/-- A wait whose request changed goes on, fails, or waits again; fetches, CAPR and what no lane waits for go on by happenings of
their own. -/
def State.waitAgain (s : State) (wid : Nat) : State :=
  match SMap.get? s.waits wid with
  | none => s
  | some w =>
    match w.kind with
    | .access x t => s.accessAgain wid w x t
    | .trapEntry t f x => s.entryAgain wid w t f x
    | .page x =>
      if x.fail then s.trapWait wid w 0x11 0 x.va w.lanes else if x.held.isSome then s else s.redoWait wid w
    | .ldw _ _ _ _ _ _ (_ :: _) => s.ldwFail wid
    | .capw _ (some x) => if x.fail then s.trapWait wid w 0x11 0 x.va w.lanes else s.capwEval wid
    | .ldw _ _ _ _ _ _ [] | .capw _ none | .capr _ _ | .fetch _ | .scoreboard _ | .fence _ _ _ _ | .barrier _ _ _ _ _ | .queuePush _ _
    | .queuePop _ _ | .slice _ | .cpw _ _ | .bwait _ | .bcall | .qld | .tie | .transit _ | .sent _ | .standBy _ => s

/-- A wait goes on, as the device sees it on which its lanes wait. -/
def State.waitAgainAt (s : State) (wid : Nat) : State :=
  match (SMap.get? s.waits wid).bind (fun w => SMap.get? s.subs w.sid) with
  | some sg => s.on (sg.mast / 16) (fun s => s.waitAgain wid)
  | none => s

/-- The requests that a test names change, and the waits among them go on. -/
def State.release (s : State) (hit : XlReq → Bool) (f : XlReq → XlReq) : State :=
  let ids := (s.waits.filter (fun e => e.2.kind.xs.any hit)).map (fun e => e.1)
  ids.foldl State.waitAgainAt (s.mapX (fun x => if hit x then f x else x))

/-! ## The walk (R291, R292) -/

/-- WALK START (R291): the first request of a mast gets the walker group. -/
def execWalkStart (mast : Nat) (s : State) : Host.Outcome State Fault Refusal :=
  let t := s.mast mast
  .next (match t.walks, t.walk, s.walkerStn mast with
    | r :: rest, none, some n =>
      (match s.ctxAt mast r.ctx with
       | none => s.updMast mast (fun t => { t with walks := rest })
       | some c =>
         if t.fenced then s
         else
           let (gid, s1) := s.fresh
           let (sid, s2) := s1.fresh
           let tb := RMap.get c.tb (mast % 16)
           let args : List Word := [r.va, BitVec.ofNat 64 (tb.toNat / 2 * 2 ^ 16), r.kind.setWidth 64, BitVec.ofNat 64 r.ctx]
           let sg := SubGroup.launch gid mast n 8 c.wentry (s.stn mast n).cycles args 4 65536 0 0
           let s3 : State := { s2 with
             groups := SMap.put s2.groups gid (Group.launch r.ctx none 0 8 1), subs := SMap.put s2.subs sid sg }
           s3.updMast mast (fun t => { t with walks := rest, walk := some { req := r, gid := gid, sid := sid, out := none, again := false, ended := false } }))
    | _, _, _ => s)

/-- Whether a request merged into a walk (R291): its context, page and kind, and it waits for no release. -/
def XlReq.merged (w : WalkReq) (x : XlReq) : Bool :=
  decide (x.ctx = w.ctx) && decide (pageOf x.va = pageOf w.va) && decide ((if x.acc = 1 then 1 else 0 : BitVec 1) = w.kind) &&
  x.held.isNone && !x.fail

/-- WHY of a walk that has ended (R291, R292); none where its requests translate again. -/
def Walk.why (w : Walk) : Option (BitVec 8) :=
  if w.ended then some 5
  else match w.out with
    | none => some 5
    | some o => if o = 0 || o = 0xFF then none else some o

/-- WALK END (R291, R292): every merged request translates again, or its fault is held (R296, R297). -/
def execWalkEnd (mast : Nat) (s : State) : Host.Outcome State Fault Refusal :=
  .next (match (s.mast mast).walk with
    | none => s
    | some w =>
      let live := match SMap.get? s.groups w.gid with | some g => g.ended != BitVec.allOnes 64 | none => false
      if live then s
      else
        let s1 : State := { s with
          groups := SMap.del s.groups w.gid
          subs := s.subs.filter (fun e => decide (e.2.gid ≠ w.gid)) }
        let s2 := s1.updMast mast (fun t => { t with walk := none })
        let hit := XlReq.merged w.req
        match w.why with
        | none => s2.release hit (fun x => x)
        | some y =>
          if s2.xreqs.any (fun e => hit e.2) then
            let (s3, q) := s2.holdFault w.req.ctx w.req.va y w.req.acc
            s3.release hit (fun x => { x with held := some q })
          else s2)

/-! ## Release (R299, R300) -/

/-- The slot that an entry leaves takes the oldest unreported fault (R299, R300). -/
def fillSlot (fs : List FaultEnt) (idx : Nat) : List FaultEnt :=
  let waiting := fs.filter (fun f => f.slot.isNone)
  match waiting.foldl (fun (b : Option FaultEnt) f => match b with
    | some x => if x.seq.toNat ≤ f.seq.toNat then some x else some f
    | none => some f) none with
  | some o => fs.map (fun f => if f.seq = o.seq then { f with slot := some idx } else f)
  | none => fs

/-- Take an entry out of a mast's fault buffer (R299, R300). -/
def State.dropFault (s : State) (mast : Nat) (f : FaultEnt) : State :=
  let t := s.mast mast
  let left := t.faults.filter (fun e => decide (e.seq ≠ f.seq))
  match f.slot with
  | none => s.updMast mast (fun t => { t with faults := left })
  | some idx =>
    let more := left.any (fun e => e.slot.isNone)
    (s.updMast mast (fun t => { t with faults := fillSlot left idx, newi := t.newi || more })).faultEvent mast t.newi t.ovfi

/-- A release write (R299): it names an entry in use by its slot and its sequence number. -/
def State.releaseEntry (s : State) (mast idx : Nat) (seq : BitVec 32) (act : Nat) (f : XlReq → XlReq) : State :=
  match (s.mast mast).faults.find? (fun e => decide (e.slot = some idx) && decide (e.seq = seq)) with
  | none => s
  | some e =>
    let hit := fun (x : XlReq) => decide (x.held = some seq) && decide (s.xmast x = mast)
    ((s.noteAt mast 9 e.ctx (seq.setWidth 64) (BitVec.ofNat 64 act) 0).dropFault mast e).release hit f

/-- RETRY (R299). -/
def execRetry (mast idx : Nat) (seq : BitVec 32) (s : State) : Host.Outcome State Fault Refusal :=
  .next (s.releaseEntry mast idx seq 0 (fun x => { x with held := none }))

/-- FAIL (R299). -/
def execFail (mast idx : Nat) (seq : BitVec 32) (s : State) : Host.Outcome State Fault Refusal :=
  .next (s.releaseEntry mast idx seq 1 (fun x => { x with held := none, fail := true }))

/-! ## What the host reads (R297, R298) -/

/-- The lanes and the other requests that an entry holds (R297). -/
def State.heldCounts (s : State) (mast : Nat) (f : FaultEnt) : Nat × Nat :=
  let mine := s.xreqs.filter (fun e => decide (e.2.held = some f.seq) && decide (s.xmast e.2 = mast))
  ((mine.map (fun e => e.1)).sum, (mine.filter (fun e => decide (e.1 = 0))).length)

/-- A fault register of a mast (R297, R298). -/
def State.faultReg (s : State) (mast off : Nat) : Word :=
  let t := s.mast mast
  if off < 0x2000 then
    match t.faults.find? (fun f => decide (f.slot = some (off / 32))) with
    | none => 0
    | some f =>
      let n := s.heldCounts mast f
      (match off % 32 / 8 with
       | 0 => f.va
       | 1 => packWord [(f.ctx, 48), (f.why.toNat, 40), (f.acc.toNat, 32), (f.seq.toNat, 0)]
       | 2 => packWord [(n.1, 32), (n.2, 0)]
       | _ => 1)
  else if off = 0x2000 then packWord [(t.ovf.toNat, 32), ((t.faults.filter (fun f => f.slot.isSome)).length, 0)]
  else if off = 0x2010 then (if t.newi then 1 else 0) + (if t.ovfi then 2 else 0)
  else 0

end Sys2Proof.Machine
end

