-- ==== Sys2Proof/Machine/Escalate.lean ====
section
/-! DEFINITION. The escalation count (spec 11, R255, R256), and the forced reset of a context (spec 15, R306). -/

namespace Sys2Proof.Machine

open Sys2Proof

/-! ## Escalation (R255, R256) -/

/-- Slices not yet accepted whose lanes wait for them no more are withdrawn. -/
def State.dropSlices (s : State) : State :=
  let wanted := s.waits.filterMap (fun e => match e.2.kind with | .slice k => some k | _ => none)
  { s with slices := s.slices.filter (fun e => e.2.entry || wanted.contains e.1) }

/-- Lanes of a group held at tie points leave the hold, to take a trap where they stand. -/
def State.unhold (s : State) (gid : Nat) (lanes : Mask) : State :=
  (s.ties.filter (fun e => decide (e.2.gid = gid) && decide (e.2.held &&& lanes ≠ 0))).foldl (fun s e =>
    match SMap.get? s.ties e.1 with
    | some t => s.leaveHold e.1 t (t.held &&& lanes) (fun l =>
        (((t.sid.bind (SMap.get? s.subs)).bind (fun sg => SMap.get? sg.lanes l)).map (fun x => x.pc)).getD 0)
    | none => s) s

/-- The lanes of a sub-group that can take a trap now: those on their way, halted or stopped cannot, nor those still entering a handler. -/
def State.trappable (s : State) (sid : Nat) (sg : SubGroup) (lanes : Mask) : Mask :=
  let entering := s.waits.foldl (fun a e => match e.2.kind with
    | .trapEntry _ _ _ => if e.2.sid = sid then a ||| e.2.lanes else a
    | _ => a) 0
  lanes &&& ~~~entering &&& sg.laneMask (fun l => decide (l.st ≠ .transit) && decide (l.st ≠ .halted) && decide (l.st ≠ .stopped))

/-- The escalation trap in a group (R256): by the lanes that are on a station; those on their way or saved take it later, and
with no lane left it becomes a fault record. -/
def State.raiseEscalation (s : State) (gid : Nat) (g : Group) (lanes : Mask) (dl pc : Word) (len : Nat) (iw xw : Word) : State :=
  let alive := lanes &&& ~~~g.ended
  let t : TrapReq := { cause := 0x10, detail := 2, info := dl, fmask := lanes, next := true, tpc := pc, len := len, iword := iw, xword := xw }
  if alive = 0 then s.faultRecord g t dl
  else
    let s1 := s.unhold gid alive
    let here := s1.subs.filterMap (fun e =>
      let m := s1.trappable e.1 e.2 alive
      if e.2.gid = gid && decide (m ≠ 0) then some (e.1, m) else none)
    let s2 := here.foldl (fun s e => ((s.detach e.1 e.2).atSub e.1 (fun s => s.enterTrap e.1 e.2 t)).dropSlices) s1
    let left := alive &&& ~~~(here.foldl (fun a e => a ||| e.2) 0)
    if left = 0 then s2 else s2.send (cpPort s.dev) (cpPort s.dev) (.escTrap gid left dl pc len iw xw)

/-- The limit of a context's escalation count (R255). -/
def Ctx.limit (c : Ctx) : Nat := if c.esclim = 0 then 16 else c.esclim

/-- ESC changes; while its context is saved, in the save area too, from which RESTORE loads it (R255, R301). -/
def State.setEsc (s : State) (ctx : Nat) (c : Ctx) (n : Nat) : State :=
  let s1 := s.updCtx ctx (fun c => { c with esc := n })
  if c.st = .saved || c.st = .restoring then s1.cpBytes ctx c (c.save + 0x28) (leBytes 8 n) else s1

/-- Escalation notices of one mast are applied in the order in which it received them (R255): an increment, which may raise the trap. -/
def State.applyInc (s : State) (ctx gid : Nat) (lanes : Mask) (dl pc : Word) (len : Nat) (iw xw : Word) : State :=
  let s1 := s.note deckUnit 6 ctx 0x40000 (s.requester gid (lowest lanes)) 0
  match SMap.get? s.ctxs ctx, SMap.get? s.groups gid with
  | some c, some g =>
    if c.esc + 1 ≥ c.limit then (s1.setEsc ctx c 0).raiseEscalation gid g lanes dl pc len iw xw else s1.setEsc ctx c (c.esc + 1)
  | some c, none => s1.setEsc ctx c (if c.esc + 1 ≥ c.limit then 0 else c.esc + 1)
  | none, _ => s1

/-- A trap that waited for its lanes is taken by those that can now (R256). -/
def State.retryTrap (s : State) (gid : Nat) (g : Group) (lanes : Mask) (dl pc : Word) (len : Nat) (iw xw : Word) : Option State :=
  if s.subs.any (fun e => decide (e.2.gid = gid) && decide (s.trappable e.1 e.2 lanes ≠ 0)) || decide (lanes &&& ~~~g.ended = 0) then
    some (s.raiseEscalation gid g lanes dl pc len iw xw)
  else none

/-- An increment notice reaches the Command Processor, or a trap that waited for its lanes is taken (R255, R256). -/
def execEscalationIncrement (msg : Nat) (s : State) : Host.Outcome State Fault Refusal :=
  .next (match SMap.get? s.msgs msg with
    | some m =>
      let s1 : State := { s with msgs := SMap.del s.msgs msg }
      (match m.body with
       | .escInc ctx gid lanes dl pc len iw xw => if s.firstMsg msg m then s1.applyInc ctx gid lanes dl pc len iw xw else s
       | .escTrap gid lanes dl pc len iw xw =>
         (match SMap.get? s.groups gid with
          | some g => (s1.retryTrap gid g lanes dl pc len iw xw).getD s
          | none => s1)
       | .posted _ _ _ _ _ _ _ | .ack _ _ _ _ _ | .tieNotice _ _ _ _ _ _ _ | .exitNotice _ _ | .barArrive _ _ _ _ | .barWithdraw _ _ _ _
       | .barExit _ _ | .barDone _ _ | .escReset _ | .segld _ _ _ | .tlbi _ _ _ | .done _ => s)
    | none => s)

/-- A reset notice reaches the Command Processor (R255). -/
def execEscalationReset (msg : Nat) (s : State) : Host.Outcome State Fault Refusal :=
  .next (match SMap.get? s.msgs msg with
    | some m =>
      (match m.body with
       | .escReset ctx =>
         if s.firstMsg msg m then
           let s1 := { s with msgs := SMap.del s.msgs msg }.note deckUnit 6 ctx 0x40001 0 0
           ((SMap.get? s.ctxs ctx).map (fun c => s1.setEsc ctx c 0)).getD s1
         else s
       | .posted _ _ _ _ _ _ _ | .ack _ _ _ _ _ | .tieNotice _ _ _ _ _ _ _ | .exitNotice _ _ | .barArrive _ _ _ _ | .barWithdraw _ _ _ _
       | .barExit _ _ | .barDone _ _ | .escInc _ _ _ _ _ _ _ _ | .escTrap _ _ _ _ _ _ _ | .segld _ _ _ | .tlbi _ _ _ | .done _ => s)
    | none => s)

/-! ## Forced reset (R306) -/

/-- The groups of a context that belong to crews of this device. -/
def State.ctxGroups (s : State) (ctx : Nat) : List Nat :=
  (s.groups.filter (fun e => decide (e.2.ctx = ctx) && (match s.crewOf e.2 with | some c => s.own c.mast | none => false))).map (fun e => e.1)

/-- The sub-groups of a context that stand on stations of this device, whatever their crew's device; no walker's. -/
def State.ctxSubs (s : State) (ctx : Nat) : List (Nat × SubGroup) :=
  s.subs.filter (fun e => s.own e.2.mast && (match SMap.get? s.groups e.2.gid with | some g => decide (g.ctx = ctx) && !g.walker | none => false))

/-- STATE in a save area (R301). -/
def ctxStCode : CtxSt → Nat
  | .running => 0 | .saving => 1 | .saved => 2 | .restoring => 3 | .reset => 4

/-- A context's STATE changes, in the device and in its save area (R301). -/
def State.setCtxSt (s : State) (ctx : Nat) (st : CtxSt) : State :=
  match SMap.get? s.ctxs ctx with
  | none => s
  | some c =>
    (s.updCtx ctx (fun c => { c with st := st })).cpBytes ctx c c.save (leBytes 8 (packWord [(ctx, 48), (ctxStCode st, 0)]).toNat)

/-- The group that a message is about. -/
def MsgBody.gid : MsgBody → Option Nat
  | .posted g _ _ _ _ _ _ | .ack g _ _ _ _ | .tieNotice _ g _ _ _ _ _ | .exitNotice g _ | .escInc _ g _ _ _ _ _ _ | .escTrap g _ _ _ _ _ _ => some g
  | .barArrive _ _ _ _ | .barWithdraw _ _ _ _ | .barExit _ _ | .barDone _ _ | .escReset _ | .segld _ _ _ | .tlbi _ _ _ | .done _ => none

/-- The crew or launch that a barrier message is about. -/
def MsgBody.bar : MsgBody → Option BarRef
  | .barArrive r _ _ _ | .barWithdraw r _ _ _ | .barExit r _ | .barDone r _ => some r
  | _ => none

/-- Release every fault of a context as FAIL (R306). -/
def State.failFaults (s : State) (ctx : Nat) : State :=
  let fs := (s.masts.filter (fun e => s.own e.1)).flatMap (fun e => (e.2.faults.filter (fun f => decide (f.ctx = ctx))).map (fun f => (e.1, f)))
  fs.foldl (fun s e =>
    let hit := fun (x : XlReq) => decide (x.held = some e.2.seq) && decide (s.xmast x = e.1)
    (s.dropFault e.1 e.2).release hit (fun x => { x with held := none, fail := true })) s

/-- The lanes of a sub-group end, whatever they wait for. -/
def State.endSub (s : State) (sid : Nat) (sg : SubGroup) : State := (s.detach sid sg.all).endLanes sid sg.all

/-- Lanes of a context that are here, or in images landed here, for crews of other devices end as by EXIT (R306). -/
def State.endGuests (s : State) (ctx : Nat) (gs : List Nat) : State :=
  let s1 := ((s.ctxSubs ctx).filter (fun e => !gs.contains e.2.gid)).foldl (fun s e => s.endSub e.1 e.2) s
  let landed := s1.images.filter (fun e => s.own e.2.tmast && e.2.landedAt e.2.tmast && !gs.contains e.2.sg.gid &&
    (match SMap.get? s1.groups e.2.sg.gid with | some g => decide (g.ctx = ctx) | none => false))
  landed.foldl (fun s e =>
    let (sid, t) := s.fresh
    { t with images := SMap.del t.images e.1, subs := SMap.put t.subs sid { e.2.sg with mast := e.2.tmast, stn := min e.2.tstn 63 } }.endLanes sid e.2.sg.all) s1

/-- Everything of a context that runs on this device or for its crews ends: lanes, images, waits, tie records, barriers, launches, jib
calls and walks. Engine operations in progress run on, and keep the records that they name (R306, R168, R175). -/
def State.clearContext (s00 : State) (ctx : Nat) : State :=
  let gs := s00.ctxGroups ctx
  let s := s00.endGuests ctx gs
  let inGs := fun (g : Nat) => gs.contains g
  let ls := (s.launches.filter (fun e => decide (e.2.ctx = ctx) && decide (e.2.dev = s.dev))).map (fun e => e.1)
  let cs := (s.crews.filter (fun e => e.2.groups.any inGs || ls.contains e.2.lid)).map (fun e => e.1)
  let busy := fun (g : Nat) => s.slices.any (fun e => e.2.entry && decide (e.2.gid = g)) || s.masts.any (fun e => e.2.caps.any (fun c => decide (c.gid = g)))
  let gidOf := fun (sid : Nat) => (SMap.get? s.subs sid).map (fun sg => sg.gid)
  let barOf := fun (r : BarRef) => match r with | .crew c _ => cs.contains c | .mast l _ _ | .grid l _ => ls.contains l
  let walks := s.masts.filterMap (fun e => e.2.walk.bind (fun w => if w.req.ctx = ctx && s.own e.1 then some w.gid else none))
  let s0 := walks.foldl State.endWalker s
  let s1 : State := { s0 with
    subs := s0.subs.filter (fun e => !inGs e.2.gid)
    waits := s0.waits.filter (fun e => !((gidOf e.2.sid).map inGs).getD false)
    images := s0.images.filter (fun e => !inGs e.2.sg.gid)
    ties := s0.ties.filter (fun e => !inGs e.2.gid)
    calls := s0.calls.filter (fun e => !inGs e.2.gid)
    slices := s0.slices.filter (fun e => e.2.entry || !inGs e.2.gid)
    msgs := s0.msgs.filter (fun e => !((e.2.body.gid.map (fun g => inGs g && (match e.2.body with | .posted _ _ _ _ _ _ _ => false | _ => true))).getD false) &&
      !((e.2.body.bar.map barOf).getD false))
    launches := s0.launches.filter (fun e => !ls.contains e.1)
    groups := (s0.groups.filter (fun e => !inGs e.1 || busy e.1)).map (fun (e : Nat × Group) =>
      if inGs e.1 then (e.1, { e.2 with ended := BitVec.allOnes 64, streams := [], frames := [], imaged := 0, outst := [], arrived := [] }) else e)
    crews := s0.crews.filter (fun e => !cs.contains e.1 || e.2.groups.any busy)
    stns := s0.stns.map (fun (e : Nat × Station) => (e.1, { e.2 with
      crew := if (e.2.crew.map cs.contains).getD false then none else e.2.crew
      resv := if (e.2.resv.map (fun r => ls.contains r.1)).getD false then none else e.2.resv
      tag := if e.2.tag = BitVec.ofNat 16 ctx && decide (e.1 / 1024 = s.dev) then 0 else e.2.tag })) }
  { s1 with masts := s1.masts.map (fun (e : Nat × Mast) => (e.1, { e.2 with
      order := e.2.order.filter (fun k => !ls.contains k.1)
      walks := e.2.walks.filter (fun r => decide (r.ctx ≠ ctx) || !s.own e.1)
      busyUnits := e.2.busyUnits.filter (fun u => s1.calls.any (fun k => decide (s.vaMast k.2.record = e.1) && decide (k.2.unit = some u))) })) }

/-- The crews of a reset context whose engine operations have ended go, with their groups. -/
def State.sweep (s : State) : State :=
  let busy := fun (g : Nat) => s.slices.any (fun e => decide (e.2.gid = g)) || s.masts.any (fun e => e.2.caps.any (fun c => decide (c.gid = g)))
  let gone := s.crews.filter (fun e => (SMap.get? s.launches e.2.lid).isNone && e.2.groups.all (fun g => !busy g))
  if gone.isEmpty then s
  else
    let gs := gone.flatMap (fun e => e.2.groups)
    { s with crews := s.crews.filter (fun e => !gone.any (fun x => decide (x.1 = e.1))), groups := s.groups.filter (fun e => !gs.contains e.1) }

/-- Every queue of a context stops (R306). -/
def State.stopQueues (s : State) (ctx : Nat) : State :=
  (s.queues.filter (fun e => decide (e.2.ctx = ctx))).foldl (fun s e =>
    s.putQueue e.1 { e.2 with stopped := true, phase := .idle }) s

/-- FORCED RESET (R306), but for its notice to the Bosun: it cannot be undone. -/
def State.resetCtx (s : State) (ctx : Nat) : State :=
  match SMap.get? s.ctxs ctx with
  | none => s
  | some c =>
    if c.st = .reset then s
    else
      let s1 := ((s.clearContext ctx).failFaults ctx).stopQueues ctx
      let s2 := (s1.setCtxSt ctx .reset).updCtx ctx (fun c => { c with left := none, pend := [] })
      s2.post { typ := 2, code := 0, tag := 0, ctx := BitVec.ofNat 16 ctx, w1 := 0, w2 := 0, w3 := 0 }

/-- FORCED RESET (R306). -/
def State.forceReset (s : State) (ctx : Nat) : State :=
  match SMap.get? s.ctxs ctx with
  | some c => if c.st = .reset then s else (s.resetCtx ctx).tellBosun (s.dev * 16) ctx 0
  | none => s

/-- Forced resets of several contexts. -/
def State.forceResets (s : State) (cs : List Nat) : State := cs.foldl State.forceReset s

/-- The completion event of a host command (R318, R319). -/
def State.complete (s : State) (ctx tag : BitVec 16) (code : BitVec 8) : State :=
  s.post { typ := 1, code := code, tag := tag, ctx := ctx, w1 := 0, w2 := 0, w3 := 0 }

/-- The entry of the deck's journal for a host command (R338). -/
def State.noteCmd (s : State) (op : Nat) (c : HCmd) : State :=
  s.note deckUnit 1 c.ctx.toNat (BitVec.ofNat 64 op) (c.tag.setWidth 64) (packWord [(c.ctx.toNat, 48), (c.tag.toNat, 16), (op, 0)])

/-- A host command is taken only while negotiation has succeeded (R317). -/
def State.hostCmd (s : State) (op : Nat) (c : HCmd) (go : State → State × BitVec 8) : State :=
  if s.regs.neg ≠ 1 then s
  else let (t, code) := go (s.noteCmd op c); t.complete c.ctx c.tag code

end Sys2Proof.Machine
end

