-- ==== Sys2Proof/Machine/Preempt.lean ====
section
/-! DEFINITION. Preemption and restore of a context (spec 15, R301 to R307, R347; spec 09, R231). -/

namespace Sys2Proof.Machine

open Sys2Proof

/-! ## Stopping a context (R302, R347) -/

/-- A word that waits is taken back unperformed (R347). -/
def State.takeBack (s : State) (wid : Nat) (w : Wait) (gid : Nat) : State :=
  match w.kind with
  | .barrier _ _ _ _ .arriving | .barrier _ _ _ _ .withdrawing | .bcall | .standBy _ => s
  | .barrier (.mast _ _ b) tok _ true .waiting => s.countedArrival wid w b tok
  | .trapEntry t f _ =>
    if t.next then s else (s.updGroup gid (fun g => { g with frames := SMap.del g.frames f })).redoWait wid w
  | .slice k => ({ s with slices := SMap.del s.slices k }).redoWait wid w
  | .transit i => ({ s with images := SMap.del s.images i }).redoWait wid w
  | .bwait sreg => (s.updGroup gid (fun g => { g with outst := g.outst.filter (fun o => decide (o.id ≠ sreg)) })).redoWait wid w
  | .tie => ({ s with msgs := s.msgs.filter (fun e => match e.2.body with | .tieNotice k _ _ _ _ _ _ => decide (k ≠ wid) | _ => true) }).redoWait wid w
  | .barrier _ _ _ _ .waiting | .scoreboard _ | .fetch _ | .access _ _ | .ldw _ _ _ _ _ _ _ | .fence _ _ _ _ | .queuePush _ _
  | .queuePop _ _ | .cpw _ _ | .capr _ _ | .capw _ _ | .qld | .page _ | .sent _ => s.redoWait wid w

/-- The waits of a context's lanes on this device. -/
def State.ctxWaits (s : State) (ctx : Nat) : List (Nat × Wait × Nat) :=
  let subs := s.ctxSubs ctx
  s.waits.filterMap (fun e => (subs.find? (fun g => decide (g.1 = e.2.sid))).map (fun g => (e.1, e.2, g.2.gid)))

/-- A context's words that wait are taken back (R302). -/
def State.stopContext (s : State) (ctx : Nat) : State :=
  (s.ctxWaits ctx).foldl (fun s e => match SMap.get? s.waits e.1 with
    | some w => s.takeBack e.1 w e.2.2
    | none => s) s

/-- PREEMPT (R302): steps 1 and 2. The event is sent at step 6. -/
def execPreempt (c : HCmd) (s : State) : Host.Outcome State Fault Refusal :=
  .next (if s.regs.neg ≠ 1 then s
    else
      let s := s.noteCmd 0x04 c
      match SMap.get? s.ctxs c.ctx.toNat with
      | none => s.complete c.ctx c.tag 7
      | some x =>
        if x.st ≠ .running then s.complete c.ctx c.tag 7
        else
          let s1 := (s.setCtxSt c.ctx.toNat .saving).updCtx c.ctx.toNat (fun y => { y with left := some y.pdl, ptag := c.tag })
          s1.stopContext c.ctx.toNat)

/-! ## The records (R303, R304) -/

/-- A record: its header, then its body padded to 32 bytes (R303). -/
def recordWords (typ : Nat) (place : Word) (arg : Word) (body : List Word) : List Word :=
  let n := (body.length + 3) / 4
  [packWord [(typ, 56), (1 + n, 0)], place, arg, 0] ++ body ++ List.replicate (4 * n - body.length) 0

/-- A barrier in a record (R303). -/
def Barrier.words (b : Barrier) : List Word :=
  [packWord [(b.phase.toNat, 0), (b.count % 2 ^ 32, 32)],
   packWord [((b.expct.getD 0) % 2 ^ 32, 0), ((if b.expct.isSome then 1 else 0), 32)]]

/-- A barrier from a record. -/
def Barrier.ofWords (a b : Word) : Barrier :=
  { phase := BitVec.ofNat 32 (fieldOf a 0 32), count := fieldOf a 32 32, expct := if b.getLsbD 32 then some (fieldOf b 0 32) else none }

/-- A copy tag in a record (R303). -/
def TagSt.words : TagSt → List Word
  | .idle => [0, 0]
  | .gathering r p n left => [packWord [(1, 0), (r, 4), (p, 8), (n, 16)], left]
  | .running r => [packWord [(2, 0), (r, 4)], 0]
  | .done r _ => [packWord [(3, 0), (r, 4)], 0]
  | .abandoned r _ => [packWord [(4, 0), (r, 4)], 0]

/-- A copy tag from a record. The status word of a copy that is DONE or ABANDONED is in no record: it is the one that the device
still holds for the round, or else a value that the spec does not state. -/
def TagSt.ofWords (a b : Word) (old : TagSt) (open' : Word) : TagSt :=
  let r := fieldOf a 4 4
  match fieldOf a 0 4 with
  | 1 => .gathering r (fieldOf a 8 8) (fieldOf a 16 8) b
  | 2 => .running r
  | 3 => .done r (match old with | .done k x => if k = r then x else open' | _ => open')
  | 4 => .abandoned r (match old with | .abandoned k x => if k = r then x else open' | _ => open')
  | _ => .idle

/-- EXT, the extent of a crew's local space (R303). -/
def State.extent (s : State) (c : Crew) : Nat :=
  let ds := (List.range 8).map (s.qdesc c)
  let ok := ds.filter (fun d => !d.bad)
  let a := fieldOf c.lseg 5 16 * 32
  let b := if ok = [] then 0 else ok.foldl (fun m d => max m (d.base + 32 * d.slots)) 0x40000
  let p := c.groups.foldl (fun m g => match SMap.get? s.groups g with
    | some gr =>
      if gr.ended = BitVec.allOnes 64 then m
      else (s.subs.filter (fun e => decide (e.2.gid = g))).foldl (fun m e => max m (0x40000 + fieldOf e.2.pseg 0 21 + fieldOf e.2.pseg 32 21))
        ((s.images.filter (fun e => decide (e.2.sg.gid = g))).foldl (fun m e => max m (0x40000 + fieldOf e.2.sg.pseg 0 21 + fieldOf e.2.sg.pseg 32 21)) m)
    | none => m) 0
  min (max a (max b p)) 0x140000

/-- The group of a crew with an index. -/
def State.groupAt (s : State) (c : Crew) (gix : Nat) : Option (Nat × Group) :=
  (c.groups.filterMap (fun g => (SMap.get? s.groups g).map (fun gr => (g, gr)))).find? (fun e => decide (e.2.gix = gix))

/-- Numbers of some bytes each, packed into words. -/
def packNums (w : Nat) (xs : List Nat) : List Word :=
  let rec go : Nat → List Nat → List Word
    | 0, _ => []
    | n + 1, ys => packWord ((ys.take (8 / w)).zipIdx.map (fun e => (e.1, 8 * w * e.2))) :: go n (ys.drop (8 / w))
  go ((xs.length * w + 7) / 8) xs

/-- The in-use masks of a crew's trap frames (R196, R303). -/
def State.frameBits (s : State) (c : Crew) : Nat :=
  (List.range 64).foldl (fun a g => match s.groupAt c g with
    | some (_, gr) => (List.range 3).foldl (fun a f => if (SMap.get? gr.frames f).isSome then a + 2 ^ (3 * g + f) else a) a
    | none => a) 0

/-- The body of a crew-state record (R303): 0x5E60 bytes. -/
def State.crewWords (s : State) (c : Crew) : List Word :=
  let grp := fun (g : Nat) => (s.groupAt c g).map (fun e => e.2)
  (List.range 16).flatMap (fun b => ((SMap.get? c.bars b).getD Barrier.start).words) ++
  (List.range 16).flatMap (fun t => (c.tag t).words) ++
  packNums 2 ((List.range 8).flatMap (fun q => (List.range 64).map (fun g => ((grp g).map (fun r => (RMap.get r.qout q).toNat)).getD 0))) ++
  packNums 4 ((List.range 64).flatMap (fun g => (List.range 24).map (fun k => ((grp g).map (fun r => (RMap.get r.counts k).toNat)).getD 0))) ++
  packNums 1 ((List.range 64).map (fun g => ((grp g).map (fun r => r.errs.toNat)).getD 0)) ++
  [c.lseg] ++ packNums 8 [s.frameBits c % 2 ^ 64, s.frameBits c / 2 ^ 64 % 2 ^ 64, s.frameBits c / 2 ^ 128] ++
  packNums 4 ((List.range 64).flatMap (fun g => (List.range 64).map (fun l => ((grp g).map (fun r => (RMap.get r.waits l).toNat)).getD 0)))

/-- The place of a crew as PLACE names it. -/
def State.placeWord (s : State) (m n : Nat) : Word := (s.placeAt m n).setWidth 64

/-- Words of a stretch of memory. -/
def State.memWords (s : State) (cell n : Nat) : List Word := (List.range n).map (fun i => s.word (cell + 8 * i))

/-- Records of TYPE 1 (R303). -/
def State.localRecs (s : State) (crews : List (Nat × Crew)) : List (List Word) :=
  crews.map (fun e =>
    let x := s.extent e.2
    recordWords 1 (s.placeWord e.2.mast e.2.stn) (BitVec.ofNat 64 x) (s.memWords (localCell e.2.mast e.2.stn 0) (x / 8)))

/-- Records of TYPE 2. -/
def State.crewRecs (s : State) (crews : List (Nat × Crew)) : List (List Word) :=
  crews.map (fun e => recordWords 2 (s.placeWord e.2.mast e.2.stn) (BitVec.ofNat 64 e.2.cix) (s.crewWords e.2))

/-- The masts where a launch has barriers or crews. -/
def State.launchMasts (s : State) (lid : Nat) (l : Launch) : List Nat :=
  s.ownMasts.filter (fun m => (s.crewsOf lid).any (fun e => decide (e.2.mast = m)) || l.mbars.any (fun e => decide (e.1 / 8 = m)))

/-- Records of TYPE 3. -/
def State.mastRecs (s : State) (ls : List (Nat × Launch)) : List (List Word) :=
  ls.flatMap (fun e => (s.launchMasts e.1 e.2).map (fun m =>
    recordWords 3 (s.placeWord m 0x3F) (BitVec.ofNat 64 e.1)
      ((List.range 8).flatMap (fun b => ((SMap.get? e.2.mbars (m * 8 + b)).getD Barrier.start).words))))

/-- Records of TYPE 4. -/
def gridRecs (ls : List (Nat × Launch)) : List (List Word) :=
  ls.map (fun e => recordWords 4 0 (BitVec.ofNat 64 e.1) ((List.range 4).flatMap (fun b => ((SMap.get? e.2.grid b).getD Barrier.start).words)))

/-- Crew and group as records name them (R303, R338). -/
def crewGroup (cix gix : Nat) : Word := packWord [(cix % 2 ^ 20, 32), (gix, 26)]

/-- Crew index and group index of a group. -/
def State.namesOf (s : State) (gid : Nat) : Word :=
  match SMap.get? s.groups gid with
  | some g => crewGroup (((s.crewOf g).map (fun c => c.cix)).getD 0) g.gix
  | none => 0

/-- The launch number of a group. -/
def State.launchNo (s : State) (gid : Nat) : Word :=
  match (SMap.get? s.groups gid).bind s.crewOf with
  | some c => BitVec.ofNat 64 c.lid
  | none => 0

/-- Whether a group is of a context. -/
def State.inCtx (s : State) (ctx gid : Nat) : Bool := match SMap.get? s.groups gid with | some g => decide (g.ctx = ctx) | none => false

/-- Records of TYPE 5, of the stations of this device; the spec names the fields of the 64 bytes, in this order. -/
def State.tieRecs (s : State) (ctx : Nat) : List (List Word) :=
  (s.ties.filter (fun e => s.own e.2.mast && s.inCtx ctx e.2.gid)).map (fun e =>
    recordWords 5 (s.placeWord e.2.mast e.2.stn) 0
      [s.namesOf e.2.gid, e.2.m, (if e.2.isOpen then 0 else 1) + (if e.2.opened then 2 else 0), BitVec.ofNat 64 e.2.dl, e.2.member, e.2.held, s.launchNo e.2.gid,
       BitVec.ofNat 64 (e.2.dl / 2 ^ 64)])

/-- A stream record (R304). -/
def streamWords (q : Nat) (st : Stream) : List Word :=
  [packWord [(st.pos % 2 ^ 32, 32), (st.e.toNat, 7), ((st.qi.getD 0), 4), ((if st.ind then 1 else 0), 3), (q, 0)]] ++
  (List.range 6).map (fun i => st.desc.getD i 0) ++ [0]

/-- The lanes of a sub-group that one image takes: those of one PC, one %meet and one state (R216, R303). -/
def sameImage (a b : Lane) : Bool :=
  decide (a.pc = b.pc) && decide (a.meet = b.meet) && decide (a.step = b.step) && decide (a.st = b.st)

/-- The parts of a sub-group that images carry. -/
def imageParts : List (Nat × Lane) → List (Nat × Lane) → List (List (Nat × Lane))
  | [], _ => []
  | e :: es, seen =>
    if seen.any (fun x => sameImage x.2 e.2) then imageParts es seen
    else (e :: es.filter (fun x => sameImage x.2 e.2)) :: imageParts es (e :: seen)

/-- The images of a resident sub-group (R303): KIND 3, every window, its own station. -/
def State.saveParts (s : State) (sid : Nat) (sg : SubGroup) (g : Group) : List Image :=
  (imageParts sg.lanes []).map (fun p =>
    let m := maskOf (p.map (fun e => e.1))
    let st : LaneSt := (p.head?.map (fun (e : Nat × Lane) => e.2.st)).getD .ready
    { kind := 3, live := BitVec.ofNat 8 (2 ^ g.wins - 1), sg := { (sg.keepLanes m).settle m with stale := [] }, held := decide (st = .held),
      halted := decide (st = .halted) || decide (st = .stopped), smast := sg.mast, sstn := sg.stn, sid0 := sid, tdev := s.devNum (sg.mast / 16),
      tmast := sg.mast, tstn := sg.stn, arr := 0, awaits := [], phase := .landed false, refuse := 0, restored := false, streams := [],
      bundle := some sid })

/-- The images of a context that have landed on this device. -/
def State.ctxLanded (s : State) (ctx : Nat) : List (Nat × Image) :=
  s.images.filter (fun e => s.own e.2.tmast && e.2.landedAt e.2.tmast && s.inCtx ctx e.2.sg.gid)

/-- Every image of a context as it is saved (R303): resident sub-groups, then landed images in order of arrival, each with its
bundle. -/
def State.saveImages (s : State) (ctx : Nat) : List Image :=
  let res := (s.ctxSubs ctx).flatMap (fun e => match SMap.get? s.groups e.2.gid with
    | some g => s.saveParts e.1 e.2 g
    | none => [])
  let landed := (s.ctxLanded ctx).map (fun e => e.2)
  let order := fun (im : Image) => (landed.filter (fun x => decide (x.arr < im.arr))).length
  let sorted := (List.range landed.length).flatMap (fun i => landed.filter (fun im => decide (order im = i)))
  res ++ sorted.map (fun (im : Image) => { im with kind := 3, live := BitVec.ofNat 8 (2 ^ (((SMap.get? s.groups im.sg.gid).map (fun g => g.wins)).getD 1) - 1) })

/-- Records of TYPE 6: the first image of a group takes its streams (R304). -/
def State.imageRecs (s : State) (ims : List Image) : List (List Word) :=
  let bundles := (ims.map (fun im => im.bundle)).dedup
  ims.zipIdx.map (fun e =>
    let im := e.1
    match SMap.get? s.groups im.sg.gid with
    | none => []
    | some g =>
      let first := decide ((ims.findIdx? (fun x => decide (x.sg.gid = im.sg.gid))) = some e.2)
      let strs := if first then g.streams.flatMap (fun q => streamWords q.1 q.2) else []
      let b := if im.bundle.isSome then bundles.idxOf im.bundle else bundles.length + e.2
      recordWords 6 (s.placeWord im.tmast (min im.tstn 63)) (packWord [(e.2, 32), (b % 2 ^ 16, 0)]) (s.imageWords im g 0 ++ strs))

/-- The results of a context's groups still outstanding, one for each register that waits (R162, R347). -/
def State.pendings (s : State) (gs : List Nat) : List (Nat × Outst) :=
  gs.flatMap (fun g => match SMap.get? s.groups g with
    | some gr => gr.outst.map (fun o => (g, o))
    | none => [])

/-- The two words of a pending status (R303); the third and fourth words name crew, group and launch, which the spec's fields do
not. -/
def State.pendWords (s : State) (gid : Nat) (o : Outst) : List Word :=
  let w : Option (Reg × Option Word) := o.writes.head?
  let val : Option Word := w.bind (fun x => x.2)
  let reg : Option Reg := w.map (fun x => x.1)
  let (vec, r, lane) : Nat × Nat × Nat := match reg with
    | some (.v l n) => (1, n, l)
    | some (.s n) => (0, n, o.lane)
    | _ => (0, 0, o.lane)
  [val.getD 0, packWord [((if val.isSome then 1 else 0), 63), (vec, 62), (r % 32, 8), (lane, 0)], s.namesOf gid, s.launchNo gid]

/-- Records of TYPE 8 (R192, R303). -/
def State.arrivedRecs (s : State) (gs : List Nat) : List (List Word) :=
  gs.flatMap (fun g => match SMap.get? s.groups g with
    | some gr =>
      let m := ((s.crewOf gr).map (fun c => c.mast)).getD 0
      gr.arrived.map (fun a => recordWords 8 (s.placeWord m 0x3F) (packWord [(a.2.2.toNat, 32), (a.1, 0)]) [s.namesOf g, a.2.1])
    | none => [])

/-! ## Completion of a save (R302) -/

/-- Whether an image is on its way to, or sent back to, a place of this device. -/
def State.comingHere (s : State) (im : Image) : Bool :=
  match im.phase with
  | .landed _ => false
  | .flying => s.own im.tmast
  | .departing | .returning => s.own im.smast

/-- Whether a message on its way must reach its place before a context is saved: a notice of its groups, an escalation notice that its
Command Processor has not applied or a trap that its lanes can take now (R256), or what one of its barriers counts. -/
def State.holdsSave (s : State) (ctx : Nat) (m : Msg) : Bool :=
  let near := decide (portDev m.dst = s.dev)
  match m.body with
  | .tieNotice _ g _ _ _ _ _ | .exitNotice g _ => near && s.inCtx ctx g
  | .escInc c _ _ _ _ _ _ _ | .escReset c => near && decide (c = ctx)
  | .escTrap g lanes _ _ _ _ _ => (s.ctxSubs ctx).any (fun e => decide (e.2.gid = g) && decide (s.trappable e.1 e.2 lanes ≠ 0))
  | .barArrive r _ _ _ | .barWithdraw r _ _ _ | .barExit r _ | .barDone r _ =>
    (match r with
     | .crew c _ => ((SMap.get? s.crews c).map (fun c => c.groups.any (s.ctxGroups ctx).contains)).getD false
     | .mast l _ _ | .grid l _ => ((SMap.get? s.launches l).map (fun l => decide (l.ctx = ctx) && decide (l.dev = s.dev))).getD false)
  | .posted _ _ _ _ _ _ _ | .ack _ _ _ _ _ | .segld _ _ _ | .tlbi _ _ _ | .done _ => false

/-- Whether a stopped context still has something that must end or land before its records are written (R302, R347). -/
def State.unsettled (s : State) (ctx : Nat) : Bool :=
  let subs := s.ctxSubs ctx
  !(s.ctxWaits ctx).isEmpty || s.calls.any (fun e => decide (e.2.ctx = ctx) && decide (e.2.dev = s.dev)) ||
  s.images.any (fun e => s.inCtx ctx e.2.sg.gid && s.comingHere e.2) ||
  subs.any (fun e => e.2.lanes.any (fun l => l.2.rel.isSome || l.2.refuse.isSome)) ||
  s.msgs.any (fun e => s.holdsSave ctx e.2)

/-- The crews of a context that are bound to stations of this device. -/
def State.boundCrews (s : State) (ctx : Nat) : List (Nat × Crew) :=
  s.crews.filter (fun e => s.own e.2.mast && decide ((s.stn e.2.mast e.2.stn).crew = some e.1) &&
    (match SMap.get? s.launches e.2.lid with | some l => decide (l.ctx = ctx) | none => e.2.groups.any (s.ctxGroups ctx).contains))

/-- The words of some records, with the place of each from the start of the region. -/
def recordPlaces (rs : List (List Word)) : List Nat :=
  (rs.foldl (fun (a : Nat × List Nat) r => (a.1 + 8 * r.length, a.2 ++ [a.1])) (0, [])).2

/-- The state after the records are written: stations unbound, the lanes no longer on the device (R302, step 6). -/
def State.leaveStations (s : State) (ctx : Nat) (gs : List Nat) (crews : List (Nat × Crew)) (at' : Nat → Word) : State :=
  let cids := crews.map (fun e => e.1)
  let sids := (s.ctxSubs ctx).map (fun e => e.1)
  let ims := (s.ctxLanded ctx).map (fun e => e.1)
  { s with
    subs := s.subs.filter (fun e => !sids.contains e.1)
    images := s.images.filter (fun e => !ims.contains e.1)
    ties := s.ties.filter (fun e => !(s.own e.2.mast && s.inCtx ctx e.2.gid))
    groups := s.groups.map (fun (e : Nat × Group) => if e.2.ctx = ctx then
      (e.1, { e.2 with streams := e.2.streams.filter (fun q => !s.own q.2.mast), arrived := if gs.contains e.1 then [] else e.2.arrived }) else e)
    crews := s.crews.map (fun (e : Nat × Crew) => if cids.contains e.1 then (e.1, { e.2 with saved := some (at' e.1) }) else e)
    stns := s.stns.map (fun (e : Nat × Station) =>
      if (e.2.crew.map cids.contains).getD false then (e.1, { e.2 with crew := none, tag := 0 }) else e) }

/-- PREEMPT COMPLETE (R302, steps 3 to 6): the accesses that were sent have been performed, the records are written in the order
of R303's table, and the event is sent. -/
def execPreemptComplete (ctx : Nat) (s : State) : Host.Outcome State Fault Refusal :=
  .next (match SMap.get? s.ctxs ctx with
    | none => s
    | some c =>
      if c.st ≠ .saving || s.unsettled ctx then s
      else
        let gs := s.ctxGroups ctx
        let here := ((s.ctxSubs ctx).map (fun e => e.2.gid) ++ gs).dedup
        let s1 := (s.pendings here).foldl (fun s e => s.deliver e.1 e.2.id) s
        let crews := s1.boundCrews ctx
        let ls := s1.launches.filter (fun e => decide (e.2.ctx = ctx) && decide (e.2.dev = s.dev) && !e.2.counted)
        let pre := s1.localRecs crews
        let mid := s1.crewRecs crews
        let aft := s1.mastRecs ls ++ gridRecs ls ++ s1.tieRecs ctx ++ s1.imageRecs (s1.saveImages ctx)
        let pends := s1.pendings gs
        let pre7 := pre ++ mid ++ aft
        let pendRecs := pends.map (fun e => recordWords 7 0 0 (s1.pendWords e.1 e.2))
        let recs := pre7 ++ pendRecs ++ s1.arrivedRecs gs
        let used := 8 * (recs.map List.length).sum
        let fail := (s.forceReset ctx).complete (BitVec.ofNat 16 ctx) c.ptag 7
        match s1.cpWords ctx c (c.save + 0x10) 2 with
        | none => s
        | some ws =>
          let base := ws.getD 0 0
          if used > (ws.getD 1 0).toNat then fail
          else match s1.cpPut ctx c base recs.flatten with
            | none => s
            | some s2 =>
              let places := recordPlaces recs
              let at' := fun (cid : Nat) => base + BitVec.ofNat 64 (places.getD (pre.length + crews.findIdx (fun e => decide (e.1 = cid))) 0)
              let s3 := s2.leaveStations ctx gs crews at'
              let s4 := s3.cpBytes ctx c (c.save + 0x20) (leBytes 8 used)
              let s5 := s4.cpBytes ctx c (c.save + 0x28) (leBytes 8 c.esc)
              let pend := pends.zipIdx.map (fun e => (base + BitVec.ofNat 64 (places.getD (pre7.length + e.2) 0), e.1.1, e.1.2.id))
              let s6 := (s5.updCtx ctx (fun c => { c with left := none, pend := pend })).setCtxSt ctx .saved
              s6.complete (BitVec.ofNat 16 ctx) c.ptag 0)

/-- A preemption passes its deadline (R302, R306). -/
def execPdlExpiry (ctx : Nat) (s : State) : Host.Outcome State Fault Refusal :=
  .next (match SMap.get? s.ctxs ctx with
    | some c =>
      if c.st = .saving && decide (c.left = some 0) then (s.forceReset ctx).complete (BitVec.ofNat 16 ctx) c.ptag 7 else s
    | none => s)

/-- The records of the saved contexts of the device in place follow the changes between two states (R302). -/
def State.syncPart (s t v : State) : State :=
  (v.ctxs.filter (fun e => decide (e.2.st = .saved))).foldl (fun u e =>
    let c := e.2
    let crews := u.crews.filter (fun k => k.2.saved.isSome && k.2.groups.any (u.ctxGroups e.1).contains)
    let u1 := crews.foldl (fun u k =>
      let same := decide (SMap.get? s.crews k.1 = SMap.get? t.crews k.1) &&
        k.2.groups.all (fun g => decide (SMap.get? s.groups g = SMap.get? t.groups g))
      if same then u else (u.cpPut e.1 c ((k.2.saved.getD 0) + 32) (u.crewWords k.2)).getD u) u
    c.pend.foldl (fun u p =>
      let get := fun (x : State) => (SMap.get? x.groups p.2.1).bind (fun g => g.outst.find? (fun o => decide (o.id = p.2.2)))
      if get s = get t then u
      else match get t with
        | some o => (u.cpPut e.1 c (p.1 + 32) (t.pendWords p.2.1 o)).getD u
        | none => u) u1) v

/-- While a context stays saved, the Command Processor of its device applies every change of a fence count, copy tag or pending status
to its record (R302). -/
def State.syncSaved (s t : State) : State := t.devices.foldl (fun u d => u.on d (State.syncPart s t)) t

end Sys2Proof.Machine
end

