-- ==== Sys2Proof/Machine/Restore.lean ====
section
/-! DEFINITION. Restore of a saved context, and the host commands RESUME, DEBUGGO and DESTROY (spec 15, R305; spec 17, R318). -/

namespace Sys2Proof.Machine

open Sys2Proof

/-! ## What the Command Processor reads untranslated (R267, R288) -/

/-- Words at a direct-form address of this device taken as a physical address, in frames of a context's tag (R267). -/
def State.physWords (s : State) (ctx : Nat) (addr : Word) (align n : Nat) : Option (List Word) :=
  let m := s.dev * 16 + fieldOf addr 49 4
  let pa := fieldOf addr 0 36
  let places := (List.range n).map (fun i => pa + 8 * i)
  if addr.toNat % align ≠ 0 || decide (fieldOf addr 53 10 ≠ s.devno) || decide (fieldOf addr 49 14 = 0x3FFF) || (s.mast m).fenced ||
    decide (pa + 8 * n > 0xC00000000) || places.any (fun p => s.frameTag m (p / 2 ^ 16) != BitVec.ofNat 16 ctx || s.badAt (dramCell m p)) then none
  else some ((List.range n).map (fun i => s.word (dramCell m (pa + 8 * i))))

/-- A context with the root block that its record names (R288). -/
def State.readRoot (s : State) (ctx : Nat) (c : Ctx) : Option Ctx :=
  (s.physWords ctx c.root 32 32).map (fun ws =>
    { c with
      wentry := ws.getD 0 0
      stripe := BitVec.ofNat 16 (fieldOf (ws.getD 1 0) 0 16)
      tb := (List.range 16).foldl (fun (t : RMap 21) m =>
        RMap.set t m (BitVec.ofNat 21 (fieldOf (ws.getD (4 + m) 0) 16 20 * 2 + fieldOf (ws.getD (4 + m) 0) 0 1))) [] })

/-! ## Records (R303, R304) -/

/-- A record of a save. -/
structure Rec where
  typ   : Nat
  place : Word
  arg   : Word
  body  : List Word
  deriving DecidableEq, Repr

/-- The records of a region, at most n of them. -/
def recsOf : Nat → List Word → List Rec
  | 0, _ => []
  | _, [] => []
  | n + 1, w :: ws =>
    let len := max 1 (fieldOf w 0 32)
    { typ := fieldOf w 56 8, place := ws.getD 0 0, arg := ws.getD 1 0, body := (ws.drop 3).take (4 * (len - 1)) } ::
      recsOf n (ws.drop (4 * len - 1))

/-- The records of a context's save area. -/
def State.savedRecs (s : State) (ctx : Nat) (c : Ctx) : Option (List Rec) :=
  (s.cpWords ctx c (c.save + 0x10) 3).bind (fun h =>
    let n := (h.getD 2 0).toNat / 8
    (s.cpWords ctx c (h.getD 0 0) n).map (recsOf n))

/-- The mast of this device that a place in a record names. -/
def State.recMast (s : State) (p : Nat) : Nat := s.dev * 16 + p / 64 % 16

/-- Whether a place of this device named by a record is fenced (R305, R332); station 0x3F names the mast alone. -/
def State.placeFenced (s : State) (p : Nat) (mastOnly : Bool) : Bool :=
  let m := s.recMast p
  (s.mast m).fenced || (!mastOnly && (s.stn m (p % 64)).fenced)

/-- Whether a record names a fenced mast or station (R305). -/
def State.recFenced (s : State) (r : Rec) : Bool :=
  let at' := fun (p : Nat) => s.placeFenced p (decide (p % 64 = 0x3F))
  match r.typ with
  | 1 | 2 | 5 => s.placeFenced r.place.toNat false
  | 3 | 8 => s.placeFenced r.place.toNat true
  | 6 =>
    let rejoin := fieldOf (r.body.getD 11 0) 0 32
    let cstn := fieldOf (r.body.getD 1 0) 0 20
    at' (fieldOf (r.body.getD 0 0) 0 20) || (decide (cstn / 2 ^ 10 = s.devno) && s.placeFenced cstn false) ||
    (decide (rejoin ≠ 0xFFFFFFFF) && decide (fieldOf (r.body.getD 11 0) 10 10 = s.devno) && s.placeFenced (rejoin % 2 ^ 20) false)
  | _ => false

/-- Whether a checkpoint being written concerns a context (R334). -/
def State.inCkpt (s : State) (ctx : Nat) : Bool :=
  match s.ckpt with
  | some k => !k.load && (k.whole || decide (k.ctx.toNat = ctx))
  | none => false

/-- RESTORE (R305): what is checked before anything changes, then step 1. -/
def execRestore (c : HCmd) (s : State) : Host.Outcome State Fault Refusal :=
  let ctx := c.ctx.toNat
  .next (if s.regs.neg ≠ 1 then s
    else
      let s := s.noteCmd 0x05 c
      match SMap.get? s.ctxs ctx with
      | none => s.complete c.ctx c.tag 7
      | some x =>
        if x.st ≠ .saved || s.inCkpt ctx then s.complete c.ctx c.tag 7
        else match s.readRoot ctx x with
          | none => s.complete c.ctx c.tag 7
          | some y =>
            match s.savedRecs ctx y with
            | none => s.complete c.ctx c.tag 7
            | some rs =>
              if rs.any s.recFenced then s.complete c.ctx c.tag 7
              else
                let z : Ctx := { y with ptag := c.tag, left := none }
                ({ s with ctxs := SMap.put s.ctxs ctx z }).setCtxSt ctx .restoring)

/-! ## Loading (R305, steps 2 to 4) -/

/-- The crew records of a save, each with the crew that the device still knows and with its local-space record. -/
def State.crewPairs (s : State) (ctx : Nat) (rs : List Rec) : List (Option Nat × Rec × Option Rec) :=
  let known := (s.crews.filter (fun e => s.own e.2.mast && e.2.saved.isSome && (match SMap.get? s.launches e.2.lid with
    | some l => decide (l.ctx = ctx)
    | none => e.2.groups.any (s.ctxGroups ctx).contains))).map (fun e => e.1)
  let crews := rs.filter (fun r => decide (r.typ = 2))
  let locals := rs.filter (fun r => decide (r.typ = 1))
  crews.zipIdx.map (fun e =>
    (if known.length = crews.length then known[e.2]? else none, e.1, locals[e.2]?))

/-- A launch that the device does not know, made for the crews of a context read back from a checkpoint (R336): it has no
counter to add to. -/
def ghostLaunch (dev ctx crews : Nat) : Launch :=
  { dev := dev, ctx := ctx, queue := ctx * 64, entry := 0, param := 0, anchors := [], crews := crews, groups := 0, wins := 1, width := 8, prio := 0,
    dit := false, chk := false, gang := 0, rsv := 0, weight := 1, dldef := 0, lseg := 0, pseg := 0, counter := 0, incr := 0, admitted := crews,
    placed := crews, retired := 0, grid := [], mbars := [], gangAge := none, gangHeld := false, order := 0, headNo := 0, word0 := 0,
    counted := false, x := none }

/-- The launch of a crew that the device knows; 0 for one it does not. -/
def State.pairLid (s : State) (k : Option Nat) : Nat := ((k.bind (SMap.get? s.crews)).map (fun c => c.lid)).getD 0

/-- Whether every station that a save's crews need is free; those that are get reserved (R276, R305). -/
def State.stationsFree (s : State) (ps : List (Option Nat × Rec × Option Rec)) : Bool :=
  ps.all (fun e =>
    let p := e.2.1.place.toNat
    let st := s.stn (s.recMast p) (p % 64)
    let mine := match st.resv with
      | some (l, c, _) => decide (l = s.pairLid e.1) && decide (c = e.2.1.arg.toNat)
      | none => true
    !st.fenced && st.crew.isNone && mine)

/-- Reserve the free stations that a save's crews need. -/
def State.reserveAll (s : State) (ps : List (Option Nat × Rec × Option Rec)) : State :=
  ps.foldl (fun s e =>
    let p := e.2.1.place.toNat
    let m := s.recMast p
    let st := s.stn m (p % 64)
    if !st.fenced && st.crew.isNone && st.resv.isNone then
      s.updStn m (p % 64) (fun st => { st with resv := some (s.pairLid e.1, e.2.1.arg.toNat, (s.mast m).nextArr.toNat) })
    else s) s

/-- One number of some bytes out of packed words. -/
def unpackNum (ws : List Word) (w i : Nat) : Nat := (ws.getD (i * w / 8) 0).toNat / 2 ^ (8 * (i * w % 8)) % 2 ^ (8 * w)

/-- A crew's own state from its record's body (R303). -/
def crewOfWords (c : Crew) (ws : List Word) (free : Word) : Crew :=
  { c with
    bars := (List.range 16).foldl (fun (b : SMap Barrier) i =>
      let x := Barrier.ofWords (ws.getD (2 * i) 0) (ws.getD (2 * i + 1) 0)
      if x = Barrier.start then b else SMap.put b i x) []
    tags := (List.range 16).foldl (fun (t : SMap TagSt) i =>
      let x := TagSt.ofWords (ws.getD (32 + 2 * i) 0) (ws.getD (33 + 2 * i) 0) (c.tag i) free
      if x = .idle then t else SMap.put t i x) []
    lseg := ws.getD (0x1E40 / 8) 0
    saved := none }

/-- A group's own state from its crew's record (R303); the lanes of a frame in use are those that the device still knows, or
every lane. -/
def groupOfWords (g : Group) (ws : List Word) : Group :=
  let at' := fun (off : Nat) => ws.drop (off / 8)
  let bit := fun (f : Nat) => (ws.getD ((0x1E48 + (3 * g.gix + f) / 64 * 8) / 8) 0).getLsbD ((3 * g.gix + f) % 64)
  { g with
    qout := (List.range 8).foldl (fun (m : RMap 16) q => RMap.set m q (BitVec.ofNat 16 (unpackNum (at' 0x200) 2 (q * 64 + g.gix)))) []
    counts := (List.range 24).foldl (fun (m : RMap 32) k => RMap.set m k (BitVec.ofNat 32 (unpackNum (at' 0x600) 4 (g.gix * 24 + k)))) []
    errs := BitVec.ofNat 6 (unpackNum (at' 0x1E00) 1 g.gix)
    frames := (List.range 3).foldl (fun (m : SMap Mask) f =>
      if bit f then SMap.put m f ((SMap.get? g.frames f).getD (widthMask g.width)) else m) []
    waits := (List.range 64).foldl (fun (m : RMap 32) l => RMap.set m l (BitVec.ofNat 32 (unpackNum (at' 0x1E60) 4 (g.gix * 64 + l)))) [] }

/-- A crew is bound again at the place that its record names, its local space copied back (R305, step 2). -/
def State.bindCrew (s : State) (ctx ghost : Nat) (e : Option Nat × Rec × Option Rec) : State :=
  let p := e.2.1.place.toNat
  let m := s.recMast p
  let n := p % 64
  let (f, s0) := s.free
  let s1 := s0.giveStation m n ctx
  let s2 := match e.2.2 with
    | some r => { s1 with mem := writeMem s1.mem (localCell m n 0) ((r.body.take (r.arg.toNat / 8)).flatMap (fun w => leBytes 8 w.toNat)) }
    | none => s1
  let (cid, s3) : Nat × State := match e.1 with | some c => (c, s2) | none => s2.fresh
  let old : Crew := (SMap.get? s3.crews cid).getD
    { lid := ghost, cix := e.2.1.arg.toNat, mast := m, stn := n, anchor := 0, lseg := 0, bars := [], tags := [], pushers := [], groups := [],
      rsv := 0, weight := 1, placedAt := (s.stn m n).cycles, saved := none }
  let cr := { crewOfWords old e.2.1.body f with mast := m, stn := n }
  let s4 : State := { s3 with crews := SMap.put s3.crews cid cr }
  let s5 := s4.updStn m n (fun st => { st with crew := some cid, resv := none })
  cr.groups.foldl (fun s g => s.updGroup g (fun gr => groupOfWords gr e.2.1.body)) s5

/-- The group that crew and group indexes of a record name in a context (R303). -/
def State.groupNamed (s : State) (ctx : Nat) (names : Word) (lid : Option Nat) : Option Nat :=
  (s.groups.find? (fun e => decide (e.2.ctx = ctx) && decide (e.2.gix = fieldOf names 26 6) && (match s.crewOf e.2 with
    | some c => decide (c.cix = fieldOf names 32 20) && (match lid with
        | some l => decide (c.lid = l) || (SMap.get? s.launches l).isNone
        | none => true)
    | none => false))).map (fun e => e.1)

/-- A barrier, tie, pending-status or counted-arrival record is loaded (R305, steps 3 and 4). -/
def State.loadRec (s : State) (ctx ghost : Nat) (r : Rec) : State :=
  let lid := if (SMap.get? s.launches r.arg.toNat).map (fun l => l.ctx) = some ctx then r.arg.toNat else ghost
  let bar := fun (i : Nat) => Barrier.ofWords (r.body.getD (2 * i) 0) (r.body.getD (2 * i + 1) 0)
  let w : Nat → Word := fun i => r.body.getD i 0
  match r.typ with
  | 3 => s.updLaunch lid (fun l => { l with mbars := (List.range 8).foldl (fun (b : SMap Barrier) i =>
      SMap.put b (s.recMast r.place.toNat * 8 + i) (bar i)) l.mbars })
  | 4 => s.updLaunch lid (fun l => { l with grid := (List.range 4).foldl (fun (b : SMap Barrier) i => SMap.put b i (bar i)) [] })
  | 5 =>
    (match s.groupNamed ctx (w 0) (some (w 6).toNat) with
     | none => s
     | some g =>
       let (i, s1) := s.fresh
       let t : Tie := { gid := g, mast := s.recMast r.place.toNat, stn := r.place.toNat % 64, m := w 1, isOpen := !(w 2).getLsbD 0,
                        opened := (w 2).getLsbD 1, dl := (w 3).toNat + (w 7).toNat * 2 ^ 64, member := w 4, held := 0, sid := none }
       { s1 with ties := SMap.put s1.ties i t })
  | 7 =>
    let reg : Reg := if (w 1).getLsbD 62 then .v (fieldOf (w 1) 0 6) (fieldOf (w 1) 8 5) else .s (fieldOf (w 1) 8 5)
    let lane := fieldOf (w 1) 0 6
    (match (w 1).getLsbD 63, s.groupNamed ctx (w 2) (some (w 3).toNat) with
     | true, some g => s.updGroup g (fun (gr : Group) =>
         match gr.outst.find? (fun (o : Outst) => decide (o.lane = lane) && (o.writes.head?.map Prod.fst == some reg)) with
         | some o => { gr with outst := gr.outst.map (fun (p : Outst) => if p.id = o.id then { p with writes := [(reg, some (w 0))] } else p) }
         | none =>
           let o : Outst := { id := s.nextId, lane := lane, path := BitVec.allOnes 64, writes := [(reg, some (w 0))] }
           { gr with outst := gr.outst ++ [o] })
     | _, _ => s).fresh.2
  | 8 =>
    (match s.groupNamed ctx (w 0) none with
     | some g => s.updGroup g (fun gr => { gr with arrived := gr.arrived ++ [(fieldOf r.arg 0 3, w 1, BitVec.ofNat 32 (fieldOf r.arg 32 32))] })
     | none => s)
  | _ => s

/-- The stream that a saved descriptor reopens (R134, R135, R304). -/
def reopened (ws : List Word) (m n : Nat) (base : Option Stream) : Nat × Stream :=
  let w : Nat → Word := fun i => ws.getD i 0
  let d : Nat → Word := fun i => w (i + 1)
  let ind := (w 0).getLsbD 3
  let dw := if ind then d 1 else d 2
  let core : Stream := base.getD
    { mast := m, stn := n, ind := false, base := d 0, n0 := fieldOf (d 1) 0 32, n1 := fieldOf (d 1) 32 32, n2 := fieldOf (d 2) 0 32, st0 := d 3,
      st1 := d 4, st2 := d 5, esz := BitVec.ofNat 3 (fieldOf (d 2) 44 3), depth := depthOf (d 2), sc := 0, qi := none, bound := false, desc := [],
      pos := 0, e := 0, got := [], secs := [], reqs := [] }
  (fieldOf (w 0) 0 3,
   { core with
     mast := m, stn := n, ind := ind, base := d 0, depth := depthOf dw
     esz := BitVec.ofNat 3 (if ind then fieldOf (d 1) 0 3 else fieldOf (d 2) 44 3)
     sc := if ind then fieldOf (d 1) 4 2 else 0, qi := if ind then some (fieldOf (w 0) 4 3) else none, bound := false
     desc := (List.range (if ind then 2 else 6)).map d, pos := fieldOf (w 0) 32 32, e := BitVec.ofNat 3 (fieldOf (w 0) 7 3), got := [], secs := [],
     reqs := [] })

/-- The streams of an image's stream records (R304): affine ones first; an index stream goes on where its indirect one stands. -/
def streamsOf (m n : Nat) (recs : List (List Word)) : SMap Stream :=
  let aff := (recs.filter (fun r => !(r.getD 0 0).getLsbD 3)).foldl (fun (q : SMap Stream) r =>
    let x := reopened r m n none; SMap.put q x.1 x.2) []
  (recs.filter (fun r => (r.getD 0 0).getLsbD 3)).foldl (fun (q : SMap Stream) r =>
    let k := fieldOf (r.getD 0 0) 4 3
    let x := reopened r m n (SMap.get? q k)
    SMap.put (SMap.upd q k (fun b => { b with bound := true, pos := x.2.pos })) x.1 x.2) aff

/-- Words eight at a time. -/
def chunks8 : Nat → List Word → List (List Word)
  | 0, _ => []
  | n + 1, ws => ws.take 8 :: chunks8 n (ws.drop 8)

/-- A group that the device does not know, from an image read back from a checkpoint. -/
def State.knowGroup (s : State) (ctx : Nat) (h : ImageHead) : State :=
  match s.groupOf h with
  | some _ => s
  | none =>
    match s.crews.find? (fun e => decide (e.2.cix = h.cix) && decide ((s.placeAt e.2.mast e.2.stn).toNat = h.cstn)) with
    | none => s
    | some (cid, _) =>
      let (g, s1) := s.fresh
      let g0 := Group.launch ctx (some cid) h.gix h.width h.wins
      let gr : Group := { g0 with ended := BitVec.allOnes 64 }
      ({ s1 with groups := SMap.put s1.groups g gr }).updCrew cid (fun c => { c with groups := c.groups ++ [g] })

/-- An image record lands at its mast (R305, step 4). -/
def State.landRec (s : State) (ctx : Nat) (bundle0 : Nat) (r : Rec) : State :=
  let h := ImageHead.ofWords r.body
  let s0 := s.knowGroup ctx h
  match s0.groupOf h with
  | none => s0
  | some g =>
    let m := s.dev * 16 + h.tmast
    let im := imageOfWords g m h r.body
    let n := r.body.length / 8 - h.len / 2
    let strs := streamsOf m h.tstn (chunks8 n (r.body.drop (4 * h.len)))
    let (i, s1) := s0.fresh
    let s2 := s1.updGroup g (fun gr => { gr with ended := gr.ended &&& ~~~h.lmask })
    s2.arrive i { im with restored := true, streams := strs, bundle := some (bundle0 + fieldOf r.arg 0 16) }

/-- Put a record among others in the order of arrival saved (R231). -/
def insertRec (r : Rec) : List Rec → List Rec
  | [] => [r]
  | x :: xs => if fieldOf r.arg 32 32 < fieldOf x.arg 32 32 then r :: x :: xs else x :: insertRec r xs

/-- The image records of a save, in the order of arrival saved. -/
def imageOrder (rs : List Rec) : List Rec := (rs.filter (fun r => decide (r.typ = 6))).foldl (fun a r => insertRec r a) []

/-- Everything of a save is loaded once its stations are free (R305, steps 2 to 4). -/
def State.loadAll (s : State) (ctx : Nat) (rs : List Rec) : State :=
  let ps := s.crewPairs ctx rs
  let (ghost, s0) : Nat × State :=
    if ps.all (fun e => e.1.isSome) then (0, s)
    else (let (l, t) := s.fresh; (l, { t with launches := SMap.put t.launches l (ghostLaunch s.dev ctx ps.length) }))
  let s1 := ps.foldl (fun s e => s.bindCrew ctx ghost e) s0
  let b0 := s1.nextId
  let s2 : State := { s1 with nextId := b0 + 65536 }
  let known := (rs.filter (fun r => decide (r.typ = 6))).foldl (fun s r => s.knowGroup ctx (ImageHead.ofWords r.body)) s2
  let fresh := known.groups.filter (fun e => (SMap.get? s2.groups e.1).isNone)
  let s3 := fresh.foldl (fun s e => match e.2.cid.bind (fun c => (SMap.get? s.crews c)) with
    | some c => (match ps.find? (fun p => decide (p.2.1.place.toNat % 2 ^ 10 = c.mast % 16 * 64 + c.stn)) with
        | some p => s.updGroup e.1 (fun g => groupOfWords g p.2.1.body)
        | none => s)
    | none => s) known
  let s4 := (rs.filter (fun r => decide (r.typ = 3) || decide (r.typ = 4) || decide (r.typ = 5) || decide (r.typ = 8))).foldl
    (fun s r => s.loadRec ctx ghost r) s3
  let s5 := (imageOrder rs).foldl (fun s r => s.landRec ctx b0 r) s4
  (rs.filter (fun r => decide (r.typ = 7))).foldl (fun s r => s.loadRec ctx ghost r) s5

/-- RESTORE COMPLETE (R305): the save is loaded once its stations are free; once every saved image is admitted, STATE becomes 0
and the event is sent. -/
def execRestoreComplete (ctx : Nat) (s : State) : Host.Outcome State Fault Refusal :=
  .next (match SMap.get? s.ctxs ctx with
    | none => s
    | some c =>
      if c.st ≠ .restoring then s
      else if c.left.isNone then
        -- not loaded yet
        match s.savedRecs ctx c with
        | none => s
        | some rs =>
          let ps := s.crewPairs ctx rs
          if s.stationsFree ps then (s.loadAll ctx rs).updCtx ctx (fun c => { c with left := some 0, pend := [] })
          else s.reserveAll ps
      else if s.images.any (fun e => e.2.restored && s.own e.2.tmast && s.inCtx ctx e.2.sg.gid) then s
      else
        let esc := (((s.cpWord ctx c (c.save + 0x28)).getD 0).toNat) % 256
        let s1 := (s.updCtx ctx (fun c => { c with esc := esc, left := none })).setCtxSt ctx .running
        s1.complete (BitVec.ofNat 16 ctx) c.ptag 0)

/-! ## RESUME, DEBUGGO, DESTROY (R318) -/

/-- The group that RESUME and DEBUGGO name: by its crew's station and its index (R318). -/
def State.groupByPlace (s : State) (ctx : Nat) (arg : Word) : Option (Nat × Group) :=
  s.groups.find? (fun e => decide (e.2.ctx = ctx) && decide (e.2.gix = fieldOf arg 20 6) && !e.2.walker &&
    decide ((s.crewPlace e.2).toNat = fieldOf arg 0 20))

/-- The stopped lanes of one sub-group return as TRET would (R318, R200); none when their frame cannot be read or is not theirs. -/
def State.resumeSub (s : State) (c : Ctx) (g : Group) (sid : Nat) (sg : SubGroup) : Option State :=
  let stopped := sg.laneMask (fun l => decide (l.st = .stopped))
  if stopped = 0 then some s
  else if sg.tframe = 0 then none
  else (s.cpWords g.ctx c sg.tframe 80).bind (fun ws =>
    let f := Frame.ofWords ws
    if stopped ≠ f.amask &&& ~~~g.ended || f.odd (stopped &&& f.rmask) ≠ 0 || f.high ≠ 0 then none
    else
      let pc := ((SMap.get? sg.lanes (lowest stopped)).map (fun l => l.pc)).getD 0
      let r : Run := { sid := sid, gid := sg.gid, sg := sg, g := g, set := stopped, act := stopped, pc := pc, len := 8, stall := 1, iw := 0, xw := 0,
                       now := (s.stn sg.mast sg.stn).cycles }
      some (s.atSub sid (fun s => r.returnTo s f)))

/-- RESUME (R318). -/
def execResume (c : HCmd) (s : State) : Host.Outcome State Fault Refusal :=
  .next (s.hostCmd 0x06 c (fun s =>
    match SMap.get? s.ctxs c.ctx.toNat, s.groupByPlace c.ctx.toNat c.a0 with
    | some x, some (gid, g) =>
      let subs := s.subs.filter (fun e => decide (e.2.gid = gid))
      if subs.all (fun e => decide (e.2.laneMask (fun l => decide (l.st = .stopped)) = 0)) then (s, 7)
      else match subs.foldl (fun (t : Option State) e => t.bind (fun t => t.resumeSub x g e.1 e.2)) (some s) with
        | some t => (t, 0)
        | none => (s, 7)
    | _, _ => (s, 7)))

/-- DEBUGGO (R318, R206). -/
def execDebuggo (c : HCmd) (s : State) : Host.Outcome State Fault Refusal :=
  .next (s.hostCmd 0x07 c (fun s =>
    match s.groupByPlace c.ctx.toNat c.a0 with
    | some (gid, _) =>
      let subs := s.subs.filter (fun e => decide (e.2.gid = gid))
      (subs.foldl (fun s e =>
        let now := (s.stn e.2.mast e.2.stn).cycles
        let m := e.2.laneMask (fun l => decide (l.st = .halted))
        (s.updSub e.1 (fun sg => sg.mapLanes m (fun l => { l with st := .ready, readyAt := now, since := now, starve := 0 }))).atSub e.1 (fun s => s.holdReady e.1)) { s with halting := false }, 0)
    | none => (s, 7)))

/-- DESTROY (R318): a forced reset, and the identity is free. A preemption or restore in progress ends with ERROR. -/
def execDestroy (c : HCmd) (s : State) : Host.Outcome State Fault Refusal :=
  .next (s.hostCmd 0x08 c (fun s =>
    let ctx := c.ctx.toNat
    match SMap.get? s.ctxs ctx with
    | none => (s, 7)
    | some x =>
      let s1 := s.resetCtx ctx
      let s2 := if x.st = .saving || x.st = .restoring then s1.complete c.ctx x.ptag 7 else s1
      ({ s2 with ctxs := SMap.del s2.ctxs ctx, queues := s2.queues.filter (fun e => decide (e.2.ctx ≠ ctx)) }, 0)))

end Sys2Proof.Machine
end

