-- ==== Sys2Proof/Machine/Repair.lean ====
section
/-! DEFINITION. Soft errors outside the sectors, scrubbing, repair and fences (spec 18, R328 to R332), checkpoint images (R333
to R336), and the control of the replay journals (R337, R340). -/

namespace Sys2Proof.Machine

open Sys2Proof

/-! ## Owner tags (R295) -/

/-- Whether a TLB entry maps a frame. -/
def TlbEnt.mapsFrame (e : TlbEnt) (frame : Nat) : Bool :=
  decide (frame * 2 ^ 16 / 2 ^ pageBits e.ent = fieldOf e.ent 8 36 / 2 ^ pageBits e.ent)

/-- A tag write (R295): first every TLB entry of the mast that maps the frame goes. -/
def State.tagFrame (s : State) (m frame : Nat) (tag : BitVec 16) : State :=
  let s1 := s.updMast m (fun t => { t with tlb := t.tlb.filter (fun e => !e.mapsFrame frame) })
  { s1 with tags := RMap.set s1.tags (m * 2 ^ 20 + frame) tag }

/-! ## Soft errors and scrubbing (R328, R329) -/

/-- The context of a group. -/
def State.groupCtx (s : State) (g : Nat) : Option Nat := (SMap.get? s.groups g).map (fun g => g.ctx)

/-- The context of a crew. -/
def State.crewCtx (s : State) (c : Crew) : Option Nat :=
  match SMap.get? s.launches c.lid with
  | some l => some l.ctx
  | none => c.groups.head?.bind s.groupCtx

/-- A soft error that is corrected counts; one that is not resets the contexts whose state was lost, on the mast's device and, for state
of a group, on that of its crew (R328, R330). -/
def State.softHit (s : State) (m stn src : Nat) (correctable : Bool) (ctxs : List Nat) (crewDev : Option Nat) : State :=
  if correctable then s.countCe m
  else (m / 16 :: crewDev.toList).dedup.foldl (fun s d => s.on d (fun s => s.forceResets ctxs)) (s.countUeAt m src (stn * 2 ^ 20))

/-- The device of a group's crew. -/
def State.crewDev (s : State) (gid : Nat) : Option Nat := ((SMap.get? s.groups gid).bind s.crewOf).map (fun c => c.mast / 16)

/-- A soft error in storage outside the sectors (R328). -/
def execSoftError (site : SoftSite) (correctable : Bool) (s : State) : Host.Outcome State Fault Refusal :=
  .next (match site with
    | .registers gid =>
      (match s.subs.find? (fun e => decide (e.2.gid = gid)) with
       | some (_, sg) => s.softHit sg.mast sg.stn 3 correctable (s.groupCtx gid).toList (s.crewDev gid)
       | none => s)
    | .landing img =>
      (match SMap.get? s.images img with
       | some im =>
         if im.landedAt im.tmast then s.softHit im.tmast 0x3F 4 correctable (s.groupCtx im.sg.gid).toList (s.crewDev im.sg.gid) else s
       | none => s)
    | .crewState cid =>
      (match SMap.get? s.crews cid with
       | some c => s.softHit c.mast c.stn 4 correctable (s.crewCtx c).toList none
       | none => s)
    | .tieRecord tie =>
      (match SMap.get? s.ties tie with
       | some t => s.softHit t.mast t.stn 4 correctable (s.groupCtx t.gid).toList (s.crewDev t.gid)
       | none => s)
    | .codeSector mast stn ctx va =>
      s.updStn mast stn (fun st => { st with store := st.store.filter (fun c => !(decide (c.ctx = ctx) && decide (c.va.toNat / 32 = va.toNat / 32))) })
    | .tlbEntry mast ctx va => s.updMast mast (fun t => { t with tlb := t.tlb.filter (fun e => !e.hits ctx va) }))

/-- SCRUB of one sector, by its number in the mast (R329): the scrub of the mast's first sector begins a period. -/
def execScrub (mast sector : Nat) (s : State) : Host.Outcome State Fault Refusal :=
  let cell := mast * 2 ^ 37 + sector % 2 ^ 32 * 32
  let s0 := if sector = 0 then s.updMast mast (fun t => { t with rowErrs := [] }) else s
  let s1 := s0.checkRead [cell]
  .next (if s1.bad.contains cell then s1 else { s1 with soft := s1.soft.filter (fun c => decide (c ≠ cell)) })

/-! ## Fences (R332) -/

/-- The contexts with a crew bound, a lane resident, or a tie record, stream or image queued at a station. -/
def State.ctxsAt (s : State) (m n : Nat) : List Nat :=
  let here := fun (a b : Nat) => decide (a = m) && decide (b = n)
  ((((s.stn m n).crew.bind (SMap.get? s.crews)).bind s.crewCtx).toList ++
   s.subs.filterMap (fun e => if here e.2.mast e.2.stn then s.groupCtx e.2.gid else none) ++
   s.ties.filterMap (fun e => if here e.2.mast e.2.stn then s.groupCtx e.2.gid else none) ++
   s.groups.filterMap (fun e => if e.2.streams.any (fun q => here q.2.mast q.2.stn) then some e.2.ctx else none) ++
   s.images.filterMap (fun e =>
     if (e.2.landedAt m && decide (e.2.tstn = n)) || (here e.2.smast e.2.sstn && decide (e.2.phase = .departing)) then s.groupCtx e.2.sg.gid
     else none)).dedup

/-- A station leaves service (R332). -/
def State.fenceStn (s : State) (m n : Nat) : State :=
  if (s.stn m n).fenced then s
  else
    let s1 := (s.forceResets (s.ctxsAt m n)).updStn m n (fun st => { st with fenced := true, crew := none, resv := none, store := [] })
    let b := s1.bosun
    { s1 with bosun := { b with keptStns := b.keptStns ++ [m % 16 * 64 + n] } }.failHomeless

/-- The contexts with any state, frame or outstanding request on a mast. An image that flies to it is none of these: it is sent back
(R226). -/
def State.ctxsOn (s : State) (m : Nat) : List Nat :=
  let t := s.mast m
  let near := fun (va : Word) => decide (s.vaMast va = m)
  ((List.range 64).flatMap (s.ctxsAt m) ++
   s.images.filterMap (fun e => if e.2.landedAt m then s.groupCtx e.2.sg.gid else none) ++
   s.groups.filterMap (fun e => if e.2.streams.any (fun q => q.2.reqs.any (fun r => r.els.any (fun x => near x.va))) then some e.2.ctx else none) ++
   s.tags.filterMap (fun e => if e.1 / 2 ^ 20 = m then some e.2.toNat else none) ++
   s.stns.filterMap (fun e => if decide (e.1 / 64 = m) && decide (e.2.tag ≠ 0) then some e.2.tag.toNat else none) ++
   t.walks.map (fun r => r.ctx) ++ t.walk.toList.map (fun w => w.req.ctx) ++ t.faults.map (fun f => f.ctx) ++ t.caps.map (fun c => c.ctx) ++
   s.xreqs.filterMap (fun e => if s.xmast e.2 = m then some e.2.ctx else none) ++
   s.msgs.filterMap (fun e => match e.2.body with
     | .posted _ ctx _ _ ops _ _ => if ops.any (fun o => near o.addr) then some ctx else none
     | _ => none) ++
   s.calls.filterMap (fun e => if near e.2.record then some e.2.ctx else none) ++
   s.slices.filterMap (fun e => if decide (((SMap.get? s.crews e.2.cid).map (fun c => c.mast)) = some m) then some e.2.ctx else none) ++
   s.launches.filterMap (fun e => if e.2.mbars.any (fun b => decide (b.1 / 8 = m)) then some e.2.ctx else none)).dedup

/-- A mast leaves service (R332): its engines, TLB and fault buffer stop, and launches that wait for it fail (R269). -/
def State.fenceMast (s : State) (m : Nat) : State :=
  if (s.mast m).fenced then s
  else
    let s1 := s.forceResets (s.ctxsOn m)
    let s2 := s1.updMast m (fun t => { t with fenced := true, tlb := [], walks := [], walk := none, faults := [], caps := [], busyUnits := [] })
    let s3 := (List.range 64).foldl (fun s n => s.updStn m n (fun st => { st with fenced := true, crew := none, resv := none, store := [] })) s2
    let b := s3.bosun
    { s3 with
      slices := s3.slices.filter (fun e => decide (((SMap.get? s3.crews e.2.cid).map (fun (c : Crew) => c.mast)) ≠ some m))
      bosun := { b with keptMasts := setBit b.keptMasts (m % 16) true } }.failHomeless

/-! ## Repair (R330, R331) -/

/-- A repair begins. -/
def State.beginRepair (s : State) (m op : Nat) (pa : BitVec 36) : State :=
  if (s.mast m).busy then s
  else s.updMast m (fun t => { t with repair := BitVec.ofNat 64 (op * 2 ^ 60 + pa.toNat), busy := true })

/-- Repair request OP 1 (R331). -/
def execRow (mast : Nat) (pa : BitVec 36) (s : State) : Host.Outcome State Fault Refusal := .next (s.beginRepair mast 1 pa)

/-- Repair request OP 2 (R331). -/
def execBank (mast : Nat) (pa : BitVec 36) (s : State) : Host.Outcome State Fault Refusal := .next (s.beginRepair mast 2 pa)

/-- Repair request OP 3 (R332). -/
def execFenceStation (mast stn : Nat) (s : State) : Host.Outcome State Fault Refusal :=
  .next (if (s.mast mast).busy then s
    else (s.updMast mast (fun t => { t with repair := BitVec.ofNat 64 (3 * 2 ^ 60 + stn % 64 * 2 ^ 36), result := 0 })).fenceStn mast (stn % 64))

/-- Repair request OP 4 (R332). -/
def execFenceMast (mast : Nat) (s : State) : Host.Outcome State Fault Refusal :=
  .next (if (s.mast mast).busy then s
    else (s.updMast mast (fun t => { t with repair := BitVec.ofNat 64 (4 * 2 ^ 60), result := 0 })).fenceMast mast)

/-- A write of the repair register (R330): ignored while a repair is in progress. -/
def State.askRepair (s : State) (m : Nat) (v : Word) : State :=
  if (s.mast m).busy then s
  else
    let pa := BitVec.ofNat 36 (fieldOf v 0 36)
    let kept := BitVec.ofNat 64 (fieldOf v 60 4 * 2 ^ 60 + fieldOf v 0 42)
    let go := fun (t : Host.Outcome State Fault Refusal) =>
      match t with
      | .next u => u.updMast m (fun t => { t with repair := kept })
      | .fault _ | .refused _ => s
    if fieldOf v 42 18 ≠ 0 then s.updMast m (fun t => { t with repair := kept, result := 7 })
    else match fieldOf v 60 4 with
      | 1 => go (execRow m pa s)
      | 2 => go (execBank m pa s)
      | 3 => go (execFenceStation m (fieldOf v 36 6) s)
      | 4 => go (execFenceMast m s)
      | _ => s.updMast m (fun t => { t with repair := kept, result := 7 })

/-- The sectors of a mast's DRAM that a test on their physical address names, among those with an error. -/
def State.errorsWhere (s : State) (m : Nat) (f : Nat → Bool) : List Nat :=
  (s.soft ++ s.bad).filter (fun c => decide (cellMast c = m) && decide (c % 2 ^ 37 < 2 ^ 36) && f (c % 2 ^ 37))

/-- The sectors of a spared row or bank are read, corrected where possible and written to the spare (R331). -/
def State.moveToSpare (s : State) (m : Nat) (f : Nat → Bool) : State :=
  let hit := s.errorsWhere m f
  let s1 := s.checkRead hit
  { s1 with soft := s1.soft.filter (fun c => !hit.contains c) }

/-- Whether a mast has a spare for a row: one is free, and one of the eight of its bank is (R330, R331). -/
def Mast.spareRow (t : Mast) (pa : Nat) : Bool :=
  decide (t.srows ≠ 0) && decide ((t.rows.filter (fun r => decide (bankOf r = bankOf pa))).length < 8)

/-- The pseudo-channel of a physical address: CH and PC, PA[21:16] (R287). -/
def channelOf (pa : Nat) : Nat := pa / 2 ^ 16 % 64

/-- Whether a mast has a spare for a bank: the one of its pseudo-channel is free (R331). -/
def Mast.spareBank (t : Mast) (pa : Nat) : Bool :=
  decide (t.sbanks ≠ 0) && t.banks.all (fun b => decide (channelOf b ≠ channelOf pa))

/-- A repair finishes (R330, R331). -/
def execRepairComplete (mast : Nat) (s : State) : Host.Outcome State Fault Refusal :=
  let t := s.mast mast
  let op := fieldOf t.repair 60 4
  let pa := fieldOf t.repair 0 36
  let fin := fun (s : State) (r : BitVec 8) =>
    (s.updMast mast (fun t => { t with busy := false, result := r })).noteAt mast 9 0 (BitVec.ofNat 64 op) (BitVec.ofNat 64 pa) 1
  .next (if !t.busy then s
    else if op = 1 then
      if t.spareRow pa then
        let s1 := s.moveToSpare mast (fun p => decide (rowOf p = rowOf pa))
        let b := s1.bosun
        let s2 : State := { s1 with bosun := { b with keptRows := b.keptRows ++ [(mast % 16, pa)] } }
        fin (s2.updMast mast (fun t => { t with rows := t.rows ++ [pa], srows := t.srows - 1 })) 0
      else fin s 5
    else
      if t.spareBank pa then
        let s1 := s.moveToSpare mast (fun p => decide (bankOf p = bankOf pa))
        let b := s1.bosun
        let s2 : State := { s1 with bosun := { b with keptBanks := b.keptBanks ++ [(mast % 16, pa)] } }
        fin (s2.updMast mast (fun t => { t with banks := t.banks ++ [pa], sbanks := t.sbanks - 1 })) 0
      else fin s 5)

/-! ## Checkpoint images (R333, R334) -/

/-- The segments of a table: an address and a length each, up to an entry of length 0 (R333). -/
def State.readSegs (s : State) (pctx : Nat) (c : Ctx) (va : Word) : Nat → Option (List (Word × Nat))
  | 0 => some []
  | n + 1 =>
    match s.cpWords pctx c va 2 with
    | some ws =>
      if ws.getD 1 0 = 0 then some []
      else (s.readSegs pctx c (va + 16) n).map (fun r => (ws.getD 0 0, (ws.getD 1 0).toNat) :: r)
    | none => none

/-- Whether the home of an address is one that no message reaches yet: it is a member's, and no shroud path to it exists (R322). -/
def State.beyond (s : State) (c : Ctx) (va : Word) : Bool :=
  match s.home c va with
  | .dram _ m | .window _ m _ _ => !s.linked s.dev (m / 16)
  | .none _ => false

/-- Whether a segment is legal (R333): whole multiples of 64 KiB, within one home value, on a member, in frames that its context
owns. -/
def State.segOk (s : State) (pctx : Nat) (c : Ctx) (g : Word × Nat) : Bool :=
  let last := g.1 + BitVec.ofNat 64 (g.2 - 1)
  let member := match s.home c g.1 with | .dram _ _ => true | .none _ | .window _ _ _ _ => false
  decide (g.2 % 2 ^ 16 = 0) && decide (g.1.toNat % 32 = 0) && decide (fieldOf g.1 49 15 = fieldOf last 49 15) &&
  decide (g.1.toNat ≤ last.toNat) && member &&
  (List.range (g.2 / 2 ^ 16 + 1)).all (fun i => (s.cpCell pctx c (g.1 + BitVec.ofNat 64 (min (i * 2 ^ 16) (g.2 - 1))) true).isSome)

/-- The cell of a byte of the image, laid across the segments in table order (R333). -/
def State.segCell (s : State) (pctx : Nat) (c : Ctx) : List (Word × Nat) → Nat → Option Nat
  | [], _ => none
  | g :: gs, off => if off < g.2 then s.cpCell pctx c (g.1 + BitVec.ofNat 64 off) true else s.segCell pctx c gs (off - g.2)

/-- A run of the image's sectors is written. -/
def State.segPut (s : State) (pctx : Nat) (c : Ctx) (gs : List (Word × Nat)) (off : Nat) (bytes : List Byte) : State :=
  (List.range ((bytes.length + 31) / 32)).foldl (fun s i =>
    match s.segCell pctx c gs (off + 32 * i) with
    | some cell => s.store cell ((bytes.drop (32 * i)).take 32)
    | none => s) s

/-- A run of the image's sectors is read; an uncorrectable one fails. -/
def State.segGet (s : State) (pctx : Nat) (c : Ctx) (gs : List (Word × Nat)) (off n : Nat) : Option (List Byte) :=
  (List.range ((n + 31) / 32)).foldl (fun (acc : Option (List Byte)) i =>
    match acc, s.segCell pctx c gs (off + 32 * i) with
    | some bs, some cell => if s.badAt cell then none else some (bs ++ s.bytes cell 32)
    | _, _ => none) (some [])

/-- A unit of an image: a frame, or a column (R334), by the number that its mast has among all. -/
structure CkUnit where
  tag  : Nat
  mast : Nat
  col  : Bool
  idx  : Nat
  deriving DecidableEq, Repr

/-- The first cell and the size of a unit. -/
def CkUnit.cell (u : CkUnit) : Nat := if u.col then localCell u.mast u.idx 0x40000 else dramCell u.mast (u.idx * 2 ^ 16)
def CkUnit.size (u : CkUnit) : Nat := if u.col then 2 ^ 20 else 2 ^ 16

/-- A unit's descriptor (R334), and a unit from one. -/
def CkUnit.word (u : CkUnit) : Word := packWord [(u.tag, 48), (u.mast % 16, 44), ((if u.col then 1 else 0), 43), (u.idx, 0)]
def CkUnit.ofWord (d : Nat) (w : Word) : CkUnit :=
  { tag := fieldOf w 48 16, mast := d * 16 + fieldOf w 44 4, col := w.getLsbD 43, idx := fieldOf w 0 20 }

/-- Frames of a mast below the hold (R287, R334). -/
def dataFrames : Nat := 0xBF000

/-- The units of an image (R334). -/
def State.ckUnits (s : State) (whole : Bool) (ctx : BitVec 16) : List CkUnit :=
  let live := s.ownMasts.filter (fun m => !(s.mast m).fenced)
  if whole then
    live.flatMap (fun m => (List.range dataFrames).map (fun f => { tag := (s.frameTag m f).toNat, mast := m, col := false, idx := f })) ++
    live.flatMap (fun m => ((List.range 64).filter (fun n => !(s.stn m n).fenced)).map (fun n =>
      { tag := (s.stn m n).tag.toNat, mast := m, col := true, idx := n }))
  else (s.tags.filter (fun e => decide (e.2 = ctx) && s.own (e.1 / 2 ^ 20))).map (fun e =>
    { tag := ctx.toNat, mast := e.1 / 2 ^ 20, col := false, idx := e.1 % 2 ^ 20 })

/-- A run of bytes of a fixed length. -/
def fitBytes (n : Nat) (bs : List Byte) : List Byte := (bs ++ List.replicate n 0).take n

/-- Words as bytes. -/
def bytesOf (ws : List Word) : List Byte := ws.flatMap (fun w => leBytes 8 w.toNat)

/-- Bytes as words. -/
def wordsOf : Nat → List Byte → List Word
  | 0, _ => []
  | n + 1, bs => BitVec.ofNat 64 (leNat (bs.take 8)) :: wordsOf n (bs.drop 8)

/-- The header of an image (R334). -/
def State.ckHeader (s : State) (k : Ckpt) (nd dlen : Nat) (digest : List Byte) (v : Bool) : List Byte :=
  bytesOf [packWord [(1, 56), ((if k.whole then 1 else 0), 0)],
    packWord [((if k.whole then 0 else k.ctx.toNat), 48), (s.devno, 0)], BitVec.ofNat 64 nd, BitVec.ofNat 64 dlen, 0, 0, 0, 0] ++
  fitBytes 64 digest ++ bytesOf (List.replicate 15 0 ++ [if v then 1 else 0])

/-- Whether the operations of the contexts of a checkpoint have all been performed (R334). -/
def State.ckDrained (s : State) (k : Ckpt) : Bool :=
  let gs := if k.whole then s.ctxs.flatMap (fun e => s.ctxGroups e.1) else s.ctxGroups k.ctx.toNat
  gs.all (fun g =>
    !(((SMap.get? s.groups g).map (fun e => e.counts.any (fun x => decide (x.2 ≠ 0)))).getD false || s.slices.any (fun x => decide (x.2.gid = g)) ||
      s.calls.any (fun x => decide (x.2.gid = g)) || s.masts.any (fun t => t.2.caps.any (fun x => decide (x.gid = g)))))

/-- A checkpoint ends. -/
def State.ckEnd (s : State) (k : Ckpt) (code : BitVec 8) : State := { s with ckpt := none }.complete k.ctx k.tag code

/-- The image is written to its segments (R334): V last, and 0 when the image is not whole. -/
def State.ckWrite (s : State) (k : Ckpt) (c : Ctx) (gs : List (Word × Nat)) : State × BitVec 8 :=
  let us := s.ckUnits k.whole k.ctx
  let p := k.pctx.toNat
  let inUnit := fun (p : Nat) => us.any (fun u => decide (u.cell ≤ p) && decide (p < u.cell + u.size))
  let dlen := (us.map CkUnit.size).sum
  let size := 256 + 8 * us.length + dlen
  let s1 := s.checkRead ((s.soft ++ s.bad).filter inUnit)
  if s.bad.any inUnit || decide ((gs.map (fun g => g.2)).sum < size) then (s1.segPut p c gs 0xE0 (List.replicate 32 0), 7)
  else
    let body := bytesOf (us.map CkUnit.word) ++ us.flatMap (fun u => s1.bytes u.cell u.size)
    let s2 := s1.segPut p c gs 256 body
    (s2.segPut p c gs 0 (s1.ckHeader k us.length dlen (Config.shake256 body) true), 0)

/-! ## Reading an image back (R336) -/

/-- Whether a header's reserved fields are 0, VER is 1 and V is 1 (R336, check 1). -/
def headerOk (ws : List Word) : Bool :=
  let w := fun (i : Nat) => ws.getD i 0
  decide (fieldOf (w 0) 1 63 = 2 ^ 55) && decide (fieldOf (w 1) 10 38 = 0) &&
  [4, 5, 6, 7].all (fun i => w i == 0) && (List.range 15).all (fun i => w (16 + i) == 0) && (w 31 == 1)

/-- Whether a unit can be written where its descriptor says (R336, checks 3 and 4). -/
def State.unitOk (s : State) (u : CkUnit) : Bool :=
  if u.col then
    decide (u.idx < 64) && !(s.mast u.mast).fenced && !(s.stn u.mast u.idx).fenced && (s.stn u.mast u.idx).crew.isNone
  else
    !(s.mast u.mast).fenced && decide (u.idx < dataFrames) &&
    (s.frameTag u.mast u.idx == 0 || s.frameTag u.mast u.idx == BitVec.ofNat 16 u.tag)

/-- A unit is written and its owner tag set (R336, second pass). -/
def State.putUnit (s : State) (u : CkUnit) (bs : List Byte) : State :=
  let s1 := s.store u.cell bs
  if u.col then s1.updStn u.mast u.idx (fun st => { st with tag := BitVec.ofNat 16 u.tag })
  else s1.tagFrame u.mast u.idx (BitVec.ofNat 16 u.tag)

/-- Units are written in turn from the data. -/
def State.putUnits (s : State) : List CkUnit → List Byte → State
  | [], _ => s
  | u :: us, bs => State.putUnits (s.putUnit u (bs.take u.size)) us (bs.drop u.size)

/-- Read an image back: every check first (R336). -/
def State.ckLoad (s : State) (pctx : Nat) (c : Ctx) (gs : List (Word × Nat)) : State × BitVec 8 :=
  match s.segGet pctx c gs 0 256 with
  | none => (s, 7)
  | some hb =>
    let ws := wordsOf 32 hb
    let nd := (ws.getD 2 0).toNat
    if !headerOk ws || decide (fieldOf (ws.getD 1 0) 0 10 ≠ s.devno) || decide (256 + 8 * nd > (gs.map (fun g => g.2)).sum) then (s, 7)
    else match s.segGet pctx c gs 256 (8 * nd) with
      | none => (s, 7)
      | some db =>
        let ds := wordsOf nd db
        let us := ds.map (CkUnit.ofWord s.dev)
        let dlen := (us.map CkUnit.size).sum
        if ds.any (fun d => decide (fieldOf d 20 23 ≠ 0)) || !us.all s.unitOk then (s, 7)
        else match s.segGet pctx c gs 256 (8 * nd + dlen) with
          | none => (s, 7)
          | some body =>
            let whole := body.take (8 * nd + dlen)
            if fitBytes 64 (Config.shake256 whole) ≠ (hb.drop 64).take 64 then (s, 7)
            else (s.putUnits us (whole.drop (8 * nd)), 0)

/-! ## The checkpoint commands (R333) -/

/-- A checkpoint command goes on: it waits for paths to its table and segments (R322), and a CKPT for the operations of its contexts
(R334); with an illegal table or segment it ends with ERROR. -/
def State.ckStep (s : State) (k : Ckpt) : State :=
  match SMap.get? s.ctxs k.pctx.toNat with
  | none => s.ckEnd k 7
  | some c =>
    if (!k.load && !s.ckDrained k) || s.beyond c k.table then s
    else match s.readSegs k.pctx.toNat c k.table 64 with
      | none => s.ckEnd k 7
      | some gs =>
        if gs.any (fun g => s.beyond c g.1) then s
        else if !gs.all (s.segOk k.pctx.toNat c) then s.ckEnd k 7
        else
          let (t, code) := if k.load then s.ckLoad k.pctx.toNat c gs else s.ckWrite k c gs
          t.ckEnd k code

/-- The image is written once the operations have drained (R334); a CKLOAD that waits for its partner's device goes on. -/
def execCkptImageWrite (s : State) : Host.Outcome State Fault Refusal := .next (s.ckpt.elim s s.ckStep)

/-- CKPT (R333): one at a time. -/
def execCkpt (c : HCmd) (s0 : State) : Host.Outcome State Fault Refusal :=
  let whole := c.a1.getLsbD 0
  let pctx := BitVec.ofNat 16 (fieldOf c.a1 48 16)
  .next (if s0.regs.neg ≠ 1 then s0
    else
      let s := s0.noteCmd 0x0B c
      let stOk := if whole then s.ctxs.all (fun e => e.2.st == .saved || e.2.st == .reset)
        else ((SMap.get? s.ctxs c.ctx.toNat).map (fun x => x.st == .saved)).getD false
      let quiet := !whole || s.queues.all (fun e => match e.2.phase with | .idle => true | .launching _ | .waiting _ _ _ _ _ | .adding _ _ _ _ => false)
      if !s.regs.active.getLsbD 3 || !stOk || !quiet || s.ckpt.isSome || (SMap.get? s.ctxs pctx.toNat).isNone then s.complete c.ctx c.tag 7
      else { s with ckpt := some { tag := c.tag, ctx := c.ctx, table := c.a0, pctx := pctx, whole := whole, load := false } })

/-- CKLOAD (R333, R336): performed at once, unless it waits for a path to a partner device or for an earlier checkpoint command, which
is ERROR as for CKPT. -/
def execCkload (c : HCmd) (s0 : State) : Host.Outcome State Fault Refusal :=
  let pctx := BitVec.ofNat 16 (fieldOf c.a1 48 16)
  .next (if s0.regs.neg ≠ 1 then s0
    else
      let s := s0.noteCmd 0x0C c
      let k : Ckpt := { tag := c.tag, ctx := c.ctx, table := c.a0, pctx := pctx, whole := c.a1.getLsbD 0, load := true }
      if !s.regs.active.getLsbD 3 || s.ckpt.isSome then s.complete c.ctx c.tag 7 else { s with ckpt := some k }.ckStep k)

/-! ## The replay journals (R337 to R340) -/

/-- Change a unit's journal control. -/
def State.updJrn (s : State) (u : Nat) (f : Journal → Journal) : State :=
  if u = deckUnit then (let r := s.regs; { s with regs := { r with jrn := f r.jrn } })
  else s.updMast (s.dev * 16 + u) (fun t => { t with jrn := f t.jrn })

/-- A write of a unit's journal control, low word (R337). MODE changes only while no context is registered. -/
def State.putJournal (s : State) (u : Nat) (v : Word) : State :=
  let mode := BitVec.ofNat 2 (fieldOf v 62 2)
  s.updJrn u (fun j =>
    let j1 : Journal := { j with
      atom := v.getLsbD 61 && s.regs.active.getLsbD 2
      jtag := BitVec.ofNat 16 (fieldOf v 24 16)
      jmast := if u = deckUnit then BitVec.ofNat 4 (fieldOf v 20 4) else 0
      jframe := BitVec.ofNat 20 (fieldOf v 0 20) }
    if !s.ctxs.isEmpty || decide (mode = 3) || decide (mode = j.mode) then j1
    else { j1 with mode := mode, jhead := 0, ovf := false, div := false })

/-- The unit of a journal control's offset in the register space, and the offset in its block (R316, R337). -/
def journalPlace (off : Nat) : Option (Nat × Nat) :=
  if off = 0x203100 || off = 0x203108 then some (deckUnit, off % 16)
  else if 0x100000 ≤ off && off < 0x200000 && (off % 2 ^ 16 = 0x3100 || off % 2 ^ 16 = 0x3108) then some ((off - 0x100000) / 2 ^ 16, off % 16)
  else none

/-- JOURNAL CONTROL WRITE (R337). -/
def execJournalControlWrite (off : Nat) (value : Word) (s : State) : Host.Outcome State Fault Refusal :=
  .next (match journalPlace off with
    | some (u, 0) => s.putJournal u value
    | some (u, _) => s.updJrn u (fun j => { j with jlen := BitVec.ofNat 32 (fieldOf value 0 32) })
    | none => s)

/-- A journal control as the host reads it (R337). -/
def Journal.word (j : Journal) (hi : Bool) : Word :=
  let flag := fun (b : Bool) (n : Nat) => ((if b then 1 else 0), n)
  if hi then packWord [(j.jhead.toNat, 32), (j.jlen.toNat, 0)]
  else packWord [(j.mode.toNat, 62), flag j.atom 61, flag j.ovf 60, flag j.div 59, (j.jtag.toNat, 24), (j.jmast.toNat, 20), (j.jframe.toNat, 0)]

/-- Whether some unit replays. -/
def State.replaying (s : State) : Bool := (List.range 17).any (fun u => decide ((s.jrnOf u).mode = 2))

/-- REPLAY DIVERGENCE (R340): every context of the device is halted, and the host is told. -/
def execReplayDivergence (s : State) : Host.Outcome State Fault Refusal :=
  .next (if !s.replaying then s
    else
      let s1 := (List.range 17).foldl (fun s u => if (s.jrnOf u).mode = 2 then s.updJrn u (fun j => { j with div := true }) else s) s
      let s2 : State := { s1 with halting := true
                                  subs := s1.subs.map (fun (e : Nat × SubGroup) =>
                                    if s1.own e.2.mast then (e.1, e.2.setSt (e.2.laneMask (fun l => decide (l.st = .ready))) .halted) else e) }
      s2.post { typ := 2, code := 0, tag := 0, ctx := 0, w1 := 0, w2 := 0, w3 := 0 })

/-- Entries noted in a step, oldest first, with the order numbers that their unit gives them (R338). -/
def numbered (head : Nat → Nat) : List (Nat × Word × Word × Word × Word) → List (Nat × Nat × List Word)
  | [] => []
  | (u, a, b, c, d) :: es =>
    let n := head u
    let d' := if fieldOf a 56 8 = 6 || fieldOf a 56 8 = 7 || fieldOf a 56 8 = 8 then BitVec.ofNat 64 n else d
    (u, n, [a, b, c, d']) :: numbered (fun v => if v = u then n + 1 else head v) es

/-- Record one entry (R337, R338): a journal that is full, or whose frame carries another tag, records nothing more. -/
def State.recordEntry (s : State) (u : Nat) (ws : List Word) : State :=
  let j := s.jrnOf u
  if j.ovf then s
  else
    let m := s.dev * 16 + (if u = deckUnit then j.jmast.toNat else u)
    let pa := j.jframe.toNat * 2 ^ 16 + 32 * j.jhead.toNat
    if j.jhead.toNat ≥ j.jlen.toNat * 2048 || s.frameTag m (pa / 2 ^ 16) != j.jtag || (s.mast m).fenced then s.updJrn u (fun j => { j with ovf := true })
    else (s.store (dramCell m pa) (bytesOf ws)).updJrn u (fun j => { j with jhead := j.jhead + 1 })

/-- Whether a noted entry is the one that its unit's journal names next (R339). -/
def State.namesEntry (s : State) (u n : Nat) (ws : List Word) : Bool :=
  n < (s.jrnOf u).jlen.toNat * 2048 && s.entryAt u n == ws

/-- The entries noted in a step go to their journals: recorded, or consumed; none when a unit that replays names another
happening (R338, R339). -/
def State.drain (s : State) : Option State :=
  let es := numbered (fun u => (s.jrnOf u).jhead.toNat) s.journal.reverse
  let s0 : State := { s with journal := [] }
  if es.any (fun e => decide ((s.jrnOf e.1).mode = 2) && !s.namesEntry e.1 e.2.1 e.2.2) then none
  else some (es.foldl (fun s e =>
    if (s.jrnOf e.1).mode = 1 then s.recordEntry e.1 e.2.2
    else s.updJrn e.1 (fun j => { j with jhead := j.jhead + 1 })) s0)

end Sys2Proof.Machine
end

