-- ==== Sys2Proof/Machine/Bosun.lean ====
section
/-! DEFINITION. The Bosun: start-up and power-down (spec 19, R341), scaling (R342), thermal limits (R343), its registers
(R344) and attestation (R346). -/

namespace Sys2Proof.Machine

open Sys2Proof

/-! ## Start-up and power-down (R341) -/

/-- Spare rows and spare banks of a mast with no repair (R331, log entry 5). -/
def allRows : Nat := 2048
def allBanks : Nat := 64

/-- A mast of a device at start-up, by its number on the device, with the stored repair map and fenced set applied (R332, R341). -/
def bootMast (b : Bosun) (m : Nat) : Mast :=
  let rows := (b.keptRows.filter (fun e => decide (e.1 = m))).map (fun e => e.2)
  let banks := (b.keptBanks.filter (fun e => decide (e.1 = m))).map (fun e => e.2)
  { Mast.reset with
    foot := .powered, rows := rows, banks := banks, fenced := b.keptMasts.getLsbD m
    srows := BitVec.ofNat 16 (allRows - rows.length), sbanks := BitVec.ofNat 16 (allBanks - banks.length) }

/-- The stations of a device, by its index, that are fenced at start-up. -/
def bootStns (d : Nat) (b : Bosun) : SMap Station :=
  ((List.range 1024).filter (fun k => b.keptMasts.getLsbD (k / 64) || b.keptStns.contains k)).map (fun k =>
    (d * 1024 + k, { Station.reset with fenced := true }))

/-- The masts of another device take the place of those of the device in place. -/
def State.setMasts (s : State) (ms : SMap Mast) : State :=
  { s with masts := s.masts.filter (fun e => decide (e.1 / 16 < s.dev)) ++ ms ++ s.masts.filter (fun e => decide (s.dev < e.1 / 16)) }

/-- The stations of the device in place become others. -/
def State.setStns (s : State) (ns : SMap Station) : State :=
  { s with stns := s.stns.filter (fun e => decide (e.1 / 1024 < s.dev)) ++ ns ++ s.stns.filter (fun e => decide (s.dev < e.1 / 1024)) }

/-- What a device keeps without power or over a reset: the Bosun's store, its fuses, and what has left the device. All that stood on
its stations or belonged to its crews is gone, and what was on its way to or from it; other devices find it without a path. -/
def State.bare (s : State) (b : Bosun) : State :=
  let r := HostRegs.reset
  let away := fun (m : Nat) => !s.own m
  let lids := (s.launches.filter (fun e => decide (e.2.dev = s.dev))).map (fun e => e.1)
  let cids := (s.crews.filter (fun e => s.own e.2.mast)).map (fun e => e.1)
  let gids := (s.groups.filter (fun e => (e.2.cid.map cids.contains).getD false)).map (fun e => e.1) ++
    s.masts.filterMap (fun e => if s.own e.1 then e.2.walk.map (fun w => w.gid) else none)
  let other := fun (g : Nat) => !gids.contains g
  let sids := (s.subs.filter (fun e => !away e.2.mast || !other e.2.gid)).map (fun e => e.1)
  let num := s.devno
  let keep := fun (k : Nat) => decide (k / 2 ^ 37 / 16 ≠ s.dev)
  let t : State := { s with
    mem := RMap.keep (n := 8) s.mem keep, bad := s.bad.filter keep, soft := s.soft.filter keep
    tags := RMap.keep s.tags (fun k => away (k / 2 ^ 20))
    launches := s.launches.filter (fun e => !lids.contains e.1), crews := s.crews.filter (fun e => !cids.contains e.1)
    groups := (s.groups.filter (fun e => other e.1)).map (fun (e : Nat × Group) =>
      (e.1, { e.2 with streams := e.2.streams.filter (fun q => away q.2.mast) }))
    subs := s.subs.filter (fun e => !sids.contains e.1), waits := s.waits.filter (fun e => !sids.contains e.2.sid)
    images := s.images.filter (fun e => other e.2.sg.gid && (match e.2.phase with
      | .departing => away e.2.smast
      | .flying => true
      | .landed _ => away e.2.tmast
      | .returning => away e.2.smast))
    ties := s.ties.filter (fun e => other e.2.gid && away e.2.mast)
    msgs := s.msgs.filter (fun e => decide (portDev e.2.src ≠ s.dev) && decide (portDev e.2.dst ≠ s.dev))
    slices := s.slices.filter (fun e => !cids.contains e.2.cid), calls := s.calls.filter (fun e => decide (e.2.dev ≠ s.dev))
    ctxs := [], queues := [], ptrs := [], deck := 0, regs := { r with silicon := s.regs.silicon }, events := [], evCount := 0, qps := []
    shroud := Shroud.reset, bosun := b, ckpt := none, halting := false, journal := [], issuing := none
    others := s.others.map (fun (e : Nat × Device) => (e.1, { e.2 with shroud := { e.2.shroud with paths := e.2.shroud.paths.filter (fun p => decide (p ≠ num)) } })) }
  (t.setMasts (mastsReset s.dev)).setStns []

/-- The Bosun's own record as a start-up or power-down leaves it. -/
def Bosun.again (b : Bosun) : Bosun :=
  { Bosun.reset with
    bsvn := b.bsvn, boot := b.boot, trip := b.trip, keptMasts := b.keptMasts, keptStns := b.keptStns, keptRows := b.keptRows
    keptBanks := b.keptBanks }

/-- POWER-ON or device reset (R341, steps 1 to 3): with the firmware chain stopped, only the host port comes up (R345). -/
def execPowerOn (s : State) : Host.Outcome State Fault Refusal :=
  let b := s.bosun.again
  .next (if b.boot ≠ 0 then
      let t := s.bare { b with on := true, hostUp := true }
      let r := t.regs
      { t with regs := { r with devfeat := 0 } }
    else
      let t := s.bare { b with on := true }
      (t.setMasts ((List.range 16).map (fun m => (s.dev * 16 + m, bootMast b m)))).setStns (bootStns s.dev b))

/-- Step 7 (R341): the host port comes up once every mast is ready or fenced. -/
def State.hostStart (s : State) : State :=
  let done := s.ownMasts.all (fun m =>
    let t := s.mast m
    decide (t.dram = .ready) || decide (t.foot = .failed) || decide (t.column = .failed) || decide (t.dram = .failed))
  if done && s.bosun.on && !s.bosun.hostUp then
    let b := s.bosun
    let r := HostRegs.reset
    { s with bosun := { b with hostUp := true }, regs := { r with silicon := s.regs.silicon } }
  else s

/-- Cells of a run are written with zeros and valid check bytes. -/
def State.wipe (s : State) (lo hi : Nat) : State :=
  let out := fun (c : Nat) => !(decide (lo ≤ c) && decide (c < hi))
  { s with mem := RMap.keep (n := 8) s.mem out, bad := s.bad.filter out, soft := s.soft.filter out }

/-- A tier reports ready (R341, steps 3 to 6): 0 the foot, 1 the column tier, 2 the DRAM tier. -/
def execTierReady (mast tier : Nat) (s : State) : Host.Outcome State Fault Refusal :=
  let t := s.mast mast
  let base := mast * 2 ^ 37
  .next (if !s.own mast then s
    else match tier with
      | 0 => if t.foot = .powered then s.updMast mast (fun t => { t with foot := .ready, column := .powered }) else s
      | 1 =>
        if t.column = .powered then (s.wipe (base + 2 ^ 36) (base + 2 ^ 37)).updMast mast (fun t => { t with column := .ready, dram := .powered })
        else s
      | 2 =>
        if t.dram = .powered then
          let s1 := (s.wipe base (base + 2 ^ 36)).updMast mast (fun t => { t with dram := .ready })
          { s1 with tags := RMap.keep s1.tags (fun k => decide (k / 2 ^ 20 ≠ mast)) }.hostStart
        else s
      | _ => s)

/-- A tier misses its limit (R341): its mast is fenced and recorded. -/
def execTierReadyTimeout (mast tier : Nat) (s : State) : Host.Outcome State Fault Refusal :=
  let t := s.mast mast
  let late := match tier with
    | 0 => decide (t.foot = .powered)
    | 1 => decide (t.column = .powered)
    | 2 => decide (t.dram = .powered)
    | _ => false
  .next (if !s.own mast || !late then s
    else
      let s1 := s.updMast mast (fun t => match tier with
        | 0 => { t with foot := .failed }
        | 1 => { t with column := .failed }
        | _ => { t with dram := .failed })
      let s2 := s1.fenceMast mast
      let b := s2.bosun
      { s2 with bosun := { b with tierfail := setBit b.tierfail (mast % 16) true } }.hostStart)

/-- The device loses power (R341, R343): what volatile state there was is gone. -/
def State.powerOff (s : State) : State := s.bare { s.bosun.again with down := true }

/-- POWER-DOWN (R341). -/
def execPowerDown (s : State) : Host.Outcome State Fault Refusal := .next s.powerOff

/-! ## Scaling and thermal limits (R342, R343) -/

/-- CLOCK SCALING (R342): the numerator N of a mast, 8 to 16, held at 8 by R343; 1 and 0 begin and end the spacing of DRAM
access. -/
def execClockScaling (mast n : Nat) (s : State) : Host.Outcome State Fault Refusal :=
  .next (if !s.own mast || !s.bosun.on then s
    else if n ≤ 1 then s.updMast mast (fun t => { t with dramSpace := decide (n = 1) })
    else if 8 ≤ n && n ≤ 16 && (!s.bosun.hold || decide (n = 8)) then s.updMast mast (fun t => { t with clkN := BitVec.ofNat 5 n })
    else s)

/-- Change the Bosun's record. -/
def State.updBosun (s : State) (f : Bosun → Bosun) : State := { s with bosun := f s.bosun }

/-- A sensor reaches 95 °C (R343). -/
def execThermalThrottle (temp : BitVec 8) (s : State) : Host.Outcome State Fault Refusal :=
  .next (if s.bosun.on && decide (temp.toNat ≥ 95) then s.updBosun (fun b => { b with thi := true, tmax := temp }) else s)

/-- A sensor reaches 105 °C (R343): N is held at 8, and no crew is admitted. -/
def execThermalHold (temp : BitVec 8) (s : State) : Host.Outcome State Fault Refusal :=
  .next (if s.bosun.on && decide (temp.toNat ≥ 105) then
      let s1 := s.updBosun (fun b => { b with thi := true, hold := true, tmax := temp })
      s1.everyMast (fun t => { t with clkN := 8 })
    else s)

/-- The sensor falls below 100 °C (R343). -/
def execThermalHoldRelease (temp : BitVec 8) (s : State) : Host.Outcome State Fault Refusal :=
  .next (if s.bosun.hold && decide (temp.toNat < 100) then s.updBosun (fun b => { b with hold := false, tmax := temp }) else s)

/-- A sensor reaches 115 °C (R343): TRIP is stored, and the device powers down. -/
def execThermalTrip (temp : BitVec 8) (s : State) : Host.Outcome State Fault Refusal :=
  .next (if s.bosun.on && decide (temp.toNat ≥ 115) then (s.updBosun (fun b => { b with trip := true })).powerOff else s)

/-! ## Registers (R344) -/

/-- The fenced masts, bit m for mast m (R344). -/
def State.fencedMasts (s : State) : Nat := ((List.range 16).filter (fun m => (s.mast (s.dev * 16 + m)).fenced)).foldl (fun a m => a + 2 ^ m) 0

/-- A Bosun register, by its offset in the block (R344). -/
def State.bosunReg (s : State) (off : Nat) : Word :=
  let b := s.bosun
  match off with
  | 0x0 => packWord [(b.bsvn.toNat, 32), (b.boot.toNat, 0)]
  | 0x8 => packWord [(s.fencedMasts, 48), (b.tierfail.toNat, 0)]
  | 0x10 => packWord [(b.pcap.toNat, 48), (b.pwr.toNat, 32), (b.tmax.toNat, 8), ((if b.thi then 1 else 0), 1), ((if b.trip then 1 else 0), 0)]
  | _ => if 0x20 ≤ off && off < 0xA0 && off % 8 = 0 then (s.mast (s.dev * 16 + (off - 0x20) / 8)).clkN.setWidth 64 else 0

/-- A write of a Bosun register (R344). -/
def State.bosunPut (s : State) (off : Nat) (v : Word) : State :=
  if off = 0x10 then
    let cap := fieldOf v 48 16
    s.updBosun (fun b => { b with
      pcap := if 400 ≤ cap && cap ≤ 2400 then BitVec.ofNat 16 cap else b.pcap
      thi := b.thi && !v.getLsbD 1, trip := b.trip && !v.getLsbD 0 })
  else s

/-! ## Attestation (R346) -/

/-- The numbers that the repair map and fenced set consist of. -/
def State.mapNums (s : State) : List Nat :=
  s.ownMasts.flatMap (fun m => (s.mast m).rows ++ (s.mast m).banks) ++ [s.fencedMasts] ++
  (s.stns.filter (fun e => e.2.fenced && decide (e.1 / 1024 = s.dev))).map (fun e => e.1 % 1024)

/-- The part of a report that is signed (R346). -/
def State.reportHead (s : State) (nonce : List Byte) : List Byte :=
  bytesOf [packWord [(1, 56), (s.devno, 0)], packWord [(s.bosun.bsvn.toNat, 32)], s.regs.active, BitVec.ofNat 64 s.fencedMasts] ++
  fitBytes 64 nonce ++
  fitBytes 64 (Config.measurement 0) ++ fitBytes 64 (Config.measurement 1) ++ fitBytes 64 (Config.measurement 2) ++
  fitBytes 64 (Config.shake256 (Config.mapBytes s.mapNums)) ++ List.replicate 32 0

/-- A report (R346): the signed part, its signature, the identity key and its certificate. -/
def State.report (s : State) (nonce : List Byte) : List Byte :=
  let head := s.reportHead nonce
  head ++ fitBytes 1280 (Config.falconSign head) ++ fitBytes 1824 (fitBytes 1793 Config.identityKey) ++ fitBytes 1280 Config.certificate

/-- Whether a run of sectors lies in frames of a context's tag. -/
def State.ownRun (s : State) (ctx : Nat) (c : Ctx) (va : Word) (n : Nat) (write : Bool) : Bool :=
  decide (va.toNat % 32 = 0) && (List.range n).all (fun i =>
    let a := va + BitVec.ofNat 64 (32 * i)
    match s.home c a, s.cpCell ctx c a write with
    | .dram _ m, some cell => decide (s.frameTag m (cell % 2 ^ 36 / 2 ^ 16) = BitVec.ofNat 16 ctx)
    | _, _ => false)

/-- ATTEST (R346). -/
def execAttest (c : HCmd) (s : State) : Host.Outcome State Fault Refusal :=
  .next (s.hostCmd 0x0D c (fun s =>
    let ctx := c.ctx.toNat
    match SMap.get? s.ctxs ctx with
    | none => (s, 7)
    | some x =>
      if !s.ownRun ctx x c.a0 149 true || !s.ownRun ctx x c.a1 2 false then (s, 7)
      else match s.cpWords ctx x c.a1 8, s.cpCell ctx x c.a1 false, s.cpCell ctx x (c.a1 + 32) false with
        | some ws, some p, some q =>
          let s1 := s.checkRead [p, q]
          if s.badAt p || s.badAt q then (s1, 7)
          else
            let r := s.report (bytesOf ws)
            ((List.range 149).foldl (fun s i => s.cpBytes ctx x (c.a0 + BitVec.ofNat 64 (32 * i)) ((r.drop (32 * i)).take 32)) s1, 0)
        | _, _, _ => (s, 7)))

end Sys2Proof.Machine
end

