-- ==== Sys2Proof/Machine/Host.lean ====
section
/-! DEFINITION. The host port: its commands (spec 17, R318), registers (R316, R317), regions (R313, R314) and events (R319),
and the shroud ports (R320 to R325). -/

namespace Sys2Proof.Machine

open Sys2Proof

/-- The state of an outcome that is a next state. -/
def nextOr (s : State) : Host.Outcome State Fault Refusal → State
  | .next t => t
  | .fault _ | .refused _ => s

/-! ## Contexts and queues (R262, R267, R318) -/

/-- The bitmap of granted devices (R267), read with every device in reach. -/
def State.readGrant (s : State) (ctx : Nat) (c : Ctx) : BitVec 1024 :=
  match s.cpWords ctx { c with grant := BitVec.allOnes 1024 } c.grantVa 16 with
  | some ws => BitVec.ofNat 1024 (leNat (bytesOf ws))
  | none => 0

/-- A context from its record (R267). -/
def ctxOfWords (ws : List Word) : Ctx :=
  let w := fun (i : Nat) => ws.getD i 0
  { esclim := fieldOf (w 0) 0 8, tvec := w 1, save := w 2, root := w 3, pdl := w 4, grantVa := w 5, grant := 0, wentry := 0, stripe := 0,
    tb := [], esc := 0, st := .running, nq := 0, left := none, ptag := 0, pend := [] }

/-- CTXREG (R318, R267). A save area that holds a saved context registers as saved (R336). -/
def execCtxreg (c : HCmd) (s : State) : Host.Outcome State Fault Refusal :=
  .next (s.hostCmd 0x01 c (fun s =>
    let ctx := c.ctx.toNat
    if (SMap.get? s.ctxs ctx).isSome || decide (ctx = 0) || decide (ctx = 0xFFFF) then (s, 7)
    else match s.physWords ctx c.a0 32 8 with
      | none => (s, 7)
      | some ws =>
        match s.readRoot ctx (ctxOfWords ws) with
        | none => (s, 7)
        | some x =>
          if fieldOf (ws.getD 0 0) 48 16 ≠ ctx then (s, 7)
          else
            let s1 : State := { s with ctxs := SMap.put s.ctxs ctx x }
            let y : Ctx := { x with grant := s1.readGrant ctx x }
            let s2 : State := { s with ctxs := SMap.put s.ctxs ctx y }
            let saved := ((s2.cpWord ctx y y.save).map (fun w => decide (fieldOf w 0 3 = 2) && decide (fieldOf w 48 16 = ctx))).getD false
            (s2.setCtxSt ctx (if saved then .saved else .running), 0)))

/-- The words of a queue descriptor, if they pass the checks of R262. -/
def State.queueWords (s : State) (ctx : Nat) (addr : Word) : Option (List Word) :=
  match SMap.get? s.ctxs ctx with
  | none => none
  | some c =>
    if addr.toNat % 32 ≠ 0 then none
    else (s.cpWords ctx c addr 8).bind (fun ws =>
      let w := fun (i : Nat) => ws.getD i 0
      if (w 0).toNat % 64 ≠ 0 || decide (fieldOf (w 2) 32 16 = 0) || decide (fieldOf (w 2) 0 32 = 0) || decide (fieldOf (w 2) 48 16 ≠ 0) ||
         decide (fieldOf (w 3) 2 30 ≠ 0) || decide (w 6 ≠ 0) || decide (w 7 ≠ 0) then none else some ws)

/-- A queue as its descriptor describes it (R262). -/
def queueOfWords (ctx num : Nat) (desc : Word) (ws : List Word) : Queue :=
  let w := fun (i : Nat) => ws.getD i 0
  { ctx := ctx, num := num, desc := desc, base := w 0, head := BitVec.ofNat 32 (fieldOf (w 1) 32 32), tail := BitVec.ofNat 32 (fieldOf (w 1) 0 32),
    slots := fieldOf (w 2) 32 16, quant := fieldOf (w 2) 0 32, adv := fieldOf (w 3) 32 32, stopped := decide (fieldOf (w 3) 0 2 ≠ 0),
    dc := (w 4).toInt, phase := .idle, x := none }

/-- QREG (R318, R262): the context's root block is read again for its first queue (R288). -/
def execQreg (c : HCmd) (s : State) : Host.Outcome State Fault Refusal :=
  .next (s.hostCmd 0x02 c (fun s =>
    let ctx := c.ctx.toNat
    match SMap.get? s.ctxs ctx with
    | none => (s, 7)
    | some x =>
      let fresh := if x.nq = 0 then (s.readRoot ctx x).map (fun y => { y with grant := ({ s with ctxs := SMap.put s.ctxs ctx y }).readGrant ctx y }) else some x
      match fresh with
      | none => (s, 7)
      | some y =>
        let s1 : State := { s with ctxs := SMap.put s.ctxs ctx y }
        if x.nq ≥ 64 || x.st = .reset then (s, 7)
        else match s1.queueWords ctx c.a0 with
          | none => (s, 7)
          | some ws =>
            let s2 := s1.updCtx ctx (fun z => { z with nq := z.nq + 1 })
            ({ s2 with queues := SMap.put s2.queues (ctx * 64 + x.nq) (queueOfWords ctx x.nq c.a0 ws) }, 0)))

/-- QRESTART (R318, R262); what the queue's last command still does goes on (R264). -/
def execQrestart (c : HCmd) (s : State) : Host.Outcome State Fault Refusal :=
  .next (s.hostCmd 0x03 c (fun s =>
    let ctx := c.ctx.toNat
    let k := ctx * 64 + fieldOf c.a0 0 6
    match SMap.get? s.queues k, SMap.get? s.ctxs ctx with
    | some q, some x =>
      if !q.stopped || x.st = .reset then (s, 7)
      else match s.queueWords ctx q.desc with
        | none => (s.putQueue k q, 7)
        | some ws => (s.putQueue k { queueOfWords ctx q.num q.desc ws with stopped := false, phase := q.phase }, 0)
    | _, _ => (s, 7)))

/-- FTAG (R318, R295). -/
def execFtag (c : HCmd) (s : State) : Host.Outcome State Fault Refusal :=
  .next (s.hostCmd 0x09 c (fun s =>
    let m := fieldOf c.a0 0 4
    let first := c.a1.toNat
    let tag := BitVec.ofNat 16 (fieldOf c.a2 32 16)
    let n := fieldOf c.a2 0 20
    if tag = 0xFFFF || first + n > dataFrames then (s, 7)
    else ((List.range n).foldl (fun s i => s.tagFrame (s.dev * 16 + m) (first + i) tag) s, 0)))

/-! ## Membership (R322, R325) -/

/-- Whether a copy still has a sector on a device to read or write. -/
def State.copyMeets (s : State) (ctx : Nat) (sl : Slice) (dev : Nat) : Bool :=
  let at' := fun (va : Word) => decide (fieldOf (((SMap.get? s.ctxs ctx).map (fun c => s.direct c va)).getD va) 53 10 = dev)
  ((List.range sl.kind.units).filter (fun k => !sl.done.contains k)).any (fun k =>
    (sl.kind.moves k).any (fun m => at' m.1 || m.2.any at')) ||
  (match sl.kind with
   | .cpcv a0 a1 a2 dst _ _ _ _ _ _ _ _ _ _ _ => at' a0 || at' a1 || at' a2 || at' dst
   | .cp _ _ _ | .cpm _ _ _ _ _ _ _ _ => false)

/-- The contexts with lanes on a departed device, images that are there or come from it, tie records, or crews with their barrier counters
(R325). An image bound for it is returned instead. -/
def State.ctxsLeft (s : State) (d : Nat) : List Nat :=
  let at' := fun (m : Nat) => decide (m / 16 = d)
  let there := fun (im : Image) => match im.phase with
    | .departing | .flying | .returning => at' im.smast
    | .landed _ => at' im.tmast
  (s.subs.filterMap (fun e => if at' e.2.mast then s.groupCtx e.2.gid else none) ++
   s.images.filterMap (fun e => if there e.2 then s.groupCtx e.2.sg.gid else none) ++
   s.ties.filterMap (fun e => if at' e.2.mast then s.groupCtx e.2.gid else none) ++
   s.crews.filterMap (fun e => if at' e.2.mast && decide ((s.stn e.2.mast e.2.stn).crew = some e.1) then s.crewCtx e.2 else none)).dedup

/-- Posted operations sent to a departed device and not yet acknowledged are acknowledged with error, whether they were performed or not
(R325). -/
def State.dropPosted (s : State) (d : Nat) : State :=
  s.msgs.foldl (fun s e =>
    let error := fun (gid path reach n : Nat) =>
      { s with msgs := SMap.del s.msgs e.1 }.send (cpPort s.dev) (s.fencePort gid) (.ack gid path reach n true)
    match e.2.body with
    | .posted gid _ _ _ ops reach _ =>
      if decide (portDev e.2.dst = d) && (decide (portDev e.2.src = s.dev) || decide (portDev (s.fencePort gid) = s.dev)) then error gid 1 reach ops.length else s
    | .ack gid path reach n _ => if decide (portDev e.2.src = d) && decide (portDev e.2.dst = s.dev) then error gid path reach n else s
    | .tieNotice _ _ _ _ _ _ _ | .exitNotice _ _ | .barArrive _ _ _ _ | .barWithdraw _ _ _ _ | .barExit _ _ | .barDone _ _
    | .escInc _ _ _ _ _ _ _ _ | .escTrap _ _ _ _ _ _ _ | .escReset _ | .segld _ _ _ | .tlbi _ _ _ | .done _ => s) s

/-- Elements of this device's streams that a departed device holds trap when they are delivered (R325). -/
def State.dropElements (s : State) (dev : Nat) : State :=
  let gone := fun (r : StreamReq) => r.els.any (fun x => decide (fieldOf x.va 53 10 = dev))
  let s1 : State := { s with groups := s.groups.map (fun (e : Nat × Group) => (e.1, { e.2 with
    streams := e.2.streams.map (fun (q : Nat × Stream) => if !s.own q.2.mast then q else (q.1, { q.2 with
      got := q.2.got ++ (q.2.reqs.filter gone).flatMap (fun r => r.els.map (fun x => { x with trap := some (8, 1) }))
      reqs := q.2.reqs.filter (fun r => !gone r) })) })) }
  s1.groups.foldl (fun s e => s.wakeQld e.1) s1

/-- Engine operations of this device's groups with sectors on a departed one end with REFUSED (R325). -/
def State.dropEngines (s : State) (dev : Nat) : State :=
  let meets := fun (c : JibCall) => decide (c.dev = s.dev) && (decide (fieldOf c.record 53 10 = dev) ||
    (match c.phase with | .replying _ _ a => decide (fieldOf a 53 10 = dev) | .queued => false))
  let s1 := (s.calls.filter (fun e => meets e.2)).foldl (fun s e => s.endCall e.1 { e.2 with unit := none } 5) s
  let sls := s1.slices.filter (fun e => e.2.entry && decide (e.2.dev = s.dev) && s1.copyMeets e.2.ctx e.2 dev)
  sls.foldl (fun s e =>
    match SMap.get? s.slices e.1 with
    | some sl => ({ s with slices := SMap.put s.slices e.1 { sl.giveUp 5 with code := 5 } }).checkCopy sl.cid sl.tag sl.round
    | none => s) s1

/-- A device leaves the domain, as this one sees it (R325). Images bound for it are sent back when they reach their way out. -/
def State.leave (s : State) (dev : Nat) : State :=
  let d := s.devIx dev
  let r := s.regs
  let sh := s.shroud
  let s1 : State := { s with
    regs := { r with member := setBit r.member dev false }
    shroud := { sh with noPath := RMap.set sh.noPath dev 0 } }
  let s2 := ((s1.dropPosted d).dropElements dev).dropEngines dev
  s2.forceResets (s2.ctxsLeft d)

/-- MEMBER (R318, R322, R325). -/
def execMember (c : HCmd) (s : State) : Host.Outcome State Fault Refusal :=
  .next (s.hostCmd 0x0A c (fun s =>
    let dev := fieldOf c.a0 0 10
    if !s.regs.active.getLsbD 1 || decide (dev = s.devno) then (s, 7)
    else if c.a1.getLsbD 0 then
      let r := s.regs
      ({ s with regs := { r with member := setBit r.member dev true } }, 0)
    else if s.regs.member.getLsbD dev then (s.leave dev, 0)
    else (s, 0)))

/-- Deck cycles without a path after which a device leaves (R325). -/
def pathLimit : Nat := 2000000

/-- MEMBERSHIP TIMEOUT (R325). -/
def execMembershipTimeout (dev : Nat) (s : State) : Host.Outcome State Fault Refusal :=
  .next (if s.regs.member.getLsbD dev && dev ≠ s.devno && !s.shroud.paths.contains dev &&
      decide ((RMap.get s.shroud.noPath dev).toNat ≥ pathLimit) then
      (s.leave dev).post { typ := 7, code := 0, tag := 0, ctx := 0, w1 := BitVec.ofNat 64 dev, w2 := 0, w3 := 0 }
    else s)

/-- A path to a device comes to exist (R322); without DOMAIN the shroud ports stay down (R317). -/
def execShroudPath (dev : Nat) (s : State) : Host.Outcome State Fault Refusal :=
  let sh := s.shroud
  let up := match s.partOf (s.devIx dev) with | some p => p.regs.active.getLsbD 1 | none => true
  .next (if s.regs.active.getLsbD 1 && up && dev < 1024 && dev ≠ s.devno && !sh.paths.contains dev then
      { s with shroud := { sh with paths := sh.paths ++ [dev], noPath := RMap.set sh.noPath dev 0 } }
    else s)

/-- The shroud ports of a device. -/
def shroudPorts : Nat := 18

/-- A shroud port fails (R321): its traffic moves to another; with the last port every path from and to the device is gone. -/
def execShroudPortFailure (port : Nat) (s : State) : Host.Outcome State Fault Refusal :=
  let sh := s.shroud
  let num := s.devno
  .next (if port < shroudPorts && !sh.failed.contains port then
      let failed := sh.failed ++ [port]
      if failed.length < shroudPorts then { s with shroud := { sh with failed := failed } }
      else
        { s with
          shroud := { sh with failed := failed, paths := [] }
          others := s.others.map (fun (e : Nat × Device) =>
            (e.1, { e.2 with shroud := { e.2.shroud with paths := e.2.shroud.paths.filter (fun p => decide (p ≠ num)) } })) }
    else s)

/-- The port that carries messages of a mast to a device (R321): by a hash, of the ports of the mast's device that work. -/
def State.portFor (s : State) (mast dev : Nat) : Option Nat :=
  let ports := (List.range shroudPorts).filter (fun p => !((s.partOf (mast / 16)).map (fun d => d.shroud.failed.contains p)).getD true)
  ports[Config.portHash dev mast % ports.length]?

/-! ## Flits (R320, R323) -/

/-- A flit's bytes before its CRC (R320). -/
def flitBytes (f : Flit) : List Byte :=
  bytesOf [packWord [(f.count.toNat, 34), (f.cls.toNat, 32), (f.seq.toNat, 0)]] ++ leBytes 16 f.link.toNat ++
  (List.range 7).flatMap (fun i => leBytes 32 (f.slots.getD i 0).toNat)

/-- The class of a message between devices (R320). -/
def MsgBody.cls : MsgBody → Nat
  | .posted _ _ _ _ _ _ _ | .segld _ _ _ | .tlbi _ _ _ => 1
  | .ack _ _ _ _ _ | .done _ => 2
  | .tieNotice _ _ _ _ _ _ _ | .exitNotice _ _ | .barArrive _ _ _ _ | .barWithdraw _ _ _ _ | .barExit _ _ | .barDone _ _
  | .escInc _ _ _ _ _ _ _ _ | .escTrap _ _ _ _ _ _ _ | .escReset _ => 3

/-- A message reaches its place, and what it asks for happens there. -/
def execMsg (i : Nat) (b : MsgBody) (s : State) : Host.Outcome State Fault Refusal :=
  match b with
  | .posted _ _ _ _ _ _ _ => execPostedOperation i s
  | .ack _ _ _ _ _ => execPostedAcknowledgement i s
  | .tieNotice _ _ _ _ _ _ _ => execTieNotice i s
  | .exitNotice _ _ => execExitNotice i s
  | .barArrive _ _ _ _ => execBarrierArrival i s
  | .barWithdraw _ _ _ _ => execBarrierWithdrawal i s
  | .barExit _ _ => execBarrierExit i s
  | .barDone _ _ => execBarrierCompletionNotice i s
  | .escInc _ _ _ _ _ _ _ _ | .escTrap _ _ _ _ _ _ _ => execEscalationIncrement i s
  | .escReset _ => execEscalationReset i s
  | .segld _ _ _ | .tlbi _ _ _ | .done _ => .next (((SMap.get? s.msgs i).map (fun m => s.serveUnit i m)).getD s)

/-- The mast that an end of messages belongs to, for the choice of a port; the deck counts with the device's first mast. -/
def portMast (p : Nat) : Nat := if p < 2 ^ 40 then p / 64 else if p < 2 ^ 41 then p - 2 ^ 40 else (p - 2 ^ 41) * 16

/-- The messages of a class that come next from a device over one of its ports: those that no earlier one of their route precedes. -/
def State.nextFrom (s : State) (d port cls : Nat) : Option (Nat × MsgBody) :=
  (s.msgs.find? (fun e => decide (e.2.body.cls = cls) && decide (portDev e.2.src = d) && decide (portDev e.2.dst = s.dev) &&
    decide (s.portFor (portMast e.2.src) s.devno = some port) && s.firstMsg e.1 e.2)).map (fun e => (e.1, e.2.body))

/-- The image that comes next from a device over one of its ports. -/
def State.imageFrom (s : State) (d port : Nat) : Option (Nat × Image) :=
  s.images.find? (fun e => decide (e.2.phase = .flying) && decide (e.2.smast / 16 = d) && s.own e.2.tmast &&
    decide (s.portFor e.2.smast s.devno = some port) && s.nextOnRoute e.1 e.2)

/-- The messages in the slots of a flit arrive: one in each slot, of a size that the spec does not state; an image when its last slot
has come (R216, R320). -/
def State.takeSlots (s : State) (d src port cls : Nat) : Nat → State
  | 0 => s
  | n + 1 =>
    if cls = 0 then
      match s.imageFrom d port with
      | none => s
      | some (i, im) =>
        let sh := s.shroud
        let got := RMap.get sh.part src + 1
        if got.toNat < im.flits then State.takeSlots { s with shroud := { sh with part := RMap.set sh.part src got } } d src port cls n
        else State.takeSlots (nextOr s (execImageLanding i { s with shroud := { sh with part := RMap.set sh.part src 0 } })) d src port cls n
    else match s.nextFrom d port cls with
      | none => s
      | some (i, b) => State.takeSlots (nextOr s (execMsg i b s)) d src port cls n

/-- A RILUAGAN FLIT (R320, R321): one that fails its CRC is sent again, those of one port come in sequence, and what a good one
carries arrives. The spec gives no bytes for messages but images: a slot stands for the next message of its class. -/
def execRiluaganFlit (f : Flit) (s : State) : Host.Outcome State Fault Refusal :=
  let sh := s.shroud
  let key := f.src * 32 + f.port
  .next (if !s.regs.active.getLsbD 1 || f.port ≥ shroudPorts || sh.failed.contains f.port then s
    else if Config.crc64 (flitBytes f) ≠ f.crc then { s with shroud := { sh with retry := sh.retry + 1 } }
    else if f.seq ≠ RMap.get sh.seqs key then s
    else { s with shroud := { sh with seqs := RMap.set sh.seqs key (f.seq + 1) } }.takeSlots (s.devIx f.src) f.src f.port f.cls.toNat (min 7 f.count.toNat))

/-! ## Registers (R313, R316, R317) -/

/-- A region's entry. -/
def State.region (s : State) (k : Nat) : Region :=
  (SMap.get? s.regs.regions k).getD { va := 0, len := 0, ctx := 0, at_ := false, wr := false, rd := false }

/-- Change a region's entry. -/
def State.updRegion (s : State) (k : Nat) (f : Region → Region) : State :=
  let r := s.regs
  { s with regs := { r with regions := SMap.put r.regions k (f (s.region k)) } }

/-- A word of a region's entry (R313). -/
def Region.word (g : Region) (i : Nat) : Word :=
  match i with
  | 0 => g.va
  | 1 => g.len
  | 2 => packWord [(g.ctx.toNat, 48), ((if g.at_ then 1 else 0), 2), ((if g.wr then 1 else 0), 1), ((if g.rd then 1 else 0), 0)]
  | _ => 0

/-- A word written to a region's entry (R313). -/
def Region.put (g : Region) (i : Nat) (v : Word) : Region :=
  match i with
  | 0 => { g with va := v }
  | 1 => { g with len := v }
  | 2 => { g with ctx := BitVec.ofNat 16 (fieldOf v 48 16), at_ := v.getLsbD 2, wr := v.getLsbD 1, rd := v.getLsbD 0 }
  | _ => g

/-- An error or repair register of a mast (R330). -/
def State.errorReg (s : State) (m off : Nat) : Word :=
  let t := s.mast m
  let flag := fun (b : Bool) (n : Nat) => ((if b then 1 else 0), n)
  match off with
  | 0x3000 => packWord [(t.cecnt.toNat, 32), (t.uecnt.toNat, 0)]
  | 0x3008 => packWord [flag t.uv 63, (t.src.toNat, 60), (t.uepa.toNat, 0)]
  | 0x3010 => packWord [flag t.uei 1, flag t.cei 0]
  | 0x3018 => packWord [(t.cethr.toNat, 32), flag t.auto 0]
  | 0x3020 => packWord [(t.srows.toNat, 48), (t.sbanks.toNat, 32)]
  | 0x3028 => t.repair
  | 0x3030 => packWord [flag t.busy 63, (t.result.toNat, 0)]
  | 0x3100 => t.jrn.word false
  | 0x3108 => t.jrn.word true
  | _ => 0

/-- An aligned word of the register space as the host reads it (R316). -/
def State.hostReg (s : State) (off : Nat) : Word :=
  let r := s.regs
  if off = 0 then packWord [(r.silicon.toNat, 32), (r.devnum.toNat, 0)]
  else if off = 0x8 then r.devfeat
  else if off = 0x10 then r.drvfeat
  else if off = 0x18 then r.active
  else if off = 0x20 then r.neg.setWidth 64
  else if off = 0x28 then r.evva
  else if off = 0x30 then packWord [(r.evkey.toNat, 32), (r.evqpn.toNat, 0)]
  else if off = 0x38 then packWord [(r.evhead.toNat, 32), (r.evslots.toNat, 0)]
  else if 0x100 ≤ off && off < 0x180 then BitVec.ofNat 64 (fieldOf r.member ((off - 0x100) * 8) 64)
  else if 0x80000 ≤ off && off < 0xA0000 then (s.region ((off - 0x80000) / 32)).word (off % 32 / 8)
  else if 0x100000 ≤ off && off < 0x200000 then
    let m := s.dev * 16 + (off - 0x100000) / 2 ^ 16
    let o := off % 2 ^ 16
    if o < 0x2018 then s.faultReg m o else s.errorReg m o
  else if 0x200000 ≤ off && off < 0x203100 then s.bosunReg (off - 0x200000)
  else if off = 0x203100 then r.jrn.word false
  else if off = 0x203108 then r.jrn.word true
  else 0

/-- A write to a register of a mast's block with no behaviour of its own (R298, R330). -/
def State.putMastReg (s : State) (m off : Nat) (v : Word) : State :=
  match off with
  | 0x2000 => s.updMast m (fun t => { t with ovf := BitVec.ofNat 32 (fieldOf v 32 32) })
  | 0x2010 => s.updMast m (fun t => { t with newi := t.newi && !v.getLsbD 0, ovfi := t.ovfi && !v.getLsbD 1 })
  | 0x3000 => s.updMast m (fun t => { t with cecnt := BitVec.ofNat 32 (fieldOf v 32 32), uecnt := BitVec.ofNat 32 (fieldOf v 0 32) })
  | 0x3008 => s.updMast m (fun t => { t with uv := t.uv && !v.getLsbD 63 })
  | 0x3010 => s.updMast m (fun t => { t with uei := t.uei && !v.getLsbD 1, cei := t.cei && !v.getLsbD 0 })
  | 0x3018 => s.updMast m (fun t => { t with cethr := BitVec.ofNat 32 (fieldOf v 32 32), auto := v.getLsbD 0 })
  | _ => s

/-- REGISTER WRITE (R316): the fields of a register with no behaviour of its own take the value by their access codes. -/
def execRegisterWrite (off : Nat) (value : Word) (s : State) : Host.Outcome State Fault Refusal :=
  let r := s.regs
  .next (if off % 8 ≠ 0 then s
    else if off = 0 then (if r.neg = 0 then { s with regs := { r with devnum := BitVec.ofNat 10 (fieldOf value 0 10) } } else s)
    else if off = 0x28 then { s with regs := { r with evva := value } }
    else if off = 0x30 then { s with regs := { r with evkey := BitVec.ofNat 32 (fieldOf value 32 32), evqpn := BitVec.ofNat 24 (fieldOf value 0 24) } }
    else if off = 0x38 then { s with regs := { r with evhead := BitVec.ofNat 32 (fieldOf value 32 32), evslots := BitVec.ofNat 32 (fieldOf value 0 32) } }
    else if 0x80000 ≤ off && off < 0xA0000 then s.updRegion ((off - 0x80000) / 32) (fun g => g.put (off % 32 / 8) value)
    else if 0x100000 ≤ off && off < 0x200000 then s.putMastReg (s.dev * 16 + (off - 0x100000) / 2 ^ 16) (off % 2 ^ 16) value
    else if 0x200000 ≤ off && off < 0x203100 then s.bosunPut (off - 0x200000) value
    else s)

/-- The first write of DRVFEAT after a device reset negotiates (R317). -/
def execDrvfeatWrite (value : Word) (s : State) : Host.Outcome State Fault Refusal :=
  let r := s.regs
  .next (if r.judged then s
    else if value.getLsbD 0 && decide (value &&& ~~~r.devfeat = 0) then
      { s with regs := { r with drvfeat := value, active := value, neg := 1, judged := true, member := setBit r.member r.devnum.toNat true } }
    else { s with regs := { r with drvfeat := value, neg := 2, judged := true } })

/-- DOORBELL (R315): the Command Processor reads TAIL again. -/
def execDoorbell (value : Word) (s : State) : Host.Outcome State Fault Refusal :=
  let k := fieldOf value 48 16 * 64 + fieldOf value 0 6
  .next (if s.regs.neg ≠ 1 then s
    else match SMap.get? s.queues k with
      | none => s
      | some q =>
        match (SMap.get? s.ctxs q.ctx).bind (fun c => s.cpWord q.ctx c (q.desc + 8)) with
        | some w => { s with queues := SMap.put s.queues k { q with tail := BitVec.ofNat 32 (fieldOf w 0 32) } }
        | none => s)

/-- A host command by its OP (R318, R333, R346); a reserved OP ends with ERROR. -/
def State.takeCmd (s : State) (ws : List Word) : State :=
  let w := fun (i : Nat) => ws.getD i 0
  let c : HCmd := { tag := BitVec.ofNat 16 (fieldOf (w 0) 16 16), ctx := BitVec.ofNat 16 (fieldOf (w 0) 48 16), a0 := w 1, a1 := w 2, a2 := w 3 }
  nextOr s (match fieldOf (w 0) 0 8 with
    | 0x01 => execCtxreg c s
    | 0x02 => execQreg c s
    | 0x03 => execQrestart c s
    | 0x04 => execPreempt c s
    | 0x05 => execRestore c s
    | 0x06 => execResume c s
    | 0x07 => execDebuggo c s
    | 0x08 => execDestroy c s
    | 0x09 => execFtag c s
    | 0x0A => execMember c s
    | 0x0B => execCkpt c s
    | 0x0C => execCkload c s
    | 0x0D => execAttest c s
    | op => .next (s.hostCmd op c (fun s => (s, 7))))

/-- One aligned word written to the register space; whole tells that it is all of the write (R315, R316). -/
def State.putReg (s : State) (off : Nat) (v : Word) (whole : Bool) : State :=
  if off = 0x10 then nextOr s (execDrvfeatWrite v s)
  else if off = 0x1000 then (if whole then nextOr s (execDoorbell v s) else s)
  else if (journalPlace off).isSome then nextOr s (execJournalControlWrite off v s)
  else if 0x100000 ≤ off && off < 0x200000 && off % 2 ^ 16 = 0x2008 then
    let m := s.dev * 16 + (off - 0x100000) / 2 ^ 16
    let idx := fieldOf v 0 8
    let seq := BitVec.ofNat 32 (fieldOf v 32 32)
    (match fieldOf v 8 2 with
     | 0 => nextOr s (execRetry m idx seq s)
     | 1 => nextOr s (execFail m idx seq s)
     | _ => s)
  else if 0x100000 ≤ off && off < 0x200000 && off % 2 ^ 16 = 0x3028 then s.askRepair (s.dev * 16 + (off - 0x100000) / 2 ^ 16) v
  else nextOr s (execRegisterWrite off v s)

/-- A write to the register space (R316): HCMD only as one 32-byte write; anything else in aligned words, in ascending order. -/
def State.putRegs (s : State) (off : Nat) (data : List Byte) : State :=
  let n := data.length
  let ws := wordsOf (n / 8) data
  if off = 0x2000 && n = 32 then s.takeCmd ws
  else if off < 0x2020 && 0x2000 < off + n then s
  else if off % 8 ≠ 0 || n % 8 ≠ 0 then s
  else ws.zipIdx.foldl (fun s e => s.putReg (off + 8 * e.2) e.1 (decide (n = 8))) s

/-! ## Regions (R313, R314) -/

/-- Where a sector of a host access stands: it waits for its page, or with none for a path to its home (R322). -/
inductive HostAt where
  | cell (c : Nat) | hold (x : Option XlReq) | nak
  deriving DecidableEq, Repr

/-- The place of a host access with its region's context (R314): owner tags are compared. -/
def State.hostAt (s : State) (ctx : Nat) (c : Ctx) (va : Word) (acc : BitVec 2) : State × HostAt :=
  match s.home c va with
  | .none _ => (s, .nak)
  | .window _ m n off =>
    if s.fencedAt (s.direct c va) then (s, .nak)
    else if !s.linked s.dev (m / 16) then (s, .hold none)
    else if off < 0x140000 && (s.stn m n).tag == BitVec.ofNat 16 ctx then (s, .cell (localCell m n off)) else (s, .nak)
  | .dram _ m =>
    if s.fencedAt (s.direct c va) then (s, .nak)
    else if !s.linked s.dev (m / 16) then (s, .hold none)
    else match s.tryXl (XlReq.mk' ctx (s.direct c va) acc) with
      | (t, some pa, _) => if s.frameTag m (pa / 2 ^ 16) = BitVec.ofNat 16 ctx then (t, .cell (dramCell m pa)) else (t, .nak)
      | (t, none, x) => (t, .hold (some x))

/-- How far a packet comes. -/
inductive PacketEnd where
  | done (o : HostOut) | hold (x : Option XlReq) (rest : Packet) | nak
  deriving DecidableEq, Repr

/-- The parts of a run of bytes that lie in one sector each. -/
def sectorRuns : Nat → Word → List Byte → List (Word × List Byte)
  | 0, _, _ => []
  | n + 1, va, bs =>
    if bs.isEmpty then []
    else
      let k := 32 - va.toNat % 32
      (va, bs.take k) :: sectorRuns n (va + BitVec.ofNat 64 k) (bs.drop k)

/-- The sectors of a write in turn (R314, R327): what stops it, and how many bytes are done. -/
def State.hostPut (s : State) (ctx : Nat) (c : Ctx) (done : Nat) : List (Word × List Byte) → State × Nat × Option HostAt
  | [] => (s, done, none)
  | (va, bs) :: rest =>
    match s.hostAt ctx c va 1 with
    | (t, .cell p) =>
      let whole := decide (bs.length = 32)
      let t1 := if whole then t else t.checkRead [sectorOf p]
      if !whole && t1.badAt p then (t1, done, some .nak)
      else State.hostPut (t1.store p bs) ctx c (done + bs.length) rest
    | (t, h) => (t, done, some h)

/-- The sectors of a read in turn: the bytes, or what stops it. -/
def State.hostGet (s : State) (ctx : Nat) (c : Ctx) : List (Word × List Byte) → State × Except HostAt (List Byte)
  | [] => (s, .ok [])
  | (va, bs) :: rest =>
    match s.hostAt ctx c va 0 with
    | (t, .cell p) =>
      let t1 := t.checkRead [sectorOf p]
      if t1.badAt p then (t1, .error .nak)
      else match State.hostGet t1 ctx c rest with
        | (u, .ok more) => (u, .ok (t1.bytes p bs.length ++ more))
        | (u, .error e) => (u, .error e)
    | (t, h) => (t, .error h)

/-- What is left of a packet that stopped. -/
def HostAt.stop (h : HostAt) (rest : Packet) : PacketEnd :=
  match h with
  | .hold x => .hold x rest
  | .nak | .cell _ => .nak

/-- Whether an access keeps within its region and rights (R313). -/
def Region.allows (g : Region) (off n : Nat) (right : Bool) : Bool := right && decide (g.len ≠ 0) && decide (off + n ≤ g.len.toNat)

/-- An atomic of the host on its word (R314): the old value is returned. -/
def State.hostAtomic (s : State) (qp ctx : Nat) (c : Ctx) (va : Word) (p : Packet) (f : Word → Word) : State × PacketEnd :=
  match s.hostAt ctx c va 1 with
  | (t, .cell a) =>
    let t1 := t.checkRead [sectorOf a]
    if t1.badAt a then (t1, .nak)
    else ((t1.noteAtom ctx 0 (sectorOf a)).store a (leBytes 8 (f (t1.word a)).toNat), .done (.old qp (t1.word a)))
  | (t, h) => (t, h.stop p)

/-- A packet is performed as far as it goes (R314, R316). -/
def State.packet (s : State) (qp : Nat) (p : Packet) : State × PacketEnd :=
  let key := match p with | .write k _ _ | .read k _ _ | .cas k _ _ _ | .add k _ _ => k
  if key = 0 then
    match p with
    | .write _ off data => (s.putRegs off data, .done (.ack qp))
    | .read _ off n =>
      if off % 8 ≠ 0 || n % 8 ≠ 0 then (s, .nak)
      else (s, .done (.data qp ((List.range (n / 8)).flatMap (fun i => leBytes 8 (s.hostReg (off + 8 * i)).toNat))))
    | .cas _ _ _ _ | .add _ _ _ => (s, .nak)
  else if key ≥ 4096 then (s, .nak)
  else
    let g := s.region key
    let ctx := g.ctx.toNat
    match SMap.get? s.ctxs ctx with
    | none => (s, .nak)
    | some c =>
      match p with
      | .write _ off data =>
        if !g.allows off data.length g.wr then (s, .nak)
        else
          let va := g.va + BitVec.ofNat 64 off
          (match s.hostPut ctx c 0 (sectorRuns data.length va data) with
           | (t, _, none) => (t, .done (.ack qp))
           | (t, n, some h) => (t, h.stop (.write key (off + n) (data.drop n))))
      | .read _ off n =>
        if !g.allows off n g.rd then (s, .nak)
        else
          let va := g.va + BitVec.ofNat 64 off
          (match s.hostGet ctx c (sectorRuns n va (List.replicate n 0)) with
           | (t, .ok bs) => (t, .done (.data qp bs))
           | (t, .error h) => (t, h.stop p))
      | .cas _ off cmp swap =>
        let va := g.va + BitVec.ofNat 64 off
        if !g.allows off 8 g.at_ || va.toNat % 8 ≠ 0 then (s, .nak)
        else s.hostAtomic qp ctx c va p (fun x => if x = cmp then swap else x)
      | .add _ off x =>
        let va := g.va + BitVec.ofNat 64 off
        if !g.allows off 8 g.at_ || va.toNat % 8 ≠ 0 then (s, .nak)
        else s.hostAtomic qp ctx c va p (fun y => y + x)

/-- A queue pair's record. -/
def State.qp (s : State) (k : Nat) : Qp := (SMap.get? s.qps k).getD { error := false, slowed := false, waiting := [], x := none }

/-- Change a queue pair. -/
def State.updQp (s : State) (k : Nat) (f : Qp → Qp) : State := { s with qps := SMap.put s.qps k (f (s.qp k)) }

/-- Answer the host. -/
def State.answer (s : State) (o : HostOut) : State := { s with hostOut := o :: s.hostOut }

/-- The packets of a queue pair are performed in order until one waits (R314); at most n of them. -/
def State.serveQp (s : State) (k : Nat) : Nat → State
  | 0 => s
  | n + 1 =>
    match (s.qp k).waiting, (s.qp k).x with
    | [], _ => s
    | p :: rest, x =>
      if (x.bind (fun y => y.held)).isSome then s
      else if (x.map (fun y => y.fail)).getD false then
        State.serveQp ((s.updQp k (fun q => { q with waiting := rest, x := none })).answer (.nakAccess k)) k n
      else match s.packet k p with
        | (t, .done o) => State.serveQp ((t.updQp k (fun q => { q with waiting := rest, x := none })).answer o) k n
        | (t, .nak) => State.serveQp ((t.updQp k (fun q => { q with waiting := rest, x := none })).answer (.nakAccess k)) k n
        | (t, .hold y p') => t.updQp k (fun q => { q with waiting := p' :: rest, x := y })

/-- Queue pairs of the host port (R312). -/
def queuePairs : Nat := 4096

/-- A packet arrives on a queue pair: behind the ones that wait (R314). -/
def State.receive (s : State) (k : Nat) (p : Packet) : State :=
  if !s.bosun.hostUp || k ≥ queuePairs || (s.qp k).error then s
  else
    let first := (s.qp k).waiting.isEmpty
    let s1 := s.updQp k (fun q => { q with waiting := q.waiting ++ [p] })
    if first then s1.serveQp k 1 else s1

/-- RDMA WRITE (R314, R316). -/
def execRdmaWrite (qp key off : Nat) (data : List Byte) (s : State) : Host.Outcome State Fault Refusal := .next (s.receive qp (.write key off data))

/-- RDMA READ (R314, R316). -/
def execRdmaRead (qp key off len : Nat) (s : State) : Host.Outcome State Fault Refusal := .next (s.receive qp (.read key off len))

/-- Compare&Swap (R314). -/
def execCompareAndSwap (qp key off : Nat) (cmp swap : Word) (s : State) : Host.Outcome State Fault Refusal := .next (s.receive qp (.cas key off cmp swap))

/-- Fetch&Add (R314). -/
def execFetchAndAdd (qp key off : Nat) (add : Word) (s : State) : Host.Outcome State Fault Refusal := .next (s.receive qp (.add key off add))

/-- Whether the host port takes packets of a queue pair. -/
def State.qpOpen (s : State) (k : Nat) : Bool := s.bosun.hostUp && decide (k < queuePairs) && !(s.qp k).error

/-- A refused opcode (R312): NAK Invalid Request, and the queue pair enters the error state. -/
def execInvalidRequest (qp : Nat) (s : State) : Host.Outcome State Fault Refusal :=
  .next (if s.qpOpen qp then (s.updQp qp (fun q => { q with error := true })).answer (.nakInvalid qp) else s)

/-- A received CNP (R312). -/
def execCnp (qp : Nat) (s : State) : Host.Outcome State Fault Refusal :=
  .next (if s.qpOpen qp then s.updQp qp (fun q => { q with slowed := true }) else s)

/-- A packet marked ECN-CE (R312). -/
def execEcnCe (qp : Nat) (s : State) : Host.Outcome State Fault Refusal :=
  .next (if s.qpOpen qp then s.answer (.cnp qp) else s)

/-- The requester abandons a queue pair (R314): what it held is held no more. -/
def execQpAbandoned (qp : Nat) (s : State) : Host.Outcome State Fault Refusal :=
  .next (s.updQp qp (fun q => { q with waiting := [], x := none }))

/-! ## Events (R319) -/

/-- The words of an event, the n-th (R319). -/
def Event.words (e : Event) (n slots : Nat) : List Word :=
  [packWord [(e.ctx.toNat, 48), ((if n / slots % 2 = 0 then 1 else 0), 32), (e.tag.toNat, 16), (e.code.toNat, 8), (e.typ.toNat, 0)], e.w1, e.w2, e.w3]

/-- Whether the ring has room for the next event (R319). -/
def State.eventRoom (s : State) : Bool :=
  s.bosun.hostUp && decide ((BitVec.ofNat 32 s.evCount - s.regs.evhead).toNat < s.regs.evslots.toNat)

/-- EVENT WRITE (R319). -/
def execEventWrite (s : State) : Host.Outcome State Fault Refusal :=
  .next (match s.events with
    | [] => s
    | e :: rest =>
      if !s.eventRoom then s
      else
        let slots := s.regs.evslots.toNat
        let at' := s.regs.evva + BitVec.ofNat 64 (32 * (s.evCount % slots))
        { s with events := rest, evCount := s.evCount + 1 }.answer (.event at' s.regs.evkey (e.words s.evCount slots)))

end Sys2Proof.Machine
end

