-- ==== Sys2Proof/Machine/Dispatch.lean ====
section
/-! DEFINITION. One arm for each instruction and happening: a direct call of its meaning. -/

namespace Sys2Proof.Machine

open Sys2Proof

/-- The meaning of an instruction or a happening. -/
def exec (i : Instr) (s : State) : Host.Outcome State Fault Refusal :=
  match i with
  | .iadd w => Sys2Proof.Machine.execIadd w s
  | .iaddI w => Sys2Proof.Machine.execIaddI w s
  | .isub w => Sys2Proof.Machine.execIsub w s
  | .isubI w => Sys2Proof.Machine.execIsubI w s
  | .imul w => Sys2Proof.Machine.execImul w s
  | .imulI w => Sys2Proof.Machine.execImulI w s
  | .imad w => Sys2Proof.Machine.execImad w s
  | .imulh w => Sys2Proof.Machine.execImulh w s
  | .imulhI w => Sys2Proof.Machine.execImulhI w s
  | .idiv w => Sys2Proof.Machine.execIdiv w s
  | .idivI w => Sys2Proof.Machine.execIdivI w s
  | .irem w => Sys2Proof.Machine.execIrem w s
  | .iremI w => Sys2Proof.Machine.execIremI w s
  | .imin w => Sys2Proof.Machine.execImin w s
  | .iminI w => Sys2Proof.Machine.execIminI w s
  | .imax w => Sys2Proof.Machine.execImax w s
  | .imaxI w => Sys2Proof.Machine.execImaxI w s
  | .iabs w => Sys2Proof.Machine.execIabs w s
  | .ineg w => Sys2Proof.Machine.execIneg w s
  | .and w => Sys2Proof.Machine.execAnd w s
  | .andI w => Sys2Proof.Machine.execAndI w s
  | .or w => Sys2Proof.Machine.execOr w s
  | .orI w => Sys2Proof.Machine.execOrI w s
  | .xor w => Sys2Proof.Machine.execXor w s
  | .xorI w => Sys2Proof.Machine.execXorI w s
  | .not w => Sys2Proof.Machine.execNot w s
  | .andn w => Sys2Proof.Machine.execAndn w s
  | .andnI w => Sys2Proof.Machine.execAndnI w s
  | .btab w => Sys2Proof.Machine.execBtab w s
  | .shl w => Sys2Proof.Machine.execShl w s
  | .shlI w => Sys2Proof.Machine.execShlI w s
  | .shr w => Sys2Proof.Machine.execShr w s
  | .shrI w => Sys2Proof.Machine.execShrI w s
  | .sar w => Sys2Proof.Machine.execSar w s
  | .sarI w => Sys2Proof.Machine.execSarI w s
  | .cshf w => Sys2Proof.Machine.execCshf w s
  | .popc w => Sys2Proof.Machine.execPopc w s
  | .clz w => Sys2Proof.Machine.execClz w s
  | .ctz w => Sys2Proof.Machine.execCtz w s
  | .brev w => Sys2Proof.Machine.execBrev w s
  | .bfe w => Sys2Proof.Machine.execBfe w s
  | .bfi w => Sys2Proof.Machine.execBfi w s
  | .prmt w => Sys2Proof.Machine.execPrmt w s
  | .prmtI w => Sys2Proof.Machine.execPrmtI w s
  | .lea w => Sys2Proof.Machine.execLea w s
  | .icmp w => Sys2Proof.Machine.execIcmp w s
  | .icmpI w => Sys2Proof.Machine.execIcmpI w s
  | .ptab w => Sys2Proof.Machine.execPtab w s
  | .isel w => Sys2Proof.Machine.execIsel w s
  | .sel w => Sys2Proof.Machine.execSel w s
  | .mov w => Sys2Proof.Machine.execMov w s
  | .movI w => Sys2Proof.Machine.execMovI w s
  | .fadd w => Sys2Proof.Machine.execFadd w s
  | .faddI w => Sys2Proof.Machine.execFaddI w s
  | .fsub w => Sys2Proof.Machine.execFsub w s
  | .fsubI w => Sys2Proof.Machine.execFsubI w s
  | .fmul w => Sys2Proof.Machine.execFmul w s
  | .fmulI w => Sys2Proof.Machine.execFmulI w s
  | .ffma w => Sys2Proof.Machine.execFfma w s
  | .fmin w => Sys2Proof.Machine.execFmin w s
  | .fminI w => Sys2Proof.Machine.execFminI w s
  | .fmax w => Sys2Proof.Machine.execFmax w s
  | .fmaxI w => Sys2Proof.Machine.execFmaxI w s
  | .fabs w => Sys2Proof.Machine.execFabs w s
  | .fneg w => Sys2Proof.Machine.execFneg w s
  | .fsgn w => Sys2Proof.Machine.execFsgn w s
  | .fcmp w => Sys2Proof.Machine.execFcmp w s
  | .fcmpI w => Sys2Proof.Machine.execFcmpI w s
  | .fclass w => Sys2Proof.Machine.execFclass w s
  | .frnd w => Sys2Proof.Machine.execFrnd w s
  | .frcp w => Sys2Proof.Machine.execFrcp w s
  | .frsq w => Sys2Proof.Machine.execFrsq w s
  | .fsqrt w => Sys2Proof.Machine.execFsqrt w s
  | .fexp2 w => Sys2Proof.Machine.execFexp2 w s
  | .flog2 w => Sys2Proof.Machine.execFlog2 w s
  | .fsin w => Sys2Proof.Machine.execFsin w s
  | .fcos w => Sys2Proof.Machine.execFcos w s
  | .dadd w => Sys2Proof.Machine.execDadd w s
  | .daddI w => Sys2Proof.Machine.execDaddI w s
  | .dsub w => Sys2Proof.Machine.execDsub w s
  | .dsubI w => Sys2Proof.Machine.execDsubI w s
  | .dmul w => Sys2Proof.Machine.execDmul w s
  | .dmulI w => Sys2Proof.Machine.execDmulI w s
  | .dfma w => Sys2Proof.Machine.execDfma w s
  | .dmin w => Sys2Proof.Machine.execDmin w s
  | .dminI w => Sys2Proof.Machine.execDminI w s
  | .dmax w => Sys2Proof.Machine.execDmax w s
  | .dmaxI w => Sys2Proof.Machine.execDmaxI w s
  | .dabs w => Sys2Proof.Machine.execDabs w s
  | .dneg w => Sys2Proof.Machine.execDneg w s
  | .dcmp w => Sys2Proof.Machine.execDcmp w s
  | .dcmpI w => Sys2Proof.Machine.execDcmpI w s
  | .dclass w => Sys2Proof.Machine.execDclass w s
  | .drnd w => Sys2Proof.Machine.execDrnd w s
  | .cvt w => Sys2Proof.Machine.execCvt w s
  | .cvtf w => Sys2Proof.Machine.execCvtf w s
  | .pack w => Sys2Proof.Machine.execPack w s
  | .unpack w => Sys2Proof.Machine.execUnpack w s
  | .qscale w => Sys2Proof.Machine.execQscale w s
  | .dqscale w => Sys2Proof.Machine.execDqscale w s
  | .fldexp w => Sys2Proof.Machine.execFldexp w s
  | .ffrexp w => Sys2Proof.Machine.execFfrexp w s
  | .xlane w => Sys2Proof.Machine.execXlane w s
  | .vote w => Sys2Proof.Machine.execVote w s
  | .ballot w => Sys2Proof.Machine.execBallot w s
  | .scan w => Sys2Proof.Machine.execScan w s
  | .segscan w => Sys2Proof.Machine.execSegscan w s
  | .redux w => Sys2Proof.Machine.execRedux w s
  | .matchM w => Sys2Proof.Machine.execMatchM w s
  | .elect w => Sys2Proof.Machine.execElect w s
  | .active w => Sys2Proof.Machine.execActive w s
  | .bra w => Sys2Proof.Machine.execBra w s
  | .brx w => Sys2Proof.Machine.execBrx w s
  | .call w => Sys2Proof.Machine.execCall w s
  | .calli w => Sys2Proof.Machine.execCalli w s
  | .ret w => Sys2Proof.Machine.execRet w s
  | .tie w x => Sys2Proof.Machine.execTie w x s
  | .join w => Sys2Proof.Machine.execJoin w s
  | .exit w => Sys2Proof.Machine.execExit w s
  | .yield w => Sys2Proof.Machine.execYield w s
  | .loopq w x => Sys2Proof.Machine.execLoopq w x s
  | .nop w => Sys2Proof.Machine.execNop w s
  | .pairedWord w => Sys2Proof.Machine.execPairedWord w s
  | .reservedEncoding w x => Sys2Proof.Machine.execReservedEncoding w x s
  | .ldg w x => Sys2Proof.Machine.execLdg w x s
  | .stg w x => Sys2Proof.Machine.execStg w x s
  | .ldl w x => Sys2Proof.Machine.execLdl w x s
  | .stl w x => Sys2Proof.Machine.execStl w x s
  | .lds w x => Sys2Proof.Machine.execLds w x s
  | .sts w x => Sys2Proof.Machine.execSts w x s
  | .ldw w x => Sys2Proof.Machine.execLdw w x s
  | .post w x => Sys2Proof.Machine.execPost w x s
  | .atom w x => Sys2Proof.Machine.execAtom w x s
  | .atomcas w x => Sys2Proof.Machine.execAtomcas w x s
  | .red w x => Sys2Proof.Machine.execRed w x s
  | .home w x => Sys2Proof.Machine.execHome w x s
  | .migrG w x => Sys2Proof.Machine.execMigrG w x s
  | .migrL w x => Sys2Proof.Machine.execMigrL w x s
  | .qcfg w => Sys2Proof.Machine.execQcfg w s
  | .qidx w => Sys2Proof.Machine.execQidx w s
  | .qld w => Sys2Proof.Machine.execQld w s
  | .qclose w => Sys2Proof.Machine.execQclose w s
  | .fence w => Sys2Proof.Machine.execFence w s
  | .fenceX w => Sys2Proof.Machine.execFenceX w s
  | .mma w => Sys2Proof.Machine.execMma w s
  | .mmaBs w x => Sys2Proof.Machine.execMmaBs w x s
  | .mmaSp w x => Sys2Proof.Machine.execMmaSp w x s
  | .bmc w => Sys2Proof.Machine.execBmc w s
  | .bmx w => Sys2Proof.Machine.execBmx w s
  | .kset w => Sys2Proof.Machine.execKset w s
  | .ktst w => Sys2Proof.Machine.execKtst w s
  | .mpart w => Sys2Proof.Machine.execMpart w s
  | .smerge w x => Sys2Proof.Machine.execSmerge w x s
  | .cp w => Sys2Proof.Machine.execCp w s
  | .cpm w => Sys2Proof.Machine.execCpm w s
  | .cpcv w => Sys2Proof.Machine.execCpcv w s
  | .cpw w => Sys2Proof.Machine.execCpw w s
  | .capr w => Sys2Proof.Machine.execCapr w s
  | .capw w => Sys2Proof.Machine.execCapw w s
  | .bcallT w x => Sys2Proof.Machine.execBcallT w x s
  | .bcallN w x => Sys2Proof.Machine.execBcallN w x s
  | .bwait w => Sys2Proof.Machine.execBwait w s
  | .barc w => Sys2Proof.Machine.execBarc w s
  | .barw w => Sys2Proof.Machine.execBarw w s
  | .barx w => Sys2Proof.Machine.execBarx w s
  | .mbar w => Sys2Proof.Machine.execMbar w s
  | .gbara w => Sys2Proof.Machine.execGbara w s
  | .gbarw w => Sys2Proof.Machine.execGbarw w s
  | .qpush w => Sys2Proof.Machine.execQpush w s
  | .qpop w => Sys2Proof.Machine.execQpop w s
  | .qtryPush w => Sys2Proof.Machine.execQtryPush w s
  | .qtryPop w => Sys2Proof.Machine.execQtryPop w s
  | .trap w => Sys2Proof.Machine.execTrap w s
  | .trapI w => Sys2Proof.Machine.execTrapI w s
  | .tfence w => Sys2Proof.Machine.execTfence w s
  | .tret w => Sys2Proof.Machine.execTret w s
  | .movsRead w => Sys2Proof.Machine.execMovsRead w s
  | .movsWrite w => Sys2Proof.Machine.execMovsWrite w s
  | .movspRead w => Sys2Proof.Machine.execMovspRead w s
  | .movspWrite w => Sys2Proof.Machine.execMovspWrite w s
  | .segldL w => Sys2Proof.Machine.execSegldL w s
  | .segldP w => Sys2Proof.Machine.execSegldP w s
  | .tlbf w => Sys2Proof.Machine.execTlbf w s
  | .tlbiVa w => Sys2Proof.Machine.execTlbiVa w s
  | .tlbiCtx w => Sys2Proof.Machine.execTlbiCtx w s
  | .tlbiAll w => Sys2Proof.Machine.execTlbiAll w s
  | .dlsetRel w => Sys2Proof.Machine.execDlsetRel w s
  | .dlsetI w => Sys2Proof.Machine.execDlsetI w s
  | .dlsetAbs w => Sys2Proof.Machine.execDlsetAbs w s
  | .dlsetDef w => Sys2Proof.Machine.execDlsetDef w s
  | .clkrd w => Sys2Proof.Machine.execClkrd w s
  | .halt w => Sys2Proof.Machine.execHalt w s
  | .dstep w => Sys2Proof.Machine.execDstep w s
  | .ctxsave w x => Sys2Proof.Machine.execCtxsave w x s
  | .ctxload w x => Sys2Proof.Machine.execCtxload w x s
  | .variableLatencyWrite gid id => Sys2Proof.Machine.execVariableLatencyWrite gid id s
  | .instructionFetch wait => Sys2Proof.Machine.execInstructionFetch wait s
  | .continuationDeparture img => Sys2Proof.Machine.execContinuationDeparture img s
  | .imageLanding img => Sys2Proof.Machine.execImageLanding img s
  | .holdTransfer mast => Sys2Proof.Machine.execHoldTransfer mast s
  | .imageAdmission mast queue => Sys2Proof.Machine.execImageAdmission mast queue s
  | .tieNotice msg => Sys2Proof.Machine.execTieNotice msg s
  | .exitNotice msg => Sys2Proof.Machine.execExitNotice msg s
  | .tieExpiry tie => Sys2Proof.Machine.execTieExpiry tie s
  | .postedOperation msg => Sys2Proof.Machine.execPostedOperation msg s
  | .postedAcknowledgement msg => Sys2Proof.Machine.execPostedAcknowledgement msg s
  | .ldwWake wait => Sys2Proof.Machine.execLdwWake wait s
  | .ldwTimeout wait => Sys2Proof.Machine.execLdwTimeout wait s
  | .fenceTimeout wait => Sys2Proof.Machine.execFenceTimeout wait s
  | .streamFetch gid q => Sys2Proof.Machine.execStreamFetch gid q s
  | .streamElementArrival gid q => Sys2Proof.Machine.execStreamElementArrival gid q s
  | .barrierArrival msg => Sys2Proof.Machine.execBarrierArrival msg s
  | .barrierCompletionNotice msg => Sys2Proof.Machine.execBarrierCompletionNotice msg s
  | .barrierWaitTimeout wait => Sys2Proof.Machine.execBarrierWaitTimeout wait s
  | .queueRetry wait => Sys2Proof.Machine.execQueueRetry wait s
  | .queueWaitTimeout wait => Sys2Proof.Machine.execQueueWaitTimeout wait s
  | .sliceAccept wait => Sys2Proof.Machine.execSliceAccept wait s
  | .sliceWaitTimeout wait => Sys2Proof.Machine.execSliceWaitTimeout wait s
  | .cpwTimeout wait => Sys2Proof.Machine.execCpwTimeout wait s
  | .capstanAccept wait => Sys2Proof.Machine.execCapstanAccept wait s
  | .caprTimeout wait => Sys2Proof.Machine.execCaprTimeout wait s
  | .capstanReduction mast => Sys2Proof.Machine.execCapstanReduction mast s
  | .capwWake wait => Sys2Proof.Machine.execCapwWake wait s
  | .capwTimeout wait => Sys2Proof.Machine.execCapwTimeout wait s
  | .jibCall call => Sys2Proof.Machine.execJibCall call s
  | .jibReply call => Sys2Proof.Machine.execJibReply call s
  | .bcallParkExpiry wait => Sys2Proof.Machine.execBcallParkExpiry wait s
  | .bwaitTimeout wait => Sys2Proof.Machine.execBwaitTimeout wait s
  | .implicitWaitExpiry wait => Sys2Proof.Machine.execImplicitWaitExpiry wait s
  | .walkStart mast => Sys2Proof.Machine.execWalkStart mast s
  | .walkEnd mast => Sys2Proof.Machine.execWalkEnd mast s
  | .crewPlacement mast crew => Sys2Proof.Machine.execCrewPlacement mast crew s
  | .launchComplete launch => Sys2Proof.Machine.execLaunchComplete launch s
  | .cmdNop queue => Sys2Proof.Machine.execCmdNop queue s
  | .launch queue => Sys2Proof.Machine.execLaunch queue s
  | .wait queue => Sys2Proof.Machine.execWait queue s
  | .waitReread queue => Sys2Proof.Machine.execWaitReread queue s
  | .stallRecord queue => Sys2Proof.Machine.execStallRecord queue s
  | .signal queue => Sys2Proof.Machine.execSignal queue s
  | .preemptComplete ctx => Sys2Proof.Machine.execPreemptComplete ctx s
  | .restoreComplete ctx => Sys2Proof.Machine.execRestoreComplete ctx s
  | .barrierWithdrawal msg => Sys2Proof.Machine.execBarrierWithdrawal msg s
  | .barrierExit msg => Sys2Proof.Machine.execBarrierExit msg s
  | .gatheringExpiry cid tag => Sys2Proof.Machine.execGatheringExpiry cid tag s
  | .tackleTransfer mast quad picks => Sys2Proof.Machine.execTackleTransfer mast quad picks s
  | .escalationIncrement msg => Sys2Proof.Machine.execEscalationIncrement msg s
  | .escalationReset msg => Sys2Proof.Machine.execEscalationReset msg s
  | .retry mast idx seq => Sys2Proof.Machine.execRetry mast idx seq s
  | .fail mast idx seq => Sys2Proof.Machine.execFail mast idx seq s
  | .doorbell value => Sys2Proof.Machine.execDoorbell value s
  | .drvfeatWrite value => Sys2Proof.Machine.execDrvfeatWrite value s
  | .journalControlWrite off value => Sys2Proof.Machine.execJournalControlWrite off value s
  | .registerWrite off value => Sys2Proof.Machine.execRegisterWrite off value s
  | .ctxreg c => Sys2Proof.Machine.execCtxreg c s
  | .qreg c => Sys2Proof.Machine.execQreg c s
  | .qrestart c => Sys2Proof.Machine.execQrestart c s
  | .preempt c => Sys2Proof.Machine.execPreempt c s
  | .pdlExpiry ctx => Sys2Proof.Machine.execPdlExpiry ctx s
  | .restore c => Sys2Proof.Machine.execRestore c s
  | .resume c => Sys2Proof.Machine.execResume c s
  | .debuggo c => Sys2Proof.Machine.execDebuggo c s
  | .destroy c => Sys2Proof.Machine.execDestroy c s
  | .ftag c => Sys2Proof.Machine.execFtag c s
  | .member c => Sys2Proof.Machine.execMember c s
  | .membershipTimeout dev => Sys2Proof.Machine.execMembershipTimeout dev s
  | .ckpt c => Sys2Proof.Machine.execCkpt c s
  | .ckload c => Sys2Proof.Machine.execCkload c s
  | .attest c => Sys2Proof.Machine.execAttest c s
  | .rdmaWrite qp key off data => Sys2Proof.Machine.execRdmaWrite qp key off data s
  | .rdmaRead qp key off len => Sys2Proof.Machine.execRdmaRead qp key off len s
  | .compareAndSwap qp key off cmp swap => Sys2Proof.Machine.execCompareAndSwap qp key off cmp swap s
  | .fetchAndAdd qp key off add => Sys2Proof.Machine.execFetchAndAdd qp key off add s
  | .invalidRequest qp => Sys2Proof.Machine.execInvalidRequest qp s
  | .cnp qp => Sys2Proof.Machine.execCnp qp s
  | .ecnCe qp => Sys2Proof.Machine.execEcnCe qp s
  | .riluaganFlit f => Sys2Proof.Machine.execRiluaganFlit f s
  | .shroudPortFailure port => Sys2Proof.Machine.execShroudPortFailure port s
  | .row mast pa => Sys2Proof.Machine.execRow mast pa s
  | .bank mast pa => Sys2Proof.Machine.execBank mast pa s
  | .fenceStation mast stn => Sys2Proof.Machine.execFenceStation mast stn s
  | .fenceMast mast => Sys2Proof.Machine.execFenceMast mast s
  | .repairComplete mast => Sys2Proof.Machine.execRepairComplete mast s
  | .scrub mast sector => Sys2Proof.Machine.execScrub mast sector s
  | .softError site correctable => Sys2Proof.Machine.execSoftError site correctable s
  | .tierReady mast tier => Sys2Proof.Machine.execTierReady mast tier s
  | .tierReadyTimeout mast tier => Sys2Proof.Machine.execTierReadyTimeout mast tier s
  | .clockScaling mast n => Sys2Proof.Machine.execClockScaling mast n s
  | .thermalThrottle temp => Sys2Proof.Machine.execThermalThrottle temp s
  | .thermalHold temp => Sys2Proof.Machine.execThermalHold temp s
  | .thermalTrip temp => Sys2Proof.Machine.execThermalTrip temp s
  | .shroudPath dev => Sys2Proof.Machine.execShroudPath dev s
  | .qpAbandoned qp => Sys2Proof.Machine.execQpAbandoned qp s
  | .thermalHoldRelease temp => Sys2Proof.Machine.execThermalHoldRelease temp s
  | .crewAdmission => Sys2Proof.Machine.execCrewAdmission s
  | .gangStart => Sys2Proof.Machine.execGangStart s
  | .gangAgeLimit => Sys2Proof.Machine.execGangAgeLimit s
  | .ckptImageWrite => Sys2Proof.Machine.execCkptImageWrite s
  | .eventWrite => Sys2Proof.Machine.execEventWrite s
  | .replayDivergence => Sys2Proof.Machine.execReplayDivergence s
  | .powerOn => Sys2Proof.Machine.execPowerOn s
  | .powerDown => Sys2Proof.Machine.execPowerDown s

end Sys2Proof.Machine
end

