-- ==== Sys2Proof/Machine/Time.lean ====
section
/-! DEFINITION. The advance of clocks and what falls due with them (spec 09, R212; spec 11, R247, R248, R251, R253; spec 14,
R265, R279), which issue sets may issue (spec 09, R209 to R212), the fetch of their words (spec 03, R61; spec 09, R214), and
the order in which the model takes up what the device does by itself (log entry 1). -/

namespace Sys2Proof.Machine

open Sys2Proof

/-! ## Clocks (R247, R248) -/

/-- Whether a context's clocks stand still on a mast: its device preempts it, or has saved or reset it (R248). -/
def State.frozenCtx (s : State) (m ctx : Nat) : Bool :=
  match s.ctxAt m ctx with
  | some c => decide (c.st ≠ .running) && decide (c.st ≠ .restoring)
  | none => false

/-- Whether the clock of a resident sub-group advances (R248). -/
def State.clockRuns (s : State) (sg : SubGroup) : Bool :=
  match SMap.get? s.groups sg.gid with
  | none => false
  | some g =>
    (g.walker || !s.frozenCtx sg.mast g.ctx) && sg.lanes.any (fun e => decide (e.2.st ≠ .halted) && decide (e.2.st ≠ .stopped))

/-- Whether the clock of a landed image advances (R248). -/
def State.imageClockRuns (s : State) (im : Image) : Bool :=
  match (SMap.get? s.groups im.sg.gid).map (fun g => g.ctx) with
  | some ctx => !s.frozenCtx im.tmast ctx && !im.restored && !im.halted
  | none => false

/-- The event that judges a wait whose clock has reached its deadline or its bound (R251, R253). -/
def expiryOf (wid : Nat) (w : Wait) (clk : Word) : Option Instr :=
  let late := (w.dk.map (fun d => decide (d.toNat ≤ clk.toNat))).getD false
  let over' := (w.bound.map (fun b => decide (b ≤ clk.toNat))).getD false
  let implicit := if over' then some (Instr.implicitWaitExpiry wid) else none
  match w.kind with
  | .ldw _ _ _ _ _ _ _ => if late then some (.ldwTimeout wid) else implicit
  | .fence _ _ _ _ => if late then some (.fenceTimeout wid) else none
  | .barrier _ _ _ _ _ => if late then some (.barrierWaitTimeout wid) else none
  | .queuePush _ _ | .queuePop _ _ => if late then some (.queueWaitTimeout wid) else none
  | .slice _ => if late then some (.sliceWaitTimeout wid) else none
  | .cpw _ _ => if late then some (.cpwTimeout wid) else none
  | .capr _ _ => if late then some (.caprTimeout wid) else implicit
  | .capw _ _ => if late then some (.capwTimeout wid) else implicit
  | .bwait _ => if late then some (.bwaitTimeout wid) else none
  | .bcall => if over' then some (.bcallParkExpiry wid) else none
  | .standBy _ => none
  | .scoreboard _ | .fetch _ | .access _ _ | .qld | .tie | .page _ | .transit _ | .sent _ | .trapEntry _ _ _ => implicit

/-- What has fallen due on a mast: waits, then tie points (R108, R251, R254). -/
def State.dueOn (s : State) (m : Nat) : List Turn :=
  s.waits.filterMap (fun e =>
    (SMap.get? s.subs e.2.sid).bind (fun sg =>
      if sg.mast = m && s.clockRuns sg then (expiryOf e.1 e.2 sg.gclk).map Turn.event else none)) ++
  s.ties.filterMap (fun e =>
    if e.2.mast = m && e.2.isOpen && e.2.opened then
      (e.2.sid.bind (SMap.get? s.subs)).bind (fun sg =>
        if e.2.dl ≤ sg.gclk.toNat && s.clockRuns sg then some (Turn.event (.tieExpiry e.1)) else none)
    else none)

/-- The countdown of a gathering tag falls by one (R166). -/
def TagSt.tick : TagSt → TagSt
  | .gathering r p a left => .gathering r p a (if left = 0 then 0 else left - 1)
  | t => t

/-- ONE CYCLE OF A MAST'S REFERENCE OSCILLATOR (R247): the clocks of what stands there advance, and what falls due comes next. -/
def State.refTick (s : State) (m : Nat) : State :=
  let here := fun (c : Crew) => decide (c.mast = m) && c.saved.isNone && !((s.crewCtx c).map (s.frozenCtx m)).getD true
  let s1 := s.updMast m (fun t => { t with refs := t.refs + 1 })
  let s2 : State := { s1 with
    subs := s1.subs.map (fun (e : Nat × SubGroup) => if e.2.mast = m && s.clockRuns e.2 then (e.1, { e.2 with gclk := e.2.gclk + 1 }) else e)
    images := s1.images.map (fun (e : Nat × Image) =>
      if e.2.landedAt m && s.imageClockRuns e.2 then (let g := e.2.sg; (e.1, { e.2 with sg := { g with gclk := g.gclk + 1 } })) else e)
    crews := s1.crews.map (fun (e : Nat × Crew) =>
      if here e.2 then (e.1, { e.2 with tags := e.2.tags.map (fun (t : Nat × TagSt) => (t.1, t.2.tick)) }) else e) }
  let out := s2.crews.flatMap (fun (e : Nat × Crew) => if here e.2 then
    e.2.tags.filterMap (fun (t : Nat × TagSt) => match t.2 with | .gathering _ _ _ left => if left = 0 then some (e.1, t.1) else none | _ => none)
    else [])
  let s3 := out.foldl (fun s p => nextOr s (execGatheringExpiry p.1 p.2 s)) s2
  { s3 with agenda := s3.dueOn m ++ s3.agenda }

/-- A WAIT's time falls by one deck cycle (R265). -/
def QPhase.tick : QPhase → QPhase
  | .waiting w a v (some left) x => .waiting w a v (some (if left = 0 then 0 else left - 1)) x
  | p => p

/-- ONE CYCLE OF THE DECK'S REFERENCE OSCILLATOR (R265, R279, R302, R325). -/
def State.deckTick (s : State) : State :=
  let sh := s.shroud
  let away := (List.range 1024).filter (fun d => s.regs.member.getLsbD d && decide (d ≠ s.devno) && !sh.paths.contains d)
  let s1 : State := { s with
    deck := s.deck + 1
    queues := s.queues.map (fun (e : Nat × Queue) => (e.1, { e.2 with phase := e.2.phase.tick }))
    ctxs := s.ctxs.map (fun (e : Nat × Ctx) =>
      if e.2.st = .saving then (e.1, { e.2 with left := e.2.left.map (fun n => if n = 0 then 0 else n - 1) }) else e)
    launches := s.launches.map (fun (e : Nat × Launch) => if e.2.dev = s.dev then (e.1, { e.2 with gangAge := e.2.gangAge.map (fun n => n + 1) }) else e)
    shroud := { sh with noPath := away.foldl (fun (m : RMap 64) d => RMap.set m d (RMap.get m d + 1)) sh.noPath } }
  let stalls := s1.queues.filterMap (fun (e : Nat × Queue) => match e.2.phase with
    | .waiting _ _ _ (some left) _ => if left = 0 then some (Turn.eventAt s.dev (.stallRecord e.1)) else none
    | _ => none)
  let aged := s1.launches.any (fun (e : Nat × Launch) =>
    decide (e.2.dev = s.dev) && (e.2.gangAge.map (fun n => decide (n.toNat ≥ gangLimit))).getD false && !e.2.gangHeld)
  let s2 := (s1.ctxs.filter (fun (e : Nat × Ctx) => e.2.st = .saving && e.2.left = some 0)).foldl (fun s e => nextOr s (execPdlExpiry e.1 s)) s1
  let s3 := away.foldl (fun s d => nextOr s (execMembershipTimeout d s)) s2
  { s3 with agenda := stalls ++ (if aged then [Turn.eventAt s.dev .gangAgeLimit] else []) ++ s3.agenda }

/-! ## Issue sets (R19, R209 to R212) -/

/-- Whether the device of a mast has halted every context, its replay having diverged (R340). -/
def State.haltingAt (s : State) (m : Nat) : Bool := ((s.partOf (m / 16)).map (fun p => p.halting)).getD false

/-- Whether a sub-group's lanes may issue: its context runs on its device, or is none that the device knows, and no debug step of its
group is pending elsewhere on its station (R206, R302, R306). -/
def State.mayIssue (s : State) (sg : SubGroup) (l : Lane) : Bool :=
  match SMap.get? s.groups sg.gid with
  | none => false
  | some g =>
    let stepping := s.subs.any (fun e => decide (e.2.gid = sg.gid) && decide (e.2.mast = sg.mast) && decide (e.2.stn = sg.stn) && e.2.lanes.any (fun x => x.2.step))
    let live := match s.ctxAt sg.mast g.ctx with
      | some c => g.walker || decide (c.st = .running) || decide (c.st = .restoring) || (decide (c.st = .saving) && (l.rel.isSome || l.refuse.isSome))
      | none => true
    live && !s.haltingAt sg.mast && (!stepping || l.step)

/-- The lanes that issue with a lane: the ready lanes of its sub-group at its PC (R19). -/
def SubGroup.together (sg : SubGroup) (l : Lane) : Mask :=
  sg.laneMask (fun x => decide (x.st = .ready) && decide (x.pc = l.pc) && decide (x.rel = l.rel) && decide (x.step = l.step))

/-- The issue set of a lane, if it may issue now (R70, R211); lanes whose escalation notice is on its way issue nothing (R256). -/
def State.issueSet (s : State) (sid lane : Nat) : Option (SubGroup × Group × Mask × Word) :=
  match SMap.get? s.subs sid with
  | none => none
  | some sg =>
    match SMap.get? s.groups sg.gid, SMap.get? sg.lanes lane with
    | some g, some l =>
      let away := s.noticed sg.gid
      let set := sg.together l &&& ~~~away
      let now := (s.stn sg.mast sg.stn).cycles
      let due := sg.lanes.all (fun e => !set.getLsbD e.1 || decide (e.2.readyAt ≤ now))
      if l.st = .ready && !away.getLsbD lane && s.mayIssue sg l && due then some (sg, g, set, l.pc) else none
    | _, _ => none

/-- Whether the word after a word must be fetched with it (R61). -/
def wantsNext (w : Word) : Bool :=
  if wordClass w = 0 then
    (match xNeed (wordOpcode w).toNat with
     | .never => false
     | .required => true
     | .byAddressByte => w.getLsbD 7)
  else decide (wordClass w = 2)

/-- The words that a fetch gives an issue set, or the address of the sector that it lacks (R61, R214). -/
inductive Fetched where
  | words (w : Word) (next : Option Word)
  | missing (va : Word) (w : Word)
  deriving DecidableEq, Repr

/-- Fetch from a station's instruction store (R214). -/
def State.fetchWords (s : State) (sg : SubGroup) (g : Group) (pc : Word) : Fetched :=
  let st := s.stn sg.mast sg.stn
  match st.code g.ctx pc with
  | none => .missing pc 0
  | some w =>
    if wantsNext w then
      match st.code g.ctx (pc + 8) with
      | none => .missing (pc + 8) w
      | some n => .words w (some n)
    else .words w none

/-- What a sub-group holds once for all its lanes, clock apart. -/
def SubGroup.shared (sg : SubGroup) : RMap 64 × BitVec 8 × RMap 64 × List Word × List (BitVec 32) :=
  (sg.s, sg.k, sg.d, [sg.dldef, sg.tframe, sg.seed, sg.ctl, sg.pseg, (sg.aflags ++ sg.atrap ++ sg.rlive).setWidth 64], [sg.rejoin, sg.tprog])

/-- The journal entry of a word that wrote per-group state beside another issue set of its sub-group (R338). -/
def State.noteShared (s t : State) (sid : Nat) (pc : Word) (set : Mask) : State :=
  match SMap.get? s.subs sid, SMap.get? t.subs sid with
  | some a, some b =>
    let sets := ((a.lanes.filter (fun e => decide (e.2.st = .ready) || decide (e.2.st = .waiting))).map (fun e => e.2.pc)).dedup.length
    if sets ≥ 2 && a.shared != b.shared then
      t.noteAt a.mast 7 (((SMap.get? s.groups a.gid).map (fun g => g.ctx)).getD 0) (s.requester a.gid (lowest set)) pc 0
    else t
  | _, _ => t

/-! ## The issue ports (R211 to R213) -/

/-- The four issue ports of a station (R211). -/
inductive Port where
  | scalar | matrix | memory | vector
  deriving DecidableEq, Repr

/-- Whether an operand code names a vector or predicate register (R86). -/
def laneOperand (code : Nat) : Bool :=
  match Operand.ofCode (BitVec.ofNat 7 code) with
  | .v _ | .p _ => true
  | .s _ | .k _ | .q _ | .d _ | .zero | .rsv _ => false

/-- Whether an operand code names a scalar register. -/
def scalarOperand (code : Nat) : Bool :=
  match Operand.ofCode (BitVec.ofNat 7 code) with
  | .s _ => true
  | .v _ | .p _ | .k _ | .q _ | .d _ | .zero | .rsv _ => false

/-- Whether a word of the integer and address family runs on the scalar pipe (R86). -/
def scalarWord (w : Word) : Bool :=
  let op := (wordOpcode w).toNat
  !(decide (op = 0x005) || decide (op = 0x006) || decide (op = 0x01D) || decide (op = 0x01E)) && scalarOperand (fieldOf w 37 7) &&
  !laneOperand (fieldOf w 30 7) && (decide (wordClass w = 2) || (!laneOperand (fieldOf w 23 7) && !laneOperand (fieldOf w 16 7)))

/-- Whether a word reads or writes %aflags by MOVS or MOVSP (R201). -/
def flagsWord (w : Word) : Bool :=
  let op := (wordOpcode w).toNat
  decide (wordClass w = 0) && (decide (op = 0x243) || decide (op = 0x244)) && decide (fieldOf w 0 8 = 0x0F)

/-- Whether a word of the system family runs on the scalar pipe (R201, R204, R205). -/
def scalarSystem (w : Word) : Bool :=
  let op := (wordOpcode w).toNat
  decide (op = 0x248) || decide (op = 0x249) ||
  ((decide (op = 0x243) || decide (op = 0x244)) && !flagsWord w && (w.getLsbD 8 || scalarOperand (fieldOf w 37 7)))

/-- The port that a word goes to (R211). -/
def portOf (w : Word) : Port :=
  let op := (wordOpcode w).toNat
  if wordClass w = 1 || wordClass w = 3 then .vector
  else if op < 0x040 then (if scalarWord w then .scalar else .vector)
  else if op < 0x100 then .vector
  else if op < 0x140 then .scalar
  else if op < 0x180 then .memory
  else if op < 0x1C0 then .matrix
  else if op < 0x240 then .memory
  else if op < 0x280 then (if scalarSystem w then .scalar else .memory)
  else .vector

/-- Whether a word is picked alone: it takes all eight slices (R213). -/
def pickedAlone (w : Word) (width : Nat) : Bool :=
  flagsWord w || (decide (wordClass w = 0) && decide (wordOpcode w = 0x241)) || decide (width = 64)

/-- The slices that n of them take from a place on. -/
def sliceMask (at' n : Nat) : BitVec 8 := BitVec.ofNat 8 ((2 ^ n - 1) * 2 ^ at')

/-- The slices that a word takes of those not taken: the lowest free ones, aligned to their number (R213). -/
def freeSlices (taken : BitVec 8) (n : Nat) : Option (BitVec 8) :=
  ((List.range (8 / n)).map (fun i => sliceMask (i * n) n)).find? (fun m => taken &&& m == 0)

/-- The slices that a word of a group takes in its pipe (R213). -/
def wordSlices (w : Word) (width : Nat) : Nat := if pickedAlone w width then 8 else width / 8

/-- What the ports have taken once a word is picked, if its port can still take it in this station cycle (R213). -/
def Ports.take (p : Ports) (w : Word) (width : Nat) : Option Ports :=
  match portOf w with
  | .scalar => if p.scal then none else some { p with scal := true }
  | .matrix => if p.mat then none else some { p with mat := true }
  | .memory => (freeSlices p.mem (wordSlices w width)).map (fun m => { p with mem := p.mem ||| m })
  | .vector => (freeSlices p.vec (wordSlices w width)).map (fun m => { p with vec := p.vec ||| m })

/-- Whether the port of a word can accept words: the matrix array only when it is free (R144, R211). -/
def Station.accepts (st : Station) (w : Word) : Bool := decide (portOf w ≠ .matrix) || decide (st.arrayFree ≤ st.cycles)

/-! ## The picking order (R212) -/

/-- An issue set that may issue: its sub-group, its lowest lane with what that lane has counted, its station, its group's slot
there, its lanes, and its word where the station holds it. -/
structure Ready where
  sid  : Nat
  lane : Nat
  l    : Lane
  mast : Nat
  stn  : Nat
  slot : Nat
  wd   : Nat
  word : Option Word
  deriving DecidableEq, Repr

/-- What the picking order compares (R212): a starving set first, then the ready time, a yielding set last, then the group slot.
The order of two issue sets of one group is the model's. -/
def Ready.key (x : Ready) : List Nat :=
  [if x.l.starve ≥ 256 then 0 else 1, x.l.since, if x.l.yield then 1 else 0, x.slot, x.sid, x.lane]

/-- Lexicographic order of equally long lists. -/
def listBefore : List Nat → List Nat → Bool
  | x :: xs, y :: ys => decide (x < y) || (decide (x = y) && listBefore xs ys)
  | _, _ => false

/-- Insert in picking order. -/
def pickIns (a : Ready) : List Ready → List Ready
  | [] => [a]
  | b :: bs => if listBefore b.key a.key then b :: pickIns a bs else a :: b :: bs

/-- The slot of a group on a station; the walker's group uses slot 63 of its station (R225; the number is the model's). -/
def Station.slotOf (st : Station) (gid : Nat) : Nat :=
  ((st.slots.find? (fun e => decide (e.2 = gid))).map (fun e => e.1)).getD 63

/-- The issue sets of some sub-groups that are ready, in picking order (R211, R212); a set whose word the station lacks is among
them. -/
def State.readySets (s : State) (subs : SMap SubGroup) : List Ready :=
  let all := subs.flatMap (fun e => e.2.lanes.filterMap (fun l =>
    match s.issueSet e.1 l.1 with
    | some (sg, g, set, pc) =>
      if lowest set = l.1 then
        let st := s.stn sg.mast sg.stn
        let w := match s.fetchWords sg g pc with | .words w _ => some w | .missing _ _ => none
        if (w.map st.accepts).getD true then
          some { sid := e.1, lane := l.1, l := l.2, mast := sg.mast, stn := sg.stn, slot := st.slotOf sg.gid, wd := g.width, word := w }
        else none
      else none
    | none => none))
  all.foldl (fun acc a => pickIns a acc) []

/-- Whether an issue set may be picked now: its word is still to be fetched, or its port has room for it and for no ready set
before it (R212, R213). -/
def State.mayPick (s : State) (x : Ready) (before : List Ready) : Bool :=
  match x.word with
  | none => true
  | some w =>
    let p := (s.stn x.mast x.stn).ports
    (p.take w x.wd).isSome &&
    !before.any (fun b => match b.word with
      | some v => decide (b.mast = x.mast) && decide (b.stn = x.stn) && decide (portOf v = portOf w) && (p.take v b.wd).isSome
      | none => false)

/-- Those of some ready sets that are picked next, given those before them. -/
def State.pickable (s : State) (before : List Ready) : List Ready → List Ready
  | [] => []
  | x :: xs => if s.mayPick x before then x :: State.pickable s (before ++ [x]) xs else State.pickable s (before ++ [x]) xs

/-- The issue sets that may be picked next, in picking order, each by its lowest lane. -/
def State.picks (s : State) : List (Nat × Nat) := (s.pickable [] (s.readySets s.subs)).map (fun x => (x.sid, x.lane))

/-- The sub-groups that reside on a mast. -/
def State.subsOn (s : State) (m : Nat) : SMap SubGroup := s.subs.filter (fun e => decide (e.2.mast = m))

/-- Whether the issue set of a lane may be picked now. -/
def State.isPicked (s : State) (sid lane : Nat) : Bool :=
  match SMap.get? s.subs sid, s.issueSet sid lane with
  | some sg, some (_, _, set, _) =>
    (s.pickable [] (s.readySets (s.subs.filter (fun e => decide (e.2.mast = sg.mast) && decide (e.2.stn = sg.stn))))).any
      (fun x => decide (x.sid = sid) && decide (x.lane = lowest set))
  | _, _ => false

/-- The port of a station takes the word of an issue set, unless the scoreboard held it (R73, R211, R213). -/
def State.portTaken (s t : State) (sid : Nat) (set : Mask) (w : Word) : State :=
  match SMap.get? s.subs sid with
  | none => t
  | some sg =>
    let held := t.waits.any (fun e => decide (e.2.sid = sid) && decide (e.2.lanes &&& set ≠ 0) &&
      (match e.2.kind with | .scoreboard _ => true | _ => false))
    match ((SMap.get? s.groups sg.gid).map (fun g => g.width)).bind ((s.stn sg.mast sg.stn).ports.take w) with
    | some p => if held then t else t.updStn sg.mast sg.stn (fun st => { st with ports := p })
    | none => t

/-- ONE STATION CYCLE on every station of a mast (R70, R212): issue sets that were ready and not picked count the cycle, and
the ports are free again. -/
def State.stnCycle (s : State) (m : Nat) : State :=
  let left := s.readySets (s.subsOn m)
  let subs := s.subs.map (fun (e : Nat × SubGroup) =>
    if e.2.mast = m then
      let counts := e.2.laneMask (fun l => left.any (fun x => decide (x.sid = e.1) && decide (x.l.pc = l.pc) && decide (x.l.rel = l.rel) &&
        decide (x.l.step = l.step)) && decide (l.st = .ready))
      (e.1, e.2.mapLanes counts (fun l => { l with starve := l.starve + 1 }))
    else e)
  (List.range 64).foldl (fun s n => s.updStn m n (fun st => { st with cycles := st.cycles + 1, ports := Ports.free })) { s with subs := subs }

/-- A station cycle ends once every port has made its picks (R211, R213); a replaying device waits for its journals instead. -/
def State.stnTick (s : State) (m : Nat) : State :=
  if s.replaying || (s.pickable [] (s.readySets (s.subsOn m))).isEmpty then s.stnCycle m else s

/-! ## Group slots (R209, R212) -/

/-- The slots of a station follow the groups that hold an allocation there: a slot whose group has gone is free, and a group that
has come takes the lowest free one, lower group numbers of the model first. -/
def keepSlots (slots : SMap Nat) (gids : List Nat) : SMap Nat :=
  let kept := slots.filter (fun e => gids.contains e.2)
  (gids.filter (fun g => !kept.any (fun e => decide (e.2 = g)))).foldl (fun m g =>
    match (List.range 64).find? (fun i => (SMap.get? m i).isNone) with
    | some i => SMap.put m i g
    | none => m) kept

/-- Every station's slots follow its groups. -/
def State.syncSlots (s : State) : State :=
  let here := (s.subs.map (fun e => (e.2.mast, e.2.stn))) ++ ((s.stns.filter (fun e => !e.2.slots.isEmpty)).map (fun e => (e.1 / 64, e.1 % 64)))
  here.dedup.foldl (fun s p =>
    let slots := keepSlots (s.stn p.1 p.2).slots (s.residents p.1 p.2)
    if slots = (s.stn p.1 p.2).slots then s else s.updStn p.1 p.2 (fun st => { st with slots := slots })) s

/-! ## What the device does by itself (log entry 1) -/

/-- Run a happening. -/
def happen (f : State → Host.Outcome State Fault Refusal) : State → State := fun s => nextOr s (f s)

/-- Start-up goes on (R341). -/
def State.bootTrials (s : State) : List (State → State) :=
  (if !s.bosun.on && !s.bosun.down then [happen execPowerOn] else []) ++
  s.ownMasts.flatMap (fun m =>
    let t := s.mast m
    if t.foot = .powered then [happen (execTierReady m 0)]
    else if t.column = .powered then [happen (execTierReady m 1)]
    else if t.dram = .powered then [happen (execTierReady m 2)]
    else [])

/-- What a wait waits for is looked at again, where no happening of the opcode table does so. -/
def State.lookAgain (s : State) (wid : Nat) : State :=
  match SMap.get? s.waits wid with
  | none => s
  | some w =>
    match w.kind with
    | .fence _ _ _ _ => s.judgeFence wid
    | .qld => ((SMap.get? s.subs w.sid).map (fun sg => s.wakeQld sg.gid)).getD s
    | .access _ _ | .page _ | .trapEntry _ _ _ => s.waitAgain wid
    | .fetch _ | .ldw _ _ _ _ _ _ _ | .queuePush _ _ | .queuePop _ _ | .slice _ | .capr _ _ | .capw _ _ | .scoreboard _ | .barrier _ _ _ _ _
    | .cpw _ _ | .bwait _ | .bcall | .tie | .transit _ | .sent _ | .standBy _ => s

/-- A wait's own happening. -/
def waitTrials (i : Nat) (k : WaitKind) : List (State → State) :=
  match k with
  | .fetch _ => [happen (execInstructionFetch i)]
  | .ldw _ _ _ _ _ _ _ => [happen (execLdwWake i)]
  | .queuePush _ _ | .queuePop _ _ => [happen (execQueueRetry i)]
  | .slice _ => [happen (execSliceAccept i)]
  | .capr _ _ => [happen (execCapstanAccept i)]
  | .capw _ _ => [happen (execCapwWake i)]
  | .access _ _ | .page _ | .trapEntry _ _ _ | .fence _ _ _ _ | .qld => [fun s => s.lookAgain i]
  | .scoreboard _ | .barrier _ _ _ _ _ | .cpw _ _ | .bwait _ | .bcall | .tie | .transit _ | .sent _ | .standBy _ => []

/-- Whether a wait's lanes stand on the device in place. -/
def State.waitHere (s : State) (w : Wait) : Bool := ((SMap.get? s.subs w.sid).map (fun sg => s.own sg.mast)).getD false

/-- The device where what comes next of an image happens. -/
def State.imageDev (s : State) (im : Image) : Nat :=
  match im.phase with
  | .departing | .returning => im.smast / 16
  | .flying => if s.knows (im.smast / 16) im.tdev then im.tmast / 16 else im.smast / 16
  | .landed _ => im.tmast / 16

/-- What stands ready to happen on the device in place besides issue, in the order in which the model takes it up. -/
def State.trials (s : State) : List (State → State) :=
  let qps : List (State → State) := s.qps.flatMap (fun (e : Nat × Qp) => if e.2.waiting.isEmpty then [] else [fun (t : State) => t.serveQp e.1 1])
  let outs : List (State → State) := s.groups.flatMap (fun (e : Nat × Group) => e.2.outst.map (fun o => happen (execVariableLatencyWrite e.1 o.id)))
  let msgs : List (State → State) := (s.msgs.filter (fun e => decide (portDev e.2.dst = s.dev))).map (fun (e : Nat × Msg) => happen (execMsg e.1 e.2.body))
  let waits : List (State → State) := (s.waits.filter (fun e => s.waitHere e.2)).flatMap (fun (e : Nat × Wait) => waitTrials e.1 e.2.kind)
  let streams : List (State → State) := s.groups.flatMap (fun (e : Nat × Group) => (e.2.streams.filter (fun q => s.own q.2.mast)).flatMap
    (fun (q : Nat × Stream) => [happen (execStreamElementArrival e.1 q.1), happen (execStreamFetch e.1 q.1)]))
  let images : List (State → State) := (s.images.filter (fun e => decide (s.imageDev e.2 = s.dev))).map (fun (e : Nat × Image) => match e.2.phase with
    | .departing => happen (execContinuationDeparture e.1)
    | .flying | .returning => happen (execImageLanding e.1)
    | .landed _ => happen (execImageAdmission e.2.tmast e.2.tstn))
  let masts : List (State → State) := s.ownMasts.flatMap (fun m =>
    [happen (execHoldTransfer m), happen (execWalkEnd m), happen (execWalkStart m), happen (execCapstanReduction m)])
  let calls : List (State → State) := (s.calls.filter (fun e => decide (e.2.dev = s.dev))).flatMap (fun (e : Nat × JibCall) =>
    [happen (execJibCall e.1), happen (execJibReply e.1)])
  let copies : List (State → State) := if s.slices.isEmpty then [] else
    s.ownMasts.flatMap (fun m => (List.range 16).map (fun i => happen (execTackleTransfer m i [])))
  let cmds : List (State → State) := s.queues.flatMap (fun (e : Nat × Queue) =>
    [happen (execCmdNop e.1), happen (execSignal e.1), happen (execWait e.1), happen (execLaunch e.1), happen (execWaitReread e.1)])
  let places : List (State → State) := s.ownMasts.flatMap (fun m => (List.range (s.mast m).order.length).map (fun i => happen (execCrewPlacement m i)))
  let admits : List (State → State) := if s.launches.isEmpty then [] else [happen execGangStart, happen execCrewAdmission]
  let ends : List (State → State) := (s.launches.filter (fun e => decide (e.2.dev = s.dev))).map (fun (e : Nat × Launch) => happen (execLaunchComplete e.1))
  let saves : List (State → State) := s.ctxs.flatMap (fun (e : Nat × Ctx) => match e.2.st with
    | .saving => [happen (execPreemptComplete e.1)]
    | .restoring => [happen (execRestoreComplete e.1)]
    | .running | .saved | .reset => [])
  let repairs : List (State → State) := s.ownMasts.flatMap (fun m => if (s.mast m).busy then [happen (execRepairComplete m)] else [])
  let ckpts : List (State → State) := if s.ckpt.isSome then [happen execCkptImageWrite] else []
  s.bootTrials ++ [happen execEventWrite] ++ qps ++ outs ++ msgs ++ waits ++ streams ++ places ++ admits ++ images ++ masts ++ calls ++ copies ++ cmds ++
  ends ++ saves ++ repairs ++ ckpts

/-- Every oscillator of the device in place advances by one cycle. -/
def State.tickOwn (s : State) : State := (s.ownMasts.foldl (fun s m => (s.stnTick m).refTick m) s).deckTick

/-- Every oscillator of the domain advances by one cycle. -/
def State.tickAll (s : State) : State := s.devices.foldl (fun s d => s.on d State.tickOwn) s

/-! ## Replay (R339) -/

/-- A sub-group's clock set, where a recorded outcome is forced whatever the clock. -/
def State.setClock (s : State) (sid : Nat) (clk : Word) : State := s.updSub sid (fun sg => { sg with gclk := clk })

/-- The waits on the device in place that the journals of units in replay name next as expired, each with its clock at its deadline
(R339). -/
def State.forcedExpiries (s : State) : List (Instr × State) :=
  s.waits.filterMap (fun e =>
    (SMap.get? s.subs e.2.sid).bind (fun sg =>
      let u := sg.mast % 16
      let j := s.nextEntry u
      let l := lowest e.2.lanes
      let count := ((SMap.get? s.groups sg.gid).map (fun g => RMap.get g.waits l)).getD 0
      if s.own sg.mast && decide ((s.jrnOf u).mode = 2) && decide (fieldOf (j.getD 0 0) 56 8 = 3) && decide (j.getD 1 0 = s.requester sg.gid l) &&
         decide (j.getD 2 0 = count.setWidth 64) then
        let clk := match e.2.dk, e.2.bound with | some d, _ => d | none, some b => BitVec.ofNat 64 (min b (2 ^ 64 - 1)) | none, none => sg.gclk
        let at' := if sg.gclk.toNat < clk.toNat then clk else sg.gclk
        (expiryOf e.1 e.2 at').map (fun i => (i, s.setClock e.2.sid at'))
      else none))

/-- No sub-group's clock stands lower than before a trial at another clock; a sub-group that split off has the clock of the one that
issued (R250). -/
def State.keepClocks (t s : State) (sid : Nat) : State :=
  let own := ((SMap.get? s.subs sid).map (fun sg => sg.gclk)).getD 0
  { t with subs := t.subs.map (fun (e : Nat × SubGroup) =>
      let old := ((SMap.get? s.subs e.1).map (fun sg => sg.gclk)).getD own
      (e.1, { e.2 with gclk := if e.2.gclk.toNat < old.toNat then old else e.2.gclk })) }

/-- The states from which an issue is tried in replay: as it is, with the clock before every deadline, and with it at the
latest one (R339). -/
def State.clockChoices (s : State) (sid : Nat) : List State :=
  match SMap.get? s.subs sid with
  | none => [s]
  | some sg =>
    let top := (List.range 4).foldl (fun (a : Word) i => if a.toNat < (sg.reg (.d i)).toNat then sg.reg (.d i) else a) sg.gclk
    [s, s.setClock sid 0, s.setClock sid top]

end Sys2Proof.Machine
end

