-- ==== Sys2Proof/Machine/Step.lean ====
section
/-! DEFINITION. One step: the next turn of the agenda, or with an empty agenda what the device does by itself. -/

namespace Sys2Proof.Machine

open Sys2Proof

/-- Issue of an issue set that its port picks (R19, R61, R211 to R214): its word is fetched and decoded, and its meaning runs; a
sector that the station lacks is asked for. An MMA.SP stops at a quad boundary where the turn names one (R151). -/
def issueTurn (s : State) (sid lane : Nat) (quads : Option Nat) : Host.Outcome State Fault Refusal :=
  match s.issueSet sid lane with
  | none => .next s
  | some (sg, g, set, pc) =>
    match s.fetchWords sg g pc with
    | .missing va w => .next (s.beginFetch sid set pc va w)
    | .words w next =>
      if s.isPicked sid lane then
        let x := ((takenX w next).map xToWord).getD 0
        match exec (decode w next) { s with issuing := some { sid := sid, lanes := set, pc := pc, iword := w, xword := x, quads := quads } } with
        | .next t => .next (s.noteShared (s.portTaken t sid set w) sid pc set)
        | o => o
      else .next s

/-- The quad boundary at which an issue stops: only where the next turn preempts the lane's context (R151). -/
def State.quadStop (s : State) (sid q : Nat) : Option Nat :=
  match s.agenda, ((SMap.get? s.subs sid).bind (fun sg => SMap.get? s.groups sg.gid)) with
  | .event (.preempt c) :: _, some g =>
    if decide (c.ctx.toNat = g.ctx) && decide (s.regs.neg = 1) && !g.walker then some q else none
  | _, _ => none

/-- What happens on a device, seen from it; the device in place stays the same. -/
def outcomeOn (s : State) (d : Nat) (f : State → Host.Outcome State Fault Refusal) : Host.Outcome State Fault Refusal :=
  if d = s.dev then f s
  else match f (s.enter d) with
    | .next t => .next (t.enter s.dev)
    | o => o

/-- The device where a sub-group stands. -/
def State.subDev (s : State) (sid : Nat) : Option Nat := (SMap.get? s.subs sid).map (fun sg => sg.mast / 16)

/-- The device of what a happening names; none where it names nothing of one (log entry 1). -/
def State.subject (s : State) (i : Instr) : Option Nat :=
  let waitDev := fun (w : Nat) => (SMap.get? s.waits w).bind (fun w => s.subDev w.sid)
  let msgDev := fun (m : Nat) => (SMap.get? s.msgs m).map (fun m => portDev m.dst)
  let imgDev := fun (k : Nat) => (SMap.get? s.images k).map s.imageDev
  let strDev := fun (g q : Nat) => ((SMap.get? s.groups g).bind (fun g => SMap.get? g.streams q)).map (fun q => q.mast / 16)
  match i with
  | .instructionFetch w | .ldwWake w | .ldwTimeout w | .fenceTimeout w | .barrierWaitTimeout w | .queueRetry w | .queueWaitTimeout w
  | .sliceAccept w | .sliceWaitTimeout w | .cpwTimeout w | .capstanAccept w | .caprTimeout w | .capwWake w | .capwTimeout w
  | .bcallParkExpiry w | .bwaitTimeout w | .implicitWaitExpiry w => waitDev w
  | .tieNotice m | .exitNotice m | .postedOperation m | .postedAcknowledgement m | .barrierArrival m | .barrierCompletionNotice m
  | .barrierWithdrawal m | .barrierExit m | .escalationIncrement m | .escalationReset m => msgDev m
  | .continuationDeparture k | .imageLanding k => imgDev k
  | .streamFetch g q | .streamElementArrival g q => strDev g q
  | .holdTransfer m | .imageAdmission m _ | .capstanReduction m | .walkStart m | .walkEnd m | .crewPlacement m _ | .tackleTransfer m _ _
  | .retry m _ _ | .fail m _ _ | .row m _ | .bank m _ | .fenceStation m _ | .fenceMast m | .repairComplete m | .scrub m _
  | .tierReady m _ | .tierReadyTimeout m _ | .clockScaling m _ => some (m / 16)
  | .tieExpiry t => (SMap.get? s.ties t).map (fun t => t.mast / 16)
  | .gatheringExpiry c _ => (SMap.get? s.crews c).map (fun c => c.mast / 16)
  | .jibCall k | .jibReply k => (SMap.get? s.calls k).map (fun c => c.dev)
  | .launchComplete l => (SMap.get? s.launches l).map (fun l => l.dev)
  | _ => none

/-- A happening on a device. An instruction word is no happening: it runs only where it is fetched. -/
def eventOn (s : State) (d : Nat) (i : Instr) : Host.Outcome State Fault Refusal :=
  if (encode i).isSome then .next s else outcomeOn s d (fun s => exec i { s with issuing := none })

/-- Another device, just reset, is joined to the domain's switches (R323, R341). -/
def State.attach (s : State) : State :=
  let d := s.devices.length
  { s with others := SMap.put s.others d Device.reset, masts := s.masts ++ mastsReset d }

/-- One turn. -/
def runTurn (s : State) : Turn → Host.Outcome State Fault Refusal
  | .issue sid lane => outcomeOn s ((s.subDev sid).getD s.dev) (fun s => issueTurn s sid lane none)
  | .quads sid lane q => outcomeOn s ((s.subDev sid).getD s.dev) (fun s => issueTurn s sid lane (s.quadStop sid q))
  | .event i => eventOn s ((s.subject i).getD s.dev) i
  | .eventAt d i => eventOn s d i
  | .wait w => .next (s.on (((SMap.get? s.waits w).bind (fun w => s.subDev w.sid)).getD s.dev) (fun s => s.lookAgain w))
  | .serve k =>
    match SMap.get? s.msgs k with
    | some m => outcomeOn s (portDev m.dst) (execMsg k m.body)
    | none => .next s
  | .refTick m => .next (if s.devices.contains (m / 16) then s.on (m / 16) (fun s => s.refTick m) else s)
  | .stnTick m => .next (if s.devices.contains (m / 16) then s.on (m / 16) (fun s => s.stnTick m) else s)
  | .deckTick => .next s.deckTick
  | .device d => .next (s.enter d)
  | .attach => .next s.attach

/-- The journals of every device take the entries of a turn; none when a unit that replays holds the turn (R339). -/
def State.drainAll (s : State) : Option State :=
  s.devices.foldl (fun (o : Option State) d => o.bind (fun s => (s.enter d).drain.map (fun t => t.enter s.dev))) (some s)

/-- What follows every turn: the records of a reset context go once its engine operations have ended, TIEs meet freed records (R229),
lanes that stood by for a word's waits go on (log entry 17),
saved contexts' records follow changes (R302), stations' slots follow their groups (R209), and the journals take the turn's entries; none
when a unit that replays holds the turn (R339). -/
def settleTurn (s t : State) : Option State := (s.syncSaved t.sweep.wakeTies.standDown).syncSlots.drainAll

/-- The first of some changes that changes the state and is not held. -/
def firstChange (s : State) : List (State → State) → State
  | [] => s
  | f :: fs =>
    match settleTurn s (f s) with
    | some t => if t = s then firstChange s fs else t
    | none => firstChange s fs

/-- The issues on the device in place that may come next, in picking order (R212); in replay each from the clocks that it may be forced
at. -/
def issueTrials (s : State) : List (State → State) :=
  (s.picks.filter (fun p => decide (s.subDev p.1 = some s.dev))).flatMap (fun p =>
    if s.replaying then (s.clockChoices p.1).map (fun u => fun _ => (nextOr s (issueTurn u p.1 p.2 none)).keepClocks s p.1)
    else [fun s => nextOr s (issueTurn s p.1 p.2 none)])

/-- What one device does by itself: what stands ready to happen, then an issue. -/
def ownTrials (s : State) : List (State → State) :=
  s.forcedExpiries.map (fun e => fun s => nextOr s (exec e.1 e.2)) ++ s.trials ++ issueTrials s

/-- With an empty agenda the devices go on by themselves, each in turn, and then time advances (log entry 1). -/
def idleTurn (s : State) : State :=
  firstChange s (s.devices.flatMap (fun d => (ownTrials (s.enter d)).map (fun f => fun (s : State) => s.on d f)) ++ [State.tickAll])

/-- One step. -/
def step (s : State) : Host.Outcome State Fault Refusal :=
  match s.agenda with
  | [] => .next (idleTurn s)
  | turn :: rest =>
    let s0 : State := { s with agenda := rest }
    match runTurn s0 turn with
    | .next t => .next ((settleTurn s0 t).getD s0)
    | o => o

/-- A state in which the next step issues one instruction, given as a number whose bit 0 is the least significant bit of its
first word: a device that has come up, with a context, a launch, a crew of one group on mast 0, station 0, whose lanes stand
at code address 0x1000, the instruction in the station's instruction store, and their issue as the next turn. -/
def State.withFetchWord (s : State) (_nbits w : Nat) : State :=
  let pc : Word := 0x1000
  let m := s.dev * 16
  let gid := s.nextId
  let sid := gid + 1
  let cid := gid + 2
  let lid := gid + 3
  let ctx : Ctx := { ctxOfWords [] with grant := BitVec.allOnes 1024 }
  let launch := launchOf s.dev { ctx := 1, num := 0, desc := 0, base := 0, head := 0, tail := 0, slots := 1, quant := 1, adv := 0, stopped := false, dc := 0, phase := .idle, x := none } 64 [] [] [0]
  let crew : Crew := { lid := lid, cix := 0, mast := m, stn := 0, anchor := 0, lseg := 0, bars := [], tags := [], pushers := [], groups := [gid],
                       rsv := 0, weight := 1, placedAt := 0, saved := none }
  let code : CodeSector := { ctx := 1, va := pc, data := [BitVec.ofNat 64 w, BitVec.ofNat 64 (w / 2 ^ 64), 0, 0] }
  let sg0 := SubGroup.launch gid m 0 8 pc (s.stn m 0).cycles [] 0 65536 0 0
  let sg := sg0.mapLanes sg0.all (fun l => { l with since := 0, starve := 256 })
  let b := s.bosun
  let s1 : State := { s with
    bosun := { b with on := true, hostUp := true }
    ctxs := SMap.put s.ctxs 1 ctx
    launches := SMap.put s.launches lid launch
    crews := SMap.put s.crews cid crew
    groups := SMap.put s.groups gid (Group.launch 1 (some cid) 0 8 8)
    subs := SMap.put s.subs sid sg
    agenda := .issue sid 0 :: s.agenda
    halting := false
    nextId := gid + 4 }
  s1.updStn m 0 (fun st => { st with crew := some cid, fenced := false, store := [code], ports := Ports.free, arrayFree := 0, slots := [(0, gid)] })

end Sys2Proof.Machine
end

