-- ==== Sys2Proof/Safety.lean ====
section
/-! DEFINITION. The terms that claims about the machine use: when a word issues and with which lanes, what a completed word
leaves, and the invariant of memory. A run is safe when every step answers a next state in which the invariant holds. -/

namespace Sys2Proof.Safety

open Sys2Proof Sys2Proof.Machine

/-! ## Words and their legality -/

/-- The head fields of an F word with its X word. -/
def hdX (w : FWord) (x : Option XWord) : Hd :=
  { gneg := w.gneg, guard := w.guard, stall := w.stall.toNat, len := if x.isSome then 16 else 8 }

/-- The head and the legality of a program word with one guard; none for a P word, for a head without the X word that it
requires, for a word of class X and for a happening of the device. -/
def form (s : State) : Instr → Option (Hd × Sig)
  | .iadd w => some (hdF w, (specSat.shapeF w 2).fullSig)
  | .iaddI w => some (hdI w, (specSat.shapeI w 4).fullSig)
  | .isub w => some (hdF w, (specSat.shapeF w 2).fullSig)
  | .isubI w => some (hdI w, (specSat.shapeI w 4).fullSig)
  | .imul w => some (hdF w, (specMul.shapeF w 2).fullSig)
  | .imulI w => some (hdI w, (specMul.shapeI w 4).fullSig)
  | .imad w => some (hdF w, (specMul.shapeF w 3).fullSig)
  | .imulh w => some (hdF w, (specMulh.shapeF w 2).fullSig)
  | .imulhI w => some (hdI w, (specMulh.shapeI w 4).fullSig)
  | .idiv w => some (hdF w, (specDiv.shapeF w 2).fullSig)
  | .idivI w => some (hdI w, (specDiv.shapeI w 4).fullSig)
  | .irem w => some (hdF w, (specDiv.shapeF w 2).fullSig)
  | .iremI w => some (hdI w, (specDiv.shapeI w 4).fullSig)
  | .imin w => some (hdF w, (specIN.shapeF w 2).fullSig)
  | .iminI w => some (hdI w, (specIN.shapeI w 4).fullSig)
  | .imax w => some (hdF w, (specIN.shapeF w 2).fullSig)
  | .imaxI w => some (hdI w, (specIN.shapeI w 4).fullSig)
  | .iabs w => some (hdF w, (specAbs.shapeF w 1).fullSig)
  | .ineg w => some (hdF w, (specAbs.shapeF w 1).fullSig)
  | .and w => some (hdF w, (specAll.shapeF w 2).fullSig)
  | .andI w => some (hdI w, (specAll.shapeI w 4).fullSig)
  | .or w => some (hdF w, (specAll.shapeF w 2).fullSig)
  | .orI w => some (hdI w, (specAll.shapeI w 4).fullSig)
  | .xor w => some (hdF w, (specAll.shapeF w 2).fullSig)
  | .xorI w => some (hdI w, (specAll.shapeI w 4).fullSig)
  | .not w => some (hdF w, (specAll.shapeF w 1).fullSig)
  | .andn w => some (hdF w, (specAll.shapeF w 2).fullSig)
  | .andnI w => some (hdI w, (specAll.shapeI w 4).fullSig)
  | .btab w => some (hdF w, (btabShape w).fullSig)
  | .shl w => some (hdF w, (specAll.shapeF w 2).fullSig)
  | .shlI w => some (hdI w, (specAll.shapeI w 4).fullSig)
  | .shr w => some (hdF w, (specAll.shapeF w 2).fullSig)
  | .shrI w => some (hdI w, (specAll.shapeI w 4).fullSig)
  | .sar w => some (hdF w, (specAll.shapeF w 2).fullSig)
  | .sarI w => some (hdI w, (specAll.shapeI w 4).fullSig)
  | .cshf w => some (hdF w, (({ specB with maxOp := 1 } : ISpec).shapeF w 3).fullSig)
  | .popc w => some (hdF w, (specB.shapeF w 1).fullSig)
  | .clz w => some (hdF w, (specB.shapeF w 1).fullSig)
  | .ctz w => some (hdF w, (specB.shapeF w 1).fullSig)
  | .brev w => some (hdF w, (specB.shapeF w 1).fullSig)
  | .bfe w => some (hdF w, (specAll.shapeF w 2).fullSig)
  | .bfi w => some (hdF w, (specAll.shapeF w 3).fullSig)
  | .prmt w => some (hdF w, (specPrmt.shapeF w 3).fullSig)
  | .prmtI w => some (hdI w, (specPrmt.shapeI w 8).fullSig)
  | .lea w => some (hdF w, (leaShape w).fullSig)
  | .icmp w => some (hdF w, (icmpShape w).fullSig)
  | .icmpI w => some (hdI w, (icmpIShape w).fullSig)
  | .ptab w => some (hdF w, (ptabShape w).fullSig)
  | .isel w => some (hdF w, (iselShape w).fullSig)
  | .sel w => some (hdF w, (specAll.shapeF w 3).fullSig)
  | .mov w => some (hdF w, (specAll.shapeF w 1).fullSig)
  | .movI w => some (hdI w, (movIShape w).fullSig)
  | .fadd w => some (hdF w, (fspecArith.shapeF w 2).fullSig)
  | .faddI w => some (hdI w, (fspecArith.shapeI w 0xD).fullSig)
  | .fsub w => some (hdF w, (fspecArith.shapeF w 2).fullSig)
  | .fsubI w => some (hdI w, (fspecArith.shapeI w 0xD).fullSig)
  | .fmul w => some (hdF w, (fspecArith.shapeF w 2).fullSig)
  | .fmulI w => some (hdI w, (fspecArith.shapeI w 0xD).fullSig)
  | .ffma w => some (hdF w, (fspecArith.shapeF w 3).fullSig)
  | .fmin w => some (hdF w, (fspecMin.shapeF w 2).fullSig)
  | .fminI w => some (hdI w, (fspecMin.shapeI w 0xD).fullSig)
  | .fmax w => some (hdF w, (fspecMin.shapeF w 2).fullSig)
  | .fmaxI w => some (hdI w, (fspecMin.shapeI w 0xD).fullSig)
  | .fabs w => some (hdF w, (fspecMin.shapeF w 1).fullSig)
  | .fneg w => some (hdF w, (fspecMin.shapeF w 1).fullSig)
  | .fsgn w => some (hdF w, (({ fspec32 with maxOp := 2 } : FSpec).shapeF w 2).fullSig)
  | .fcmp w => some (hdF w, (({ fspec32 with maxOp := 7, toP := true } : FSpec).shapeF w 2).fullSig)
  | .fcmpI w => some (hdI w, (({ fspec32 with maxOp := 7, toP := true } : FSpec).shapeI w 0xD).fullSig)
  | .fclass w => some (hdF w, (fspec32.shapeF w 1).fullSig)
  | .frnd w => some (hdF w, (({ fspec32 with maxRnd := 3 } : FSpec).shapeF w 1).fullSig)
  | .frcp w => some (hdF w, (({ fspec32 with lat := 12 } : FSpec).shapeF w 1).fullSig)
  | .frsq w => some (hdF w, (({ fspec32 with lat := 12 } : FSpec).shapeF w 1).fullSig)
  | .fsqrt w => some (hdF w, (({ fspec32 with lat := 15, maxRnd := 3 } : FSpec).shapeF w 1).fullSig)
  | .fexp2 w => some (hdF w, (({ fspec32 with lat := 12 } : FSpec).shapeF w 1).fullSig)
  | .flog2 w => some (hdF w, (({ fspec32 with lat := 12 } : FSpec).shapeF w 1).fullSig)
  | .fsin w => some (hdF w, (({ fspec32 with lat := 15 } : FSpec).shapeF w 1).fullSig)
  | .fcos w => some (hdF w, (({ fspec32 with lat := 15 } : FSpec).shapeF w 1).fullSig)
  | .dadd w => some (hdF w, (dspecArith.shapeF w 2).fullSig)
  | .daddI w => some (hdI w, (dspecArith.shapeI w 0xC).fullSig)
  | .dsub w => some (hdF w, (dspecArith.shapeF w 2).fullSig)
  | .dsubI w => some (hdI w, (dspecArith.shapeI w 0xC).fullSig)
  | .dmul w => some (hdF w, (dspecArith.shapeF w 2).fullSig)
  | .dmulI w => some (hdI w, (dspecArith.shapeI w 0xC).fullSig)
  | .dfma w => some (hdF w, (dspecArith.shapeF w 3).fullSig)
  | .dmin w => some (hdF w, (dspec.shapeF w 2).fullSig)
  | .dminI w => some (hdI w, (dspec.shapeI w 0xC).fullSig)
  | .dmax w => some (hdF w, (dspec.shapeF w 2).fullSig)
  | .dmaxI w => some (hdI w, (dspec.shapeI w 0xC).fullSig)
  | .dabs w => some (hdF w, (dspec.shapeF w 1).fullSig)
  | .dneg w => some (hdF w, (dspec.shapeF w 1).fullSig)
  | .dcmp w => some (hdF w, (({ dspec with maxOp := 7, toP := true } : FSpec).shapeF w 2).fullSig)
  | .dcmpI w => some (hdI w, (({ dspec with maxOp := 7, toP := true } : FSpec).shapeI w 0xC).fullSig)
  | .dclass w => some (hdF w, (({ dspec with narrow := true } : FSpec).shapeF w 1).fullSig)
  | .drnd w => some (hdF w, (dspecArith.shapeF w 1).fullSig)
  | .cvt w => some (hdX w none, cvtSig w)
  | .cvtf w => some (hdX w none, cvtfSig w)
  | .pack w => some (hdX w none, packSig w)
  | .unpack w => some (hdX w none, unpackSig w)
  | .qscale w => some (hdX w none, qscaleSig w)
  | .dqscale w => some (hdX w none, dqscaleSig w)
  | .fldexp w => some (hdF w, (fldexpShape w).fullSig)
  | .ffrexp w => some (hdF w, (ffrexpShape w).fullSig)
  | .xlane w => some (hdX w none, xlaneSig w)
  | .vote w => some (hdX w none, voteSig w)
  | .ballot w => some (hdX w none, ballotSig w)
  | .scan w => some (hdX w none, scanWordSig w)
  | .segscan w => some (hdX w none, segscanSig w)
  | .redux w => some (hdX w none, reduxSig w)
  | .matchM w => some (hdX w none, matchSig w)
  | .elect w => some (hdX w none, electSig w)
  | .active w => some (hdX w none, activeSig w)
  | .bra w => some (hdI w, braSig w)
  | .brx w => some (hdX w none, brxSig w)
  | .call w => some (hdI w, callSig w)
  | .calli w => some (hdX w none, calliSig w)
  | .ret w => some (hdX w none, brxSig w)
  | .tie w x => x.map (fun xw => (hdX w (some xw), tieSig w xw))
  | .join w => some (hdX w none, joinSig w)
  | .exit w => some (hdX w none, bareSig w)
  | .yield w => some (hdX w none, bareSig w)
  | .loopq w x => x.map (fun xw => (hdX w (some xw), loopqSig w xw))
  | .nop w => some (hdX w none, bareSig w)
  | .pairedWord _ => none
  | .reservedEncoding w x => if fieldOf w 62 2 = 3 then none else some ({ gneg := w.getLsbD 51, guard := w.extractLsb' 48 3, stall := fieldOf w 44 4, len := if x.isSome then 16 else 8 }, noWordSig)
  | .ldg w x => if xBit w && x.isNone then none else some (hdX w x, loadSig w x .glob)
  | .stg w x => if xBit w && x.isNone then none else some (hdX w x, storeSig w x .glob)
  | .ldl w x => if xBit w && x.isNone then none else some (hdX w x, loadSig w x .loc)
  | .stl w x => if xBit w && x.isNone then none else some (hdX w x, storeSig w x .loc)
  | .lds w x => if xBit w && x.isNone then none else some (hdX w x, loadSig w x .spill)
  | .sts w x => if xBit w && x.isNone then none else some (hdX w x, storeSig w x .spill)
  | .ldw w x => if x.isNone then none else some (hdX w x, ldwSig w x)
  | .post w x => if xBit w && x.isNone then none else some (hdX w x, postSig w x)
  | .atom w x => if x.isNone then none else some (hdX w x, atomSig w x)
  | .atomcas w x => if x.isNone then none else some (hdX w x, atomcasSig w x)
  | .red w x => if xBit w && x.isNone then none else some (hdX w x, redSig w x)
  | .home w x => if xBit w && x.isNone then none else some (hdX w x, homeSig w x)
  | .migrG w x => if xBit w && x.isNone then none else some (hdX w x, migrGSig w x)
  | .migrL w x => if xBit w && x.isNone then none else some (hdX w x, migrLSig w)
  | .qcfg w => some (hdX w none, qcfgSig w)
  | .qidx w => some (hdX w none, qidxSig w)
  | .qld w => some (hdX w none, qldSig s w)
  | .qclose w => some (hdX w none, qcloseSig s w)
  | .fence w => some (hdX w none, fenceSig w (fenceEmpty w))
  | .fenceX w => some (hdX w none, fenceSig w (fenceXBad w))
  | .mma w => some (hdX w none, mmaSig s w)
  | .mmaBs w x => x.map (fun xw => (hdX w (some xw), mmaBsSig s w xw))
  | .mmaSp w x => x.map (fun xw => (hdX w (some xw), mmaSpSig s w xw))
  | .bmc w => some (hdX w none, bmcSig s w)
  | .bmx w => some (hdX w none, bmxSig s w)
  | .kset w => some (hdX w none, ksetSig s w)
  | .ktst w => some (hdX w none, ktstSig w)
  | .mpart w => some (hdX w none, mpartSig s w)
  | .smerge w x => x.map (fun xw => (hdX w (some xw), smergeSig w xw))
  | .cp w => some (hdX w none, copySig w 4)
  | .cpm w => some (hdX w none, copySig w 6)
  | .cpcv w => some (hdX w none, copySig w 7)
  | .cpw w => some (hdX w none, cpwSig w)
  | .capr w => some (hdX w none, capSig w)
  | .capw w => some (hdX w none, capSig w)
  | .bcallT w x => if xBit w && x.isNone then none else some (hdX w x, bcallSig w x)
  | .bcallN w x => if xBit w && x.isNone then none else some (hdX w x, bcallSig w x)
  | .bwait w => some (hdX w none, bwaitSig w)
  | .barc w => some (hdX w none, arriveSig w 15)
  | .barw w => some (hdX w none, phaseSig w 15)
  | .barx w => some (hdX w none, barxSig w)
  | .mbar w => some (hdX w none, mbarSig w)
  | .gbara w => some (hdX w none, arriveSig w 3)
  | .gbarw w => some (hdX w none, phaseSig w 3)
  | .qpush w => some (hdX w none, queueSig w [] [Pos.src w.a Acc.dOnly] false 7)
  | .qpop w => some (hdX w none, queueSig w [] [Pos.src w.a Acc.dOnly] true 7)
  | .qtryPush w => some (hdX w none, queueSig w [w.a] [] false 15)
  | .qtryPop w => some (hdX w none, queueSig w [w.a] [] true 15)
  | .trap w => some (hdX w none, trapSig w)
  | .trapI w => some (hdI w, trapISig w)
  | .tfence w => some (hdX w none, bareSig w)
  | .tret w => some (hdX w none, tretSig w)
  | .movsRead w => some (hdX w none, movsReadSig w false)
  | .movsWrite w => some (hdX w none, movsWriteSig w false)
  | .movspRead w => some (hdX w none, movsReadSig w true)
  | .movspWrite w => some (hdX w none, movsWriteSig w true)
  | .segldL w => some (hdX w none, segldLSig w)
  | .segldP w => some (hdX w none, segldSig w)
  | .tlbf w => some (hdX w none, tlbfSig w)
  | .tlbiVa w => some (hdX w none, tlbiVaSig w)
  | .tlbiCtx w => some (hdX w none, tlbiSig w 1 [w.dest, w.a, w.b, w.c] [])
  | .tlbiAll w => some (hdX w none, tlbiSig w 2 [w.dest, w.a, w.b, w.c] [])
  | .dlsetRel w => some (hdX w none, dlsetSig w 0)
  | .dlsetI w => some (hdI w, dlsetISig w)
  | .dlsetAbs w => some (hdX w none, dlsetSig w 1)
  | .dlsetDef w => some (hdX w none, dlsetSig w 2)
  | .clkrd w => some (hdX w none, clkrdSig w)
  | .halt w => some (hdX w none, privSig w)
  | .dstep w => some (hdX w none, dstepSig w)
  | .ctxsave w x => if xBit w && x.isNone then none else some (hdX w x, ctxSig w x [w.dest] [])
  | .ctxload w x => if xBit w && x.isNone then none else some (hdX w x, ctxSig w x [] [Pos.dst w.dest Acc.sz])
  | .variableLatencyWrite _ _ => none
  | .instructionFetch _ => none
  | .continuationDeparture _ => none
  | .imageLanding _ => none
  | .holdTransfer _ => none
  | .imageAdmission _ _ => none
  | .tieNotice _ => none
  | .exitNotice _ => none
  | .tieExpiry _ => none
  | .postedOperation _ => none
  | .postedAcknowledgement _ => none
  | .ldwWake _ => none
  | .ldwTimeout _ => none
  | .fenceTimeout _ => none
  | .streamFetch _ _ => none
  | .streamElementArrival _ _ => none
  | .barrierArrival _ => none
  | .barrierCompletionNotice _ => none
  | .barrierWaitTimeout _ => none
  | .queueRetry _ => none
  | .queueWaitTimeout _ => none
  | .sliceAccept _ => none
  | .sliceWaitTimeout _ => none
  | .cpwTimeout _ => none
  | .capstanAccept _ => none
  | .caprTimeout _ => none
  | .capstanReduction _ => none
  | .capwWake _ => none
  | .capwTimeout _ => none
  | .jibCall _ => none
  | .jibReply _ => none
  | .bcallParkExpiry _ => none
  | .bwaitTimeout _ => none
  | .implicitWaitExpiry _ => none
  | .walkStart _ => none
  | .walkEnd _ => none
  | .crewPlacement _ _ => none
  | .launchComplete _ => none
  | .cmdNop _ => none
  | .launch _ => none
  | .wait _ => none
  | .waitReread _ => none
  | .stallRecord _ => none
  | .signal _ => none
  | .preemptComplete _ => none
  | .restoreComplete _ => none
  | .barrierWithdrawal _ => none
  | .barrierExit _ => none
  | .gatheringExpiry _ _ => none
  | .tackleTransfer _ _ _ => none
  | .escalationIncrement _ => none
  | .escalationReset _ => none
  | .retry _ _ _ => none
  | .fail _ _ _ => none
  | .doorbell _ => none
  | .drvfeatWrite _ => none
  | .journalControlWrite _ _ => none
  | .registerWrite _ _ => none
  | .ctxreg _ => none
  | .qreg _ => none
  | .qrestart _ => none
  | .preempt _ => none
  | .pdlExpiry _ => none
  | .restore _ => none
  | .resume _ => none
  | .debuggo _ => none
  | .destroy _ => none
  | .ftag _ => none
  | .member _ => none
  | .membershipTimeout _ => none
  | .ckpt _ => none
  | .ckload _ => none
  | .attest _ => none
  | .rdmaWrite _ _ _ _ => none
  | .rdmaRead _ _ _ _ => none
  | .compareAndSwap _ _ _ _ _ => none
  | .fetchAndAdd _ _ _ _ => none
  | .invalidRequest _ => none
  | .cnp _ => none
  | .ecnCe _ => none
  | .riluaganFlit _ => none
  | .shroudPortFailure _ => none
  | .row _ _ => none
  | .bank _ _ => none
  | .fenceStation _ _ => none
  | .fenceMast _ => none
  | .repairComplete _ => none
  | .scrub _ _ => none
  | .softError _ _ => none
  | .tierReady _ _ => none
  | .tierReadyTimeout _ _ => none
  | .clockScaling _ _ => none
  | .thermalThrottle _ => none
  | .thermalHold _ => none
  | .thermalTrip _ => none
  | .shroudPath _ => none
  | .qpAbandoned _ => none
  | .thermalHoldRelease _ => none
  | .crewAdmission => none
  | .gangStart => none
  | .gangAgeLimit => none
  | .ckptImageWrite => none
  | .eventWrite => none
  | .replayDivergence => none
  | .powerOn => none
  | .powerDown => none

/-- A per-lane integer computation at a word's format. -/
def intFun (m : Mods) (f : IOp) : List Nat → Nat × Flags := fun xs => (f (IFmt.ofCode m.fmt) m.sat m.op xs, 0)

/-- A per-lane floating-point computation at a word's format, element by element for a packed format. -/
def floatFun (m : Mods) (f : FOp) : List Nat → Nat × Flags := perElement f m.fmt (rndOf m) m.op

/-- A per-lane computation of R100. -/
def ldexpFun (m : Mods) (f : FOp) : List Nat → Nat × Flags := f (ffmtOf m.fmt) (rndOf m) m.op

/-- The sum of LEA (R87). -/
def leaFun (m : Mods) : List Nat → Nat × Flags
  | [a, b] => (wrapTo 64 ((a : Int) + tVal (IFmt.ofCode m.fmt) b * 2 ^ m.op), 0)
  | _ => (0, 0)

/-- The table of PTAB (R87). -/
def ptabFun (lut : Nat) : List Nat → Nat × Flags
  | [a, b, c] => (if lutBit lut (decide (a = 1)) (decide (b = 1)) (decide (c = 1)) then 1 else 0, 0)
  | _ => (0, 0)

/-- The words that compute one result per lane: head, shape and computation (R87 to R93, R100). -/
def aluForm : Instr → Option (Hd × Shape × (List Nat → Nat × Flags))
  | .iadd w => some (hdF w, specSat.shapeF w 2, intFun (Mods.ofNat (fMods w)) opAdd)
  | .iaddI w => some (hdI w, specSat.shapeI w 4, intFun (Mods.ofI w 4) opAdd)
  | .isub w => some (hdF w, specSat.shapeF w 2, intFun (Mods.ofNat (fMods w)) opSub)
  | .isubI w => some (hdI w, specSat.shapeI w 4, intFun (Mods.ofI w 4) opSub)
  | .imul w => some (hdF w, specMul.shapeF w 2, intFun (Mods.ofNat (fMods w)) opMul)
  | .imulI w => some (hdI w, specMul.shapeI w 4, intFun (Mods.ofI w 4) opMul)
  | .imad w => some (hdF w, specMul.shapeF w 3, intFun (Mods.ofNat (fMods w)) opMad)
  | .imulh w => some (hdF w, specMulh.shapeF w 2, intFun (Mods.ofNat (fMods w)) opMulh)
  | .imulhI w => some (hdI w, specMulh.shapeI w 4, intFun (Mods.ofI w 4) opMulh)
  | .idiv w => some (hdF w, specDiv.shapeF w 2, intFun (Mods.ofNat (fMods w)) opDiv)
  | .idivI w => some (hdI w, specDiv.shapeI w 4, intFun (Mods.ofI w 4) opDiv)
  | .irem w => some (hdF w, specDiv.shapeF w 2, intFun (Mods.ofNat (fMods w)) opRem)
  | .iremI w => some (hdI w, specDiv.shapeI w 4, intFun (Mods.ofI w 4) opRem)
  | .imin w => some (hdF w, specIN.shapeF w 2, intFun (Mods.ofNat (fMods w)) opMin)
  | .iminI w => some (hdI w, specIN.shapeI w 4, intFun (Mods.ofI w 4) opMin)
  | .imax w => some (hdF w, specIN.shapeF w 2, intFun (Mods.ofNat (fMods w)) opMax)
  | .imaxI w => some (hdI w, specIN.shapeI w 4, intFun (Mods.ofI w 4) opMax)
  | .iabs w => some (hdF w, specAbs.shapeF w 1, intFun (Mods.ofNat (fMods w)) opAbs)
  | .ineg w => some (hdF w, specAbs.shapeF w 1, intFun (Mods.ofNat (fMods w)) opNeg)
  | .and w => some (hdF w, specAll.shapeF w 2, intFun (Mods.ofNat (fMods w)) opAnd)
  | .andI w => some (hdI w, specAll.shapeI w 4, intFun (Mods.ofI w 4) opAnd)
  | .or w => some (hdF w, specAll.shapeF w 2, intFun (Mods.ofNat (fMods w)) opOr)
  | .orI w => some (hdI w, specAll.shapeI w 4, intFun (Mods.ofI w 4) opOr)
  | .xor w => some (hdF w, specAll.shapeF w 2, intFun (Mods.ofNat (fMods w)) opXor)
  | .xorI w => some (hdI w, specAll.shapeI w 4, intFun (Mods.ofI w 4) opXor)
  | .not w => some (hdF w, specAll.shapeF w 1, intFun (Mods.ofNat (fMods w)) opNot)
  | .andn w => some (hdF w, specAll.shapeF w 2, intFun (Mods.ofNat (fMods w)) opAndn)
  | .andnI w => some (hdI w, specAll.shapeI w 4, intFun (Mods.ofI w 4) opAndn)
  | .btab w => some (hdF w, btabShape w, fun xs => (opBtab (IFmt.ofCode (Mods.ofNat (w.hi.toNat * 256)).fmt) false w.lo.toNat xs, 0))
  | .shl w => some (hdF w, specAll.shapeF w 2, intFun (Mods.ofNat (fMods w)) opShl)
  | .shlI w => some (hdI w, specAll.shapeI w 4, intFun (Mods.ofI w 4) opShl)
  | .shr w => some (hdF w, specAll.shapeF w 2, intFun (Mods.ofNat (fMods w)) opShr)
  | .shrI w => some (hdI w, specAll.shapeI w 4, intFun (Mods.ofI w 4) opShr)
  | .sar w => some (hdF w, specAll.shapeF w 2, intFun (Mods.ofNat (fMods w)) opSar)
  | .sarI w => some (hdI w, specAll.shapeI w 4, intFun (Mods.ofI w 4) opSar)
  | .cshf w => some (hdF w, ({ specB with maxOp := 1 } : ISpec).shapeF w 3, intFun (Mods.ofNat (fMods w)) opCshf)
  | .popc w => some (hdF w, specB.shapeF w 1, intFun (Mods.ofNat (fMods w)) opPopc)
  | .clz w => some (hdF w, specB.shapeF w 1, intFun (Mods.ofNat (fMods w)) opClz)
  | .ctz w => some (hdF w, specB.shapeF w 1, intFun (Mods.ofNat (fMods w)) opCtz)
  | .brev w => some (hdF w, specB.shapeF w 1, intFun (Mods.ofNat (fMods w)) opBrev)
  | .bfe w => some (hdF w, specAll.shapeF w 2, intFun (Mods.ofNat (fMods w)) opBfe)
  | .bfi w => some (hdF w, specAll.shapeF w 3, intFun (Mods.ofNat (fMods w)) opBfi)
  | .prmt w => some (hdF w, specPrmt.shapeF w 3, intFun (Mods.ofNat (fMods w)) opPrmt)
  | .prmtI w => some (hdI w, specPrmt.shapeI w 8, intFun (Mods.ofI w 8) (fun t sat op xs => opPrmt t sat op (xs ++ [0])))
  | .lea w => some (hdF w, leaShape w, leaFun (Mods.ofNat (fMods w)))
  | .icmp w => some (hdF w, icmpShape w, intFun (Mods.ofNat (fMods w)) opCmp)
  | .icmpI w => some (hdI w, icmpIShape w, intFun (Mods.ofI w 4) opCmp)
  | .ptab w => some (hdF w, ptabShape w, ptabFun w.lo.toNat)
  | .isel w => some (hdF w, iselShape w, intFun (Mods.ofNat (fMods w)) opIsel)
  | .sel w => some (hdF w, specAll.shapeF w 3, intFun (Mods.ofNat (fMods w)) opSel)
  | .mov w => some (hdF w, specAll.shapeF w 1, intFun (Mods.ofNat (fMods w)) opMov)
  | .movI w => some (hdI w, movIShape w, intFun (Mods.ofI w 4) opMov)
  | .fadd w => some (hdF w, fspecArith.shapeF w 2, floatFun (Mods.ofNat (fMods w)) fopAdd)
  | .faddI w => some (hdI w, fspecArith.shapeI w 0xD, floatFun (Mods.ofI w 0xD) fopAdd)
  | .fsub w => some (hdF w, fspecArith.shapeF w 2, floatFun (Mods.ofNat (fMods w)) fopSub)
  | .fsubI w => some (hdI w, fspecArith.shapeI w 0xD, floatFun (Mods.ofI w 0xD) fopSub)
  | .fmul w => some (hdF w, fspecArith.shapeF w 2, floatFun (Mods.ofNat (fMods w)) fopMul)
  | .fmulI w => some (hdI w, fspecArith.shapeI w 0xD, floatFun (Mods.ofI w 0xD) fopMul)
  | .ffma w => some (hdF w, fspecArith.shapeF w 3, floatFun (Mods.ofNat (fMods w)) fopFma)
  | .fmin w => some (hdF w, fspecMin.shapeF w 2, floatFun (Mods.ofNat (fMods w)) fopMin)
  | .fminI w => some (hdI w, fspecMin.shapeI w 0xD, floatFun (Mods.ofI w 0xD) fopMin)
  | .fmax w => some (hdF w, fspecMin.shapeF w 2, floatFun (Mods.ofNat (fMods w)) fopMax)
  | .fmaxI w => some (hdI w, fspecMin.shapeI w 0xD, floatFun (Mods.ofI w 0xD) fopMax)
  | .fabs w => some (hdF w, fspecMin.shapeF w 1, floatFun (Mods.ofNat (fMods w)) fopAbs)
  | .fneg w => some (hdF w, fspecMin.shapeF w 1, floatFun (Mods.ofNat (fMods w)) fopNeg)
  | .fsgn w => some (hdF w, ({ fspec32 with maxOp := 2 } : FSpec).shapeF w 2, floatFun (Mods.ofNat (fMods w)) fopSgn)
  | .fcmp w => some (hdF w, ({ fspec32 with maxOp := 7, toP := true } : FSpec).shapeF w 2, floatFun (Mods.ofNat (fMods w)) fopCmp)
  | .fcmpI w => some (hdI w, ({ fspec32 with maxOp := 7, toP := true } : FSpec).shapeI w 0xD, floatFun (Mods.ofI w 0xD) fopCmp)
  | .fclass w => some (hdF w, fspec32.shapeF w 1, floatFun (Mods.ofNat (fMods w)) fopClass)
  | .frnd w => some (hdF w, ({ fspec32 with maxRnd := 3 } : FSpec).shapeF w 1, floatFun (Mods.ofNat (fMods w)) fopRnd)
  | .frcp w => some (hdF w, ({ fspec32 with lat := 12 } : FSpec).shapeF w 1, floatFun (Mods.ofNat (fMods w)) fopRcp)
  | .frsq w => some (hdF w, ({ fspec32 with lat := 12 } : FSpec).shapeF w 1, floatFun (Mods.ofNat (fMods w)) fopRsq)
  | .fsqrt w => some (hdF w, ({ fspec32 with lat := 15, maxRnd := 3 } : FSpec).shapeF w 1, floatFun (Mods.ofNat (fMods w)) fopSqrt)
  | .fexp2 w => some (hdF w, ({ fspec32 with lat := 12 } : FSpec).shapeF w 1, floatFun (Mods.ofNat (fMods w)) fopExp2)
  | .flog2 w => some (hdF w, ({ fspec32 with lat := 12 } : FSpec).shapeF w 1, floatFun (Mods.ofNat (fMods w)) fopLog2)
  | .fsin w => some (hdF w, ({ fspec32 with lat := 15 } : FSpec).shapeF w 1, floatFun (Mods.ofNat (fMods w)) fopSin)
  | .fcos w => some (hdF w, ({ fspec32 with lat := 15 } : FSpec).shapeF w 1, floatFun (Mods.ofNat (fMods w)) fopCos)
  | .dadd w => some (hdF w, dspecArith.shapeF w 2, floatFun (Mods.ofNat (fMods w)) fopAdd)
  | .daddI w => some (hdI w, dspecArith.shapeI w 0xC, floatFun (Mods.ofI w 0xC) fopAdd)
  | .dsub w => some (hdF w, dspecArith.shapeF w 2, floatFun (Mods.ofNat (fMods w)) fopSub)
  | .dsubI w => some (hdI w, dspecArith.shapeI w 0xC, floatFun (Mods.ofI w 0xC) fopSub)
  | .dmul w => some (hdF w, dspecArith.shapeF w 2, floatFun (Mods.ofNat (fMods w)) fopMul)
  | .dmulI w => some (hdI w, dspecArith.shapeI w 0xC, floatFun (Mods.ofI w 0xC) fopMul)
  | .dfma w => some (hdF w, dspecArith.shapeF w 3, floatFun (Mods.ofNat (fMods w)) fopFma)
  | .dmin w => some (hdF w, dspec.shapeF w 2, floatFun (Mods.ofNat (fMods w)) fopMin)
  | .dminI w => some (hdI w, dspec.shapeI w 0xC, floatFun (Mods.ofI w 0xC) fopMin)
  | .dmax w => some (hdF w, dspec.shapeF w 2, floatFun (Mods.ofNat (fMods w)) fopMax)
  | .dmaxI w => some (hdI w, dspec.shapeI w 0xC, floatFun (Mods.ofI w 0xC) fopMax)
  | .dabs w => some (hdF w, dspec.shapeF w 1, floatFun (Mods.ofNat (fMods w)) fopAbs)
  | .dneg w => some (hdF w, dspec.shapeF w 1, floatFun (Mods.ofNat (fMods w)) fopNeg)
  | .dcmp w => some (hdF w, ({ dspec with maxOp := 7, toP := true } : FSpec).shapeF w 2, floatFun (Mods.ofNat (fMods w)) fopCmp)
  | .dcmpI w => some (hdI w, ({ dspec with maxOp := 7, toP := true } : FSpec).shapeI w 0xC, floatFun (Mods.ofI w 0xC) fopCmp)
  | .dclass w => some (hdF w, ({ dspec with narrow := true } : FSpec).shapeF w 1, floatFun (Mods.ofNat (fMods w)) fopClass)
  | .drnd w => some (hdF w, dspecArith.shapeF w 1, floatFun (Mods.ofNat (fMods w)) fopRnd)
  | .cvt _ => none
  | .cvtf _ => none
  | .pack _ => none
  | .unpack _ => none
  | .qscale _ => none
  | .dqscale _ => none
  | .fldexp w => some (hdF w, fldexpShape w, ldexpFun (Mods.ofNat (fMods w)) fopLdexp)
  | .ffrexp w => some (hdF w, ffrexpShape w, ldexpFun (Mods.ofNat (fMods w)) fopFrexp)
  | .xlane _ => none
  | .vote _ => none
  | .ballot _ => none
  | .scan _ => none
  | .segscan _ => none
  | .redux _ => none
  | .matchM _ => none
  | .elect _ => none
  | .active _ => none
  | .bra _ => none
  | .brx _ => none
  | .call _ => none
  | .calli _ => none
  | .ret _ => none
  | .tie _ _ => none
  | .join _ => none
  | .exit _ => none
  | .yield _ => none
  | .loopq _ _ => none
  | .nop _ => none
  | .pairedWord _ => none
  | .reservedEncoding _ _ => none
  | .ldg _ _ => none
  | .stg _ _ => none
  | .ldl _ _ => none
  | .stl _ _ => none
  | .lds _ _ => none
  | .sts _ _ => none
  | .ldw _ _ => none
  | .post _ _ => none
  | .atom _ _ => none
  | .atomcas _ _ => none
  | .red _ _ => none
  | .home _ _ => none
  | .migrG _ _ => none
  | .migrL _ _ => none
  | .qcfg _ => none
  | .qidx _ => none
  | .qld _ => none
  | .qclose _ => none
  | .fence _ => none
  | .fenceX _ => none
  | .mma _ => none
  | .mmaBs _ _ => none
  | .mmaSp _ _ => none
  | .bmc _ => none
  | .bmx _ => none
  | .kset _ => none
  | .ktst _ => none
  | .mpart _ => none
  | .smerge _ _ => none
  | .cp _ => none
  | .cpm _ => none
  | .cpcv _ => none
  | .cpw _ => none
  | .capr _ => none
  | .capw _ => none
  | .bcallT _ _ => none
  | .bcallN _ _ => none
  | .bwait _ => none
  | .barc _ => none
  | .barw _ => none
  | .barx _ => none
  | .mbar _ => none
  | .gbara _ => none
  | .gbarw _ => none
  | .qpush _ => none
  | .qpop _ => none
  | .qtryPush _ => none
  | .qtryPop _ => none
  | .trap _ => none
  | .trapI _ => none
  | .tfence _ => none
  | .tret _ => none
  | .movsRead _ => none
  | .movsWrite _ => none
  | .movspRead _ => none
  | .movspWrite _ => none
  | .segldL _ => none
  | .segldP _ => none
  | .tlbf _ => none
  | .tlbiVa _ => none
  | .tlbiCtx _ => none
  | .tlbiAll _ => none
  | .dlsetRel _ => none
  | .dlsetI _ => none
  | .dlsetAbs _ => none
  | .dlsetDef _ => none
  | .clkrd _ => none
  | .halt _ => none
  | .dstep _ => none
  | .ctxsave _ _ => none
  | .ctxload _ _ => none
  | .variableLatencyWrite _ _ => none
  | .instructionFetch _ => none
  | .continuationDeparture _ => none
  | .imageLanding _ => none
  | .holdTransfer _ => none
  | .imageAdmission _ _ => none
  | .tieNotice _ => none
  | .exitNotice _ => none
  | .tieExpiry _ => none
  | .postedOperation _ => none
  | .postedAcknowledgement _ => none
  | .ldwWake _ => none
  | .ldwTimeout _ => none
  | .fenceTimeout _ => none
  | .streamFetch _ _ => none
  | .streamElementArrival _ _ => none
  | .barrierArrival _ => none
  | .barrierCompletionNotice _ => none
  | .barrierWaitTimeout _ => none
  | .queueRetry _ => none
  | .queueWaitTimeout _ => none
  | .sliceAccept _ => none
  | .sliceWaitTimeout _ => none
  | .cpwTimeout _ => none
  | .capstanAccept _ => none
  | .caprTimeout _ => none
  | .capstanReduction _ => none
  | .capwWake _ => none
  | .capwTimeout _ => none
  | .jibCall _ => none
  | .jibReply _ => none
  | .bcallParkExpiry _ => none
  | .bwaitTimeout _ => none
  | .implicitWaitExpiry _ => none
  | .walkStart _ => none
  | .walkEnd _ => none
  | .crewPlacement _ _ => none
  | .launchComplete _ => none
  | .cmdNop _ => none
  | .launch _ => none
  | .wait _ => none
  | .waitReread _ => none
  | .stallRecord _ => none
  | .signal _ => none
  | .preemptComplete _ => none
  | .restoreComplete _ => none
  | .barrierWithdrawal _ => none
  | .barrierExit _ => none
  | .gatheringExpiry _ _ => none
  | .tackleTransfer _ _ _ => none
  | .escalationIncrement _ => none
  | .escalationReset _ => none
  | .retry _ _ _ => none
  | .fail _ _ _ => none
  | .doorbell _ => none
  | .drvfeatWrite _ => none
  | .journalControlWrite _ _ => none
  | .registerWrite _ _ => none
  | .ctxreg _ => none
  | .qreg _ => none
  | .qrestart _ => none
  | .preempt _ => none
  | .pdlExpiry _ => none
  | .restore _ => none
  | .resume _ => none
  | .debuggo _ => none
  | .destroy _ => none
  | .ftag _ => none
  | .member _ => none
  | .membershipTimeout _ => none
  | .ckpt _ => none
  | .ckload _ => none
  | .attest _ => none
  | .rdmaWrite _ _ _ _ => none
  | .rdmaRead _ _ _ _ => none
  | .compareAndSwap _ _ _ _ _ => none
  | .fetchAndAdd _ _ _ _ => none
  | .invalidRequest _ => none
  | .cnp _ => none
  | .ecnCe _ => none
  | .riluaganFlit _ => none
  | .shroudPortFailure _ => none
  | .row _ _ => none
  | .bank _ _ => none
  | .fenceStation _ _ => none
  | .fenceMast _ => none
  | .repairComplete _ => none
  | .scrub _ _ => none
  | .softError _ _ => none
  | .tierReady _ _ => none
  | .tierReadyTimeout _ _ => none
  | .clockScaling _ _ => none
  | .thermalThrottle _ => none
  | .thermalHold _ => none
  | .thermalTrip _ => none
  | .shroudPath _ => none
  | .qpAbandoned _ => none
  | .thermalHoldRelease _ => none
  | .crewAdmission => none
  | .gangStart => none
  | .gangAgeLimit => none
  | .ckptImageWrite => none
  | .eventWrite => none
  | .replayDivergence => none
  | .powerOn => none
  | .powerDown => none

/-! ## Issue -/

/-- The issue set that issues, its sub-group and its group. -/
def issuer (s : State) : Option (Issue × SubGroup × Group) :=
  match s.issuing with
  | none => none
  | some is =>
    match SMap.get? s.subs is.sid with
    | none => none
    | some sg =>
      match SMap.get? s.groups sg.gid with
      | none => none
      | some g => some (is, sg, g)

/-- The active mask of an issue set under a guard, as its lanes read it (R67). -/
def guarded (sg : SubGroup) (now : Nat) (set : Mask) (gneg : Bool) (guard : BitVec 3) : Mask :=
  if guard = 0 then (if gneg then 0 else set)
  else maskOf ((lanesOf set).filter (fun l => (sg.read now l (.p l guard.toNat) != 0) != gneg))

/-- The run of a word by the issue set that issues. -/
def run (s : State) (h : Hd) : Option Run :=
  (issuer s).map (fun e =>
    let now := (s.stn e.2.1.mast e.2.1.stn).cycles
    { sid := e.1.sid, gid := e.2.1.gid, sg := e.2.1, g := e.2.2, set := e.1.lanes,
      act := guarded e.2.1 now e.1.lanes h.gneg h.guard, pc := e.1.pc, len := h.len, stall := h.stall,
      iw := e.1.iword, xw := e.1.xword, now := now })

/-- The guard registers of an issue set. -/
def guardRegs (h : Hd) (r : Run) : List Reg := if h.guard = 0 then [] else (lanesOf r.set).map (fun l => Reg.p l h.guard.toNat)

/-- No lane of the issue set is of a returned image, none has been released from a tie point unless the word is JOIN, and
no outstanding result holds the guard: the word reads its guard (R107, R226, R73). -/
def reaches (s : State) (h : Hd) (g : Sig) (r : Run) : Bool :=
  decide (r.set &&& r.sg.laneMask (fun l => l.refuse.isSome) = 0) &&
  (g.join || decide (r.set &&& r.sg.laneMask (fun l => l.rel.isSome) = 0)) &&
  decide (s.heldBy r (guardRegs h r) [] = [])

/-- The registers that a word reads in its active lanes. -/
def readRegs (g : Sig) (r : Run) : List Reg := posRegs (g.pos.filter (fun p => p.rd) ++ g.reads) (lanesOf r.act) ++ g.rds

/-- The registers that a word writes in its active lanes. -/
def writeRegs (g : Sig) (r : Run) : List Reg := posRegs (g.pos.filter (fun p => p.wr)) (lanesOf r.act) ++ g.wrs

/-- The active lanes that read a register whose producer's stall counts are too short (R72). -/
def shortLanes (h : Hd) (g : Sig) (r : Run) : Mask :=
  maskOf ((lanesOf r.act).filter (fun l =>
    (if h.guard = 0 then [] else [Reg.p l h.guard.toNat]).any (r.sg.undersized l) ||
    (g.pos.filter (fun p => p.rd) ++ g.reads).any (fun p => (p.regs l).any (r.sg.undersized l)) || g.rds.any (r.sg.undersized l)))

/-- The word with this head and legality has an active lane, passes every check of R75, and is held by no outstanding result
(R73) and by no stall count (R72). -/
def passes (s : State) (h : Hd) (g : Sig) (r : Run) : Bool :=
  reaches s h g r && decide (r.act ≠ 0) && (g.judge r.sg r.g).isNone &&
  decide (s.heldBy r (readRegs g r) (writeRegs g r) = []) && !(r.sg.chk && decide (shortLanes h g r ≠ 0))

/-- THE WORD ISSUES: the run with which a program word takes effect in a state; none when it does not. -/
def issues (s : State) (i : Instr) : Option Run :=
  match form s i with
  | none => none
  | some (h, g) => (run s h).filter (passes s h g)

/-! ## P words -/

/-- The lanes in which a half's guard is true (R67); a half has no negated guard (R62). -/
def halfMask (r : Run) (h : Half) : Mask :=
  if h.guard = 0 then r.set else maskOf ((lanesOf r.set).filter (fun l => r.sg.read r.now l (.p l h.guard.toNat) != 0))

/-- The guard register of a half in a lane. -/
def halfGuard (h : Half) (l : Nat) : List Reg := if h.guard = 0 then [] else [Reg.p l h.guard.toNat]

/-- The registers that a half reads in a lane, its guard among them. -/
def halfReads (h : Half) (l : Nat) : List Reg := halfGuard h l ++ ((halfSig h).pos.filter (fun p => p.rd)).flatMap (fun p => p.regs l)

/-- The registers that a half writes in a lane. -/
def halfWrites (h : Half) (l : Nat) : List Reg := ((halfSig h).pos.filter (fun p => p.wr)).flatMap (fun p => p.regs l)

/-- The run of a P word: its active mask is that of both halves. -/
def pairRun (s : State) (w : PWord) : Option Run :=
  (run s { gneg := false, guard := 0, stall := w.stall.toNat, len := 8 }).map (fun r => { r with act := halfMask r w.ha ||| halfMask r w.hb })

/-- A P word takes effect: no lane is refused or waits to JOIN, some lane is active, each half with an active lane passes the
checks, no bank is read too often (R64), and nothing holds the word. -/
def pairIssues (s : State) (w : PWord) : Option Run :=
  (pairRun s w).filter (fun r =>
    let ma := halfMask r w.ha
    let mb := halfMask r w.hb
    decide (r.set &&& r.sg.laneMask (fun l => l.refuse.isSome) = 0) &&
    decide (r.set &&& r.sg.laneMask (fun l => l.rel.isSome) = 0) &&
    decide (s.heldBy r ((lanesOf r.set).flatMap (fun l => halfGuard w.ha l ++ halfGuard w.hb l)) [] = []) &&
    decide (r.act ≠ 0) &&
    (decide (ma = 0) || (halfJudge w.ha r.sg r.g).isNone) && (decide (mb = 0) || (halfJudge w.hb r.sg r.g).isNone) && !overBank w &&
    decide (s.heldBy r ((lanesOf ma).flatMap (halfReads w.ha) ++ (lanesOf mb).flatMap (halfReads w.hb))
      ((lanesOf ma).flatMap (halfWrites w.ha) ++ (lanesOf mb).flatMap (halfWrites w.hb)) = []) &&
    !(r.sg.chk && decide (maskOf ((lanesOf ma).filter (fun l => (halfReads w.ha l).any (r.sg.undersized l)) ++
      (lanesOf mb).filter (fun l => (halfReads w.hb l).any (r.sg.undersized l))) ≠ 0)))

/-! ## What a completed word leaves -/

/-- Completing the word at these PCs takes no debug step (R206) and brings no lane of the sub-group to its tie point (R31). -/
def quiet (r : Run) (pc : Nat → Word) : Bool :=
  r.sg.lanes.all (fun e =>
    if r.set.getLsbD e.1 then !e.2.step && (decide (e.2.meet = 0) || decide (pc e.1 ≠ e.2.meet))
    else !(decide (e.2.st = .ready) && e.2.rel.isNone && e.2.refuse.isNone && decide (e.2.meet ≠ 0) && decide (e.2.pc = e.2.meet)))

/-- The PC after a word in a lane: the address after it (R58). -/
def nextPc (r : Run) (l : Nat) : Word := ((SMap.get? r.sg.lanes l).map (fun x => x.pc)).getD 0 + BitVec.ofNat 64 r.len

/-- A lane that has completed a word: its PC, its issue distance and the cycle before which it does not issue (R58, R59, R70). -/
def laneAfter (r : Run) (pc : Word) (x : Lane) : Lane :=
  { x with pc := pc, st := .ready, dist := x.dist + max r.stall 1, readyAt := r.now + max r.stall 1, since := r.now + max r.stall 1,
           starve := 0, yield := false, rel := none, refuse := none }

/-- The lanes of the issue set have gone to their PCs; every other lane is as before. -/
def Moved (r : Run) (u : SubGroup) (pc : Nat → Word) : Prop :=
  ∀ l, SMap.get? u.lanes l = (SMap.get? r.sg.lanes l).map (fun x => if r.set.getLsbD l then laneAfter r (pc l) x else x)

/-- A register of the machine: a lane has 64 vector registers and 8 predicates, a group 32 scalars, 8 tile predicates and 4
deadlines (R20, R25 to R27, R30). Special registers are told by name (Kept). -/
def RegOk : Reg → Prop
  | .v _ n => n < 64
  | .p _ n => n < 8
  | .s n => n < 32
  | .k n => n < 8
  | .d n => n < 4
  | .x _ => False

/-- What a register holds after a word is written to it: its width, and 1 for p0 and k0 (R26, R27). -/
def held : Reg → Word → Word
  | .v _ _, x => (x.setWidth 32).setWidth 64
  | .p _ n, x => if n = 0 then 1 else (x.setWidth 1).setWidth 64
  | .s _, x => x
  | .k n, x => if n = 0 then 1 else if x.getLsbD 0 then 1 else 0
  | .d _, x => x
  | .x _, x => x

/-- The value of a register after some writes, made in order. -/
def after (a : SubGroup) (ws : List (Reg × Word)) (x : Reg) : Word :=
  match ws.reverse.find? (fun w => decide (w.1 = x)) with
  | some w => held x w.2
  | none => a.reg x

/-- Every register holds what some writes leave in it; the others are unchanged. -/
def RegsAfter (a b : SubGroup) (ws : List (Reg × Word)) : Prop := ∀ x, RegOk x → b.reg x = after a ws x

/-- The special registers that a computing word never writes, and where the sub-group stands. -/
def Kept (a b : SubGroup) : Prop :=
  b.gid = a.gid ∧ b.mast = a.mast ∧ b.stn = a.stn ∧ b.gclk = a.gclk ∧ b.dldef = a.dldef ∧ b.rejoin = a.rejoin ∧
  b.rlive = a.rlive ∧ b.tprog = a.tprog ∧ b.tframe = a.tframe ∧ b.depth = a.depth ∧ b.atrap = a.atrap ∧ b.ctl = a.ctl ∧
  b.pseg = a.pseg ∧ b.armed = a.armed

/-- The state changes in one sub-group only: all of memory, every other group and every device register is unchanged. -/
def OnlySub (s t : State) (sid : Nat) (u : SubGroup) : Prop := t = { s with subs := SMap.put s.subs sid u, issuing := none }

/-- A group with one more outstanding result (R73). -/
def withOutst (g : Group) (id lane : Nat) (path : Mask) (ws : List (Reg × Option Word)) : Group :=
  { g with outst := g.outst ++ [{ id := id, lane := lane, path := path, writes := ws }] }

/-- The state changes in one sub-group, and the results go out as one outstanding result of its group, unless every write of
them is discarded (R71, R73). -/
def SentOut (s t : State) (r : Run) (u : SubGroup) (ws : List (Reg × Word)) : Prop :=
  if sentWrites ws = [] then OnlySub s t r.sid u
  else t = { s with
    subs := SMap.put s.subs r.sid u
    groups := SMap.upd s.groups r.gid (fun g => withOutst g s.nextId r.low r.set ((sentWrites ws).map (fun w => (w.1, some w.2))))
    nextId := s.nextId + 1
    issuing := none }

/-- The results of a computing word: what its operation gives in each lane in which it is performed (R84, R85). -/
def results (h : Shape) (f : List Nat → Nat × Flags) (r : Run) : List (Nat × Nat × Flags) :=
  (r.workLanes h.dest).map (fun l => (l, f (h.args.map (fun a => a.val r l))))

/-- The register writes of a computing word. -/
def resultWrites (h : Shape) (f : List Nat → Nat × Flags) (r : Run) : List (Reg × Word) :=
  (results h f r).flatMap (fun e => dstWrites h.dest h.dwide e.1 (if isS h.dest then h.ext e.2.1 else e.2.1))

/-- The flags that a computing word raises (R56). -/
def resultFlags (h : Shape) (f : List Nat → Nat × Flags) (r : Run) : Flags := flagsOf ((results h f r).map (fun e => e.2.2))

/-- A word has completed at these PCs: its register writes stand, the sticky flags are those raised before and by it (R56), and
nothing else of the sub-group has changed. -/
def Completed (r : Run) (u : SubGroup) (pc : Nat → Word) (ws : List (Reg × Word)) (fl : Flags) : Prop :=
  Moved r u pc ∧ Kept r.sg u ∧ RegsAfter r.sg u ws ∧ u.aflags = r.sg.aflags ||| (fl &&& 0x3F) ∧ u.seed = r.sg.seed

/-- A word that waits has found what it waits for: its active lanes have completed it at these PCs with these register writes, and
the rest of its issue set stands by until the turn is over (log entry 17). -/
def Passed (r : Run) (u : SubGroup) (pc : Nat → Word) (ws : List (Reg × Word)) : Prop :=
  (∀ l, SMap.get? u.lanes l = (SMap.get? r.sg.lanes l).map (fun x =>
    if r.act.getLsbD l then laneAfter r (pc l) x else if r.set.getLsbD l then { x with st := .waiting } else x)) ∧
  Kept r.sg u ∧ RegsAfter r.sg u ws ∧ u.aflags = r.sg.aflags ∧ u.seed = r.sg.seed

/-- Beside the wait that began with this identifier and has ended, the waits are as before, with one more for lanes that stand by. -/
def StoodBy (s t : State) (r : Run) (wid : Nat) : Prop :=
  ∀ k, k ≠ wid → SMap.get? t.waits k =
    if k = wid + 1 ∧ r.act ≠ r.set then some (r.waitRec (r.set &&& ~~~r.act) (.standBy [wid]) none none .zero) else SMap.get? s.waits k

/-- What a computing word gives for its source values: the result and the flags that it raises. -/
def computes (i : Instr) (xs : List Nat) : Option (Nat × Flags) := (aluForm i).map (fun e => e.2.2 xs)

/-- A result of n bits, by its bits, with no flag. -/
def givesBits (o : Option (Nat × Flags)) (n : Nat) (f : Nat → Bool) : Prop :=
  ∃ y : BitVec n, o = some (y.toNat, 0) ∧ ∀ i < n, y.getLsbD i = f i

/-- The sign, exponent and fraction fields of an encoding (R42). -/
def signOf (t : FFmt) (x : Nat) : Bool := decide (x / 2 ^ (t.e + t.f) % 2 = 1)
def expOf (t : FFmt) (x : Nat) : Nat := x / 2 ^ t.f % 2 ^ t.e
def fracOf (t : FFmt) (x : Nat) : Nat := x % 2 ^ t.f

/-- A NaN, and a signalling NaN: its highest fraction bit is 0 (R51). -/
def isNanBits (t : FFmt) (x : Nat) : Bool := decide (expOf t x = 2 ^ t.e - 1) && decide (fracOf t x ≠ 0)
def isSigBits (t : FFmt) (x : Nat) : Bool := isNanBits t x && decide (fracOf t x < 2 ^ (t.f - 1))

/-- The order of encodings that are not NaN, with -0 below +0 (R92). -/
def orderOf (t : FFmt) (x : Nat) : Int := let m : Int := ((x % 2 ^ (t.e + t.f) : Nat) : Int); if signOf t x then -m - 1 else m

/-- The lesser or the greater of two operands, with its flags (R92). -/
def lesserOf (t : FFmt) (greater : Bool) (a b : Nat) : Nat × Flags :=
  (if isNanBits t a && isNanBits t b then (2 ^ t.e - 1) * 2 ^ t.f + 2 ^ (t.f - 1)
   else if isNanBits t a then b else if isNanBits t b then a
   else if greater then (if orderOf t a < orderOf t b then b else a) else (if orderOf t b < orderOf t a then b else a),
   if isSigBits t a || isSigBits t b then 1 else 0)

/-- The class of an encoding (R93). -/
def classOf (t : FFmt) (x : Nat) : Nat :=
  if isSigBits t x then 0 else if isNanBits t x then 1
  else if expOf t x = 2 ^ t.e - 1 then (if signOf t x then 2 else 9)
  else if expOf t x = 0 then (if fracOf t x = 0 then (if signOf t x then 5 else 6) else if signOf t x then 4 else 7)
  else if signOf t x then 3 else 8

/-- The conversions of R95 to R99: the word, the writes and flags of a lane, and the lanes in which it is performed. -/
def convForm : Instr → Option (FWord × (Run → Nat → List (Reg × Word) × Flags) × (Run → List Nat))
  | .cvt w => some (w, cvtLane w, fun r => r.workLanes w.dest)
  | .cvtf w => some (w, cvtfLane w, fun r => r.workLanes w.dest)
  | .pack w => some (w, packLane w, fun r => r.workLanes w.dest)
  | .unpack w => some (w, unpackLane w, fun r => lanesOf r.act)
  | .qscale w => some (w, qscaleLane w, fun r => lanesOf r.act)
  | .dqscale w => some (w, dqscaleLane w, fun r => lanesOf r.act)
  | _ => none

/-- The words that combine the lanes of a sub-group (R101 to R103): their writes and flags. -/
def groupForm : Instr → Option (Run → List (Reg × Word) × Flags)
  | .xlane w => some (fun r => (xlaneOut w r, 0))
  | .vote w => some (fun r => (voteOut w r, 0))
  | .ballot w => some (fun r => (ballotOut w r, 0))
  | .active w => some (fun r => (activeOut w r, 0))
  | .elect w => some (fun r => (electOut w r, 0))
  | .matchM w => some (fun r => (matchOut w r, 0))
  | .scan w => some (scanOut w)
  | .segscan w => some (segscanOut w)
  | .redux w => some (reduxOut w)
  | _ => none

/-- The writes of one half of a P word in the lanes where its guard is true (R63). -/
def halfResults (r : Run) (h : Half) : List (Reg × Word) :=
  (halfOuts r h (halfMask r h)).flatMap (fun o => dstWrites h.dest false o.1 o.2.1)

/-- The flags that a half raises. -/
def halfFlags (r : Run) (h : Half) : Flags := flagsOf ((halfOuts r h (halfMask r h)).map (fun o => o.2.2))

/-- The PCs after a branch: the target in each active lane, the next word in the others (R104). -/
def branchPc (r : Run) (target : Nat → Word) (l : Nat) : Word := if r.act.getLsbD l then target l else r.pc + BitVec.ofNat 64 r.len

/-- The signed count of words that an I word holds: its 30-bit immediate, or with an X word the 64-bit literal (R60). -/
def wordCount (w : IWord) : Int :=
  match w.x with
  | none => w.imm.toInt
  | some x => BitVec.toInt (x.extractLsb' 0 34 ++ w.imm : BitVec 64)

/-- The target that a register operand holds for a lane. -/
def regTarget (r : Run) (o : Operand) (l : Nat) : Word := BitVec.ofNat 64 (r.val true o l)

/-- The sub-group after a TIE of some lanes (R107). -/
def tiedSub (sg : SubGroup) (lanes : Mask) (meet : Word) (place : BitVec 32) (live : BitVec 8) : SubGroup :=
  { sg with lanes := sg.lanes.map (fun e => if lanes.getLsbD e.1 then (e.1, { e.2 with meet := meet }) else e), rejoin := place, rlive := live }

/-! ## Accesses to memory -/

/-- Every lane's access passes the checks of R118, has its home here (R120) and its place there found (R122). -/
def LocalAccess (s : State) (r : Run) (sp : Space) (size : Nat) (acc : BitVec 2) (addr : Nat → Word) (cells : Nat → Nat) : Prop :=
  s.memCheck r sp size true true addr = none ∧
  ∀ l ∈ lanesOf r.act, s.laneAt r sp (addr l) acc = .cell (cells l) ∧
    ∀ h, s.laneHome r sp (addr l) = some h → isHere r.sg h = true

/-- No byte that the lanes access lies in a sector with a symbol error or one that reads as uncorrectable (R326, R327). -/
def Sound (s : State) (lanes : List Nat) (cells : Nat → Nat) (size : Nat) : Prop :=
  ∀ c, c ∈ s.bad ∨ c ∈ s.soft → ∀ l ∈ lanes, c + 32 ≤ cells l ∨ cells l + size ≤ c

/-- A cell lies outside the bytes that the lanes access. -/
def Outside (lanes : List Nat) (cells : Nat → Nat) (size a : Nat) : Prop := ∀ l ∈ lanes, a < cells l ∨ cells l + size ≤ a

/-- The plain loads with their spaces (R120, R123). -/
def loadForm : Instr → Option (FWord × Option XWord × Space)
  | .ldg w x => some (w, x, .glob)
  | .ldl w x => some (w, x, .loc)
  | .lds w x => some (w, x, .spill)
  | _ => none

/-- The plain stores with their spaces (R120, R123). -/
def storeForm : Instr → Option (FWord × Option XWord × Space)
  | .stg w x => some (w, x, .glob)
  | .stl w x => some (w, x, .loc)
  | .sts w x => some (w, x, .spill)
  | _ => none

/-- The words that send what they read out: a load's writes (R123, R124). -/
def loadWrites (s : State) (r : Run) (w : FWord) (cells : Nat → Nat) : List (Reg × Word) :=
  if isS w.dest then fillWrites w.dest (szOf w) 0 (s.num (cells r.low) (szBytes (szOf w)))
  else (lanesOf r.act).flatMap (fun l => fillWrites w.dest (szOf w) l (s.num (cells l) (szBytes (szOf w))))

/-- The atomic words: operation, comparison or operand, and swap value in each lane (R126 to R128). -/
def atomForm : Instr → Option (FWord × Option XWord × ThreadOp × (Run → Nat → Nat) × (Run → Nat → Nat))
  | .atom w x => some (w, x, .atom (fieldOf (x.getD 0) 46 4) (fieldOf (x.getD 0) 50 3), fun r l => r.val (atomWide (fieldOf (x.getD 0) 50 3)) w.c l, fun _ _ => 0)
  | .atomcas w x => some (w, x, .cas (decide (szOf w = 5)), fun r l => r.val (decide (szOf w = 5)) w.c l,
      fun r l => r.val (decide (szOf w = 5)) (xaOf (x.getD 0)) l)
  | _ => none

/-- The lanes' accesses with their places, in ascending lane order. -/
def laneItems (r : Run) (addr : Nat → Word) (data swap : Nat → Nat) (cells : Nat → Nat) : List CellAcc :=
  (lanesOf r.act).map (fun l => ({ lane := l, addr := addr l, data := data l, swap := swap l }, cells l))

/-- The writes of a status to its operand: a scalar register takes it, 0x7C discards it (R73). -/
def statusWrites (o : Operand) (x : Nat) : List (Reg × Word) := if isS o then dstWrites o true 0 x else []

/-- The scalars of a descriptor that a word names by its first register. -/
def descOf (r : Run) (o : Operand) (i : Nat) : Word :=
  match o with
  | .s n => r.reg r.low (.s (n.toNat + i))
  | _ => 0

/-- A descriptor that QCFG accepts (R134): no empty or too large walk, an element size up to .B64, reserved bits 0, and base and
strides multiples of the element size. -/
def GoodWalk (d : Nat → Word) : Prop :=
  let n := fun i => fieldOf (d (1 + i / 2)) (32 * (i % 2)) 32
  let esz := fieldOf (d 2) 44 3
  n 0 ≠ 0 ∧ n 1 ≠ 0 ∧ n 2 ≠ 0 ∧ n 0 * n 1 * n 2 < 2 ^ 32 ∧ esz ≤ 5 ∧ fieldOf (d 2) 47 17 = 0 ∧
  (d 0).toNat % szBytes esz = 0 ∧ (d 3).toNat % szBytes esz = 0 ∧ (d 4).toNat % szBytes esz = 0 ∧ (d 5).toNat % szBytes esz = 0

/-- What QLD delivers to the active lane of a rank: the element at that place of its delivery, if there is one (R136). -/
def fed (q : Stream) (n j : Nat) : Option StreamEl := if j < q.take n then q.got.find? (fun x => decide (x.i = q.pos + j)) else none

/-- The writes of QLD: element and 1 where an element is delivered, 0 and 0 where none is (R136). -/
def feedWrites (r : Run) (w : FWord) (q : Stream) : List (Reg × Word) :=
  ((lanesOf r.act).zip (List.range (lanesOf r.act).length)).flatMap (fun e =>
    match fed q (lanesOf r.act).length e.2 with
    | some x => fillWrites w.dest (szOf w) e.1 x.val.toNat ++ dstWrites w.b false e.1 1
    | none => fillWrites w.dest (szOf w) e.1 0 ++ dstWrites w.b false e.1 0)

/-- A stream after a delivery of k elements: its place, and which loops have come to their end (R113, R136). -/
def Delivered (q q' : Stream) (k : Nat) : Prop :=
  if k = 0 then q' = q
  else q' = { q with pos := q.pos + k, e := q'.e, got := q.got.filter (fun x => decide (x.i ≥ q.pos + k)) } ∧
    (q'.e.getLsbD 0 = true ↔ (q.pos + k) % q.n0 = 0) ∧ (q'.e.getLsbD 1 = true ↔ (q.pos + k) % (q.n0 * q.n1) = 0) ∧
    (q'.e.getLsbD 2 = true ↔ q.pos + k = q.total)

/-- The paths and the ordered path of a fence (R140, R141). -/
def fenceForm : Instr → Option (FWord × BitVec 6 × Option Nat)
  | .fence w => some (w, w.hi.setWidth 6, none)
  | .fenceX w => some (w, BitVec.ofNat 6 (2 ^ (w.hi.toNat / 8 % 8)), some (w.hi.toNat % 8))
  | _ => none

/-! ## Collective words -/

/-- The words issued by a whole group together, in a state (R142): the tile predicate that each names, whether the group's width
is one that it takes, and where its data pass its own checks, the state, writes and flags that it goes on with. -/
def matrixForm (s : State) : Instr → Option (Nat × (Run → Bool) × (Run → Option (State × List (Reg × Word) × Flags)))
  | .mma w => some ((MWord.ofF w).kp, fun r => mWidthOk (mShapeOf (MWord.ofF w)) r.g,
      fun r => some (r.takeArray s (denseCycles (MWord.ofF w)), mmaOut s.issuingWidth w r))
  | .mmaBs w (some x) => some ((MWord.ofF w).kp, fun r => mWidthOk (mShapeOf (MWord.ofF w)) r.g,
      fun r => some (r.takeArray s (denseCycles (MWord.ofF w)), mmaBsOut s.issuingWidth w x r))
  | .bmc w => some ((TileMods.ofF w).kp, fun _ => true, fun r =>
      some (s, (bmcOut s.issuingWidth w r).1 ++ dstWrites w.c true 0 (bmcOut s.issuingWidth w r).2, 0))
  | .bmx w => some ((TileMods.ofF w).kp, fun _ => true, fun r => some (s, bmxOut s.issuingWidth w r, 0))
  | .mpart w => some (fMods w / 2 ^ 13, fun _ => true, fun r =>
      if mpartBad (mpartClash w r) w r || (mpartRegs w r != 0 && decide ((vNum w.a + mpartRegs w r - 1) / 8 ≥ r.g.wins)) then none
      else some (s, mpartOut w r, 0))
  | .smerge w (some x) => some (fMods w / 2 ^ 13, fun _ => true, fun r =>
      if (smergeLens w r).1 > r.g.width || (smergeLens w r).2 > r.g.width then none
      else some (s, (smergeOut w x r).1 ++ dstWrites (Operand.ofCode (x.extractLsb' 0 7)) true 0 (smergeOut w x r).2.1, (smergeOut w x r).2.2))
  | .kset w => if w.lo.toNat % 8 = 3 then some (0, fun _ => true, fun r => some (s, ksetOut (ksetPos s w) w r, 0)) else none
  | _ => none

/-! ## Control words -/

/-- Every target that a register operand holds is a multiple of 8 and, outside supervisor mode, has bit 63 clear (R104). -/
def goodTargets (r : Run) (o : Operand) : Bool :=
  (lanesOf r.act).all (fun l => decide ((regTarget r o l).toNat % 8 = 0) && (!(regTarget r o l).getLsbD 63 || r.sg.sv))

/-- Where a word that writes nothing takes its lanes (R60, R104, R105, R112, R113, R199); none for another word or a bad target. -/
def branchForm (r : Run) : Instr → Option (Nat → Word)
  | .nop _ => some (nextPc r)
  | .tfence _ => if r.g.outst = [] ∧ r.sg.aflags &&& r.sg.atrap &&& 0x3F = 0 then some (nextPc r) else none
  | .bra w => some (branchPc r (fun _ => r.pc + BitVec.ofInt 64 (8 * wordCount w)))
  | .brx w | .ret w => if goodTargets r w.a then some (branchPc r (regTarget r w.a)) else none
  | .loopq w (some x) => (streamOf r.g w.a).map (fun q =>
      if q.e.getLsbD (w.lo.toNat % 4) = w.lo.getLsbD 2 then branchPc r (fun _ => r.pc + BitVec.ofInt 64 (8 * (x.extractLsb' 0 30).toInt))
      else nextPc r)
  | _ => none

/-- Where a call takes its lanes, its destination and its link (R105, R106, R77); none where an entry address is privileged or its
window budget is above the group's. -/
def linkForm (r : Run) : Instr → Option ((Nat → Word) × Operand × Nat)
  | .call w => some (branchPc r (fun _ => r.pc + BitVec.ofInt 64 (8 * wordCount w)), w.dest, (r.pc + BitVec.ofNat 64 r.len).toNat)
  | .calli w =>
    if (lanesOf r.act).all (fun l => (decide (r.val true w.a l < 2 ^ 63) || r.sg.sv) && decide (r.val true w.a l % 8 + 1 ≤ r.g.wins)) then
      some (branchPc r (fun l => BitVec.ofNat 64 (r.val true w.a l / 8 * 8)), w.dest, (r.pc + 8).toNat)
    else none
  | _ => none

/-! ## Words that send out results, and words with an effect on other state -/

/-- The writes of a read of a special register (R201). -/
def specialWrites (s : State) (r : Run) (w : FWord) (clk : Word) : List (Reg × Word) :=
  (r.workLanes w.dest).flatMap (fun l => dstWrites w.dest (wideSel (selOf w)) l (if selOf w = 0x0B then clk else specialReg s r (selOf w) l).toNat)

/-- A word that sends out results and makes no other change but to the state named here: JOIN of lanes that no tie point released
(R109), HOME (R131), KSET and KTST (R155, R156), reads of special registers into vector registers and of %aflags (R201), QTRY
(R194), and BARW, GBARW and BARX with a token whose code is not 0 (R189, R190). -/
def laterForm (s : State) (r : Run) : Instr → Option (State × List (Reg × Word))
  | .join w => if ((SMap.get? r.sg.lanes r.low).bind (fun l => l.rel)).isNone then some (s, statusWrites w.dest 0) else none
  | .home w x => some (s, (r.workLanes w.dest).flatMap (fun l => dstWrites w.dest false l (s.homeWord r (memAddr w x r l))))
  | .kset w => if w.lo.toNat % 8 = 3 then none else some (s, ksetOut (ksetPos s w) w r)
  | .ktst w => some (s, ktstOut w r)
  | .movsRead w | .movspRead w =>
    if selOf w = 0x0F then (if r.g.outst = [] then some (s, specialWrites s r w 0) else none)
    else if isS w.dest then none
    else if selOf w = 0x0B then
      let c := s.clockRead r.sid r.act r.sg.gclk
      some (c.2, specialWrites s r w c.1)
    else some (s, specialWrites s r w 0)
  | .qtryPush w =>
    (match s.tryQueue r (queueKind r w false) with
     | .done t code got => some (t.noteQueue r (queueKind r w false), popWrites (queueKind r w false) got ++ dstWrites w.dest true 0 code)
     | .wait => some (s, dstWrites w.dest true 0 4))
  | .qtryPop w =>
    (match s.tryQueue r (queueKind r w true) with
     | .done t code got => some (t.noteQueue r (queueKind r w true), popWrites (queueKind r w true) got ++ dstWrites w.dest true 0 code)
     | .wait => some (s, dstWrites w.dest true 0 4))
  | .barw w | .gbarw w | .barx w => if fieldOf (r.sval w.b) 0 8 ≠ 0 then some (s, dstWrites w.dest true 0 7) else none
  | _ => none

/-- A sub-group after a write of a special register (R32 to R34, R201); none for a register that a user's MOVS may not write. -/
def specialWrite (sg : SubGroup) (sel : Nat) (priv : Bool) (x : Word) : Option SubGroup :=
  if sel = 0x0C then some { sg with dldef := x }
  else if sel = 0x0D then (if priv then some { sg with tprog := x.setWidth 32 } else none)
  else if sel = 0x0F then some { sg with aflags := sg.aflags &&& ~~~(x.setWidth 8) }
  else if sel = 0x10 then some { sg with atrap := (x &&& 0x3F).setWidth 8 }
  else if sel = 0x11 then some { sg with seed := x }
  else if sel = 0x12 then (if priv then some { sg with ctl := (sg.ctl &&& 4) ||| (x &&& 3) } else none)
  else some sg

/-- A word with an effect beside its results, where its own checks hold: the state after that effect, its sub-group after it, and
the registers written. MIGR at its home (R132) and collective words with their tile predicate 0 (R142) have none; MOVS and
MOVSP (R201), SEGLD (R202), TLBF and TLBI (R203), DLSET (R204), CLKRD (R205) and DSTEP (R206) have theirs. -/
def effectForm (s : State) (r : Run) : Instr → Option (State × SubGroup × List (Reg × Word))
  | .migrG w x =>
    if (s.memCheck r .glob 0 false true (memAddr w x r)).isNone &&
        (lanesOf r.act).all (fun l => ((s.laneHome r .glob (memAddr w x r l)).map (isHere r.sg)).getD false) then some (s, r.sg, []) else none
  | .migrL _ _ =>
    if (s.memCheck r .loc 0 false true (fun _ => 0)).isNone &&
        (lanesOf r.act).all (fun _ => ((s.laneHome r .loc 0).map (isHere r.sg)).getD false) then some (s, r.sg, []) else none
  | .mma w => if r.kp (MWord.ofF w).kp then none else some (s, r.sg, [])
  | .mmaBs w (some _) => if r.kp (MWord.ofF w).kp then none else some (s, r.sg, [])
  | .mmaSp w (some _) => if r.kp (MWord.ofF w).kp then none else some (s, { r.sg with tprog := 0 }, [])
  | .bmc w | .bmx w => if r.kp (TileMods.ofF w).kp then none else some (s, r.sg, [])
  | .mpart w => if r.kp (fMods w / 2 ^ 13) then none else some (s, r.sg, [])
  | .smerge w (some _) => if r.kp (fMods w / 2 ^ 13) then none else some (s, r.sg, [])
  | .movsRead w | .movspRead w =>
    if !isS w.dest || selOf w = 0x0F then none
    else if selOf w = 0x0B then
      let c := s.clockRead r.sid r.act r.sg.gclk
      some (c.2, r.sg, specialWrites s r w c.1)
    else some (s, r.sg, specialWrites s r w 0)
  | .movsWrite w =>
    if selOf w = 0x0F && !r.g.outst.isEmpty then none
    else (specialWrite r.sg (selOf w) false (BitVec.ofNat 64 (r.val (isS w.a) w.a r.low))).map (fun g => (s, g, []))
  | .movspWrite w =>
    if selOf w = 0x0F && !r.g.outst.isEmpty then none
    else (specialWrite r.sg (selOf w) true (BitVec.ofNat 64 (r.val (isS w.a) w.a r.low))).map (fun g => (s, g, []))
  | .segldL w =>
    let x := r.sval w.a
    if fieldOf x 21 43 ≠ 0 || fieldOf x 0 5 ≠ 0 then none
    else (match r.g.cid, s.crewOf r.g with
      | some cid, some c => if c.mast / 16 = s.dev then some (s.updCrew cid (fun c => { c with lseg := x }), r.sg, []) else none
      | _, _ => none)
  | .segldP w => if badPseg (r.sval w.a) then none else some (s, { r.sg with pseg := r.sval w.a }, [])
  | .tlbf w =>
    let va := s.directOf r.g (r.sval w.a)
    let ent := r.sval w.b
    (match (s.ctxOf r.g).map (fun c => s.home c (r.sval w.a)) with
     | some (.dram _ m) =>
       if decide (m = r.sg.mast) && !badEntry ent && decide (fieldOf ent 0 2 ≠ 0) &&
          s.pageOwned m r.g.ctx ent && (s.walkOf r.gid m).isNone then
         some ((s.updMast m (fun t => { t with tlb := tlbInsert t.tlb r.g.ctx va ent })).walkOut r.gid m va ent (some 0), r.sg, [])
       else none
     | _ => none)
  | .tlbiVa w =>
    let home := fun (a : Word) => (s.ctxOf r.g).map (fun c => s.home c a)
    let near := fun (a : Word) => match home a with | some (.dram _ m) => decide (m / 16 = s.dev) | _ => true
    let drop := fun (s' : State) (a : Word) => match home a with | some (.dram _ _) => s'.dropPage r.g.ctx (s.directOf r.g a) | _ => s'
    if (r.pages w.a).all near then some ((r.pages w.a).foldl drop s, r.sg, []) else none
  | .tlbiCtx _ => some ((s.everyMast (fun t => t.drop (fun e => decide (e.ctx = r.g.ctx)) (fun q => decide (q.ctx = r.g.ctx)))).dropOwnCode
      (fun c => decide (c.ctx = r.g.ctx)), r.sg, [])
  | .tlbiAll _ => some ((s.everyMast (fun t => t.drop (fun _ => true) (fun _ => true))).dropOwnCode (fun _ => true), r.sg, [])
  | .dlsetRel w => some (s, r.sg, dstWrites w.dest true 0 (min (r.sg.gclk.toNat + (r.sval w.b).toNat) (2 ^ 64 - 1)))
  | .dlsetAbs w => some (s, r.sg, dstWrites w.dest true 0 (r.sval w.b).toNat)
  | .dlsetDef w => some (s, { r.sg with dldef := r.sval w.b }, [])
  | .dlsetI w =>
    let b := iIntImm w false 64
    (match (iMods w).getD 0 with
     | 0 => some (s, r.sg, dstWrites w.dest true 0 (min (r.sg.gclk.toNat + b) (2 ^ 64 - 1)))
     | 1 => some (s, r.sg, dstWrites w.dest true 0 b)
     | _ => some (s, { r.sg with dldef := BitVec.ofNat 64 b }, []))
  | .clkrd w =>
    let x : Word := if w.lo.toNat % 4 = 0 then r.sg.gclk else if w.lo.toNat % 4 = 1 then (s.mast r.sg.mast).refs
      else BitVec.ofNat 64 (s.stn r.sg.mast r.sg.stn).cycles
    let c := s.clockRead r.sid r.act x
    some (c.2, r.sg, dstWrites w.dest true 0 c.1.toNat)
  | .dstep w =>
    if r.sg.tframe = 0 then none
    else (s.ctxOf r.g).bind (fun c => match s.sysRead r.g.ctx c (r.sg.tframe + 0x38) 1 with
      | .words [rmask] cells =>
        let lane := if isS w.a then (r.sval w.a).toNat else lowest rmask
        if lane < 64 && rmask.getLsbD lane then some (s.checkRead ((cells.map sectorOf).dedup), { r.sg with armed := some lane }, []) else none
      | _ => none)
  | _ => none

/-! ## Words that wait -/

/-- A word that would wait and finds what it waits for: the registers that it writes at once, its status among them, and memory
after it. CPW of a copy that has ended (R172), CAPW of a block whose STAT is no longer pending (R177), BARW and GBARW of a phase
that is over (R189), QPUSH and QPOP that their queue takes (R194). -/
def metForm (s : State) (r : Run) : Instr → Option (List (Reg × Word) × Memory)
  | .cpw w =>
    let tag := w.lo.toNat % 16
    let round := w.lo.toNat / 16
    let refused := some (statusWrites w.dest (statusWord 5 tag round 0 0).toNat, s.mem)
    (match s.crewOf r.g with
     | some c =>
       if s.linked (r.sg.mast / 16) (c.mast / 16) then (match c.tag tag with
         | .done k x | .abandoned k x => if k = round then some (statusWrites w.dest x.toNat, s.mem) else refused
         | .gathering k _ _ _ | .running k => if k = round then none else refused
         | .idle => refused)
       else none
     | none => none)
  | .capw w =>
    let va := s.directOf r.g (r.sval w.b) + 0x20
    if (s.blockTrap r (r.sval w.b)).isSome || !s.linked (r.sg.mast / 16) (s.vaMast va / 16) then none
    else (match s.placeOf r.g.ctx va 0 with
      | .cell c =>
        if s.badAt c || decide (fieldOf (s.word c) 0 8 = 0xFF) || decide (fieldOf (s.word c) 0 8 = 1) then none
        else some (statusWrites w.dest (s.word c).toNat, s.mem)
      | _ => none)
  | .barw w =>
    if fieldOf (r.sval w.b) 0 8 = 0 && s.phaseOver (s.barRef r.g 0 (w.lo.toNat &&& 15)) ((r.sval w.b).extractLsb' 32 32) then
      some (statusWrites w.dest 0, s.mem) else none
  | .gbarw w =>
    if fieldOf (r.sval w.b) 0 8 = 0 && s.phaseOver (s.barRef r.g 2 (w.lo.toNat &&& 3)) ((r.sval w.b).extractLsb' 32 32) then
      some (statusWrites w.dest 0, s.mem) else none
  | .qpush w =>
    if s.waits.all (fun e => decide (queueOf e.2.kind ≠ queueOf (queueKind r w false))) then
      (match s.tryQueue r (queueKind r w false) with
       | .done t code got => some (popWrites (queueKind r w false) got ++ statusWrites w.dest code, t.mem)
       | _ => none)
    else none
  | .qpop w =>
    if s.waits.all (fun e => decide (queueOf e.2.kind ≠ queueOf (queueKind r w true))) then
      (match s.tryQueue r (queueKind r w true) with
       | .done t code got => some (popWrites (queueKind r w true) got ++ statusWrites w.dest code, t.mem)
       | _ => none)
    else none
  | _ => none

/-- What a wait that begins holds, and the message that goes out with it. -/
structure Begun where
  kind   : WaitKind
  dk     : Option Word
  bound  : Option Nat
  status : Operand
  msg    : Option Msg
  deriving DecidableEq, Repr

/-- An arrival at a barrier (R188, R191): the wait for the counter's answer, and the message to the counter. -/
def arrival (s : State) (r : Run) (ref : BarRef) (o : Operand) (mb : Bool) (dk : Option Word) (st : Operand) : Option Begun :=
  if (expectOf r o).2 then none
  else some {
    kind := .barrier ref 0 false mb .arriving, dk := dk, bound := none, status := st
    msg := some { src := stnPort r.sg.mast r.sg.stn, dst := s.barPort ref, body := .barArrive ref (popCount r.act) (expectOf r o).1 s.nextId } }

/-- A word whose active lanes begin to wait at it: QLD for an element (R136), FENCE and FENCE.X for a path (R140, R141), TIE for
another station's answer (R107, R229), BARC, GBARA and MBAR for their counter's (R188, R191), BARW and GBARW for a phase (R189),
BARX for its counter's answer (R190), QPUSH and QPOP for their queue (R194), CPW for its copy (R172). -/
def waitForm (s : State) (r : Run) : Instr → Option Begun
  | .qld w => (streamOf r.g w.a).bind (fun q => if q.arrived (lanesOf r.act).length then none
      else some { kind := .qld, dk := none, bound := some r.sg.bound, status := .zero, msg := none })
  | .fence w =>
    if s.pathsDone r.gid r.g (w.hi.setWidth 6) (w.lo.toNat % 8) ≠ w.hi.setWidth 6 ∧ r.sg.gclk.toNat < (r.sval w.a).toNat then
      some { kind := .fence (w.hi.setWidth 6) (w.lo.toNat % 8) w.b none, dk := some (r.sval w.a), bound := none, status := w.dest, msg := none }
    else none
  | .fenceX w =>
    let paths := BitVec.ofNat 6 (2 ^ (w.hi.toNat / 8 % 8))
    if s.pathsDone r.gid r.g paths (w.lo.toNat % 8) ≠ paths ∧ r.sg.gclk.toNat < (r.sval w.a).toNat then
      some { kind := .fence paths (w.lo.toNat % 8) w.b (some (w.hi.toNat % 8)), dk := some (r.sval w.a), bound := none, status := w.dest, msg := none }
    else none
  | .tie w (some x) =>
    let meet := r.pc + BitVec.ofInt 64 (8 * (x.extractLsb' 0 30).toInt)
    let place := s.crewPlace r.g
    let m := s.gm (fieldOf place 10 10) (fieldOf place 6 4)
    if meet ≠ 0 ∧ w.lo.getLsbD 0 = true ∧ place ≠ s.placeAt r.sg.mast r.sg.stn then
      some { kind := .tie, dk := none, bound := some r.sg.bound, status := .zero
             msg := some { src := stnPort r.sg.mast r.sg.stn, dst := stnPort m (fieldOf place 0 6)
                           body := .tieNotice s.nextId r.gid meet r.act m (fieldOf place 0 6) r.sid } }
    else none
  | .segldL w =>
    let x := r.sval w.a
    if fieldOf x 21 43 ≠ 0 || fieldOf x 0 5 ≠ 0 then none
    else (match r.g.cid, s.crewOf r.g with
      | some cid, some c =>
        if c.mast / 16 = s.dev then none
        else some { kind := .sent 1, dk := none, bound := some r.sg.bound, status := .zero
                    msg := some { src := stnPort r.sg.mast r.sg.stn, dst := stnPort c.mast c.stn, body := .segld cid x s.nextId } }
      | _, _ => none)
  | .barc w => arrival s r (s.barRef r.g 0 (w.lo.toNat &&& 15)) w.a false none w.dest
  | .gbara w => arrival s r (s.barRef r.g 2 (w.lo.toNat &&& 3)) w.a false none w.dest
  | .mbar w =>
    if r.g.arrived.any (fun e => decide (e.1 = w.lo.toNat % 8) && decide (e.2.1 &&& r.act ≠ 0)) then none
    else arrival s r (s.barRef r.g 1 (w.lo.toNat % 8)) w.b true (some (r.sval w.a)) w.dest
  | .barw w =>
    let ref := s.barRef r.g 0 (w.lo.toNat &&& 15)
    let tok := (r.sval w.b).extractLsb' 32 32
    if fieldOf (r.sval w.b) 0 8 = 0 && !s.phaseOver ref tok && decide (r.sg.gclk.toNat < (r.sval w.a).toNat) then
      some { kind := .barrier ref tok (w.lo.getLsbD 4) false .waiting, dk := some (r.sval w.a), bound := none, status := w.dest, msg := none }
    else none
  | .gbarw w =>
    let ref := s.barRef r.g 2 (w.lo.toNat &&& 3)
    let tok := (r.sval w.b).extractLsb' 32 32
    if fieldOf (r.sval w.b) 0 8 = 0 && !s.phaseOver ref tok && decide (r.sg.gclk.toNat < (r.sval w.a).toNat) then
      some { kind := .barrier ref tok (w.lo.getLsbD 4) false .waiting, dk := some (r.sval w.a), bound := none, status := w.dest, msg := none }
    else none
  | .barx w =>
    let ref := s.barRef r.g (if w.lo.getLsbD 5 then 2 else 0) (w.lo.toNat % 16)
    let tok := (r.sval w.b).extractLsb' 32 32
    if fieldOf (r.sval w.b) 0 8 ≠ 0 then none
    else some { kind := .barrier ref tok false false .withdrawing, dk := none, bound := none, status := w.dest
                msg := some { src := stnPort r.sg.mast r.sg.stn, dst := s.barPort ref, body := .barWithdraw ref tok (popCount r.act) s.nextId } }
  | .qpush w =>
    (match s.tryQueue r (queueKind r w false) with
     | .wait => if r.sg.gclk.toNat < (r.sval w.a).toNat then
         some { kind := queueKind r w false, dk := some (r.sval w.a), bound := none, status := w.dest, msg := none } else none
     | _ => none)
  | .qpop w =>
    (match s.tryQueue r (queueKind r w true) with
     | .wait => if r.sg.gclk.toNat < (r.sval w.a).toNat then
         some { kind := queueKind r w true, dk := some (r.sval w.a), bound := none, status := w.dest, msg := none } else none
     | _ => none)
  | .cpw w =>
    let begun := if r.sg.gclk.toNat < (r.sval w.a).toNat then
        some ({ kind := .cpw (w.lo.toNat % 16) (w.lo.toNat / 16), dk := some (r.sval w.a), bound := none, status := w.dest, msg := none } : Begun)
      else none
    (match s.crewOf r.g with
     | some c => (match c.tag (w.lo.toNat % 16) with
       | .gathering k _ _ _ | .running k => if k = w.lo.toNat / 16 then begun else none
       | .idle | .done _ _ | .abandoned _ _ => none)
     | none => none)
  | _ => none

/-- A word that settles tie points or jib calls and is done: its sub-group after it and its status. JOIN of lanes that a complete
or a drained tie point released (R109), BWAIT of lanes none of whose calls is left (R183). -/
def settleForm (s : State) (r : Run) : Instr → Option (SubGroup × Nat × Operand)
  | .bwait w =>
    if (lanesOf r.act).all (fun l => s.calls.all (fun e => !(decide (e.2.gid = r.gid) && e.2.wait2 && decide (e.2.lane = l)))) then
      some (r.sg, 0, w.dest) else none
  | .join w =>
    (match (SMap.get? r.sg.lanes r.low).bind (fun l => l.rel) with
     | none => none
     | some (code, _) =>
       if code = 3 then none
       else
         let zc := decide (w.c = .zero)
         some ({ r.sg with
             lanes := r.sg.lanes.map (fun e => if r.act.getLsbD e.1 then (e.1, { e.2 with meet := BitVec.ofNat 64 (r.val true w.c e.1) }) else e)
             rejoin := if zc then noRejoin else if w.b = .zero then s.crewPlace r.g else (r.sval w.b).setWidth 32
             rlive := if zc then r.sg.rlive else 0xFF }, code.toNat % 16, w.dest))
  | _ => none

/-- A word that traps when it takes effect (R199): the state in which it traps, its cause and INFO. A TFENCE has made the results of
earlier words visible first (R72). -/
def trapForm (s : State) (r : Run) : Instr → Option (State × BitVec 8 × Word)
  | .trap w => some (s, 0x0F, r.sval w.b)
  | .trapI w => some (s, 0x0F, BitVec.ofNat 64 (iIntImm w false 64))
  | .tfence _ =>
    let hit := r.sg.aflags &&& r.sg.atrap &&& 0x3F
    if r.g.outst = [] ∧ hit ≠ 0 then some (s.settlePoint r, 0x0E, hit.setWidth 64) else none
  | _ => none

/-- A lane that has stopped at a word: waiting at it, or in the waiting pool (R251, R178). -/
def Stopped (r : Run) (u : SubGroup) (st : LaneSt) : Prop :=
  ∀ l, SMap.get? u.lanes l = (SMap.get? r.sg.lanes l).map (fun y => if r.act.getLsbD l then { y with st := st } else y)

/-- The report of a HALT (R206, R319). -/
def haltEvent (s : State) (r : Run) : Event :=
  { typ := 6, code := 0, tag := 0, ctx := BitVec.ofNat 16 r.g.ctx, w1 := packWord [((s.crewPlace r.g).toNat % 2 ^ 20, 0), (r.g.gix, 20)]
    w2 := r.act, w3 := r.pc + 8 }

/-- The copies that a copy word asks for (R167, R169, R170). -/
def copyForm (s : State) (r : Run) : Instr → Option (FWord × CopyReq)
  | .cp w => some (w, cpReq w r)
  | .cpm w => some (w, cpmReq w r)
  | .cpcv w => some (w, cpcvReq w r s)
  | _ => none

/-- A copy word passes the checks of R167, and none of its ranges has a home that is refused. -/
def GoodCopy (s : State) (r : Run) (q : CopyReq) : Prop :=
  q.bad = false ∧ (∀ x ∈ q.fixed, x.1.toNat % 32 = 0) ∧
  ∀ x ∈ q.srcs ++ q.dsts, oneHome x = true ∧ (x.2 ≠ 0 → (x.1.getLsbD 63 = false ∧ (x.1 + BitVec.ofNat 64 (x.2 - 1)).getLsbD 63 = false) ∨ r.sg.sv = true) ∧
    ∀ a ∈ rangeMarks x, s.homeWhy r a = none

/-! ## Happenings: waits -/

/-- A wait has ended (R251, R252): the register writes stand, and its lanes have gone on past the word. -/
def Ended (t : State) (wid : Nat) (r : Run) (ws : List (Reg × Word)) : Prop :=
  SMap.get? t.waits wid = none ∧ ∃ u, SMap.get? t.subs r.sid = some u ∧ Kept r.sg u ∧ RegsAfter r.sg u ws ∧
    ∀ l, r.set.getLsbD l = true → SMap.get? u.lanes l = (SMap.get? r.sg.lanes l).map (fun x => laneAfter r (nextPc r l) x)

/-- The increment notice of a counted status goes to the Command Processor of the crew's device, with the lanes and the deadline
(R255); until it has been answered these lanes issue nothing (R256). -/
def Counted (s t : State) (r : Run) (dl : Word) : Prop :=
  (∃ k m pc, SMap.get? t.msgs k = some m ∧ m.body = .escInc r.g.ctx r.gid r.set dl pc r.len r.iw r.xw ∧
    ∀ c, s.crewOf r.g = some c → m.dst = cpPort (c.mast / 16)) ∧
  ∀ l, r.set.getLsbD l = true → (t.noticed r.gid).getLsbD l = true

/-- No byte from a cell on lies in a sector with a symbol error or one that reads as uncorrectable. -/
def soundAt (s : State) (c n : Nat) : Bool := (s.bad ++ s.soft).all (fun k => decide (k + 32 ≤ c) || decide (c + n ≤ k))

/-- The cells of the lanes that still wait at an LDW, where all have one. -/
def ldwCells (s : State) (r : Run) (ops : List LaneAcc) (n : Nat) : Option (List (LaneAcc × Nat)) :=
  ops.mapM (fun o => match s.laneAt r .glob o.addr 0 with
    | .cell c => if soundAt s c n then some (o, c) else none
    | _ => none)

/-- The last values read at an LDW (R125). -/
def ldwVals (s : State) (n : Nat) (vals : List (Nat × Word)) (at' : List (LaneAcc × Nat)) : List (Nat × Word) :=
  at'.foldl (fun m e => SMap.put m e.1.lane (BitVec.ofNat 64 (s.num e.2 n))) vals

/-- For whom a Capstan serves a CAPR (R160, R286). -/
def capEng (s : State) (r : Run) (blk : Word) : EngId := { ctx := r.g.ctx, dev := r.sg.mast / 16, at' := s.vaMast blk / 16, dead := [] }

/-- A wait that still finds nothing at its deadline: the happening that ends it, and its writes. LDW writes the values last read and
TIMEOUT (1), a fence the paths that are complete and TIMEOUT, a copy slice and CAPR BUSY (4), the others TIMEOUT (R125, R140, R165, R172,
R173, R177, R183, R189, R194, R252). -/
def lateForm (s : State) (wid : Nat) (w : Wait) (r : Run) : Option (Instr × List (Reg × Word)) :=
  match w.kind with
  | .ldw ops vals wide cmp signed dest xs =>
    let n := if wide then 8 else 4
    let out := fun (vs : List (Nat × Word)) => some (Instr.ldwTimeout wid, vs.flatMap (fun v => dstWrites dest wide v.1 v.2.toNat) ++ statusWrites w.status 1)
    let away := ops.filter (fun o => pageAsked xs (s.dirOf r o.addr))
    if xs.any (fun x => x.held.isNone) then none
    else (ldwCells s r (ops.filter (fun o => !pageAsked xs (s.dirOf r o.addr))) n).bind (fun at' =>
      if away = [] && at'.all (fun e => ldwHolds cmp signed wide (s.num e.2 n) e.1.data) then none else out (ldwVals s n vals at'))
  | .fence paths scope map _ =>
    let dn := s.pathsDone r.gid r.g paths scope
    if dn = paths then none else some (.fenceTimeout wid, statusWrites map dn.toNat ++ statusWrites w.status 1)
  | .barrier ref tok true _ .waiting =>
    if s.phaseOver ref tok then none else some (.barrierWaitTimeout wid, statusWrites w.status 1)
  | .queuePush _ _ | .queuePop _ _ =>
    let out := some (Instr.queueWaitTimeout wid, statusWrites w.status 1)
    if s.firstWaiter wid then (match s.tryQueue r w.kind with | .wait => out | _ => none) else out
  | .slice k =>
    (match SMap.get? s.slices k, (SMap.get? s.slices k).bind (fun sl => SMap.get? s.crews sl.cid) with
     | some sl, some cr =>
       let answer := (cr.tag sl.tag).answer sl.round sl.parts
       if !s.linked (r.sg.mast / 16) (cr.mast / 16) || answer == .wait || (answer == .take && (s.entryFor k sl cr).isNone) then
         some (.sliceWaitTimeout wid, statusWrites w.status (statusWord 4 sl.tag sl.round 0 0).toNat) else none
     | _, _ => none)
  | .cpw tag round =>
    (match s.crewOf r.g with
     | some c =>
       let running := match c.tag tag with | .gathering rd _ _ _ | .running rd => decide (rd = round) | _ => false
       if !s.linked (r.sg.mast / 16) (c.mast / 16) || running then some (.cpwTimeout wid, statusWrites w.status (statusWord 1 tag round 0 0).toNat)
       else none
     | none => none)
  | .capr blk x =>
    if !s.linked (r.sg.mast / 16) (s.vaMast blk / 16) then some (.caprTimeout wid, statusWrites w.status 4)
    else if (x.map (fun y => y.fail)).getD false then none
    else if (x.bind (fun y => y.held)).isSome || decide ((s.mast (s.vaMast blk)).caps.length ≥ 32) then
      some (.caprTimeout wid, statusWrites w.status 4) else none
  | .capw blk x =>
    let va := blk + 0x20
    let out := some (Instr.capwTimeout wid, statusWrites w.status 1)
    if (x.bind (fun y => y.held)).isSome || !s.linked (r.sg.mast / 16) (s.vaMast va / 16) then out
    else (match s.placeOf r.g.ctx va 0 with
      | .cell c => if soundAt s c 8 && decide (fieldOf (s.word c) 0 8 = 0xFF) then out else none
      | _ => none)
  | .bwait sreg =>
    if s.callsDone r.gid w.lanes then none
    else if sreg = 0 then some (.bwaitTimeout wid, [])
    else if s.waits.all (fun e => match e.2.kind with | .scoreboard _ => false | _ => true) && s.canDeliver r.gid &&
        decide (r.g.ended ≠ BitVec.allOnes 64) then
      (match r.g.outst.find? (fun o => decide (o.id = sreg)) with
       | some o =>
         if o.writes.all (fun x => match x.1 with | .s _ => true | _ => false) && decide (s.holderOf r.gid o.lane = some r.sid) && decide (o.writes.length ≤ 1) then
           some (.bwaitTimeout wid, o.writes.map (fun x => (x.1, 1))) else none
       | none => none)
    else none
  | _ => none

/-- A wait that finds what it waits for: the happening that ends it, its writes, and memory after it (R125, R173, R177, R194, R195). -/
def wakeForm (s : State) (wid : Nat) (w : Wait) (r : Run) : Option (Instr × List (Reg × Word) × Memory) :=
  match w.kind with
  | .ldw ops vals wide cmp signed dest xs =>
    let n := if wide then 8 else 4
    if xs ≠ [] then none
    else (ldwCells s r ops n).bind (fun at' =>
      if at'.all (fun e => ldwHolds cmp signed wide (s.num e.2 n) e.1.data) then
        some (.ldwWake wid, (ldwVals s n vals at').flatMap (fun v => dstWrites dest wide v.1 v.2.toNat) ++ statusWrites w.status 0, s.mem)
      else none)
  | .queuePush _ _ | .queuePop _ _ =>
    if s.firstWaiter wid then
      (match s.tryQueue r w.kind with
       | .done t code got => some (.queueRetry wid, popWrites w.kind got ++ statusWrites w.status code, t.mem)
       | _ => none)
    else none
  | .capr blk x =>
    let e := capEng s r blk
    let cells := (List.range 24).map (fun i => match s.engAt e (blk + BitVec.ofNat 64 (8 * i)) 0 with | .ok c => some c | .error _ => none)
    if !s.linked (r.sg.mast / 16) (s.vaMast blk / 16) || (x.map (fun y => y.fail)).getD false || (x.bind (fun y => y.held)).isSome ||
       decide ((s.mast (s.vaMast blk)).caps.length ≥ 32) || (s.blockMeets e blk).isSome then none
    else ((cells.getD 4 none).map (fun c => (Instr.capstanAccept wid, statusWrites w.status 0, writeMem s.mem c (leBytes 8 0xFF))))
  | .capw blk x =>
    let va := blk + 0x20
    if (x.bind (fun y => y.held)).isSome || !s.linked (r.sg.mast / 16) (s.vaMast va / 16) then none
    else (match s.placeOf r.g.ctx va 0 with
      | .cell c =>
        if soundAt s c 8 && decide (fieldOf (s.word c) 0 8 ≠ 0xFF) && decide (fieldOf (s.word c) 0 8 ≠ 1) then
          some (.capwWake wid, statusWrites w.status (s.word c).toNat, s.mem) else none
      | _ => none)
  | _ => none

/-- Each lane of a group stands in one copy (R208). -/
def LanesOnce (s : State) : Prop :=
  (s.subs.map (fun e => e.1)).Nodup ∧
  ∀ e ∈ s.subs, ∀ f ∈ s.subs, e.2.gid = f.2.gid → ∀ l, (SMap.get? e.2.lanes l).isSome → (SMap.get? f.2.lanes l).isSome → e = f

/-- The copy that takes a late result of a lane (R40). -/
def takesResult (s : State) (gid lane sid : Nat) (x : Reg) : Bool :=
  match x with
  | .v l _ | .p l _ => decide (s.holderOf gid l = some sid)
  | .s _ | .k _ | .d _ | .x _ => decide (s.holderOf gid lane = some sid) ||
      (decide (s.holderOf gid lane = none) && decide (s.carrierOf gid lane = none) &&
       decide ((((SMap.get? s.groups gid).bind Group.lowestLive).bind (s.holderOf gid)) = some sid))

/-! ## Happenings: messages -/

/-- A counter once its count is judged (R185): a complete phase moves on. -/
def judged (live : Nat) (b : Barrier) : Barrier :=
  if 0 < b.count ∧ b.expct.getD live ≤ b.count then { phase := b.phase + 1, count := 0, expct := none } else b

/-- A message that is next of those between its two places. -/
def Arrives (s : State) (mid : Nat) (b : MsgBody) : Prop := ∃ m, SMap.get? s.msgs mid = some m ∧ m.body = b ∧ s.firstMsg mid m = true

/-- The state without a message. -/
def without (s : State) (mid : Nat) : State := { s with msgs := SMap.del s.msgs mid }

/-- The records that a save writes, in the order of R303's table (R302). -/
def saveRecs (s : State) (ctx : Nat) (gs : List Nat) : List (List Word) :=
  let crews := s.boundCrews ctx
  let ls := s.launches.filter (fun e => decide (e.2.ctx = ctx) && decide (e.2.dev = s.dev) && !e.2.counted)
  s.localRecs crews ++ s.crewRecs crews ++ (s.mastRecs ls ++ gridRecs ls ++ s.tieRecs ctx ++ s.imageRecs (s.saveImages ctx)) ++
  (s.pendings gs).map (fun e => recordWords 7 0 0 (s.pendWords e.1 e.2)) ++ s.arrivedRecs gs

/-- The state with the device in place at which a turn happens (R323). -/
def entered (s : State) (d : Nat) : State := if d = s.dev then s else s.enter d

/-- The state after a turn at a device, with the device in place that was there before. -/
def returned (s : State) (d : Nat) (t : State) : State := if d = s.dev then t else t.enter s.dev

/-- THE INVARIANT OF MEMORY: its canonical form. -/
def Inv (s : State) : Prop := Memory.wf s.mem = true

end Sys2Proof.Safety
end

