-- ==== Sys2Proof/Certificates/Slice0/Obligations.lean ====
section
/-! DEFINITION. The statements about the machine: what decoding, taking effect, issue, traps and the happenings of the device
do, each for every state that meets its premises. -/

open Sys2Proof Sys2Proof.Machine Sys2Proof.Safety

/-! ## Computing words -/

/-- R84, R85, R71, R56; R71, R73, R56: a word that computes one result per lane and has a fixed latency completes: it writes what its
operation gives in each lane in which it is performed, raises its flags, and changes nothing else. A computing word of variable latency
(IDIV and IREM) completes: its results go out as one outstanding result of its group, no register changes yet, and nothing else does. -/
def Obligations.ComputingWords : Prop :=
  (∀ (s : State) (i : Instr) (h : Hd) (sh : Shape) (f : List Nat → Nat × Flags) (n : Nat) (r : Run),
    aluForm i = some (h, sh, f) → sh.latency = some n → issues s i = some r → quiet r (nextPc r) = true →
    ∃ t u, exec i s = .next t ∧ OnlySub s t r.sid u ∧ Completed r u (nextPc r) (resultWrites sh f r) (resultFlags sh f r)) ∧
  (∀ (s : State) (i : Instr) (h : Hd) (sh : Shape) (f : List Nat → Nat × Flags) (r : Run),
    aluForm i = some (h, sh, f) → sh.latency = none → issues s i = some r → quiet r (nextPc r) = true →
    ∃ t u, exec i s = .next t ∧ SentOut s t r u (resultWrites sh f r) ∧ Completed r u (nextPc r) [] (resultFlags sh f r))

/-- R94 to R99, R44: CVT, CVTF, PACK, UNPACK, QSCALE and DQSCALE complete: each lane's writes stand, and %seed counts on by 1
where the rounding is stochastic. -/
def Obligations.ConversionWords : Prop :=
  ∀ (s : State) (i : Instr) (w : FWord) (f : Run → Nat → List (Reg × Word) × Flags) (lanes : Run → List Nat) (r : Run),
    convForm i = some (w, f, lanes) → issues s i = some r → quiet r (nextPc r) = true →
    ∃ t u, exec i s = .next t ∧ OnlySub s t r.sid u ∧ Moved r u (nextPc r) ∧ Kept r.sg u ∧
      RegsAfter r.sg u ((lanes r).flatMap (fun l => (f r l).1)) ∧
      u.aflags = r.sg.aflags ||| (flagsOf ((lanes r).map (fun l => (f r l).2)) &&& 0x3F) ∧
      u.seed = if (CMods.ofNat (fMods w)).rnd = 4 then r.sg.seed + 1 else r.sg.seed

/-- R101 to R103: XLANE, VOTE, BALLOT, ACTIVE, ELECT, MATCH, SCAN, SEGSCAN and REDUX complete with what they combine of the
active lanes, and change nothing else. -/
def Obligations.GroupWords : Prop :=
  ∀ (s : State) (i : Instr) (out : Run → List (Reg × Word) × Flags) (r : Run),
    groupForm i = some out → issues s i = some r → quiet r (nextPc r) = true →
    ∃ t u, exec i s = .next t ∧ OnlySub s t r.sid u ∧ Completed r u (nextPc r) (out r).1 (out r).2

/-- R62, R63, R74: a P word performs each half where that half's guard is true. Both halves read before either writes, and
where both write a register, half B's result stands. -/
def Obligations.PairedWord : Prop :=
  ∀ (s : State) (w : PWord) (r : Run),
    pairIssues s w = some r → quiet r (nextPc r) = true →
    ∃ t u, exec (.pairedWord w) s = .next t ∧ OnlySub s t r.sid u ∧
      Completed r u (nextPc r) (halfResults r w.ha ++ halfResults r w.hb) (halfFlags r w.ha ||| halfFlags r w.hb)

/-! ## What the computing words compute -/

/-- R87: IADD, ISUB, IMUL and IMAD wrap at the width of their format, or clamp the exact value to its range under .SAT. IMULH gives the high half of the
exact product; IMIN and IMAX compare the values T; IABS and INEG map the minimum to itself, or to the maximum under .SAT; LEA adds a shifted 32-bit
value to a 64-bit one. None raises a flag. -/
def Obligations.IntegerArithmetic : Prop :=
  ∀ (w : FWord) (v : IWord) (u : Mods),
    let t := IFmt.ofCode u.fmt
    let n := t.w
    ∀ a b c : BitVec n,
      let T := fun (x : BitVec n) => if t.signed then x.toInt else (x.toNat : Int)
      let clamp := fun (z : Int) => if t.signed then (BitVec.ofInt n (max (-(2 ^ (n - 1))) (min (2 ^ (n - 1) - 1) z))).toNat else (max 0 (min (2 ^ n - 1) z)).toNat
      let wider := fun (x : BitVec n) => if t.signed then x.signExtend (2 * n) else x.setWidth (2 * n)
      u.fmt ∈ fmtsAll → (u.sat = true → u.fmt ∉ fmtsB) →
      (∀ add sub mul mulh mn mx : Instr,
        (u = Mods.ofNat (fMods w) ∧ add = .iadd w ∧ sub = .isub w ∧ mul = .imul w ∧ mulh = .imulh w ∧ mn = .imin w ∧ mx = .imax w) ∨
        (u = Mods.ofI v 4 ∧ add = .iaddI v ∧ sub = .isubI v ∧ mul = .imulI v ∧ mulh = .imulhI v ∧ mn = .iminI v ∧ mx = .imaxI v) →
        computes add [a.toNat, b.toNat] = some (if u.sat then clamp (T a + T b) else (a + b).toNat, 0) ∧
        computes sub [a.toNat, b.toNat] = some (if u.sat then clamp (T a - T b) else (a - b).toNat, 0) ∧
        computes mul [a.toNat, b.toNat] = some (if u.sat then clamp (T a * T b) else (a * b).toNat, 0) ∧
        computes mulh [a.toNat, b.toNat] = some ((((wider a * wider b) >>> n).setWidth n).toNat, 0) ∧
        computes mn [a.toNat, b.toNat] = some (if T b < T a then b.toNat else a.toNat, 0) ∧
        computes mx [a.toNat, b.toNat] = some (if T a < T b then b.toNat else a.toNat, 0)) ∧
      (u = Mods.ofNat (fMods w) →
        computes (.imad w) [a.toNat, b.toNat, c.toNat] = some (if u.sat then clamp (T a * T b + T c) else (a * b + c).toNat, 0) ∧
        (u.fmt ∈ fmtsI →
          computes (.iabs w) [a.toNat] = some (if u.sat = true ∧ a = BitVec.intMin n then (BitVec.intMax n).toNat else (if a.msb then -a else a).toNat, 0) ∧
          computes (.ineg w) [a.toNat] = some (if u.sat = true ∧ a = BitVec.intMin n then (BitVec.intMax n).toNat else (-a).toNat, 0)) ∧
        (∀ (x : BitVec 64) (y : BitVec 32), u.fmt = 4 ∨ u.fmt = 5 → u.op < 8 →
          computes (.lea w) [x.toNat, y.toNat] = some ((x + ((if u.fmt = 4 then y.signExtend 64 else y.setWidth 64) <<< u.op)).toNat, 0)))

/-- R87, R88, R90: the bitwise words, the shifts (a shift by the width or more leaves 0, or copies of the sign), CSHF over c and a, the counts, BREV, BTAB and PTAB with
source a the least significant index bit, BFE, BFI and PRMT bit by bit, ICMP of the values T, ISEL, SEL and MOV. None raises a flag. -/
def Obligations.BitWords : Prop :=
  ∀ (w : FWord) (v : IWord) (u : Mods),
    let t := IFmt.ofCode u.fmt
    let n := t.w
    ∀ a b c : BitVec n,
      let T := fun (x : BitVec n) => if t.signed then x.toInt else (x.toNat : Int)
      let pos := b.toNat % 256
      let len := b.toNat / 256 % 256
      let taken := fun (j : Nat) => if j < n then a.getLsbD j else t.signed && a.msb
      u.fmt ∈ fmtsAll →
      (∀ andW orW xorW andnW shl shr sar cmp : Instr,
        (u = Mods.ofNat (fMods w) ∧ andW = .and w ∧ orW = .or w ∧ xorW = .xor w ∧ andnW = .andn w ∧ shl = .shl w ∧ shr = .shr w ∧ sar = .sar w ∧ cmp = .icmp w) ∨
        (u = Mods.ofI v 4 ∧ andW = .andI v ∧ orW = .orI v ∧ xorW = .xorI v ∧ andnW = .andnI v ∧ shl = .shlI v ∧ shr = .shrI v ∧ sar = .sarI v ∧ cmp = .icmpI v) →
        computes andW [a.toNat, b.toNat] = some ((a &&& b).toNat, 0) ∧ computes orW [a.toNat, b.toNat] = some ((a ||| b).toNat, 0) ∧
        computes xorW [a.toNat, b.toNat] = some ((a ^^^ b).toNat, 0) ∧ computes andnW [a.toNat, b.toNat] = some ((a &&& ~~~b).toNat, 0) ∧
        computes shl [a.toNat, b.toNat] = some ((a <<< b.toNat).toNat, 0) ∧ computes shr [a.toNat, b.toNat] = some ((a >>> b.toNat).toNat, 0) ∧
        computes sar [a.toNat, b.toNat] = some ((a.sshiftRight b.toNat).toNat, 0) ∧
        (u.op < 6 → computes cmp [a.toNat, b.toNat] = some (if (u.op = 0 ∧ T a = T b) ∨ (u.op = 1 ∧ T a ≠ T b) ∨ (u.op = 2 ∧ T a < T b) ∨ (u.op = 3 ∧ T a ≤ T b) ∨
          (u.op = 4 ∧ T b < T a) ∨ (u.op = 5 ∧ T b ≤ T a) then 1 else 0, 0))) ∧
      (u = Mods.ofNat (fMods w) →
        computes (.not w) [a.toNat] = some ((~~~a).toNat, 0) ∧
        computes (.mov w) [a.toNat] = some (a.toNat, 0) ∧
        computes (.sel w) [a.toNat, b.toNat, c.toNat] = some (if c ≠ 0 then a.toNat else b.toNat, 0) ∧
        (∀ p : Bool, computes (.isel w) [a.toNat, b.toNat, p.toNat] = some (if p then a.toNat else b.toNat, 0)) ∧
        givesBits (computes (.brev w) [a.toNat]) n (fun i => a.getLsbD (n - 1 - i)) ∧
        computes (.popc w) [a.toNat] = some (((List.range n).filter a.getLsbD).length, 0) ∧
        (∃ k, computes (.clz w) [a.toNat] = some (k, 0) ∧ if a = 0 then k = n else k < n ∧ a.getLsbD (n - 1 - k) = true ∧ ∀ j < n, n - 1 - k < j → a.getLsbD j = false) ∧
        (∃ k, computes (.ctz w) [a.toNat] = some (k, 0) ∧ if a = 0 then k = n else k < n ∧ a.getLsbD k = true ∧ ∀ j < k, a.getLsbD j = false) ∧
        givesBits (computes (.cshf w) [a.toNat, b.toNat, c.toNat]) n (fun i =>
          let x := c ++ a
          if u.op % 2 = 0 then (x >>> (b.toNat % n)).getLsbD i else (x <<< (b.toNat % n)).getLsbD (n + i)) ∧
        givesBits (computes (.bfe w) [a.toNat, b.toNat]) n (fun i => if i < len then taken (pos + i) else t.signed && decide (0 < len) && taken (pos + len - 1)) ∧
        givesBits (computes (.bfi w) [a.toNat, b.toNat, c.toNat]) n (fun i => if pos ≤ i ∧ i < pos + len then a.getLsbD (i - pos) else c.getLsbD i)) ∧
      (u = Mods.ofNat (w.hi.toNat * 256) →
        givesBits (computes (.btab w) [a.toNat, b.toNat, c.toNat]) n (fun i => w.lo.getLsbD ((a.getLsbD i).toNat + 2 * (b.getLsbD i).toNat + 4 * (c.getLsbD i).toNat))) ∧
      (∀ p q r : Bool, computes (.ptab w) [p.toNat, q.toNat, r.toNat] = some ((w.lo.getLsbD (p.toNat + 2 * q.toNat + 4 * r.toNat)).toNat, 0)) ∧
      (∀ (x y z : BitVec 32), fMods w / 256 % 32 = 8 →
        let sel := fun (j : Nat) => y.toNat / 2 ^ (4 * j) % 16
        let bytes := fun (z : BitVec 32) (i : Nat) => if 8 ≤ sel (i / 8) then (z ++ x).getLsbD (8 * (sel (i / 8) % 8) + 7) else (z ++ x).getLsbD (8 * (sel (i / 8) % 8) + i % 8)
        givesBits (computes (.prmt w) [x.toNat, y.toNat, z.toNat]) 32 (bytes z) ∧ givesBits (computes (.prmtI v) [x.toNat, y.toNat]) 32 (bytes 0))

/-- R89, whole: IDIV and IREM compute q and r with T(a) = q × T(b) + r. .I formats truncate q toward zero, so r takes the sign of a; .N formats use
unsigned values. For b = 0, IDIV gives all ones and IREM gives a; for the minimum divided by -1, IDIV gives a and IREM gives 0. No flag is raised. -/
def Obligations.IntegerDivision : Prop :=
  ∀ (w : FWord) (v : IWord) (u : Mods) (div rem : Instr),
    (u = Mods.ofNat (fMods w) ∧ div = .idiv w ∧ rem = .irem w) ∨ (u = Mods.ofI v 4 ∧ div = .idivI v ∧ rem = .iremI v) → u.fmt ∈ fmtsIN →
    let t := IFmt.ofCode u.fmt
    let n := t.w
    ∀ a b : BitVec n,
      let T := fun (x : BitVec n) => if t.signed then x.toInt else (x.toNat : Int)
      ∃ q r : BitVec n, computes div [a.toNat, b.toNat] = some (q.toNat, 0) ∧ computes rem [a.toNat, b.toNat] = some (r.toNat, 0) ∧
        if b = 0 then q = BitVec.allOnes n ∧ r = a
        else if t.signed = true ∧ a = BitVec.intMin n ∧ b = BitVec.allOnes n then q = a ∧ r = 0
        else T a = T q * T b + T r ∧ (T r).natAbs < (T b).natAbs ∧ (T r = 0 ∨ (0 < T r ↔ 0 < T a))

/-- R92, whole: FMIN returns the lesser operand and FMAX the greater; -0 orders below +0. If exactly one operand is NaN, the other operand is returned,
and NV is set if the NaN is signalling; if both are NaN, the canonical NaN is returned. DMIN and DMAX follow the same rules. The result is always one
operand's value, unrounded, or the canonical NaN. -/
def Obligations.FloatMinMax : Prop :=
  ∀ (w : FWord) (v : IWord) (u : Mods) (greater : Bool) (a b : Nat),
    (∀ i : Instr, (u = Mods.ofNat (fMods w) ∧ i = if greater then .fmax w else .fmin w) ∨ (u = Mods.ofI v 0xD ∧ i = if greater then .fmaxI v else .fminI v) →
      (u.fmt = 0xD → a < 2 ^ 32 → b < 2 ^ 32 → computes i [a, b] = some (lesserOf .f32 greater a b)) ∧
      (∀ (t : FFmt) (a1 b1 : Nat), (u.fmt = 0xE ∧ t = .f16) ∨ (u.fmt = 0xF ∧ t = .bf16) → a < 2 ^ 16 → b < 2 ^ 16 → a1 < 2 ^ 16 → b1 < 2 ^ 16 →
        computes i [a + 2 ^ 16 * a1, b + 2 ^ 16 * b1] = some ((lesserOf t greater a b).1 + 2 ^ 16 * (lesserOf t greater a1 b1).1,
          (lesserOf t greater a b).2 ||| (lesserOf t greater a1 b1).2))) ∧
    (∀ i : Instr, (u = Mods.ofNat (fMods w) ∧ i = if greater then .dmax w else .dmin w) ∨ (u = Mods.ofI v 0xC ∧ i = if greater then .dmaxI v else .dminI v) →
      u.fmt = 0xC → a < 2 ^ 64 → b < 2 ^ 64 → computes i [a, b] = some (lesserOf .f64 greater a b)) ∧
    (∀ t ∈ [FFmt.f64, .f32, .f16, .bf16], (lesserOf t greater a b).1 ∈ [a, b, (2 ^ t.e - 1) * 2 ^ t.f + 2 ^ (t.f - 1)])

/-- R93, whole: FCLASS and DCLASS write a 32-bit mask with exactly one bit set, that of the operand's class. Bits [31:10] are 0. They never set a flag, not
even for a signalling NaN. -/
def Obligations.FloatClass : Prop :=
  ∀ (w : FWord) (x : Nat) (t : FFmt) (i : Instr),
    ((Mods.ofNat (fMods w)).fmt = 0xD ∧ t = .f32 ∧ i = .fclass w) ∨ ((Mods.ofNat (fMods w)).fmt = 0xC ∧ t = .f64 ∧ i = .dclass w) → x < 2 ^ t.width →
    ∃ y : BitVec 32, computes i [x] = some (y.toNat, 0) ∧ ∀ k < 32, y.getLsbD k = decide (k = classOf t x)

/-- R217, whole: the predicate block of an image holds seven 64-bit masks: the mask at 0x080 + 8 × (i - 1) holds p i, for i = 1 to 7: bit L is p i of lane L for each
lane in LMASK, and 0 for every other bit. The word at 0x0B8 is reserved and holds 0. -/
def Obligations.PredicateBlock : Prop :=
  ∀ (s : State) (im : Image) (g : Group) (extra i lane : Nat), 1 ≤ i → i ≤ 7 → lane < 64 →
    ((s.imageWords im g extra).getD ((0x080 + 8 * (i - 1)) / 8) 0).getLsbD lane = (im.sg.all.getLsbD lane && decide (im.sg.reg (.p lane i) = 1)) ∧
    (s.imageWords im g extra).getD (0x0B8 / 8) 0 = 0


/-! ## Control words -/

/-- R60, R104, R105, R112, R113, R199, R212: NOP and TFENCE with no enabled flag set go on to the next word. BRA takes its active lanes to its own
address plus 8 times its signed count of words; BRX and RET each to the address in its operand, where every such address is a
multiple of 8 and, outside supervisor mode, has bit 63 clear; LOOPQ like BRA when the end flag that it names of its stream equals
the value that it tests for. The other lanes go on to the next word. No register, flag or memory changes. YIELD completes like NOP, and
its issue set stands last in the pick: it has waited no cycle and is marked. -/
def Obligations.BranchWords : Prop :=
  (∀ (s : State) (i : Instr) (r : Run) (pc : Nat → Word),
    issues s i = some r → branchForm r i = some pc → quiet r pc = true →
    ∃ t u, exec i s = .next t ∧ OnlySub s t r.sid u ∧ Completed r u pc [] 0) ∧
  (∀ (s : State) (w : FWord) (r : Run), issues s (.yield w) = some r → quiet r (nextPc r) = true →
    ∃ t u, exec (.yield w) s = .next t ∧ OnlySub s t r.sid u ∧ Kept r.sg u ∧ RegsAfter r.sg u [] ∧ u.aflags = r.sg.aflags ∧ u.seed = r.sg.seed ∧
      ∀ l, SMap.get? u.lanes l = (SMap.get? r.sg.lanes l).map (fun x =>
        if r.set.getLsbD l then { laneAfter r (nextPc r l) x with since := r.now + 1, yield := true } else x))

/-- R105, R106, R71, R77: CALL goes where BRA goes. CALLI takes each active lane to its entry address, whose low three bits hold the
callee's window budget less one and are taken as 0, when no target is privileged and no budget is above the group's. Both send the
address after them out to their destination: to an even pair in each active lane, once to a scalar register, nowhere to 0x7C. -/
def Obligations.CallWords : Prop :=
  ∀ (s : State) (i : Instr) (r : Run) (pc : Nat → Word) (dest : Operand) (link : Nat),
    issues s i = some r → linkForm r i = some (pc, dest, link) → quiet r pc = true →
    ∃ t u, exec i s = .next t ∧ Completed r u pc [] 0 ∧
      SentOut s t r u (if isS dest then dstWrites dest true 0 link else (lanesOf r.act).flatMap (fun l => dstWrites dest true l link))

/-- R107, R108, R229: a TIE whose rejoin station is its own completes when that station has a record of its meeting address or room
for one: its lanes carry the meeting address, its sub-group the rejoin station and window mask, and the record counts them as
members. A station without a record of that meeting address gets one, open, that no lane is held at yet; other records are as before. -/
def Obligations.TieWord : Prop :=
  (∀ (s : State) (w : FWord) (x : XWord) (r : Run),
    let meet := r.pc + BitVec.ofInt 64 (8 * (x.extractLsb' 0 30).toInt)
    let here := s.placeAt r.sg.mast r.sg.stn
    let r' := { r with sg := tiedSub r.sg r.act meet here w.hi }
    issues s (.tie w (some x)) = some r → meet ≠ 0 → (w.lo.getLsbD 0 = false ∨ s.crewPlace r.g = here) →
    s.tieRoom r.gid r.sg.mast r.sg.stn meet = true → quiet r' (nextPc r) = true →
    ∃ t u, exec (.tie w (some x)) s = .next t ∧ Completed r' u (nextPc r) [] 0 ∧
      t = { s.tieMember r.gid r.sg.mast r.sg.stn meet r.act with subs := SMap.put s.subs r.sid u, issuing := none }) ∧
  (∀ (s : State) (gid m n : Nat) (meet : Word) (lanes : Mask),
    let at' := fun (e : Nat × Tie) => decide (e.2.gid = gid) && decide (e.2.mast = m) && decide (e.2.stn = n) && decide (e.2.m = meet)
    match s.ties.find? at' with
    | some (i, tie) => s.tieMember gid m n meet lanes = { s with ties := SMap.upd s.ties i (fun t => { t with member := t.member ||| lanes }) } ∧
        ((s.ties.map (fun e => e.1)).Nodup → SMap.get? (s.tieMember gid m n meet lanes).ties i = some { tie with member := tie.member ||| lanes })
    | none => SMap.get? (s.tieMember gid m n meet lanes).ties s.nextId =
        some { gid := gid, mast := m, stn := n, m := meet, isOpen := true, opened := false, dl := 0, member := lanes, held := 0, sid := none } ∧
        ∀ j, j ≠ s.nextId → SMap.get? (s.tieMember gid m n meet lanes).ties j = SMap.get? s.ties j)

/-- R111: EXIT of a whole issue set ends its lanes: they leave the sub-group, and the group counts them among its ended lanes. While a
lane of the group is left, memory is unchanged. -/
def Obligations.ExitWord : Prop :=
  ∀ (s : State) (w : FWord) (r : Run), issues s (.exit w) = some r → r.act = r.set →
    ∃ t, exec (.exit w) s = .next t ∧ t = { s.endLanes r.sid r.set with issuing := none } ∧
      (∀ u, SMap.get? t.subs r.sid = some u → ∀ l, SMap.get? u.lanes l = if r.set.getLsbD l then none else SMap.get? r.sg.lanes l) ∧
      (∀ g, SMap.get? t.groups r.gid = some g → g.ended &&& (r.g.ended ||| r.set) = r.g.ended ||| r.set) ∧
      ((r.g.ended ||| r.set) &&& widthMask r.g.width ≠ widthMask r.g.width → t.mem = s.mem)

/-- R109, R131, R155, R156, R189, R190, R194, R201: JOIN of lanes that no tie point released, HOME, KSET, KTST, reads of special registers
into vector registers and of %aflags, QTRY, and BARW, GBARW and BARX with a token whose code is not 0 complete and send out their results;
only the state named with each changes beside that. -/
def Obligations.LaterWords : Prop :=
  ∀ (s s1 : State) (i : Instr) (r : Run) (ws : List (Reg × Word)),
    issues s i = some r → laterForm s r i = some (s1, ws) → quiet r (nextPc r) = true →
    ∃ t u, exec i s = .next t ∧ SentOut s1 t r u ws ∧ Completed r u (nextPc r) [] 0

/-- R132, R142, R201 to R206, R290, R292: MIGR of lanes that stand at their home and collective words with their tile predicate 0 complete
with no effect; MOVS and MOVSP, SEGLD, TLBF of a good entry outside a walk, TLBI, DLSET, CLKRD and DSTEP complete with the state,
the sub-group and the register writes named with each. Nothing else changes. -/
def Obligations.EffectWords : Prop :=
  ∀ (s s1 : State) (i : Instr) (r : Run) (g1 : SubGroup) (ws : List (Reg × Word)),
    issues s i = some r → effectForm s r i = some (s1, g1, ws) → quiet r (nextPc r) = true →
    ∃ t u, exec i s = .next t ∧ OnlySub s1 t r.sid u ∧ Completed { r with sg := g1 } u (nextPc r) ws 0

/-- R109, R183: JOIN of lanes that a complete or a drained tie point released returns them to the enclosing tie point: each lane's
meeting address, the rejoin station and the window mask are its operands; BWAIT of lanes none of whose calls is left completes.
The status goes out as a result of variable latency. Memory is unchanged. -/
def Obligations.SettlingWords : Prop :=
  ∀ (s : State) (i : Instr) (r : Run) (g1 : SubGroup) (code : Nat) (dest : Operand),
    issues s i = some r → settleForm s r i = some (g1, code, dest) → quiet { r with sg := g1 } (nextPc r) = true →
    ∃ t u, exec i s = .next t ∧ SMap.get? t.subs r.sid = some u ∧ Completed { r with sg := g1 } u (nextPc r) [] 0 ∧ t.mem = s.mem ∧
      SMap.get? t.groups r.gid = some (if isS dest then
        withOutst r.g s.nextId r.low r.set ((dstWrites dest true 0 code).map (fun w => (w.1, some w.2))) else r.g)

/-! ## Memory words -/

/-- R117, R123, R124, R71: LDG, LDL and LDS whose accesses are all local send out what stands at each lane's place, extended to
their register run, and complete; memory and every register are unchanged. -/
def Obligations.LoadWords : Prop :=
  ∀ (s : State) (i : Instr) (w : FWord) (x : Option XWord) (sp : Space) (r : Run) (cells : Nat → Nat),
    loadForm i = some (w, x, sp) → issues s i = some r →
    LocalAccess s r sp (szBytes (szOf w)) 0 (memAddr w x r) cells → Sound s (lanesOf r.act) cells (szBytes (szOf w)) →
    quiet r (nextPc r) = true →
    ∃ t u, exec i s = .next t ∧ SentOut s t r u (loadWrites s r w cells) ∧ Completed r u (nextPc r) [] 0

/-- R122, R123: STG, STL and STS whose accesses are all local store each lane's register run at its place, in ascending lane
order, and complete. Every other byte of memory and every register is unchanged, and the value of the last lane that stores
to a place stands there. -/
def Obligations.StoreWords : Prop :=
  ∀ (s : State) (i : Instr) (w : FWord) (x : Option XWord) (sp : Space) (r : Run) (cells : Nat → Nat),
    let n := szBytes (szOf w)
    let v := runValue r w.c (szRegs (szOf w))
    storeForm i = some (w, x, sp) → issues s i = some r →
    LocalAccess s r sp n 1 (memAddr w x r) cells → Sound s (lanesOf r.act) cells n → quiet r (nextPc r) = true →
    ∃ t u, exec i s = .next t ∧ Completed r u (nextPc r) [] 0 ∧
      t = { s with mem := (lanesOf r.act).foldl (fun m l => writeMem m (cells l) (leBytes n (v l))) s.mem,
                   subs := SMap.put s.subs r.sid u, issuing := none } ∧
      (∀ a, Outside (lanesOf r.act) cells n a → RMap.get (n := 8) t.mem a = RMap.get (n := 8) s.mem a) ∧
      (∀ l ∈ lanesOf r.act, (∀ k ∈ lanesOf r.act, l < k → cells k + n ≤ cells l ∨ cells l + n ≤ cells k) →
        t.num (cells l) n = v l % 2 ^ (8 * n))

/-- R122, R126 to R128: ATOM and ATOMCAS whose accesses are all local perform their operation in ascending lane order, each lane
finding what the lanes before it left, send out what each found, and complete. Bytes outside the lanes' places are unchanged.
Operations on one place by several lanes are made one after another in the order given: each finds what the one before it left: an
ATOM leaves the result of its operation, an ATOMCAS its swap value where it found its comparison value, a load nothing. -/
def Obligations.AtomicWords : Prop :=
  (∀ (s : State) (i : Instr) (w : FWord) (x : Option XWord) (op : ThreadOp) (data swap : Run → Nat → Nat) (r : Run) (cells : Nat → Nat),
    let out := State.performOps op (laneItems r (memAddr w x r) (data r) (swap r) cells) s
    atomForm i = some (w, x, op, data, swap) → issues s i = some r →
    LocalAccess s r .glob op.size 1 (memAddr w x r) cells → Sound s (lanesOf r.act) cells op.size →
    (∀ l ∈ lanesOf r.act, cellMast (sectorOf (cells l)) / 16 = s.dev ∧ (s.jrnOf (cellMast (sectorOf (cells l)) % 16)).atom = false) →
    quiet r (nextPc r) = true →
    ∃ t u, exec i s = .next t ∧ Completed r u (nextPc r) [] 0 ∧
      SentOut { s with mem := out.1.mem } t r u
        (if isS w.dest then dstWrites w.dest true 0 ((out.2.head?.map (fun e => e.2)).getD 0)
         else out.2.flatMap (fun e => dstWrites w.dest (decide (op.size = 8)) e.1 e.2)) ∧
      (∀ a, Outside (lanesOf r.act) cells op.size a → RMap.get (n := 8) t.mem a = RMap.get (n := 8) s.mem a)) ∧
  (∀ (s : State) (op : ThreadOp) (cell : Nat) (xs : List LaneAcc), Inv s →
    let go := xs.foldl (fun (e : Nat × List (Nat × Nat)) o => ((op.result o e.1).getD e.1 % 2 ^ (8 * op.size), e.2 ++ [(o.lane, e.1)])) (s.num cell op.size, [])
    let out := State.performOps op (xs.map (fun o => (o, cell))) s
    out.1.num cell op.size = go.1 ∧ out.2 = go.2 ∧ Inv out.1 ∧
      ∀ a, a < cell ∨ cell + op.size ≤ a → RMap.get (n := 8) out.1.mem a = RMap.get (n := 8) s.mem a)

/-- R118, R198: a memory word that fails one of the checks traps with its whole active mask before any access: FMASK names the
failing lanes and INFO is the address of the lowest of them. -/
def Obligations.MemoryChecks : Prop :=
  ∀ (s : State) (i : Instr) (w : FWord) (x : Option XWord) (sp : Space) (wr : Bool) (r : Run) (f : MemFail),
    (if wr then storeForm i else loadForm i) = some (w, x, sp) → issues s i = some r →
    s.memCheck r sp (szBytes (szOf w)) true true (memAddr w x r) = some f →
    exec i s = .next { r.trap s f.cause f.detail (memAddr w x r (f.lanes.headD 0)) (maskOf f.lanes) with issuing := none }

/-- R129, R130, R139: POST and RED whose addresses pass their checks complete at issue: they count one operation of path 1 for each active
lane, by how far its home lies, and send each lane's operation off towards its home; no byte of memory and no register changes. Words
of the walker group do so where every address is one that the walker group may reach. -/
def Obligations.PostedWords : Prop :=
  ∀ (s : State) (i : Instr) (w : FWord) (x : Option XWord) (red : Option (Nat × Nat)) (size : Nat) (r : Run) (data : Nat → Nat),
    ((i = .post w x ∧ red = none ∧ size = szBytes (szOf w) ∧ data = runValue r w.c (szRegs (szOf w))) ∨
     (i = .red w x ∧ red = some (w.hi.toNat / 16, w.hi.toNat % 8) ∧ size = (if atomWide (w.hi.toNat % 8) then 8 else 4) ∧
      data = r.val (atomWide (w.hi.toNat % 8)) w.c)) →
    issues s i = some r → s.memCheck r .glob size false false (memAddr w x r) = none →
    (r.g.walker = true → ∀ l ∈ lanesOf r.act, s.laneAt r .glob (memAddr w x r l) 1 ≠ .walkEnd) → quiet r (nextPc r) = true →
    ∃ t u g, exec i s = .next t ∧ Completed r u (nextPc r) [] 0 ∧ t.mem = s.mem ∧
      SMap.get? t.subs r.sid = some u ∧ SMap.get? t.groups r.gid = some g ∧
      (∀ k < 4, RMap.get g.counts (4 + k) = RMap.get r.g.counts (4 + k) + BitVec.ofNat 32
        ((lanesOf r.act).filter (fun l => match s.laneHome r .glob (memAddr w x r l) with
          | some h => decide (s.reachOf r.g h.2.1 h.2.2 = k)
          | none => false)).length) ∧
      ∀ l ∈ lanesOf r.act, ∀ h, s.laneHome r .glob (memAddr w x r l) = some h → ∃ k m ops reach y, SMap.get? t.msgs k = some m ∧
        m.src = stnPort r.sg.mast r.sg.stn ∧ m.dst = (if h.2.2 = 64 then mastPort h.2.1 else stnPort h.2.1 h.2.2) ∧
        m.body = .posted r.gid r.g.ctx red size ops reach y ∧
        ({ lane := l, addr := s.dirOf r (memAddr w x r l), data := data l, swap := 0 } : LaneAcc) ∈ ops

/-- R121, R132, R216, R220: MIGR.G whose active lanes are all the lanes of their sub-group, with one meeting address and one home elsewhere: they leave in one continuation of kind 1 for that home, with the word still to be done there, and stand in transit. -/
def Obligations.MigrateAway : Prop :=
  ∀ (s : State) (w : FWord) (x : Option XWord) (r : Run) (h : Nat × Nat × Nat) (meet : Word),
    issues s (.migrG w x) = some r → s.memCheck r .glob 0 false true (memAddr w x r) = none → r.g.walker = false → r.act = r.set →
    (∀ l ∈ lanesOf r.act, s.laneHome r .glob (memAddr w x r l) = some h ∧ (SMap.get? r.sg.lanes l).map (fun y => y.meet) = some meet) →
    (∀ e ∈ r.sg.lanes, r.act.getLsbD e.1 = true ∧ SMap.get? r.sg.lanes e.1 = some e.2) → isHere r.sg h = false →
    ∃ t im, exec (.migrG w x) s = .next t ∧ SMap.get? t.images s.nextId = some im ∧
      im.kind = 1 ∧ im.tdev = h.1 ∧ im.tmast = h.2.1 ∧ im.tstn = h.2.2 ∧ im.smast = r.sg.mast ∧ im.sstn = r.sg.stn ∧
      im.phase = .departing ∧ t.mem = s.mem ∧
      ∀ l, r.act.getLsbD l = true → ∃ u y z, SMap.get? t.subs r.sid = some u ∧ SMap.get? u.lanes l = some y ∧ y.st = .transit ∧
        SMap.get? r.sg.lanes l = some z ∧ y.pc = z.pc ∧ ∃ c, SMap.get? im.sg.lanes l = some c ∧ c.pc = z.pc

/-- R125, R251, R252: an LDW whose comparison holds in every active lane when it is first made, outside a walk, is passed at once: what each
lane read stands in its destination and the status is OK (0). Lanes that its guard leaves out stand by meanwhile. -/
def Obligations.WaitingLoadSatisfied : Prop :=
  ∀ (s : State) (w : FWord) (x : XWord) (r : Run) (cells : Nat → Nat),
    let wide := decide (szOf w = 5)
    let n := if wide then 8 else 4
    issues s (.ldw w (some x)) = some r → r.g.walker = false → r.stall = stallOf r.iw →
    LocalAccess s r .glob n 0 (memAddr w (some x) r) cells → Sound s (lanesOf r.act) cells n →
    (∀ l ∈ lanesOf r.act, ldwHolds (fieldOf x 46 3) (x.getLsbD 49) wide (s.num (cells l) n) (r.val wide w.c l) = true) →
    quiet r (nextPc r) = true →
    ∃ t u, exec (.ldw w (some x)) s = .next t ∧ SMap.get? t.subs r.sid = some u ∧ t.mem = s.mem ∧ StoodBy s t r s.nextId ∧
      Passed r u (nextPc r) ((lanesOf r.act).flatMap (fun l => dstWrites w.dest wide l (s.num (cells l) n)) ++ statusWrites (xaOf x) 0)


/-! ## Streams and fences -/

/-- R134; R135: QCFG with every lane of its group here, a stream register that is CLOSED, a descriptor that it accepts and room for the depth
opens an affine stream at its start and gives status OK (0). QIDX on an affine stream that no other stream is bound to opens an indirect
stream over it, with the loops of the index stream, binds the index stream, and gives status OK (0). -/
def Obligations.OpenStreams : Prop :=
  (∀ (s : State) (w : FWord) (r : Run),
    let d := descOf r w.a
    issues s (.qcfg w) = some r → s.allHere r = true → SMap.get? r.g.streams (qNum w.dest) = none → GoodWalk d →
    s.depthUsed r.sg.mast r.sg.stn + depthOf (d 2) ≤ 4096 → quiet r (nextPc r) = true →
    ∃ t u q, exec (.qcfg w) s = .next t ∧ Completed r u (nextPc r) [] 0 ∧
      SentOut (s.updGroup r.gid (fun g => { g with streams := SMap.put g.streams (qNum w.dest) q })) t r u (dstWrites w.c true 0 0) ∧
      q.mast = r.sg.mast ∧ q.stn = r.sg.stn ∧ q.base = d 0 ∧ q.n0 = fieldOf (d 1) 0 32 ∧ q.n1 = fieldOf (d 1) 32 32 ∧ q.n2 = fieldOf (d 2) 0 32 ∧
      q.st0 = d 3 ∧ q.st1 = d 4 ∧ q.st2 = d 5 ∧ q.esz.toNat = fieldOf (d 2) 44 3 ∧ q.depth = depthOf (d 2) ∧ q.qi = none ∧ q.ind = false ∧
      q.bound = false ∧ q.pos = 0 ∧ q.e = 0 ∧ q.got = [] ∧ q.secs = [] ∧ q.reqs = []) ∧
  (∀ (s : State) (w : FWord) (r : Run) (b : Stream),
    let d := descOf r w.a
    issues s (.qidx w) = some r → s.allHere r = true → SMap.get? r.g.streams (qNum w.b) = some b → b.ind = false → b.bound = false →
    SMap.get? r.g.streams (qNum w.dest) = none → fieldOf (d 1) 0 3 ≤ 5 → fieldOf (d 1) 44 20 = 0 → fieldOf (d 1) 6 26 = 0 → (d 1).getLsbD 3 = false →
    s.depthUsed r.sg.mast r.sg.stn + depthOf (d 1) ≤ 4096 → quiet r (nextPc r) = true →
    ∃ t u q g, exec (.qidx w) s = .next t ∧ Completed r u (nextPc r) [] 0 ∧
      SentOut (s.updGroup r.gid (fun _ => g)) t r u (dstWrites w.c true 0 0) ∧
      SMap.get? g.streams (qNum w.dest) = some q ∧ SMap.get? g.streams (qNum w.b) = some { b with bound := true } ∧
      (∀ k, k ≠ qNum w.dest → k ≠ qNum w.b → SMap.get? g.streams k = SMap.get? r.g.streams k) ∧
      q.ind = true ∧ q.qi = some (qNum w.b) ∧ q.base = d 0 ∧ q.esz.toNat = fieldOf (d 1) 0 3 ∧ q.sc = fieldOf (d 1) 4 2 ∧ q.depth = depthOf (d 1) ∧
      q.n0 = b.n0 ∧ q.n1 = b.n1 ∧ q.n2 = b.n2 ∧ q.pos = 0 ∧ q.e = 0 ∧ q.got = [] ∧ q.secs = [] ∧ q.reqs = [])

/-- R113, R136: QLD whose elements have all arrived, none of them to trap, delivers them to its active lanes in ascending order,
at most to the end of the innermost loop, moves the stream on, and completes. -/
def Obligations.StreamLoad : Prop :=
  ∀ (s : State) (w : FWord) (r : Run) (q : Stream),
    let n := (lanesOf r.act).length
    issues s (.qld w) = some r → streamOf r.g w.a = some q → q.arrived n = true →
    (∀ j < q.take n, ∀ x, fed q n j = some x → x.trap = none) → quiet r (nextPc r) = true →
    ∃ t u q', exec (.qld w) s = .next t ∧ Completed r u (nextPc r) [] 0 ∧ Delivered q q' (q.take n) ∧
      SentOut (s.updGroup r.gid (fun g => { g with streams := SMap.put g.streams (qNum w.a) q' })) t r u (feedWrites r w q)

/-- R137: QCLOSE closes its stream, and with an indirect stream the index stream under it, and completes. -/
def Obligations.StreamClose : Prop :=
  ∀ (s : State) (w : FWord) (r : Run) (q : Stream), issues s (.qclose w) = some r → SMap.get? r.g.streams (qNum w.a) = some q →
    quiet r (nextPc r) = true →
    ∃ t u g, exec (.qclose w) s = .next t ∧ Completed r u (nextPc r) [] 0 ∧
      t = { s with subs := SMap.put s.subs r.sid u, groups := SMap.put s.groups r.gid g, issuing := none } ∧
      g = { r.g with streams := g.streams } ∧
      ∀ k, SMap.get? g.streams k = if k = qNum w.a ∨ q.qi = some k then none else SMap.get? r.g.streams k

/-- R139 to R141, R251: FENCE and FENCE.X are passed at once when no operation of the named paths is left within their scope: the
bitmap names every path; the status is OK (0), or ERROR (7) where a named path has an error record, which is cleared. Lanes that the
guard leaves out stand by meanwhile. -/
def Obligations.FenceWords : Prop :=
  ∀ (s : State) (i : Instr) (w : FWord) (paths : BitVec 6) (b : Option Nat) (r : Run),
    let err := r.g.errs &&& paths ≠ 0
    fenceForm i = some (w, paths, b) → issues s i = some r → r.stall = stallOf r.iw →
    s.pathsDone r.gid r.g paths (w.lo.toNat % 8) = paths → quiet r (nextPc r) = true →
    ∃ t u g, exec i s = .next t ∧ t.mem = s.mem ∧ SMap.get? t.subs r.sid = some u ∧ SMap.get? t.groups r.gid = some g ∧
      g.errs = r.g.errs &&& ~~~(if err then paths else 0) ∧ StoodBy s t r s.nextId ∧
      Passed r u (nextPc r) (statusWrites w.b paths.toNat ++ statusWrites w.dest (if err then 7 else 0))


/-! ## Matrix and tile words -/

/-- R142, R144, R147, R148, R154, R155, R157, R158; R150, R151: MMA, MMA.BS, BMC, BMX, KSET.IMG, MPART and SMERGE, issued by every lane of
their group with their tile predicate true, a width that they take and data that pass their checks, send out their results and complete.
MMA.SP, issued so, with no more nonzero elements than its capacities and a step count that its shape has, sends out its results and 0 for
%tprog and completes; stopped at a quad boundary for a preemption, it holds the results of the quads before it in its registers and
their number in %tprog, and its lanes stand at the word. MMA, MMA.BS and MMA.SP occupy the matrix array. -/
def Obligations.CollectiveWords : Prop :=
  (∀ (s s1 : State) (i : Instr) (kp : Nat) (wok : Run → Bool) (out : Run → Option (State × List (Reg × Word) × Flags)) (r : Run)
    (ws : List (Reg × Word)) (fl : Flags),
    matrixForm s i = some (kp, wok, out) → issues s i = some r → r.kp kp = true → wok r = true → r.act = widthMask r.g.width →
    out r = some (s1, ws, fl) → quiet r (nextPc r) = true →
    ∃ t u, exec i s = .next t ∧ SentOut s1 t r u ws ∧ Completed r u (nextPc r) [] fl) ∧
  (∀ (s : State) (w : FWord) (x : XWord) (r : Run),
    let m := MWord.ofF w
    let nq := (mShapeOf m).k / 4
    let wd := s.issuingWidth
    issues s (.mmaSp w (some x)) = some r → r.kp m.kp = true → mWidthOk (mShapeOf m) r.g = true → r.act = widthMask r.g.width →
    (mmaSpCounts wd w x r).1 ≤ (mmaSpCaps w x).1 → (mmaSpCounts wd w x r).2 ≤ (mmaSpCaps w x).2 → r.tprog ≤ nq →
    (s.stopAt r.tprog nq = none → quiet r (nextPc r) = true →
      ∃ t u, exec (.mmaSp w (some x)) s = .next t ∧
        SentOut (r.takeArray s (mmaSpCycles wd r.tprog nq w x r)) t r u ((mmaSpOut wd nq w x r).1 ++ [(.x 0x0D, 0)]) ∧
        Completed r u (nextPc r) [] (mmaSpOut wd nq w x r).2) ∧
    (∀ q, s.stopAt r.tprog nq = some q →
      ∃ t u, exec (.mmaSp w (some x)) s = .next t ∧ OnlySub (r.takeArray s (mmaSpCycles wd r.tprog q w x r)) t r.sid u ∧
        u.lanes = r.sg.lanes ∧ Kept { r.sg with tprog := BitVec.ofNat 32 q } u ∧ RegsAfter r.sg u (mmaSpOut wd q w x r).1 ∧
        u.aflags = r.sg.aflags ||| ((mmaSpOut wd q w x r).2 &&& 0x3F) ∧ u.seed = r.sg.seed))


/-! ## Words that wait, copies, reductions and calls -/

/-- R172, R177, R189, R194, R251, R252: CPW, CAPW, BARW, GBARW, QPUSH and QPOP that find what they wait for are passed at once: their status
and, for QPOP, the entry stand in their registers, and memory is as their queue leaves it. Every other wait is as before, but that lanes
which the guard leaves out stand by. -/
def Obligations.MetAtOnce : Prop :=
  ∀ (s : State) (i : Instr) (r : Run) (ws : List (Reg × Word)) (m : Memory),
    issues s i = some r → metForm s r i = some (ws, m) → r.stall = stallOf r.iw → quiet r (nextPc r) = true →
    ∃ t u, exec i s = .next t ∧ SMap.get? t.subs r.sid = some u ∧ Passed r u (nextPc r) ws ∧ t.mem = m ∧ StoodBy s t r s.nextId

/-- R107, R136, R140, R141, R172, R187 to R191, R194, R229, R251, R253: a word that waits: its lanes stand at it, the
wait holds its deadline or bound and its status operand, and the message to the unit that must answer goes out. Lanes that its guard
leaves out stand by. No register and no byte of memory changes. -/
def Obligations.WaitsBegin : Prop :=
  ∀ (s : State) (i : Instr) (r : Run) (b : Begun),
    issues s i = some r → waitForm s r i = some b →
    ∃ t u, exec i s = .next t ∧ SMap.get? t.subs r.sid = some u ∧ Stopped { r with act := r.set } u .waiting ∧ (∀ y, u.reg y = r.sg.reg y) ∧
      t.mem = s.mem ∧
      SMap.get? t.waits s.nextId = some
        { sid := r.sid, lanes := r.act, kind := b.kind, dk := b.dk, bound := b.bound, status := b.status, pc := r.pc, len := r.len,
          iword := r.iw, xword := r.xw } ∧ StoodBy s t r s.nextId ∧
      (∀ k, SMap.get? t.msgs k = if k = s.nextId + (if r.act = r.set then 1 else 2) ∧ b.msg.isSome then b.msg else SMap.get? s.msgs k)

/-- R164, R165, R167, R169, R170: CP, CPM and CPCV with a good descriptor, whose tag takes the slice and whose engine has a free entry, are
accepted: the lanes go on, the status is outstanding, and the tag gathers the parts or, with the last of them, its copy runs. Nothing
is copied yet. -/
def Obligations.CopyWords : Prop :=
  ∀ (s : State) (i : Instr) (w : FWord) (q : CopyReq) (r : Run) (c : Crew),
    let had := match c.tag q.tag with | .gathering _ _ n _ => n | _ => 0
    issues s i = some r → copyForm s r i = some (w, q) → r.stall = stallOf r.iw → GoodCopy s r q → 0 < q.kind.units →
    r.g.cid.bind (SMap.get? s.crews) = some c → s.linked (r.sg.mast / 16) (c.mast / 16) = true →
    (c.tag q.tag).answer q.round q.parts = .take → (∀ e ∈ s.slices, e.2.entry = true ∧ e.2.refused = false) →
    (s.rsvFree (r.g.cid.getD 0) c.mast (c.stn / 4) = true ∨ s.sharedFree c.mast (c.stn / 4) = true) → quiet r (nextPc r) = true →
    ∃ t u c' sl g, exec i s = .next t ∧ SMap.get? t.subs r.sid = some u ∧ Passed r u (nextPc r) [] ∧ t.mem = s.mem ∧
      StoodBy s t r (s.nextId + 1) ∧
      SMap.get? t.slices s.nextId = some sl ∧ sl.gid = r.gid ∧ sl.kind = q.kind ∧ sl.tag = q.tag ∧ sl.round = q.round ∧ sl.parts = q.parts ∧
      sl.dev = s.dev ∧ sl.entry = true ∧ sl.done = [] ∧ sl.dl = r.sval w.a ∧
      SMap.get? t.crews (r.g.cid.getD 0) = some c' ∧
      (if had + 1 = q.parts then c'.tag q.tag = .running q.round else ∃ left, c'.tag q.tag = .gathering q.round q.parts (had + 1) left) ∧
      SMap.get? t.groups r.gid = some g ∧
      (isS w.dest = true → ∃ o ∈ g.outst, o.id = sl.sreg ∧ o.writes = (dstWrites w.dest true 0 0).map (fun x => (x.1, none)))

/-- R173; R178: CAPR of a block that passes the checks, with room in its mast's Capstan and every sector of the block at hand, is accepted:
its status is OK (0), the Capstan's last entry holds the block's words, and STAT holds 0xFF. No other byte of memory changes. BCALL.T and
BCALL.N whose records pass the checks send one call from each active lane, with its record's address; the active lanes of BCALL.T go to the
waiting pool, and all others go on to the next word. No register and no byte of memory changes. -/
def Obligations.ReductionAndCallWords : Prop :=
  (∀ (s : State) (w : FWord) (r : Run) (cells : Nat → Nat),
    let va := s.directOf r.g (r.sval w.b)
    let m := s.vaMast va
    let id := capEng s r va
    issues s (.capr w) = some r → r.stall = stallOf r.iw → s.blockTrap r (r.sval w.b) = none → s.linked (r.sg.mast / 16) (m / 16) = true →
    (s.mast m).caps.length < 32 → s.blockMeets id va = none → (∀ i < 24, s.engAt id (va + BitVec.ofNat 64 (8 * i)) 0 = .ok (cells i)) →
    quiet r (nextPc r) = true →
    ∃ t u e, exec (.capr w) s = .next t ∧ SMap.get? t.subs r.sid = some u ∧ Passed r u (nextPc r) (statusWrites w.dest 0) ∧
      StoodBy s t r s.nextId ∧ (t.mast m).caps = (s.mast m).caps ++ [e] ∧ e.gid = r.gid ∧ e.ctx = r.g.ctx ∧ e.dev = r.sg.mast / 16 ∧
      e.blk = va ∧ e.fin = none ∧ e.words = (List.range 24).map (fun i => s.word (cells i)) ∧
      t.mem = writeMem s.mem (cells 4) (leBytes 8 0xFF)) ∧
  (∀ (s : State) (i : Instr) (w : FWord) (x : Option XWord) (parks : Bool) (r : Run),
    i = (if parks then Instr.bcallT w x else Instr.bcallN w x) → issues s i = some r →
    s.memCheck r .glob 32 false false (memAddr w x r) = none → quiet r (nextPc r) = true →
    ∃ t u, exec i s = .next t ∧ SMap.get? t.subs r.sid = some u ∧ t.mem = s.mem ∧
      (if parks then (∀ y, u.reg y = r.sg.reg y) ∧ ∀ l, SMap.get? u.lanes l = (SMap.get? r.sg.lanes l).map (fun x =>
          if r.act.getLsbD l then { x with st := .parked } else if r.set.getLsbD l then laneAfter r (nextPc r l) x else x)
       else Completed r u (nextPc r) [] 0) ∧
      ∀ l ∈ lanesOf r.act, ∃ k c, SMap.get? t.calls k = some c ∧ c.gid = r.gid ∧ c.ctx = r.g.ctx ∧ c.dev = s.dev ∧ c.lane = l ∧
        c.record = s.directOf r.g (memAddr w x r l) ∧ c.after = r.pc + BitVec.ofNat 64 r.len ∧ c.phase = .queued ∧ c.wait2 = !parks ∧
        c.wait = if parks then some s.nextId else none)


/-! ## Traps, trap return, and contexts in memory -/

/-- R199, R196; R206: TRAP, and TFENCE with an enabled flag set and every result written, trap their active lanes with cause 0x0F or 0x0E; the
lanes resume after the word. HALT of a whole issue set stops its lanes at the next word, with their slot kept, and reports them to the
host. -/
def Obligations.TrapAndHaltWords : Prop :=
  (∀ (s s1 : State) (i : Instr) (r : Run) (cause : BitVec 8) (info : Word),
    issues s i = some r → r.act = r.set → trapForm s r i = some (s1, cause, info) →
    exec i s = .next { s1.enterTrap r.sid r.act
      { cause := cause, detail := 0, info := info, fmask := r.act, next := true, tpc := r.pc, len := r.len, iword := r.iw, xword := r.xw } with issuing := none }) ∧
  (∀ (s : State) (w : FWord) (r : Run), issues s (.halt w) = some r → r.act = r.set → quiet r (fun _ => r.pc + 8) = true →
    ∃ t u, exec (.halt w) s = .next t ∧ SMap.get? t.subs r.sid = some u ∧ Kept r.sg u ∧ RegsAfter r.sg u [] ∧ t.mem = s.mem ∧
      (∀ l, SMap.get? u.lanes l = (SMap.get? r.sg.lanes l).map (fun x =>
        if r.set.getLsbD l then { laneAfter r (r.pc + 8) x with st := .halted } else x)) ∧
      t.events = s.events ++ [haltEvent s r])

/-- R70, R196, R197, R301: a trap of some lanes of a group with a free frame, a trap vector that is no lane's meeting address, and a frame
whose every word has its place: the frame's 80 words stand at their places, the lanes stand ready at the vector, where they issue when the
trapped word's stall count allows, the sub-group is in supervisor mode, %tframe is the frame's address, the depth is one more, and the
frame is in use by those lanes. Lanes that do not trap, and all registers, are unchanged. The frame of a crew of the device in place lies
in its group's save slot. -/
def Obligations.TrapEntry : Prop :=
  (∀ (s : State) (sid : Nat) (lanes : Mask) (q : TrapReq) (sg : SubGroup) (g : Group) (c : Ctx) (cr : Crew) (va : Word) (f : Nat) (cells : Nat → Nat),
    let t := s.enterTrap sid lanes q
    SMap.get? s.subs sid = some sg → SMap.get? s.groups sg.gid = some g → SMap.get? s.ctxs g.ctx = some c → s.crewOf g = some cr →
    s.frameOf g cr f = some va → g.freeFrame = some f → c.tvec ≠ 0 →
    (∀ i < 80, s.frameAt g.ctx c (va + BitVec.ofNat 64 (8 * i)) = .cell (cells i)) →
    (∀ i < 80, ∀ j < 80, i ≠ j → cells i + 8 ≤ cells j ∨ cells j + 8 ≤ cells i) →
    (∀ e ∈ sg.lanes, if lanes.getLsbD e.1 then e.2.meet = 0 ∨ e.2.meet ≠ c.tvec
      else ¬(e.2.st = .ready ∧ e.2.rel = none ∧ e.2.refuse = none ∧ e.2.meet ≠ 0 ∧ e.2.pc = e.2.meet)) →
    ∃ u g', SMap.get? t.subs sid = some u ∧
      (∀ i < 80, t.word (cells i) = (frameWords sg lanes (s.heldAt sg.gid sg.mast sg.stn) q).getD i 0) ∧
      (∀ l, SMap.get? u.lanes l = (SMap.get? sg.lanes l).map (fun x =>
        if lanes.getLsbD l then { x with pc := c.tvec, st := .ready, step := false, rel := none, refuse := none,
                                         readyAt := max x.readyAt ((s.stn sg.mast sg.stn).cycles + max (stallField q.iword) 1) } else x)) ∧
      Kept { sg with tframe := va, depth := sg.depth + 1, ctl := sg.ctl ||| 4 } u ∧ RegsAfter sg u [] ∧ u.aflags = sg.aflags ∧ u.seed = sg.seed ∧
      SMap.get? t.groups sg.gid = some g' ∧ g' = { g with frames := g'.frames } ∧ SMap.get? g'.frames f = some lanes ∧
      ∀ a, (∀ i < 80, a < cells i ∨ cells i + 8 ≤ a) → RMap.get (n := 8) t.mem a = RMap.get (n := 8) s.mem a) ∧
  (∀ (s : State) (g : Group) (c : Ctx) (cr : Crew) (f : Nat) (slots : Word), SMap.get? s.ctxs g.ctx = some c → cr.mast / 16 = s.dev →
    s.slotArray g.ctx c = some slots → s.frameOf g cr f = some (frameAddr slots (cr.mast % 16) cr.stn g.gix f))

/-- R200, R197: TRET of all the lanes that a frame names, none of them ended or held, with return addresses that are multiples of 8 and, for a
return to user mode, not privileged: each lane goes to its return address, s28 to s31, the mode, %tframe and the depth are what the
frame holds, and the frame is free. No other register and no byte of memory changes. -/
def Obligations.TrapReturn : Prop :=
  ∀ (s : State) (w : FWord) (r : Run) (c : Ctx) (ws : List Word) (cells : List Nat),
    let f := Frame.ofWords ws
    let pc := fun l => f.rpc.getD l 0
    issues s (.tret w) = some r → r.act = r.set → r.sg.tframe ≠ 0 → s.ctxOf r.g = some c → s.sysRead r.g.ctx c r.sg.tframe 80 = .words ws cells →
    s.soft = [] → r.act = f.amask &&& ~~~r.g.ended → r.act &&& ~~~f.rmask = 0 → f.hmask = 0 → r.sg.armed = none →
    (∀ l ∈ lanesOf r.act, (pc l).toNat % 8 = 0) → (∀ l < 64, (pc l).getLsbD 63 = false ∨ f.psv = true) → quiet r pc = true →
    ∃ t u, exec (.tret w) s = .next t ∧ SMap.get? t.subs r.sid = some u ∧ Moved r u pc ∧
      RegsAfter r.sg u (f.save.zipIdx.map (fun e => (.s (28 + e.2), e.1))) ∧
      Kept { r.sg with tframe := f.prev, depth := r.sg.depth - 1, ctl := if f.psv then r.sg.ctl ||| 4 else r.sg.ctl &&& ~~~4#64 } u ∧
      u.aflags = r.sg.aflags ∧ u.seed = r.sg.seed ∧ t.mem = s.mem ∧
      SMap.get? t.groups r.gid = some (match s.frameNo r.g r.sg.tframe with
        | some n => { r.g with frames := SMap.del r.g.frames n }
        | none => r.g)

/-- R207, R216 to R218; R207: CTXSAVE of a whole issue set, with no stream open and no result outstanding for it, writes its image, sector by
sector, where the address names, and ends its lanes; their identity stays reserved for the image. CTXLOAD of a good image whose lanes are
reserved gives its mast's router the image and completes with status OK (0). -/
def Obligations.ImageWords : Prop :=
  (∀ (s s1 : State) (w : FWord) (x : Option XWord) (r : Run) (c : Ctx) (im : Image) (ws : List Word) (cells : List Nat),
    issues s (.ctxsave w x) = some r → r.act = r.set → s.memCheck r .glob 32 false false (memAddr w x r) = none → s.ctxOf r.g = some c →
    r.g.streaming = false → r.g.outst = [] → s.saveImage r = (im, s1) →
    s1.sysPlaces r.g.ctx c (memAddr w x r r.low) im.flits = .words ws cells →
    ∃ t, exec (.ctxsave w x) s = .next t ∧ t.mem = (s1.putSectors cells (s1.imageWords im r.g 0)).mem ∧
      (∀ u, SMap.get? t.subs r.sid = some u → ∀ l, r.act.getLsbD l = true → SMap.get? u.lanes l = none) ∧
      ∀ g, SMap.get? t.groups r.gid = some g → g.imaged = r.g.imaged ||| r.act) ∧
  (∀ (s : State) (w : FWord) (x : Option XWord) (r : Run) (c : Ctx) (head ws : List Word) (c1 c2 : List Nat) (gid : Nat),
    let va := memAddr w x r r.low
    let h := ImageHead.ofWords (head ++ List.replicate 8 0)
    let full := ImageHead.ofWords ws
    issues s (.ctxload w x) = some r → s.memCheck r .glob 32 false false (memAddr w x r) = none → s.ctxOf r.g = some c → s.soft = [] →
    s.sysRead r.g.ctx c va 16 = .words head c1 → h.len ≤ 526 → s.loadOk r h = some gid →
    s.sysRead r.g.ctx c va (4 * h.len) = .words ws c2 → full.ok = true → r.sid < s.nextId →
    SMap.get? (s.loadImage gid (s.vaMast (s.directOf r.g va)) full ws).subs r.sid = some r.sg → quiet r (nextPc r) = true →
    ∃ t u, exec (.ctxload w x) s = .next t ∧ Completed r u (nextPc r) [] 0 ∧
      SentOut (s.loadImage gid (s.vaMast (s.directOf r.g va)) full ws) t r u (dstWrites w.dest true 0 0))


/-! ## Encodings, issue and steps -/

/-- R59 to R63, R76, R77, R83: words that the spec writes out decode to the instructions that they stand for. -/
def Obligations.DecodeListedWords : Prop :=
  (decode 0x8400_5040_8FF0_0000 none = .faddI { gneg := false, guard := 0, stall := 5, dest := .v 2, a := .v 2, imm := 0x0FF0_0000, x := none }) ∧
  (decode 0x4660_4010_5302_C286 none = .pairedWord { stall := 1, ha := { hop := .ffma, guard := 0, dest := .v 8, a := .v 1, b := .v 2 }, hb := { hop := .ffma, guard := 0, dest := .v 11, a := .v 5, b := .v 6 } }) ∧
  (decode 0x0C49_A0A1_317C_0D00 none = .segscan { gneg := true, guard := 1, stall := 10, dest := .v 5, a := .v 4, b := .p 2, c := .zero, hi := 0x0D, lo := 0 }) ∧
  (decode 0x1480_00D1_0082_01C0 (some 0xC010_3E7C_0000_0010) =
    .atom { gneg := false, guard := 0, stall := 0, dest := .v 6, a := .s 4, b := .v 1, c := .v 2, hi := 1, lo := 0xC0 } (some 0x0010_3E7C_0000_0010)) ∧
  (decode 0x2050_08FE_A37C_0010 none = .gbarw { gneg := false, guard := 0, stall := 0, dest := .s 7, a := .d 2, b := .s 6, c := .zero, hi := 0, lo := 0x10 }) ∧
  (decode 0x1870_0080_A181_0000 none = .mpart { gneg := false, guard := 0, stall := 0, dest := .v 4, a := .v 2, b := .s 3, c := .v 1, hi := 0, lo := 0 })

/-- R58 to R63, R76, R77: every well-formed instruction that has words is decoded from them, with every field as it was encoded. -/
def Obligations.EncodeDecode : Prop :=
  ∀ (i : Instr) (w : Word) (x : Option Word), i.wf = true → encode i = some (w, x) → decode w x = i

/-- R58, R61, R76: every word, with any word or none after it, decodes to a well-formed instruction whose words are that word and
the X word taken with it. -/
def Obligations.DecodeEncode : Prop :=
  ∀ (w : Word) (n : Option Word), (decode w n).wf = true ∧ encode (decode w n) = some (w, (takenX w n).map xToWord)

/-- R19, R61, R211, R214: when an issue set's turn comes, its lanes are due, its station's store holds its word and what must be fetched
with it, and its port picks it, the step is the effect of the decoded instruction on that issue set, on the device where its lanes stand; the
port is taken, and the journals take the turn's entries. A turn that names a happening is the effect of that happening on the device that it is
on; one that names a program word is none. After every turn the records of reset contexts go, TIEs meet freed records, lanes that stood by go
on, and saved records and station slots follow. Which turn comes next is the model's choice (log entry 1). -/
def Obligations.StepRunsDecoded : Prop :=
  (∀ (s t : State) (sid lane : Nat) (turn : Turn) (quads : Option Nat) (rest : List Turn) (sg : SubGroup) (g : Group) (set : Mask) (pc w : Word)
    (next : Option Word),
    let s0 := { s with agenda := rest }
    let d := (s0.subDev sid).getD s0.dev
    let s1 := entered s0 d
    let x := ((takenX w next).map xToWord).getD 0
    s.agenda = turn :: rest →
    ((turn = .issue sid lane ∧ quads = none) ∨ (∃ q, turn = .quads sid lane q ∧ quads = s1.quadStop sid q)) →
    s1.issueSet sid lane = some (sg, g, set, pc) → s1.fetchWords sg g pc = .words w next → s1.isPicked sid lane = true →
    exec (decode w next) { s1 with issuing := some { sid := sid, lanes := set, pc := pc, iword := w, xword := x, quads := quads } } = .next t →
    step s = .next ((settleTurn s0 (returned s0 d (s1.noteShared (s1.portTaken t sid set w) sid pc set))).getD s0)) ∧
  (∀ (s t : State) (i : Instr) (d : Nat) (turn : Turn) (rest : List Turn),
    let s0 := { s with agenda := rest }
    s.agenda = turn :: rest → ((turn = .event i ∧ d = (s0.subject i).getD s0.dev) ∨ turn = .eventAt d i) →
    exec i { entered s0 d with issuing := none } = .next t →
    step s = .next ((settleTurn s0 (if (encode i).isSome then s0 else returned s0 d t)).getD s0))

/-- R19, R67, R73, R74: a word whose guard is false in every lane of its issue set retires: its lanes go on to the next word, and no register,
flag or memory changes. An issue set whose word reads its guard or an operand from an outstanding result of its path, or writes a
register that one is to be written to, waits for those results at the word, at most to the implicit bound; no register and no byte of
memory changes. -/
def Obligations.WordsSkippedOrHeld : Prop :=
  (∀ (s : State) (i : Instr) (h : Hd) (g : Sig) (r : Run),
    form s i = some (h, g) → run s h = some r → reaches s h g r = true → r.act = 0 → quiet r (nextPc r) = true →
    ∃ t u, exec i s = .next t ∧ OnlySub s t r.sid u ∧ Completed r u (nextPc r) [] 0) ∧
  (∀ (s : State) (i : Instr) (h : Hd) (g : Sig) (r : Run) (ids : List Nat),
    form s i = some (h, g) → run s h = some r → r.set &&& r.sg.laneMask (fun l => l.refuse.isSome) = 0 →
    (g.join = true ∨ r.set &&& r.sg.laneMask (fun l => l.rel.isSome) = 0) →
    ((ids ≠ [] ∧ ids = s.heldBy r (guardRegs h r) []) ∨
     (ids ≠ [] ∧ ids = s.heldBy r (readRegs g r) (writeRegs g r) ∧ s.heldBy r (guardRegs h r) [] = [] ∧ r.act ≠ 0 ∧ g.judge r.sg r.g = none)) →
    ∃ t u, exec i s = .next t ∧ SMap.get? t.subs r.sid = some u ∧ Stopped { r with act := r.set } u .waiting ∧ (∀ y, u.reg y = r.sg.reg y) ∧
      t.mem = s.mem ∧
      SMap.get? t.waits s.nextId = some { sid := r.sid, lanes := r.set, kind := .scoreboard ids, dk := none, bound := some r.sg.bound, status := .zero, pc := r.pc, len := r.len, iword := r.iw, xword := r.xw })

/-- R61, R72, R74, R75, R107, R226: what traps before a word takes effect, in this order: lanes of a returned image (cause 8), lanes released from a
tie point at a word that is not JOIN (cause 1, detail 1), the first failing check of a word with an active lane, and with CHK set the active
lanes whose stall counts are too short (cause 5). An X word reached as the first word of an instruction, and a word whose X word is missing,
trap the whole issue set, whatever the guard, with illegal-instruction, detail 5 or 6; a word of another class without an instruction, with
an active lane, with detail 1. -/
def Obligations.IssueTraps : Prop :=
  (∀ (s : State) (i : Instr) (h : Hd) (g : Sig) (r : Run),
    let back := r.set &&& r.sg.laneMask (fun l => l.refuse.isSome)
    let loose := r.set &&& r.sg.laneMask (fun l => l.rel.isSome)
    form s i = some (h, g) → run s h = some r →
    (back ≠ 0 → ∃ info, exec i s = .next { r.trapOf s back 8 (((SMap.get? r.sg.lanes (lowest back)).bind (fun l => l.refuse)).getD 0) info back false
      with issuing := none }) ∧
    (back = 0 → loose ≠ 0 → g.join = false → exec i s = .next { r.trapOf s loose 1 1 0 loose false with issuing := none }) ∧
    (∀ f, reaches s h g r = true → r.act ≠ 0 → g.judge r.sg r.g = some f →
      exec i s = .next { r.trap s f.cause f.detail 0 r.act with issuing := none }) ∧
    (reaches s h g r = true → r.act ≠ 0 → g.judge r.sg r.g = none → s.heldBy r (readRegs g r) (writeRegs g r) = [] → r.sg.chk = true →
      shortLanes h g r ≠ 0 → exec i s = .next { r.trap s 5 0 0 (shortLanes h g r) with issuing := none })) ∧
  (∀ (s : State) (i : Instr) (w : Word) (x : Option Word) (e : Issue × SubGroup × Group),
    issuer s = some e → encode i = some (w, x) → form s i = none → (∀ p, i ≠ .pairedWord p) →
    exec i s = .next { s.enterTrap e.1.sid e.1.lanes
      { cause := 1, detail := if wordClass w = 3 then 5 else 6, info := 0, fmask := e.1.lanes, next := false, tpc := e.1.pc, len := 8, iword := e.1.iword, xword := 0 } with issuing := none }) ∧
  (∀ (s : State) (w : Word) (x : Option XWord) (h : Hd) (g : Sig) (r : Run),
    form s (.reservedEncoding w x) = some (h, g) → run s h = some r → reaches s h g r = true → r.act ≠ 0 →
    exec (.reservedEncoding w x) s = .next { r.trap s 1 1 0 r.act with issuing := none })

/-- R298, R330, R337, R341, R344: what the spec gives after a device reset: no tier powered, nothing registered or running, frames without an
owner, journals off, CETHR 0x1000, PCAP 2400, and memory 0. -/
def Obligations.ResetState : Prop :=
  (∀ m < 16, (State.reset.mast m).foot = .off ∧ (State.reset.mast m).dram = .off ∧ (State.reset.mast m).tlb = [] ∧
    (State.reset.mast m).cethr = 0x1000 ∧ (State.reset.mast m).cecnt = 0 ∧ (State.reset.mast m).jrn.mode = 0) ∧
  State.reset.ctxs = [] ∧ State.reset.queues = [] ∧ State.reset.launches = [] ∧ State.reset.crews = [] ∧ State.reset.groups = [] ∧
  State.reset.subs = [] ∧ State.reset.waits = [] ∧ State.reset.images = [] ∧ State.reset.bosun.on = false ∧ State.reset.bosun.pcap = 2400 ∧
  State.reset.regs.devnum = 0 ∧ State.reset.regs.evslots = 0 ∧ ∀ a, RMap.get (n := 8) State.reset.mem a = 0

/-- The memory of a device after reset is in canonical form. -/
def Obligations.ResetInv : Prop := Inv State.reset

/-- Every step keeps memory in canonical form: addresses strictly rising, and no byte listed that is as an unlisted one reads. -/
def Obligations.StepKeepsMemory : Prop := ∀ (s t : State), Inv s → step s = .next t → Inv t

/-! ## Happenings -/

/-- R125, R140, R165, R172, R173, R177, R183, R189, R194, R251, R252, R255: a wait that its deadline meets and that still finds nothing ends with the status
that its word gives; the status counts, and its lanes issue nothing at the next word until the Command Processor has answered. A barrier wait without
.KEEP withdraws its arrival first. Memory is unchanged. -/
def Obligations.WaitTimeouts : Prop :=
  (∀ (s : State) (wid : Nat) (w : Wait) (r : Run) (dl : Word) (i : Instr) (ws : List (Reg × Word)),
    SMap.get? s.waits wid = some w → s.runOf w = some r → w.dk = some dl → dl.toNat ≤ r.sg.gclk.toNat → r.g.walker = false →
    quiet r (nextPc r) = true → lateForm s wid w r = some (i, ws) →
    ∃ t, exec i s = .next t ∧ t.mem = s.mem ∧ Ended t wid r ws ∧ Counted s t r dl) ∧
  (∀ (s : State) (wid : Nat) (w : Wait) (r : Run) (ref : BarRef) (tok : BitVec 32) (mb : Bool),
    SMap.get? s.waits wid = some w → s.runOf w = some r → w.kind = .barrier ref tok false mb .waiting → (w.dk.getD 0).toNat ≤ r.sg.gclk.toNat →
    s.phaseOver ref tok = false →
    ∃ t m, exec (.barrierWaitTimeout wid) s = .next t ∧ SMap.get? t.waits wid = some { w with kind := .barrier ref tok false mb .withdrawing } ∧
      SMap.get? t.msgs s.nextId = some m ∧ m.body = .barWithdraw ref tok (popCount r.set) wid ∧ t.mem = s.mem ∧ t.subs = s.subs)

/-- R73, R125, R165, R173, R177, R189, R194, R195: a wait that finds what it waits for ends: LDW and CAPW with what they read, a queue operation when its
turn has come, CAPR when its Capstan takes it, a copy slice when its tag and its engine take it, and every part that waits on a phase when the
notice of its completion comes. A variable-latency result is written in the copies that take it, and is outstanding no more. -/
def Obligations.WaitWakes : Prop :=
  (∀ (s : State) (wid : Nat) (w : Wait) (r : Run) (i : Instr) (ws : List (Reg × Word)) (m : Memory),
    SMap.get? s.waits wid = some w → s.runOf w = some r → quiet r (nextPc r) = true → wakeForm s wid w r = some (i, ws, m) →
    ∃ t, exec i s = .next t ∧ t.mem = m ∧ Ended t wid r ws) ∧
  (∀ (s : State) (wid k : Nat) (w : Wait) (r : Run) (sl : Slice) (c : Crew) (rsv : Bool),
    let had := match c.tag sl.tag with | .gathering _ _ n _ => n | _ => 0
    SMap.get? s.waits wid = some w → s.runOf w = some r → quiet r (nextPc r) = true → w.kind = .slice k → SMap.get? s.slices k = some sl →
    SMap.get? s.crews sl.cid = some c → s.linked (r.sg.mast / 16) (c.mast / 16) = true → (c.tag sl.tag).answer sl.round sl.parts = .take → s.entryFor k sl c = some rsv →
    sl.refused = false → sl.done.length < sl.kind.units → (∀ e ∈ s.slices, e.2.cid = sl.cid → e.2.tag = sl.tag → e.2.refused = false) →
    ∃ t c' sl', exec (.sliceAccept wid) s = .next t ∧ t.mem = s.mem ∧ Ended t wid r [] ∧ SMap.get? t.slices k = some sl' ∧
      sl'.entry = true ∧ sl'.reserved = rsv ∧ sl'.kind = sl.kind ∧ sl'.done = sl.done ∧ SMap.get? t.crews sl.cid = some c' ∧
      (if had + 1 = sl.parts then c'.tag sl.tag = .running sl.round else ∃ left, c'.tag sl.tag = .gathering sl.round sl.parts (had + 1) left)) ∧
  (∀ (s : State) (mid : Nat) (m : Msg) (ref : BarRef) (phase : BitVec 32),
    SMap.get? s.msgs mid = some m → m.body = .barDone ref phase → s.firstMsg mid m = true →
    exec (.barrierCompletionNotice mid) s = .next ((s.waits.filter (fun e => match e.2.kind with
      | .barrier k t _ _ .waiting => decide (k = ref) && decide (t = phase)
      | _ => false)).foldl (fun t e => t.judgePart e.1) { s with msgs := SMap.del s.msgs mid })) ∧
  (∀ (s : State) (wid : Nat) (w : Wait) (r : Run) (ref : BarRef) (tok : BitVec 32) (keep mb : Bool),
    SMap.get? s.waits wid = some w → s.runOf w = some r → quiet r (nextPc r) = true → w.kind = .barrier ref tok keep mb .waiting →
    s.phaseOver ref tok = true → Ended (s.judgePart wid) wid r (statusWrites w.status 0) ∧ (s.judgePart wid).mem = s.mem) ∧
  (∀ (s : State) (gid sid : Nat) (g : Group) (o : Outst) (ws : List (Reg × Word)) (sg : SubGroup),
    SMap.get? s.groups gid = some g → g.outst.find? (fun x => decide (x.id = o.id)) = some o → o.writes = ws.map (fun x => (x.1, some x.2)) →
    s.canDeliver gid = true → g.ended ≠ BitVec.allOnes 64 → LanesOnce s → SMap.get? s.subs sid = some sg →
    ∃ t u g', exec (.variableLatencyWrite gid o.id) s = .next t ∧ t.mem = s.mem ∧ SMap.get? t.subs sid = some u ∧
      RegsAfter sg u (ws.filter (fun x => takesResult s gid o.lane sid x.1)) ∧ SMap.get? t.groups gid = some g' ∧
      g'.outst = g.outst.filter (fun x => decide (x.id ≠ o.id)))


/-- R185, R186, R188, R190, R191: an arrival that reaches its counter counts its lanes, and its phase goes to BARC's or GBARA's token and to MBAR's
wait; one whose expected count differs gives ERROR (7) and counts nothing. A withdrawal is answered OK (0) when its phase is over, WITHDRAWN (2) when its
lanes are taken back, and else ERROR. An exit makes every counter that counts it be judged. -/
def Obligations.BarrierMessages : Prop :=
  (∀ (s : State) (mid n wid : Nat) (ref k : BarRef) (expct : Option Nat) (w : Wait) (r : Run) (tok : BitVec 32) (keep : Bool),
    let b := s.bar ref
    let ok := match expct, b.expct with | some x, some y => decide (x = y) | _, _ => true
    Arrives s mid (.barArrive ref n expct wid) → s.barHere ref = true → SMap.get? s.waits wid = some w → s.runOf w = some r →
    w.kind = .barrier k tok keep false .arriving → quiet r (nextPc r) = true →
    ∃ t, exec (.barrierArrival mid) s = .next t ∧ t.mem = s.mem ∧
      if ok = true then Ended t wid r (statusWrites w.status (barToken b.phase 0).toNat) ∧
        t.bar ref = judged ((without s mid).liveCount ref) { phase := b.phase, count := b.count + n, expct := if b.expct.isSome then b.expct else expct }
      else t.bar ref = b ∧ ∃ p, Ended t wid r (statusWrites w.status (barToken p 7).toNat)) ∧
  (∀ (s : State) (mid n wid : Nat) (ref : BarRef) (expct : Option Nat) (w : Wait) (r : Run) (tok : BitVec 32) (keep : Bool),
    let b := s.bar ref
    let ok := match expct, b.expct with | some x, some y => decide (x = y) | _, _ => true
    Arrives s mid (.barArrive ref n expct wid) → s.barHere ref = true → SMap.get? s.waits wid = some w → s.runOf w = some r →
    w.kind = .barrier ref tok keep true .arriving → s.stopping w.sid = false → r.sg.gclk.toNat < (w.dk.getD 0).toNat → quiet r (nextPc r) = true →
    ∃ t, exec (.barrierArrival mid) s = .next t ∧ t.mem = s.mem ∧
      if ok = true then SMap.get? t.waits wid = some { w with kind := .barrier ref b.phase keep true .waiting } ∧ t.subs = s.subs ∧
        t.bar ref = judged ((without s mid).liveCount ref) { phase := b.phase, count := b.count + n, expct := if b.expct.isSome then b.expct else expct }
      else t.bar ref = b ∧ Ended t wid r (statusWrites w.status 7)) ∧
  (∀ (s : State) (mid n wid : Nat) (ref : BarRef) (tok : BitVec 32) (w : Wait) (r : Run),
    let b := s.bar ref
    let code := if b.phase ≠ tok then 0 else if n ≤ b.count then 2 else 7
    Arrives s mid (.barWithdraw ref tok n wid) → s.barHere ref = true → SMap.get? s.waits wid = some w → s.runOf w = some r →
    r.g.walker = false → quiet r (nextPc r) = true →
    ∃ t, exec (.barrierWithdrawal mid) s = .next t ∧ t.mem = s.mem ∧ Ended t wid r (statusWrites w.status code) ∧
      (code = 2 → ∃ dl, Counted s t r dl ∧ ∀ d, w.dk = some d → dl = d) ∧
      t.bar ref = if b.phase ≠ tok then b else { b with count := b.count - n, expct := if b.count - n = 0 then none else b.expct }) ∧
  (∀ (s : State) (mid n : Nat) (ref : BarRef), Arrives s mid (.barExit ref n) → s.barHere ref = true →
    ∃ t, exec (.barrierExit mid) s = .next t ∧ t.mem = s.mem ∧ ∀ k ∈ ref.all, t.bar k = judged ((without s mid).liveCount k) (s.bar k))

/-- R129, R130, R229, R255, R256: an exit takes its lanes from every record of its group: one with no member left is freed, one whose members are all held
completes. A TIE's notice counts its lanes as members and its word is performed. A POST or RED at its home performs its operations and is acknowledged; an
acknowledgement takes its operations from the fence counts and notes an error. An increment notice adds 1 to ESC, and its lanes may issue again, or at
the limit sets ESC to 0 and raises the trap; a reset notice sets ESC to 0. -/
def Obligations.Notices : Prop :=
  (∀ (s : State) (mid gid : Nat) (lanes : Mask), Arrives s mid (.exitNotice gid lanes) → (s.ties.map (fun e => e.1)).Nodup →
    ∃ t, exec (.exitNotice mid) s = .next t ∧ t.mem = s.mem ∧ SMap.get? t.msgs mid = none ∧
      ∀ i tie, SMap.get? s.ties i = some tie → tie.gid = gid →
        let left := tie.member &&& ~~~lanes
        (left = 0 → SMap.get? t.ties i = none) ∧
        (left ≠ 0 → tie.isOpen = false ∨ tie.opened = false ∨ tie.held = 0 → SMap.get? t.ties i = some { tie with member := left }) ∧
        (left ≠ 0 → tie.isOpen = true → tie.opened = true → tie.held ≠ 0 → left &&& ~~~tie.held = 0 → tie.sid.isSome = true → SMap.get? t.ties i = none)) ∧
  (∀ (s : State) (mid wid gid mast stn sid : Nat) (meet : Word) (lanes : Mask) (w : Wait) (r : Run),
    let r' := { r with sg := tiedSub r.sg r.set meet (s.placeAt mast stn) (BitVec.ofNat 8 (fieldOf w.iword 8 8)) }
    Arrives s mid (.tieNotice wid gid meet lanes mast stn sid) → SMap.get? s.waits wid = some w → s.runOf w = some r →
    s.tieRoom gid mast stn meet = true → quiet r' (nextPc r) = true →
    ∃ t, exec (.tieNotice mid) s = .next t ∧ t.mem = s.mem ∧ t.ties = (s.tieMember gid mast stn meet r.set).ties ∧ Ended t wid r' []) ∧
  (∀ (s : State) (mid gid ctx size reach : Nat) (red : Option (Nat × Nat)) (ops : List LaneAcc) (x : Option XlReq) (c : Nat),
    let va := ((ops.head?).map (fun o => o.addr)).getD 0
    let op : ThreadOp := match red with
      | some (a, t) => .atom a t
      | none => .store (match size with | 1 => 0 | 2 => 2 | 4 => 4 | 8 => 5 | 16 => 6 | _ => 7)
    let items : List CellAcc := ops.map (fun o => (o, sectorOf c + o.addr.toNat % 32))
    Arrives s mid (.posted gid ctx red size ops reach x) → (x.map (fun y => y.fail)).getD false = false → (x.bind (fun y => y.held)) = none →
    s.fencedAt va = false → s.placeOf ctx va ((x.map (fun y => if y.acc = 3 then (3 : BitVec 2) else 1)).getD 1) = .cell c →
    (∀ k ∈ sectorsRead op items, k ∉ s.bad ∧ k ∉ s.soft) →
    ∃ t k a, exec (.postedOperation mid) s = .next t ∧ t.mem = (State.performOps op items s).1.mem ∧ SMap.get? t.msgs mid = none ∧
      SMap.get? t.msgs k = some a ∧ a.dst = s.fencePort gid ∧ a.body = .ack gid 1 reach ops.length false) ∧
  (∀ (s : State) (mid gid path reach n : Nat) (err : Bool) (g : Group),
    Arrives s mid (.ack gid path reach n err) → SMap.get? s.groups gid = some g →
    ∃ (t : State) (g' : Group), exec (.postedAcknowledgement mid) s = .next (t.judgeFences gid) ∧ t.mem = s.mem ∧ t.waits = s.waits ∧ t.subs = s.subs ∧
      SMap.get? t.groups gid = some g' ∧ (∀ k, RMap.get g'.counts k = RMap.get g.counts k - if k = path * 4 + reach then BitVec.ofNat 32 n else 0) ∧
      (∀ k < 6, g'.errs.getLsbD k = (g.errs.getLsbD k || (err && decide (k = path))))) ∧
  (∀ (s : State) (mid ctx gid len : Nat) (lanes : Mask) (dl pc iw xw : Word) (c : Ctx),
    Arrives s mid (.escInc ctx gid lanes dl pc len iw xw) → SMap.get? s.ctxs ctx = some c → (SMap.get? s.groups gid).isSome = true →
    c.esc + 1 < c.limit →
    ∃ t, exec (.escalationIncrement mid) s = .next t ∧ (c.st ≠ .saved → c.st ≠ .restoring → t.mem = s.mem) ∧
      SMap.get? t.ctxs ctx = some { c with esc := c.esc + 1 } ∧ t.subs = s.subs ∧ t.noticed gid = (without s mid).noticed gid) ∧
  (∀ (s : State) (mid ctx gid len : Nat) (lanes : Mask) (dl pc iw xw : Word) (c : Ctx) (g : Group),
    Arrives s mid (.escInc ctx gid lanes dl pc len iw xw) → SMap.get? s.ctxs ctx = some c → SMap.get? s.groups gid = some g →
    c.limit ≤ c.esc + 1 →
    ∃ t : State, exec (.escalationIncrement mid) s = .next (t.raiseEscalation gid g lanes dl pc len iw xw) ∧ t.subs = s.subs ∧ t.ties = s.ties ∧
      (c.st ≠ .saved → c.st ≠ .restoring → t.mem = s.mem) ∧ SMap.get? t.ctxs ctx = some { c with esc := 0 }) ∧
  (∀ (s : State) (mid ctx : Nat) (c : Ctx), Arrives s mid (.escReset ctx) → SMap.get? s.ctxs ctx = some c →
    ∃ t, exec (.escalationReset mid) s = .next t ∧ t.subs = s.subs ∧ (c.st ≠ .saved → c.st ≠ .restoring → t.mem = s.mem) ∧
      SMap.get? t.ctxs ctx = some { c with esc := 0 })

/-- R108, R136, R178, R214, R220 to R226, R254: a continuation departs when its results are in and its turn and room have come, its lanes gone from its source; at its
mast it lands with the next arrival number, or goes back from a fenced place; from the hold the first arrival passes into the buffer; admitted, its lanes stand ready
on a station with their registers. A code sector that is fetched stands in the station's store and its lanes issue again. -/
def Obligations.Movement : Prop :=
  (∀ (s : State) (img : Nat) (im : Image),
    SMap.get? s.images img = some im → im.phase = .departing → im.awaits = [] → s.knows (im.smast / 16) im.tdev = true →
    s.linked (im.smast / 16) (im.tmast / 16) = true → s.roomFor im = true →
    (∀ e ∈ s.images, img ≤ e.1 ∨ e.2.phase ≠ .departing ∨ e.2.awaits ≠ [] ∨ e.2.tmast ≠ im.tmast) →
    ∃ t, exec (.continuationDeparture img) s = .next t ∧ t.mem = s.mem ∧
      SMap.get? t.images img = some { s.launchImage im with phase := .flying, arr := s.nextId } ∧
      ∀ u l, SMap.get? t.subs im.sid0 = some u → im.sg.all.getLsbD l = true → SMap.get? u.lanes l = none) ∧
  (∀ (s : State) (img : Nat) (im : Image),
    SMap.get? s.images img = some im → im.phase = .flying → s.knows (im.smast / 16) im.tdev = true →
    s.linked (im.smast / 16) (im.tmast / 16) = true → s.nextOnRoute img im = true →
    let fenced := (s.mast im.tmast).fenced || (decide (im.tstn ≠ 64) && (s.stn im.tmast im.tstn).fenced)
    let sg := { im.sg with gclk := im.sg.gclk + BitVec.ofNat 64 (hopCharge im.smast im.tmast) }
    let im' := { im with arr := (s.mast im.tmast).nextArr.toNat, sg := sg, phase := .landed (decide (s.landedBytes im.tmast false + im.size > bufferBytes)) }
    if fenced = true then exec (.imageLanding img) s = .next { s with images := SMap.put s.images img { im with phase := .returning, refuse := 2, sg := sg } }
    else ∃ t : State, t.mem = s.mem ∧ SMap.get? t.images img = some im' ∧ (t.mast im.tmast).nextArr = (s.mast im.tmast).nextArr + 1 ∧
      exec (.imageLanding img) s = .next (match t.mergePlace im' with | some n => t.takeIn img im' im.tmast n | none => t)) ∧
  (∀ (s : State) (mast img : Nat) (im : Image),
    SMap.get? s.images img = some im → im.tmast = mast → im.phase = .landed true → s.landedBytes mast false + im.size ≤ bufferBytes →
    (∀ e ∈ s.images, e.2.tmast = mast → e.2.phase = .landed true → e = (img, im) ∨ im.arr < e.2.arr) →
    ∃ t, exec (.holdTransfer mast) s = .next t ∧ t.mem = s.mem ∧ SMap.get? t.images img = some { im with phase := .landed false }) ∧
  (∀ (s : State) (m q n img : Nat) (im : Image),
    let s1 := s.reserveHeads m
    SMap.get? s.images img = some im → im.landedAt m = true → im.tstn = q → s1.admits im = true → im.bundle = none → im.refuse = 0 → im.halted = false →
    im.held = false → im.kind ≠ 2 → (∀ e ∈ im.sg.lanes, e.2.meet = 0 ∨ e.2.pc ≠ e.2.meet) → (∀ e ∈ s.images, e.2.landedAt m = true → e = (img, im)) →
    SMap.get? s.subs s.nextId = none →
    (s1.mergePlace im = some n ∨ (s1.mergeStn im = none ∧ if q = 64 then s1.chooseStn m im = some n else n = q ∧ s1.canTake m q im = true)) →
    ∃ t u, exec (.imageAdmission m q) s = .next t ∧ t.mem = s.mem ∧ SMap.get? t.images img = none ∧ SMap.get? t.subs s.nextId = some u ∧
      u.gid = im.sg.gid ∧ u.mast = m ∧ u.stn = n ∧ (∀ y, u.reg y = im.sg.reg y) ∧
      ∀ l, SMap.get? u.lanes l = (SMap.get? im.sg.lanes l).map (fun x => { x with st := .ready, readyAt := (s.stn m n).cycles, since := (s.stn m n).cycles, starve := 0, yield := false, refuse := none })) ∧
  (∀ (s : State) (tid sid : Nat) (tie : Tie) (sg : SubGroup),
    let left := tie.member &&& ~~~tie.held
    let status : BitVec 8 := if left = 0 then 0 else 3
    SMap.get? s.ties tid = some tie → tie.isOpen = true → tie.opened = true → tie.held ≠ 0 → tie.sid = some sid → SMap.get? s.subs sid = some sg →
    (left = 0 ∨ tie.dl ≤ sg.gclk.toNat) →
    ∃ t u, exec (.tieExpiry tid) s = .next t ∧ t.mem = s.mem ∧ SMap.get? t.subs sid = some u ∧ (∀ y, u.reg y = sg.reg y) ∧
      SMap.get? t.ties tid = (if left = 0 then none else some { tie with isOpen := false, opened := false, member := left, held := 0, sid := none }) ∧
      ∀ l, SMap.get? u.lanes l = (SMap.get? sg.lanes l).map (fun x => if tie.held.getLsbD l then
        { x with st := .ready, rel := some (status, BitVec.ofNat 64 (min tie.dl (2 ^ 64 - 1))), readyAt := max x.readyAt (s.stn tie.mast tie.stn).cycles,
                 since := (s.stn tie.mast tie.stn).cycles, starve := 0 } else x)) ∧
  (∀ (s : State) (wid c : Nat) (w : Wait) (r : Run) (x : XlReq) (ctx : Ctx),
    let va := s.fetchVa r.g w x
    let now := (s.stn r.sg.mast r.sg.stn).cycles
    SMap.get? s.waits wid = some w → s.runOf w = some r → w.kind = .fetch x → x.fail = false → x.held = none → s.ctxOf r.g = some ctx →
    (match s.home ctx va with | .none _ => False | .dram _ m | .window _ m _ _ => s.linked (r.sg.mast / 16) (m / 16) = true) →
    s.fencedAt x.va = false → s.placeOf r.g.ctx (s.directOf r.g va) (s.codeAcc r.sg r.g x.va) = .cell c → s.badAt c = false →
    s.standing (fun ks => ks.contains wid) = [] →
    ∃ t u, exec (.instructionFetch wid) s = .next t ∧ t.mem = s.mem ∧ SMap.get? t.waits wid = none ∧ SMap.get? t.subs r.sid = some u ∧
      (t.stn r.sg.mast r.sg.stn).store = ((s.stn r.sg.mast r.sg.stn).fill { ctx := r.g.ctx, va := va, data := (List.range 4).map (fun i => s.word (c + 8 * i)) }).store ∧
      ∀ l, SMap.get? u.lanes l = (SMap.get? r.sg.lanes l).map (fun y => if r.set.getLsbD l then { y with st := .ready, readyAt := now, since := now, starve := 0 } else y))

/-- R133, R136, R138, R178, R254: a stream unit requests the elements of the next sector in the order of the walk, and an element that comes back stands with its value.
The bound of an implicit wait makes its lanes take the deadline trap at the word; an image on its way is undone by it, and lanes that could not enter their handler
stop. A parked lane with a meeting address goes there, and one without traps after its word. -/
def Obligations.StreamsAndBounds : Prop :=
  (∀ (s : State) (gid q : Nat) (g : Group) (st : Stream) (c : Ctx) (e : StreamEl),
    let sv := ((g.lowestLive.bind (s.holderOf gid)).bind (SMap.get? s.subs)).map SubGroup.sv
    let els := (g.run st (e.va.toNat / 32) (fun y => (s.elementTrap c (sv.getD false) st y).isNone) 32 st.next).map (fun x => { x with va := s.direct c x.va })
    let sec := ((els.head?.map (fun (x : StreamEl) => x.va)).getD 0).toNat / 32
    SMap.get? s.groups gid = some g → g.walker = false → SMap.get? g.streams q = some st → SMap.get? s.ctxs g.ctx = some c → st.qi = none →
    st.next < st.total → st.next < st.ahead → g.element st st.next = some e → s.elementTrap c (sv.getD false) st e = none →
    st.secs.find? (fun x => decide (x.1 = sec)) = none → (∀ x ∈ st.reqs, x.sec ≠ sec) → st.sectors < st.depth →
    ∃ t g' , exec (.streamFetch gid q) s = .next t ∧ t.mem = s.mem ∧ SMap.get? t.groups gid = some g' ∧
      SMap.get? g'.streams q = some { st with secs := st.secs.filter (fun x => st.gotSecs.contains x.1), reqs := st.reqs ++ [{ els := els, x := none }] }) ∧
  (∀ (s : State) (gid q : Nat) (g : Group) (st st' : Stream) (c : Ctx) (e : StreamEl),
    let sv := ((g.lowestLive.bind (s.holderOf gid)).bind (SMap.get? s.subs)).map SubGroup.sv
    let els := (g.run st (e.va.toNat / 32) (fun y => (s.elementTrap c (sv.getD false) st y).isNone) 32 st.next).map (fun x => { x with va := s.direct c x.va })
    SMap.get? s.groups gid = some g → g.walker = false → SMap.get? g.streams q = some st → SMap.get? s.ctxs g.ctx = some c → st.next < st.total →
    st.next < st.ahead → g.element st st.next = some e → s.elementTrap c (sv.getD false) st e = none → st.want els none = some st' → st.qi ≠ some q →
    ∃ t g' , exec (.streamFetch gid q) s = .next t ∧ t.mem = s.mem ∧ SMap.get? t.groups gid = some g' ∧ SMap.get? g'.streams q = some st') ∧
  (∀ (s : State) (gid q k c : Nat) (g : Group) (st : Stream) (r : StreamReq),
    let va := (r.els.head?.map (fun e => e.va)).getD 0
    SMap.get? s.groups gid = some g → SMap.get? g.streams q = some st → st.reqs.findIdx? (fun r => (r.x.bind (fun x => x.held)).isNone) = some k →
    st.reqs[k]? = some r → (r.x.map (fun x => x.fail)).getD false = false → s.fencedAt va = false → s.linked (st.mast / 16) (s.vaMast va / 16) = true →
    s.placeOf g.ctx va ((r.x.map (fun x => x.acc)).getD 0) = .cell c → sectorOf c ∉ s.bad → (∀ w ∈ s.waits, ∀ p sc o b, w.2.kind ≠ .fence p sc o b) →
    ∃ t g', exec (.streamElementArrival gid q) s = .next t ∧ t.mem = s.mem ∧ SMap.get? t.groups gid = some g' ∧
      SMap.get? g'.streams q = some { st with
        reqs := st.reqs.eraseIdx k
        secs := st.secs ++ [(r.sec, s.num (sectorOf c) 32)]
        got := st.got ++ r.els.map (fun e => { e with val := elemOf st.esz (s.num (sectorOf c) 32) e.va }) }) ∧
  (∀ (s : State) (wid : Nat) (w : Wait) (sg : SubGroup) (b : Nat),
    let q : TrapReq := { cause := 0x10, detail := 1, info := BitVec.ofNat 64 b, fmask := w.lanes, next := false, tpc := w.pc, len := w.len, iword := w.iword, xword := w.xword }
    SMap.get? s.waits wid = some w → w.bound = some b → SMap.get? s.subs w.sid = some sg → b ≤ sg.gclk.toNat → wid < s.nextId →
    ∃ t : State, t.mem = s.mem ∧ t.subs = s.subs ∧
      match w.kind with
      | .trapEntry p f _ => SMap.get? t.waits wid = none ∧ ∀ g, SMap.get? s.groups sg.gid = some g →
          (∃ g', SMap.get? t.groups sg.gid = some g' ∧ SMap.get? g'.frames f = none) ∧
          exec (.implicitWaitExpiry wid) s = .next (t.stopLanes w.sid w.lanes g p)
      | .transit i => SMap.get? t.waits wid = none ∧ SMap.get? t.images i = none ∧
          exec (.implicitWaitExpiry wid) s = .next (t.atSub w.sid (fun s => s.enterTrap w.sid w.lanes q))
      | .bcall | .standBy _ => exec (.implicitWaitExpiry wid) s = .next s
      | .ldw ops vals wide cmp signed dest xs => ∀ r, s.runOf w = some r →
          let gone := maskOf ((ops.filter (fun o => pageAsked xs (s.dirOf r o.addr))).map (fun o => o.lane))
          let left := w.lanes &&& ~~~gone
          (SMap.get? t.waits wid = if left = 0 then none else some { w with
            kind := .ldw (ops.filter (fun o => !pageAsked xs (s.dirOf r o.addr))) vals wide cmp signed dest [], lanes := left, bound := none }) ∧
          exec (.implicitWaitExpiry wid) s = .next (t.atSub w.sid (fun s => s.enterTrap w.sid (if left = 0 then w.lanes else gone) { q with fmask := gone }))
      | _ => SMap.get? t.waits wid = none ∧ exec (.implicitWaitExpiry wid) s = .next (t.atSub w.sid (fun s => s.enterTrap w.sid w.lanes q))) ∧
  (∀ (s : State) (wid : Nat) (w : Wait) (sg : SubGroup) (b : Nat),
    SMap.get? s.waits wid = some w → w.kind = .bcall → w.bound = some b → SMap.get? s.subs w.sid = some sg → b ≤ sg.gclk.toNat →
    let away := w.lanes &&& sg.laneMask (fun l => decide (l.meet ≠ 0))
    ∃ t : State, t.mem = s.mem ∧ t.subs = s.subs ∧ SMap.get? t.waits wid = none ∧
      (∀ k c, SMap.get? s.calls k = some c → SMap.get? t.calls k = some (if c.wait = some wid then { c with wait := none, wait2 := true } else c)) ∧
      (away = 0 → w.lanes ≠ 0 → exec (.bcallParkExpiry wid) s = .next (t.enterTrap w.sid w.lanes
        { cause := 0x10, detail := 1, info := BitVec.ofNat 64 b, fmask := w.lanes, next := true, tpc := w.pc, len := w.len, iword := w.iword, xword := w.xword })) ∧
      (w.lanes &&& ~~~away = 0 → w.lanes ≠ 0 → exec (.bcallParkExpiry wid) s =
        .next (t.retireAt w.sid w.lanes (stallOf w.iword) w.len (fun l => s.afterCall w.sid 0 l) w.pc w.iword w.xword)))

/-- R160 to R168, R174 to R176, R178, R181, R182, R282: a Tackle engine visits the next station of its quad with a running copy and makes WGT
transfers of each crew served there, and a transfer of a CP moves one sector; a gathering that is not complete in time is abandoned with
TIMEOUT, once no waiting slice makes it complete; the Capstan writes what it reduces to OUT, each element over the fixed pairwise tree, then
STAT, then FLAG, and its entry is free; of a block that is not valid it writes ERROR with every sector counted; a jib call that comes to its
unit is computed from its record, and its reply is written before its status goes out. -/
def Obligations.Engines : Prop :=
  (∀ (s : State) (mast quad n : Nat) (picks : List (Nat × Nat)),
    let last := (RMap.get (s.mast mast).tackPtr quad).toNat
    let served := fun (i : Nat) => s.servedAt mast (4 * quad + (last + i) % 4)
    n < 4 → served n ≠ [] → (∀ i < n, served i = []) →
    exec (.tackleTransfer mast quad picks) s =
      .next ((served n).foldl (fun t c => t.transfers c.1 c.2.weight
          (picks.filter (fun p => ((SMap.get? t.slices p.1).map (fun sl => decide (sl.cid = c.1))).getD false)))
        (s.updMast mast (fun t => { t with tackPtr := RMap.set t.tackPtr quad (BitVec.ofNat 8 ((last + n) % 4 + 1)) })))) ∧
  (∀ (s : State) (cid k u len c d : Nat) (sl : Slice) (cr : Crew) (src dst : Word),
    let e : EngId := { ctx := sl.ctx, dev := sl.dev, at' := cr.mast / 16, dead := sl.dead }
    (s.movable cid).head? = some (k, sl) → SMap.get? s.crews cid = some cr → sl.kind = .cp src dst len →
    u < len / 32 → u ∉ sl.done → (∀ v < u, v ∈ sl.done) →
    s.engAt e (src + BitVec.ofNat 64 (32 * u)) 0 = .ok c → s.badAt c = false → s.engAt e (dst + BitVec.ofNat 64 (32 * u)) 1 = .ok d →
    ∃ t : State, s.transferOne cid none = t.checkCopy sl.cid sl.tag sl.round ∧ t.mem = writeMem s.mem d (s.bytes c 32) ∧
      SMap.get? t.slices k = some { sl with done := u :: sl.done, code := worstCode sl.code 0, dead := [], x := none } ∧ t.crews = s.crews) ∧
  (∀ (s : State) (cid tag round parts got : Nat) (cr : Crew),
    SMap.get? s.crews cid = some cr → cr.tag tag = .gathering round parts got 0 → (s.tagWaits cid tag).foldl State.trySlice s = s →
    (∀ e ∈ s.copyOf cid tag, e.2.lost = 0 ∧ e.2.skip = 0) → (∀ w ∈ s.waits, ∀ p sc o b, w.2.kind ≠ .fence p sc o b) →
    ∃ (t : State) (cr' : Crew), exec (.gatheringExpiry cid tag) s = .next (t.judgeCpws cid) ∧ t.mem = s.mem ∧ SMap.get? t.crews cid = some cr' ∧
      cr'.tag tag = .abandoned round (statusWord 1 tag round 0 0) ∧ ∀ e ∈ s.copyOf cid tag, SMap.get? t.slices e.1 = none) ∧
  (∀ (s : State) (mast : Nat) (e : CapEntry) (rest : List CapEntry),
    let b := CapBlock.ofWords e.words
    let o := s.reduceAll (e.eng mast) b (List.range b.sectors)
    (s.mast mast).caps = e :: rest → e.x = none → e.fin = none → s.engKnown (e.eng mast) = true →
    (s.blockValid (e.eng mast) mast e.words b = true → o.stop = none → o.lost < 2 ^ 24 →
      exec (.capstanReduction mast) s = .next (o.s.capFinish mast e b o.code o.lost)) ∧
    (s.blockValid (e.eng mast) mast e.words b = false → b.sectors < 2 ^ 24 →
      exec (.capstanReduction mast) s = .next (s.capFinish mast e b 7 b.sectors))) ∧
  (∀ (s : State) (m p f cnt : Nat) (e : CapEntry) (b : CapBlock) (code : BitVec 8),
    let t := s.store p (leBytes 8 (statusWord code 0 0 cnt 0).toNat)
    code ≠ 6 → s.engAt (e.eng m) (e.blk + 0x20) 1 = .ok p → s.badAt p = false →
    (t.flagOk (e.eng m) b.flag = false → s.capFinish m e b code cnt = t.capDone m e code) ∧
    (t.flagOk (e.eng m) b.flag = true → t.engAt (e.eng m) b.flag 1 = .ok f → t.badAt f = false →
      s.capFinish m e b code cnt = (t.store f (leBytes 8 b.flagv.toNat)).capDone m e code)) ∧
  (∀ (s : State) (e : EngId) (k p : Nat) (b : CapBlock) (cells : List Nat),
    let sz := b.elem.getD 4
    let n := min 32 (b.bytes - 32 * k)
    b.ins.map (fun a => s.engRead e (a + BitVec.ofNat 64 (32 * k))) = cells.map Except.ok → s.engAt e (b.out + BitVec.ofNat 64 (32 * k)) 1 = .ok p →
    (n < 32 → s.engRead e (b.out + BitVec.ofNat 64 (32 * k)) = .ok p) →
    (∀ x ∈ cells, sectorOf x ∉ s.soft) →
    ∃ t, s.reduceSector e b k = { s := t, lost := 0, code := 0, stop := none } ∧
      t.mem = writeMem s.mem p ((List.range (n / sz)).flatMap (fun i => leBytes sz (pairTree b.combine (cells.map (fun c => s.num (c + sz * i) sz)))))) ∧
  (∀ (s : State) (call cell u m : Nat) (c : JibCall) (o : JibOut),
    let t := s.callArrive call c
    SMap.get? s.calls call = some c → c.phase = .queued → c.unit = none → c.x = none → m = s.vaMast c.record → s.linked c.dev (m / 16) = true →
    (s.vaPlace c.record).2 = 64 → s.engAt (s.callEng c) c.record 0 = .ok cell → u = bankGroup (cell % 2 ^ 37) →
    (∀ e ∈ s.calls, e.1 = call ∨ s.vaMast e.2.record ≠ m ∨ e.2.unit ≠ some u) → t.jibRun (t.callEng c) m u c.record = .ok o →
    ∃ t', exec (.jibCall call) s = .next t' ∧ t'.mem = s.mem ∧ u ∈ (t'.mast m).busyUnits ∧
      SMap.get? t'.calls call = some { c with unit := some u, arr := s.nextId, phase := .replying 0 o.reply o.addr }) ∧
  (∀ (s s1 : State) (call : Nat) (c : JibCall) (code : BitVec 8) (reply : List Byte) (addr : Word),
    SMap.get? s.calls call = some c → c.phase = .replying code reply addr → c.x = none →
    (∀ e ∈ replySectors addr reply, ∃ p, s.engAt (s.callEng c) e.1 1 = .ok p) → s.putReply (s.callEng c) (replySectors addr reply) = (s1, none) →
    exec (.jibReply call) s = .next (s1.callDone call c code)) ∧
  (∀ (s : State) (e : EngId) (p : Nat) (va : Word) (bs : List Byte),
    s.engAt e va 1 = .ok p → (bs.length < 32 → s.badAt p = false) → s.putReply e [(va, bs)] = (s.store p bs, none))

/-- R291, R292, R296 to R300: the first request of a mast gets the walker group, set up as the rule lists it; when it has ended, the requests
merged into its walk translate again, or are held by a fault of its WHY, which takes the lowest free entry of the fault buffer. A release
write of an entry in use, by its slot and number, takes the entry out, and the requests that it held translate again or fail; lanes that
fail take the translation trap at their word. -/
def Obligations.Walks : Prop :=
  (∀ (s : State) (m n : Nat) (r : WalkReq) (rest : List WalkReq) (c : Ctx),
    (s.mast m).walks = r :: rest → (s.mast m).walk = none → (s.mast m).fenced = false → s.walkerStn m = some n → s.ctxAt m r.ctx = some c →
    ∃ t g u, exec (.walkStart m) s = .next t ∧ t.mem = s.mem ∧ (t.mast m).walks = rest ∧
      (t.mast m).walk = some { req := r, gid := s.nextId, sid := s.nextId + 1, out := none, again := false, ended := false } ∧
      SMap.get? t.groups s.nextId = some g ∧ g.ctx = r.ctx ∧ g.cid = none ∧ g.width = 8 ∧ g.wins = 1 ∧
      SMap.get? t.subs (s.nextId + 1) = some u ∧ u.gid = s.nextId ∧ u.mast = m ∧ u.stn = n ∧ u.ctl = 4 ∧ u.dldef = 65536 ∧
      u.reg (.s 0) = r.va ∧ u.reg (.s 1) = BitVec.ofNat 64 ((RMap.get c.tb (m % 16)).toNat / 2 * 2 ^ 16) ∧ u.reg (.s 2) = r.kind.setWidth 64 ∧
      u.reg (.s 3) = BitVec.ofNat 64 r.ctx ∧ (∀ i < 4, u.reg (.d i) = 65536) ∧
      ∀ l, (SMap.get? u.lanes l).map (fun x => (x.pc, x.st)) = if l < 8 then some (c.wentry, .ready) else none) ∧
  (∀ (s : State) (m : Nat) (w : Walk),
    (s.mast m).walk = some w → (∀ g, SMap.get? s.groups w.gid = some g → g.ended = BitVec.allOnes 64) →
    ∃ t : State, t.mem = s.mem ∧ t.waits = s.waits ∧ (t.mast m).walk = none ∧ SMap.get? t.groups w.gid = none ∧
      (w.why = none → exec (.walkEnd m) s = .next (t.release (XlReq.merged w.req) (fun x => x))) ∧
      (∀ y, w.why = some y → (∀ e ∈ t.xreqs, XlReq.merged w.req e.2 = false) → exec (.walkEnd m) s = .next t) ∧
      (∀ y e, w.why = some y → e ∈ t.xreqs → XlReq.merged w.req e.2 = true → exec (.walkEnd m) s =
        .next ((t.holdFault w.req.ctx w.req.va y w.req.acc).1.release (XlReq.merged w.req)
          (fun x => { x with held := some (t.holdFault w.req.ctx w.req.va y w.req.acc).2 })))) ∧
  (∀ (s : State) (ctx i : Nat) (va : Word) (why : BitVec 8) (acc : BitVec 2),
    let m := s.vaMast va
    let t := (s.holdFault ctx va why acc).1
    (∀ f ∈ (s.mast m).faults, f.ctx ≠ ctx ∨ pageOf f.va ≠ pageOf va ∨ f.why ≠ why) → freeSlot (s.mast m).faults = some i →
    (s.holdFault ctx va why acc).2 = (s.mast m).seq ∧ (t.mast m).seq = (s.mast m).seq + 1 ∧ (t.mast m).newi = true ∧ t.mem = s.mem ∧ t.waits = s.waits ∧
      (t.mast m).faults = (s.mast m).faults ++ [{ slot := some i, va := va, ctx := ctx, why := why, acc := acc.setWidth 8, seq := (s.mast m).seq }]) ∧
  (∀ (s : State) (m idx : Nat) (seq : BitVec 32) (e : FaultEnt),
    let hit := fun (x : XlReq) => decide (x.held = some seq) && decide (s.xmast x = m)
    (s.mast m).faults.find? (fun e => decide (e.slot = some idx) && decide (e.seq = seq)) = some e →
    ∃ t : State, t.mem = s.mem ∧ t.waits = s.waits ∧ t.subs = s.subs ∧
      (t.mast m).faults = fillSlot ((s.mast m).faults.filter (fun f => decide (f.seq ≠ seq))) idx ∧
      exec (.retry m idx seq) s = .next (t.release hit (fun x => { x with held := none }))) ∧
  (∀ (s : State) (m idx : Nat) (seq : BitVec 32) (e : FaultEnt),
    let hit := fun (x : XlReq) => decide (x.held = some seq) && decide (s.xmast x = m)
    (s.mast m).faults.find? (fun e => decide (e.slot = some idx) && decide (e.seq = seq)) = some e →
    ∃ t : State, t.mem = s.mem ∧ t.waits = s.waits ∧ t.subs = s.subs ∧
      (t.mast m).faults = fillSlot ((s.mast m).faults.filter (fun f => decide (f.seq ≠ seq))) idx ∧
      exec (.fail m idx seq) s = .next (t.release hit (fun x => { x with held := none, fail := true }))) ∧
  (∀ (s : State) (wid : Nat) (w : Wait) (r : Run) (x : XlReq) (a : ThreadAcc),
    SMap.get? s.waits wid = some w → w.kind = .access x a → s.runOf w = some r → x.fail = true →
    s.waitAgain wid = (({ s with waits := SMap.del s.waits wid } : State).atSub w.sid (fun t => t.enterTrap w.sid w.lanes
      { cause := 0x11, detail := 0, info := x.va, fmask := w.lanes, next := false, tpc := w.pc, len := w.len, iword := w.iword, xword := w.xword })).judgeFences r.gid)

/-- R262 to R266, R268, R269, R281: the head command of a queue whose context runs starts once the one before it is performed, and with AFTER once every
earlier LAUNCH has completed; HEAD advances as it starts. NOP is then performed. LAUNCH with a good record has its crews admitted from then on.
WAIT is performed once its counter is no less than its value, its TMO reported once; SIGNAL adds to its counter. A completed launch frees what it held
and adds to its counter. A command that breaks its form stops the queue; commands already started go on. -/
def Obligations.Commands : Prop :=
  (∀ (s : State) (k : Nat) (q : Queue) (c : Ctx) (ws : List Word),
    s.startable k = some (q, c, some ws) → badCmd ws = false →
    (fieldOf (ws.getD 0 0) 0 8 = 0 → exec (.cmdNop k) s = .next (s.startCmd k q .idle)) ∧
    (∀ (rcd anchors : List Word), fieldOf (ws.getD 0 0) 0 8 = 1 → (ws.getD 2 0 ≠ 0 → s.reachable c (ws.getD 2 0) = true) → s.cpWords q.ctx c (ws.getD 1 0) 8 = some rcd →
      s.badRecord rcd = false → s.cpWords q.ctx c (rcd.getD 2 0) (fieldOf (rcd.getD 3 0) 32 21) = some anchors → (∀ a ∈ anchors, s.anchorAt c a ≠ none) →
      s.gridsHeld < 256 →
      ∃ t : State, exec (.launch k) s = .next (t.startCmd k q (.launching s.nextId)) ∧ t.mem = s.mem ∧
        SMap.get? t.launches s.nextId = some (launchOf s.dev q k ws rcd anchors) ∧
        ∀ m n, m / 16 = s.dev → n < 64 → ∀ e ∈ (t.stn m n).store, e.ctx ≠ q.ctx) ∧
    (fieldOf (ws.getD 0 0) 0 8 = 2 → s.reachable c (ws.getD 1 0) = true → exec (.wait k) s = .next ((s.startCmd k q (.waiting (ws.getD 0 0) (ws.getD 1 0) (ws.getD 2 0)
      (if ws.getD 3 0 = 0 then none else some (ws.getD 3 0)) none)).judgeCmdWait k)) ∧
    (fieldOf (ws.getD 0 0) 0 8 = 3 → s.reachable c (ws.getD 1 0) = true →
      exec (.signal k) s = .next ((s.startCmd k q (.adding (ws.getD 0 0) (ws.getD 1 0) (ws.getD 2 0) none)).judgeAdd k))) ∧
  (∀ (s : State) (k : Nat) (q : Queue) (c : Ctx) (ws : List Word),
    s.startable k = some (q, c, some ws) → badCmd ws = true →
    let t := s.stopQueue k q q.head (ws.getD 0 0)
    (fieldOf (ws.getD 0 0) 0 8 = 0 ∨ 3 < fieldOf (ws.getD 0 0) 0 8 → exec (.cmdNop k) s = .next t) ∧ (fieldOf (ws.getD 0 0) 0 8 = 1 → exec (.launch k) s = .next t) ∧
    (fieldOf (ws.getD 0 0) 0 8 = 2 → exec (.wait k) s = .next t) ∧ (fieldOf (ws.getD 0 0) 0 8 = 3 → exec (.signal k) s = .next t)) ∧
  (∀ (s : State) (k : Nat) (q : Queue) (p : QPhase),
    SMap.get? (s.startCmd k q p).queues k = some { q with head := q.head + 1, phase := p } ∧ (s.startCmd k q p).groups = s.groups ∧
    SMap.get? (s.stopQueue k q q.head 0).queues k = some { q with stopped := true }) ∧
  (∀ (s : State) (k cell : Nat) (q : Queue) (w0 addr v : Word) (left : Option Word) (x : Option XlReq),
    SMap.get? s.queues k = some q → q.phase = .waiting w0 addr v left x → (s.counterAt q.ctx addr 0 x).2 = .at cell →
    let t := (s.counterAt q.ctx addr 0 x).1
    exec (.waitReread k) s = .next (if v.toNat ≤ (s.word cell).toNat then t.putQueue k { q with phase := .idle }
      else t.putQueue k { q with phase := .waiting w0 addr v left none })) ∧
  (∀ (s : State) (k : Nat) (q : Queue) (w0 addr v : Word) (x : Option XlReq),
    SMap.get? s.queues k = some q → q.phase = .waiting w0 addr v (some 0) x →
    exec (.stallRecord k) s = .next { s with
      queues := SMap.put s.queues k { q with phase := .waiting w0 addr v none x }
      events := s.events ++ [{ typ := 4, code := 0, tag := 0, ctx := BitVec.ofNat 16 q.ctx, w1 := BitVec.ofNat 64 q.num, w2 := addr, w3 := v }] }) ∧
  (∀ (s : State) (k cell : Nat) (q : Queue) (w0 addr v : Word) (x : Option XlReq),
    SMap.get? s.queues k = some q → q.phase = .adding w0 addr v x → (s.counterAt q.ctx addr 1 x).2 = .at cell →
    s.judgeAdd k = ((s.counterAt q.ctx addr 1 x).1.addAt q.ctx cell v).putQueue k { q with phase := .idle }) ∧
  (∀ (s : State) (lid : Nat) (l : Launch),
    SMap.get? s.launches lid = some l → l.dev = s.dev → l.counted = false → s.launchDone lid l = true →
    ∃ (t : State) (l1 : Launch), exec (.launchComplete lid) s = .next (t.judgeCount lid l1) ∧ t.mem = s.mem ∧ SMap.get? t.launches lid = some l1 ∧
      l1 = { l with counted := true, grid := [], mbars := [] } ∧
      (∀ (cid : Nat) (c : Crew), SMap.get? t.crews cid = some c → c.lid ≠ lid) ∧ (∀ e ∈ s.crews, e.2.lid = lid → ∀ g ∈ e.2.groups, SMap.get? t.groups g = none) ∧
      (l.counter = 0 → SMap.get? (t.judgeCount lid l1).launches lid = none ∧ (t.judgeCount lid l1).mem = s.mem) ∧
      (∀ cell, (t.counterAt l.ctx l.counter 1 l.x).2 = .at cell → l.counter ≠ 0 →
        (t.judgeCount lid l1).mem = writeMem s.mem cell (leBytes 8 (s.word cell + l.incr).toNat)))

/-- R41, R270, R272, R273, R275 to R279: one turn of the deficit round-robin goes to the next queue of the highest class that has a crew to
give crews: QUANT is added to its deficit, and it admits crews, each at ADV, while its deficit lasts. A crew that a station can take is placed at the
roomiest one that fits, with its groups set up as the rules list them, the station's local space zeroed on a change of owner. A gang whose crews
all have stations that can take them is placed in one step; at the age limit it holds later crews back. -/
def Obligations.Placement : Prop :=
  (∀ (s : State) (cls k lid : Nat) (q : Queue) (l : Launch),
    let u := (s.putQueue k { q with dc := q.dc + ((q.quant * 4096 : Nat) : Int) }).turn k lid (l.crews - l.admitted)
    cls < 4 → s.bosun.hold = false → (∀ c < 4, cls < c → s.nextQueue c = none) → s.nextQueue cls = some (k, q, lid, l) →
    ∃ t, exec .crewAdmission s = .next t ∧ RMap.get t.ptrs cls = BitVec.ofNat 32 (k + 1) ∧ t.launches = u.launches ∧ t.masts = u.masts ∧ t.groups = u.groups) ∧
  (∀ (s : State) (k lid n : Nat) (q : Queue) (l : Launch),
    SMap.get? s.queues k = some q → s.eligible q = some (lid, l) →
    (q.dc ≤ 0 → s.turn k lid (n + 1) = s) ∧
    (0 < q.dc → l.gang = 0 → s.turn k lid (n + 1) =
      State.turn ((s.admitCrew lid).putQueue k { q with dc := q.dc - ((q.adv * 4096 : Nat) : Int) }) k lid n)) ∧
  (∀ (s : State) (lid m : Nat) (l : Launch) (c : Ctx) (win : Option Nat),
    let t := s.admitCrew lid
    SMap.get? s.launches lid = some l → l.gang = 0 → l.admitted < l.crews → SMap.get? s.ctxs l.ctx = some c → s.anchorAt c (l.anchors.getD l.admitted 0) = some (m, win) →
    SMap.get? t.launches lid = some { l with admitted := l.admitted + 1, order := if l.order = 0 then s.nextId else l.order } ∧
    (t.mast m).order = (s.mast m).order ++ [(lid, l.admitted)] ∧ t.mem = s.mem ∧ t.groups = s.groups) ∧
  (∀ (s : State) (m i lid cix n : Nat) (l : Launch) (c : Ctx) (win : Option Nat),
    let s1 := s.reserveHeads m
    let head := decide (s1.headCrew m = some (lid, cix))
    (s1.mast m).order[i]? = some (lid, cix) → SMap.get? s1.launches lid = some l → SMap.get? s1.ctxs l.ctx = some c → c.st = .running →
    s1.bosun.hold = false → s1.gangBlocks lid l = false → s1.anchorAt c (l.anchors.getD cix 0) = some (m, win) → l.gang = 0 →
    s1.roomiest m ((s1.candidates l m win).filter (fun n => s1.takesCrew lid cix l m n && (head || (s1.stn m n).resv.isNone))) = some n →
    ∃ t : State, exec (.crewPlacement m i) s = .next (t.placeCrew lid cix l m n) ∧ t.mem = s.mem ∧ t.groups = s.groups ∧ t.nextId = s.nextId ∧
      ∀ k, (s1.reservedFor lid cix m = some k → (t.stn m k).resv = none) ∧ (t.stn m k).crew = (s.stn m k).crew) ∧
  (∀ (s : State) (lid cix m n g : Nat) (l : Launch),
    let t := s.placeCrew lid cix l m n
    let sid := s.nextId + 2 + 2 * g
    g < l.groups → n < 64 →
    (t.stn m n).crew = some s.nextId ∧ (t.stn m n).tag = BitVec.ofNat 16 l.ctx ∧
    (∃ cr, SMap.get? t.crews s.nextId = some cr ∧ cr.lid = lid ∧ cr.cix = cix ∧ cr.mast = m ∧ cr.stn = n ∧ cr.anchor = l.anchors.getD cix 0 ∧ cr.lseg = l.lseg ∧
      cr.rsv = l.rsv ∧ cr.weight = l.weight) ∧
    (if (s.stn m n).tag = BitVec.ofNat 16 l.ctx then t.mem = s.mem
     else ∀ a, RMap.get (n := 8) t.mem a = if localCell m n 0 ≤ a ∧ a < localCell m n 0 + 0x140000 then 0 else RMap.get (n := 8) s.mem a) ∧
    ∃ gr u, SMap.get? t.groups (sid - 1) = some gr ∧ gr.ctx = l.ctx ∧ gr.cid = some s.nextId ∧ gr.gix = g ∧ gr.width = l.width ∧ gr.wins = l.wins ∧
      SMap.get? t.subs sid = some u ∧ u.gid = sid - 1 ∧ u.mast = m ∧ u.stn = n ∧ u.dldef = l.dldef ∧ u.reg (.s 0) = l.param ∧
      u.reg (.s 1) = l.anchors.getD cix 0 ∧ u.ctl = (if l.dit then 2 else 0) + (if l.chk then 1 else 0) ∧
      (∀ i < 4, u.reg (.d i) = l.dldef) ∧ (∀ i, 2 ≤ i → i < 32 → u.reg (.s i) = 0) ∧ (∀ lane i, lane < 64 → i < 64 → u.reg (.v lane i) = 0) ∧
      ∀ lane, (SMap.get? u.lanes lane).map (fun x => (x.pc, x.st, x.meet)) = if lane < l.width then some (l.entry, .ready, 0) else none) ∧
  (∀ (s : State) (lid : Nat) (l : Launch),
    s.pendingGang = some lid → SMap.get? s.launches lid = some l → s.bosun.hold = false → s.crewRuns lid = true →
    (s.gangPlaces lid l).length = l.crews → (∀ e ∈ s.gangPlaces lid l, s.takesCrew lid e.2.2 l e.1 e.2.1 = true) →
    exec .gangStart s = .next (((s.gangPlaces lid l).foldl (fun s e => s.placeCrew lid e.2.2 l e.1 e.2.1) s).updLaunch lid
      (fun l => { l with gangAge := none, gangHeld := false }))) ∧
  (∀ (s : State) (lid : Nat) (l : Launch) (a : Word),
    s.pendingGang = some lid → SMap.get? s.launches lid = some l → l.gangAge = some a → 65536 ≤ a.toNat →
    exec .gangAgeLimit s = .next { s with launches := SMap.put s.launches lid { l with gangHeld := true } })

/-- R206, R262, R267, R288, R295, R317, R318, R322, R325, R333, R334, R336, R346: while negotiation has succeeded, a host command with legal arguments has its
effect, and its completion event with code OK (0) is sent: CTXREG registers the context of a record, QREG and QRESTART a queue from its
descriptor, FTAG writes owner tags, MEMBER joins or removes a device, RESUME and DEBUGGO let stopped and halted lanes go on, DESTROY forgets a
context, ATTEST writes the report, and CKLOAD reads an image back. A checkpoint that CKPT starts is written when the operations have drained. -/
def Obligations.ContextCommands : Prop :=
  let ok := fun (c : HCmd) => ({ typ := 1, code := 0, tag := c.tag, ctx := c.ctx, w1 := 0, w2 := 0, w3 := 0 } : Event)
  (∀ (s : State) (c : HCmd) (ws : List Word) (x : Ctx),
    let u := s.noteCmd 0x01 c
    s.regs.neg = 1 → SMap.get? s.ctxs c.ctx.toNat = none → c.ctx ≠ 0 → c.ctx ≠ 0xFFFF → u.physWords c.ctx.toNat c.a0 32 8 = some ws →
    u.readRoot c.ctx.toNat (ctxOfWords ws) = some x → fieldOf (ws.getD 0 0) 48 16 = c.ctx.toNat →
    ∃ t y, exec (.ctxreg c) s = .next t ∧ SMap.get? t.ctxs c.ctx.toNat = some y ∧ y.esclim = fieldOf (ws.getD 0 0) 0 8 ∧ y.tvec = ws.getD 1 0 ∧
      y.save = ws.getD 2 0 ∧ y.root = ws.getD 3 0 ∧ y.pdl = ws.getD 4 0 ∧ y.grantVa = ws.getD 5 0 ∧ y.wentry = x.wentry ∧ y.stripe = x.stripe ∧ y.tb = x.tb ∧
      y.esc = 0 ∧ y.nq = 0 ∧ (y.st = .running ∨ y.st = .saved) ∧ t.queues = s.queues ∧ t.events = s.events ++ [ok c]) ∧
  (∀ (s : State) (c : HCmd) (x y : Ctx) (ws : List Word),
    let u := s.noteCmd 0x02 c
    let u1 : State := { u with ctxs := SMap.put u.ctxs c.ctx.toNat y }
    s.regs.neg = 1 → SMap.get? s.ctxs c.ctx.toNat = some x → x.nq < 64 → x.st ≠ .reset →
    (if x.nq = 0 then ∃ z, u.readRoot c.ctx.toNat x = some z ∧ y = { z with grant := ({ u with ctxs := SMap.put u.ctxs c.ctx.toNat z }).readGrant c.ctx.toNat z } else y = x) → u1.queueWords c.ctx.toNat c.a0 = some ws →
    ∃ t, exec (.qreg c) s = .next t ∧ SMap.get? t.ctxs c.ctx.toNat = some { y with nq := y.nq + 1 } ∧
      SMap.get? t.queues (c.ctx.toNat * 64 + x.nq) = some (queueOfWords c.ctx.toNat x.nq c.a0 ws) ∧ t.mem = s.mem ∧ t.events = s.events ++ [ok c]) ∧
  (∀ (s : State) (c : HCmd) (x : Ctx) (q : Queue) (ws : List Word),
    let k := c.ctx.toNat * 64 + fieldOf c.a0 0 6
    s.regs.neg = 1 → SMap.get? s.ctxs c.ctx.toNat = some x → x.st ≠ .reset → SMap.get? s.queues k = some q → q.stopped = true →
    (s.noteCmd 0x03 c).queueWords c.ctx.toNat q.desc = some ws →
    ∃ t, exec (.qrestart c) s = .next t ∧ SMap.get? t.queues k = some { queueOfWords c.ctx.toNat q.num q.desc ws with stopped := false, phase := q.phase } ∧
      t.events = s.events ++ [ok c]) ∧
  (∀ (s : State) (c : HCmd),
    let m := s.dev * 16 + fieldOf c.a0 0 4
    let tag := BitVec.ofNat 16 (fieldOf c.a2 32 16)
    let n := fieldOf c.a2 0 20
    s.regs.neg = 1 → tag ≠ 0xFFFF → c.a1.toNat + n ≤ dataFrames →
    ∃ t, exec (.ftag c) s = .next t ∧ t.mem = s.mem ∧ t.events = s.events ++ [ok c] ∧
      (∀ f, c.a1.toNat ≤ f → f < c.a1.toNat + n → t.frameTag m f = tag ∧ ∀ e ∈ (t.mast m).tlb, e.mapsFrame f = false) ∧
      (∀ k f, k ≠ m ∨ f < c.a1.toNat ∨ c.a1.toNat + n ≤ f → f < 2 ^ 20 → t.frameTag k f = s.frameTag k f)) ∧
  (∀ (s : State) (c : HCmd),
    let dev := fieldOf c.a0 0 10
    s.regs.neg = 1 → s.regs.active.getLsbD 1 = true → dev ≠ s.devno →
    (c.a1.getLsbD 0 = true → ∃ t, exec (.member c) s = .next t ∧ t.mem = s.mem ∧ t.events = s.events ++ [ok c] ∧
      ∀ d, t.regs.member.getLsbD d = if d = dev then true else s.regs.member.getLsbD d) ∧
    (c.a1.getLsbD 0 = false → s.regs.member.getLsbD dev = true → exec (.member c) s = .next (((s.noteCmd 0x0A c).leave dev).complete c.ctx c.tag 0))) ∧
  (∀ (s : State) (dev : Nat),
    s.regs.member.getLsbD dev = true → dev ≠ s.devno → dev ∉ s.shroud.paths → 2000000 ≤ (RMap.get s.shroud.noPath dev).toNat →
    ∃ t, exec (.membershipTimeout dev) s = .next t ∧ t = { s.leave dev with events := (s.leave dev).events ++
      [{ typ := 7, code := 0, tag := 0, ctx := 0, w1 := BitVec.ofNat 64 dev, w2 := 0, w3 := 0 }] }) ∧
  (∀ (s t : State) (c : HCmd) (x : Ctx) (gid : Nat) (g : Group),
    let u := s.noteCmd 0x06 c
    let subs := s.subs.filter (fun e => decide (e.2.gid = gid))
    s.regs.neg = 1 → SMap.get? s.ctxs c.ctx.toNat = some x → s.groupByPlace c.ctx.toNat c.a0 = some (gid, g) →
    (∃ e ∈ subs, e.2.laneMask (fun l => decide (l.st = .stopped)) ≠ 0) →
    subs.foldl (fun (t : Option State) e => t.bind (fun t => t.resumeSub x g e.1 e.2)) (some u) = some t →
    exec (.resume c) s = .next (t.complete c.ctx c.tag 0)) ∧
  (∀ (s : State) (c : HCmd) (gid sid : Nat) (g : Group) (sg : SubGroup),
    let now := (s.stn sg.mast sg.stn).cycles
    s.regs.neg = 1 → s.groupByPlace c.ctx.toNat c.a0 = some (gid, g) → s.subs.filter (fun e => decide (e.2.gid = gid)) = [(sid, sg)] →
    SMap.get? s.subs sid = some sg → (∀ e ∈ sg.lanes, e.2.meet = 0 ∨ e.2.pc ≠ e.2.meet) →
    ∃ t v, exec (.debuggo c) s = .next t ∧ t.halting = false ∧ t.mem = s.mem ∧ t.events = s.events ++ [ok c] ∧ SMap.get? t.subs sid = some v ∧
      (∀ y, v.reg y = sg.reg y) ∧ ∀ l, SMap.get? v.lanes l = (SMap.get? sg.lanes l).map (fun x =>
        if (sg.laneMask (fun l => decide (l.st = .halted))).getLsbD l then { x with st := .ready, readyAt := now, since := now, starve := 0 } else x)) ∧
  (∀ (s : State) (c : HCmd) (x : Ctx),
    s.regs.neg = 1 → SMap.get? s.ctxs c.ctx.toNat = some x →
    ∃ t, exec (.destroy c) s = .next t ∧ SMap.get? t.ctxs c.ctx.toNat = none ∧ (∀ k q, SMap.get? t.queues k = some q → q.ctx ≠ c.ctx.toNat) ∧
      t.events.getLast? = some (ok c)) ∧
  (∀ (s : State) (c : HCmd) (x : Ctx) (ws : List Word) (p q : Nat),
    let u := s.noteCmd 0x0D c
    let r := u.report (bytesOf ws)
    s.regs.neg = 1 → SMap.get? s.ctxs c.ctx.toNat = some x → u.ownRun c.ctx.toNat x c.a0 149 true = true → u.ownRun c.ctx.toNat x c.a1 2 false = true →
    u.cpWords c.ctx.toNat x c.a1 8 = some ws → u.cpCell c.ctx.toNat x c.a1 false = some p → u.cpCell c.ctx.toNat x (c.a1 + 32) false = some q → s.badAt p = false → s.badAt q = false →
    exec (.attest c) s = .next ((((List.range 149).foldl (fun s i => s.cpBytes c.ctx.toNat x (c.a0 + BitVec.ofNat 64 (32 * i)) ((r.drop (32 * i)).take 32))
      (u.checkRead [p, q])).complete c.ctx c.tag 0))) ∧
  (∀ (s : State) (c : HCmd),
    let pctx := BitVec.ofNat 16 (fieldOf c.a1 48 16)
    s.regs.neg = 1 → s.regs.active.getLsbD 3 = true → s.ckpt = none → (SMap.get? s.ctxs pctx.toNat).isSome = true →
    (if c.a1.getLsbD 0 then (∀ e ∈ s.ctxs, e.2.st = .saved ∨ e.2.st = .reset) ∧ ∀ e ∈ s.queues, e.2.phase = .idle
     else ∃ x, SMap.get? s.ctxs c.ctx.toNat = some x ∧ x.st = .saved) →
    exec (.ckpt c) s = .next { s.noteCmd 0x0B c with
      ckpt := some { tag := c.tag, ctx := c.ctx, table := c.a0, pctx := pctx, whole := c.a1.getLsbD 0, load := false } }) ∧
  (∀ (s : State) (k : Ckpt) (c : Ctx) (gs : List (Word × Nat)),
    let p := k.pctx.toNat
    s.ckpt = some k → SMap.get? s.ctxs p = some c → s.beyond c k.table = false → s.readSegs p c k.table 64 = some gs →
    (∀ g ∈ gs, s.beyond c g.1 = false ∧ s.segOk p c g = true) →
    (k.load = false → s.ckDrained k = true → ∃ t, exec .ckptImageWrite s = .next t ∧ t.ckpt = none ∧ t.mem = (s.ckWrite k c gs).1.mem ∧
      t.events.getLast? = some { typ := 1, code := (s.ckWrite k c gs).2, tag := k.tag, ctx := k.ctx, w1 := 0, w2 := 0, w3 := 0 }) ∧
    (k.load = false → s.ckDrained k = false → exec .ckptImageWrite s = .next s) ∧
    (k.load = true → ∃ t, exec .ckptImageWrite s = .next t ∧ t.ckpt = none ∧ t.mem = (s.ckLoad p c gs).1.mem ∧
      t.events.getLast? = some { typ := 1, code := (s.ckLoad p c gs).2, tag := k.tag, ctx := k.ctx, w1 := 0, w2 := 0, w3 := 0 })) ∧
  (∀ (s : State) (c : HCmd) (x : Ctx) (gs : List (Word × Nat)),
    let p := fieldOf c.a1 48 16
    let k : Ckpt := { tag := c.tag, ctx := c.ctx, table := c.a0, pctx := BitVec.ofNat 16 p, whole := c.a1.getLsbD 0, load := true }
    let u : State := { s.noteCmd 0x0C c with ckpt := some k }
    s.regs.neg = 1 → s.regs.active.getLsbD 3 = true → s.ckpt = none → SMap.get? s.ctxs p = some x → u.beyond x c.a0 = false →
    u.readSegs p x c.a0 64 = some gs → (∀ g ∈ gs, u.beyond x g.1 = false ∧ u.segOk p x g = true) →
    exec (.ckload c) s = .next ((u.ckLoad p x gs).1.ckEnd k (u.ckLoad p x gs).2) ∧
    (∀ hb, u.segGet p x gs 0 256 = some hb → headerOk (wordsOf 32 hb) = false → u.ckLoad p x gs = (u, 7)))

/-- R301 to R303, R305, R306, R347: each of PREEMPT, PREEMPT COMPLETE, PDL EXPIRY, RESTORE and RESTORE COMPLETE completes, under conditions on the state alone. PREEMPT of
a running context makes it saving, in the device and in its save area, with its deadline PDL, and stops it. Once nothing of it is unsettled, the
results it waits for are delivered, its records are written, its lanes leave the device and their stations, and it is saved; with more records
than the region takes, or at the deadline, it is reset and the command ends with ERROR (7). RESTORE of a saved context whose records name no
fenced place makes it restoring; its records are loaded once its stations are free, and once every image is admitted it runs. -/
def Obligations.SaveAndRestore : Prop :=
  (∀ (s : State) (c : HCmd) (x : Ctx),
    let u := s.noteCmd 0x04 c
    s.regs.neg = 1 → SMap.get? s.ctxs c.ctx.toNat = some x → x.st = .running →
    ∃ t : State, exec (.preempt c) s = .next (t.stopContext c.ctx.toNat) ∧ t.events = s.events ∧ t.subs = s.subs ∧
      SMap.get? t.ctxs c.ctx.toNat = some { x with st := .saving, left := some x.pdl, ptag := c.tag } ∧
      t.mem = match u.cpCell c.ctx.toNat x x.save true with
        | some cell => writeMem s.mem cell (leBytes 8 (packWord [(c.ctx.toNat, 48), (1, 0)]).toNat)
        | none => s.mem) ∧
  (∀ (s s2 : State) (ctx : Nat) (c : Ctx) (ws : List Word),
    let gs := s.ctxGroups ctx
    let u := (s.pendings ((s.ctxSubs ctx).map (fun e => e.2.gid) ++ gs).dedup).foldl (fun s e => s.deliver e.1 e.2.id) s
    let rs := saveRecs u ctx gs
    SMap.get? s.ctxs ctx = some c → c.st = .saving → s.unsettled ctx = false → u.cpWords ctx c (c.save + 0x10) 2 = some ws →
    8 * (rs.map List.length).sum ≤ (ws.getD 1 0).toNat → u.cpPut ctx c (ws.getD 0 0) rs.flatten = some s2 →
    ∃ t c', exec (.preemptComplete ctx) s = .next t ∧ SMap.get? t.ctxs ctx = some c' ∧ c'.st = .saved ∧ c'.left = none ∧
      (∀ e ∈ u.ctxSubs ctx, SMap.get? t.subs e.1 = none) ∧ (∀ e ∈ t.ties, u.own e.2.mast = true → u.inCtx ctx e.2.gid = false) ∧
      (∀ e ∈ u.boundCrews ctx, (t.stn e.2.mast e.2.stn).crew = none ∧ (t.stn e.2.mast e.2.stn).tag = 0) ∧
      t.events.getLast? = some { typ := 1, code := 0, tag := c.ptag, ctx := BitVec.ofNat 16 ctx, w1 := 0, w2 := 0, w3 := 0 }) ∧
  (∀ (s : State) (ctx : Nat) (c : Ctx) (ws : List Word),
    let gs := s.ctxGroups ctx
    let u := (s.pendings ((s.ctxSubs ctx).map (fun e => e.2.gid) ++ gs).dedup).foldl (fun s e => s.deliver e.1 e.2.id) s
    SMap.get? s.ctxs ctx = some c → c.st = .saving → s.unsettled ctx = false → u.cpWords ctx c (c.save + 0x10) 2 = some ws →
    (ws.getD 1 0).toNat < 8 * ((saveRecs u ctx gs).map List.length).sum →
    exec (.preemptComplete ctx) s = .next ((s.forceReset ctx).complete (BitVec.ofNat 16 ctx) c.ptag 7)) ∧
  (∀ (s : State) (ctx : Nat) (c : Ctx),
    SMap.get? s.ctxs ctx = some c → c.st = .saving → c.left = some 0 →
    exec (.pdlExpiry ctx) s = .next ((s.forceReset ctx).complete (BitVec.ofNat 16 ctx) c.ptag 7) ∧
    s.forceReset ctx = (s.resetCtx ctx).tellBosun (s.dev * 16) ctx 0 ∧
    (s.resetCtx ctx).events.getLast? = some { typ := 2, code := 0, tag := 0, ctx := BitVec.ofNat 16 ctx, w1 := 0, w2 := 0, w3 := 0 }) ∧
  (∀ (s : State) (c : HCmd) (x y : Ctx) (rs : List Rec),
    let u := s.noteCmd 0x05 c
    s.regs.neg = 1 → SMap.get? s.ctxs c.ctx.toNat = some x → x.st = .saved → s.inCkpt c.ctx.toNat = false → u.readRoot c.ctx.toNat x = some y →
    u.savedRecs c.ctx.toNat y = some rs → (∀ r ∈ rs, u.recFenced r = false) →
    ∃ t, exec (.restore c) s = .next t ∧ SMap.get? t.ctxs c.ctx.toNat = some { y with ptag := c.tag, left := none, st := .restoring } ∧
      t.events = s.events ∧ t.subs = s.subs ∧ t.images = s.images ∧ t.crews = s.crews) ∧
  (∀ (s : State) (ctx : Nat) (c : Ctx) (rs : List Rec),
    let ps := s.crewPairs ctx rs
    SMap.get? s.ctxs ctx = some c → c.st = .restoring → c.left = none → s.savedRecs ctx c = some rs →
    (s.stationsFree ps = true → exec (.restoreComplete ctx) s = .next ((s.loadAll ctx rs).updCtx ctx (fun c => { c with left := some 0, pend := [] }))) ∧
    (s.stationsFree ps = false → exec (.restoreComplete ctx) s = .next (s.reserveAll ps))) ∧
  (∀ (s : State) (ctx : Nat) (c : Ctx) (x : Word),
    SMap.get? s.ctxs ctx = some c → c.st = .restoring → c.left = some x →
    (∀ e ∈ s.images, e.2.restored = true → s.own e.2.tmast = true → s.inCtx ctx e.2.sg.gid = false) →
    ∃ t c', exec (.restoreComplete ctx) s = .next t ∧ SMap.get? t.ctxs ctx = some c' ∧ c'.st = .running ∧
      c'.esc = ((s.cpWord ctx c (c.save + 0x28)).getD 0).toNat % 256 ∧ t.subs = s.subs ∧
      t.events = s.events ++ [{ typ := 1, code := 0, tag := c.ptag, ctx := BitVec.ofNat 16 ctx, w1 := 0, w2 := 0, w3 := 0 }])

/-- R312 to R317, R319 to R322, R337: packets of a queue pair are performed in order, one that waits holds those behind it: a write and a read of a region
move its bytes, Compare&Swap and Fetch&Add return the old value. A refused opcode puts the queue pair in error. The registers take what is written by
their access codes; the first write of DRVFEAT negotiates. An event goes to the next place of the ring. Flits that pass their CRC are taken in
sequence and bring in the next messages of their class; a path comes with its link, and the last port that fails takes every path. -/
def Obligations.HostPort : Prop :=
  (∀ (s t : State) (i : Instr) (p : Packet) (k key off n : Nat) (data : List Byte) (a b : Word) (o : HostOut),
    (i = .rdmaWrite k key off data ∧ p = .write key off data) ∨ (i = .rdmaRead k key off n ∧ p = .read key off n) ∨
    (i = .compareAndSwap k key off a b ∧ p = .cas key off a b) ∨ (i = .fetchAndAdd k key off a ∧ p = .add key off a) →
    s.bosun.hostUp = true → k < 4096 → (s.qp k).error = false →
    ((s.qp k).waiting = [] → (s.qp k).x = none → (s.updQp k (fun q => { q with waiting := [p] })).packet k p = (t, .done o) →
      exec i s = .next ((t.updQp k (fun q => { q with waiting := [], x := none })).answer o)) ∧
    ((s.qp k).waiting ≠ [] → exec i s = .next { s with qps := SMap.put s.qps k { s.qp k with waiting := (s.qp k).waiting ++ [p] } })) ∧
  (∀ (s : State) (k key off n cell : Nat) (data : List Byte) (c : Ctx) (acc : BitVec 2),
    let g := s.region key
    let va := g.va + BitVec.ofNat 64 off
    0 < key → key < 4096 → SMap.get? s.ctxs g.ctx.toNat = some c → g.len ≠ 0 → off + n ≤ g.len.toNat → 0 < n → va.toNat % 32 + n ≤ 32 →
    s.hostAt g.ctx.toNat c va acc = (s, .cell cell) → soundAt s (sectorOf cell) 32 = true →
    (acc = 1 → g.wr = true → data.length = n →
      ∃ t, s.packet k (.write key off data) = (t, .done (.ack k)) ∧ t.mem = writeMem s.mem cell data) ∧
    (acc = 0 → g.rd = true → s.packet k (.read key off n) = (s, .done (.data k (s.bytes cell n)))) ∧
    (∀ x y, acc = 1 → g.at_ = true → n = 8 → va.toNat % 8 = 0 →
      (∃ t, s.packet k (.cas key off x y) = (t, .done (.old k (s.word cell))) ∧
        t.mem = if s.word cell = x then writeMem s.mem cell (leBytes 8 y.toNat) else writeMem s.mem cell (leBytes 8 (s.word cell).toNat)) ∧
      (∃ t, s.packet k (.add key off x) = (t, .done (.old k (s.word cell))) ∧ t.mem = writeMem s.mem cell (leBytes 8 (s.word cell + x).toNat)))) ∧
  (∀ (s : State) (k : Nat), s.bosun.hostUp = true → k < 4096 → (s.qp k).error = false →
    exec (.invalidRequest k) s = .next { s with qps := SMap.put s.qps k { s.qp k with error := true }, hostOut := .nakInvalid k :: s.hostOut } ∧
    exec (.cnp k) s = .next { s with qps := SMap.put s.qps k { s.qp k with slowed := true } } ∧
    exec (.ecnCe k) s = .next { s with hostOut := .cnp k :: s.hostOut }) ∧
  (∀ (s : State) (k : Nat), exec (.qpAbandoned k) s = .next { s with qps := SMap.put s.qps k { s.qp k with waiting := [], x := none } }) ∧
  (∀ (s : State) (v w : Word) (q : Queue) (c : Ctx),
    let k := fieldOf v 48 16 * 64 + fieldOf v 0 6
    s.regs.neg = 1 → SMap.get? s.queues k = some q → SMap.get? s.ctxs q.ctx = some c → s.cpWord q.ctx c (q.desc + 8) = some w →
    exec (.doorbell v) s = .next { s with queues := SMap.put s.queues k { q with tail := BitVec.ofNat 32 (fieldOf w 0 32) } }) ∧
  (∀ (s : State) (v : Word), s.regs.judged = false →
    ∃ t, exec (.drvfeatWrite v) s = .next t ∧ t.mem = s.mem ∧ t.regs.judged = true ∧ t.regs.drvfeat = v ∧
      (if v.getLsbD 0 = true ∧ v &&& ~~~s.regs.devfeat = 0 then t.regs.neg = 1 ∧ t.regs.active = v else t.regs.neg = 2 ∧ t.regs.active = s.regs.active)) ∧
  (∀ (s : State) (off u part : Nat) (v : Word),
    let j := s.jrnOf u
    let mode := BitVec.ofNat 2 (fieldOf v 62 2)
    journalPlace off = some (u, part) →
    ∃ t, exec (.journalControlWrite off v) s = .next t ∧ t.mem = s.mem ∧
      (part ≠ 0 → t.jrnOf u = { j with jlen := BitVec.ofNat 32 (fieldOf v 0 32) }) ∧
      (part = 0 → (t.jrnOf u).jtag = BitVec.ofNat 16 (fieldOf v 24 16) ∧ (t.jrnOf u).jframe = BitVec.ofNat 20 (fieldOf v 0 20) ∧
        (t.jrnOf u).atom = (v.getLsbD 61 && s.regs.active.getLsbD 2) ∧
        (s.ctxs = [] → mode ≠ 3 → mode ≠ j.mode → (t.jrnOf u).mode = mode ∧ (t.jrnOf u).jhead = 0 ∧ (t.jrnOf u).ovf = false ∧ (t.jrnOf u).div = false) ∧
        (s.ctxs ≠ [] → (t.jrnOf u).mode = j.mode ∧ (t.jrnOf u).jhead = j.jhead))) ∧
  (∀ (s : State) (n k i : Nat) (v : Word),
    let m := s.dev * 16 + n
    n < 16 → k < 4096 → i < 4 →
    (s.regs.neg = 0 → ∃ t, exec (.registerWrite 0 v) s = .next t ∧ t.regs.devnum = BitVec.ofNat 10 (fieldOf v 0 10)) ∧
    (∃ t, exec (.registerWrite 0x28 v) s = .next t ∧ t.regs.evva = v ∧ t.mem = s.mem) ∧
    (∃ t, exec (.registerWrite 0x38 v) s = .next t ∧ t.regs.evhead = BitVec.ofNat 32 (fieldOf v 32 32) ∧ t.regs.evslots = BitVec.ofNat 32 (fieldOf v 0 32)) ∧
    (∃ t, exec (.registerWrite (0x80000 + 32 * k + 8 * i) v) s = .next t ∧ t.region k = (s.region k).put i v ∧ ∀ j, j ≠ k → t.region j = s.region j) ∧
    (∃ t, exec (.registerWrite (0x100000 + n * 0x10000 + 0x2010) v) s = .next t ∧
      (t.mast m).newi = ((s.mast m).newi && !v.getLsbD 0) ∧ (t.mast m).ovfi = ((s.mast m).ovfi && !v.getLsbD 1) ∧ (t.mast m).faults = (s.mast m).faults) ∧
    (∃ t, exec (.registerWrite (0x100000 + n * 0x10000 + 0x3018) v) s = .next t ∧
      (t.mast m).cethr = BitVec.ofNat 32 (fieldOf v 32 32) ∧ (t.mast m).auto = v.getLsbD 0) ∧
    (∃ t, exec (.registerWrite 0x200010 v) s = .next t ∧ t.bosun.thi = (s.bosun.thi && !v.getLsbD 1) ∧ t.bosun.trip = (s.bosun.trip && !v.getLsbD 0) ∧
      t.bosun.pcap = if 400 ≤ fieldOf v 48 16 ∧ fieldOf v 48 16 ≤ 2400 then BitVec.ofNat 16 (fieldOf v 48 16) else s.bosun.pcap)) ∧
  (∀ (s : State) (e : Event) (rest : List Event), s.events = e :: rest → s.eventRoom = true →
    exec .eventWrite s = .next { s with
      events := rest
      evCount := s.evCount + 1
      hostOut := .event (s.regs.evva + BitVec.ofNat 64 (32 * (s.evCount % s.regs.evslots.toNat))) s.regs.evkey (e.words s.evCount s.regs.evslots.toNat) :: s.hostOut }) ∧
  (∀ (s : State) (f : Flit),
    let key := f.src * 32 + f.port
    let u : State := { s with shroud := { s.shroud with seqs := RMap.set s.shroud.seqs key (f.seq + 1) } }
    let got := RMap.get s.shroud.part f.src + 1
    s.regs.active.getLsbD 1 = true → f.port < 18 → f.port ∉ s.shroud.failed →
    (Config.crc64 (flitBytes f) ≠ f.crc → exec (.riluaganFlit f) s = .next { s with shroud := { s.shroud with retry := s.shroud.retry + 1 } }) ∧
    (Config.crc64 (flitBytes f) = f.crc → f.seq ≠ RMap.get s.shroud.seqs key → exec (.riluaganFlit f) s = .next s) ∧
    (Config.crc64 (flitBytes f) = f.crc → f.seq = RMap.get s.shroud.seqs key →
      (f.count = 0 → exec (.riluaganFlit f) s = .next u) ∧
      (∀ i b, f.count = 1 → f.cls ≠ 0 → u.nextFrom (s.devIx f.src) f.port f.cls.toNat = some (i, b) →
        ∃ t, execMsg i b u = .next t ∧ exec (.riluaganFlit f) s = .next t) ∧
      (∀ i im, f.count = 1 → f.cls = 0 → u.imageFrom (s.devIx f.src) f.port = some (i, im) →
        (got.toNat < im.flits → exec (.riluaganFlit f) s = .next { u with shroud := { u.shroud with part := RMap.set s.shroud.part f.src got } }) ∧
        (im.flits ≤ got.toNat → ∃ t, exec (.riluaganFlit f) s = .next t ∧
          exec (.imageLanding i) { u with shroud := { u.shroud with part := RMap.set s.shroud.part f.src 0 } } = .next t)))) ∧
  (∀ (s : State) (p : Nat), p < 18 → p ∉ s.shroud.failed →
    (s.shroud.failed.length + 1 < 18 → exec (.shroudPortFailure p) s = .next { s with shroud := { s.shroud with failed := s.shroud.failed ++ [p] } }) ∧
    (18 ≤ s.shroud.failed.length + 1 → ∃ t, exec (.shroudPortFailure p) s = .next t ∧ t.shroud = { s.shroud with failed := s.shroud.failed ++ [p], paths := [] } ∧
      (∀ e ∈ t.others, s.devno ∉ e.2.shroud.paths) ∧ t.mem = s.mem ∧ t.subs = s.subs)) ∧
  (∀ (s : State) (dev : Nat), s.regs.active.getLsbD 1 = true → (∀ p, s.partOf (s.devIx dev) = some p → p.regs.active.getLsbD 1 = true) → dev < 1024 →
    dev ≠ s.devno → dev ∉ s.shroud.paths →
    exec (.shroudPath dev) s = .next { s with shroud := { s.shroud with paths := s.shroud.paths ++ [dev], noPath := RMap.set s.shroud.noPath dev 0 } })

/-- R328 to R332, R340 to R343: ROW and BANK start a repair, and when it is complete the row or bank reads from its spare, one spare fewer, or RESULT is 5 for want of one.
The fence requests take a station or a mast out of service, its contexts reset. A scrub corrects a sector with one symbol in error. A soft error is counted, and one
that is not corrected resets its contexts. The tiers of a mast come up one after another, each within its limit, and a mast that misses one is fenced. The
thermal limits hold and release the clocks, and the last powers the device down. A replay that diverges halts every ready lane. -/
def Obligations.DeviceService : Prop :=
  let swept := fun (s t : State) => (∀ a, RMap.get (n := 8) t.mem a = if a / 2 ^ 37 / 16 = s.dev then 0 else RMap.get (n := 8) s.mem a) ∧
    ∀ e ∈ t.subs, e.2.mast / 16 ≠ s.dev
  (∀ (s : State) (i : Instr) (m op : Nat) (pa : BitVec 36), (i = .row m pa ∧ op = 1) ∨ (i = .bank m pa ∧ op = 2) → (s.mast m).busy = false →
    ∃ t, exec i s = .next t ∧ t.mem = s.mem ∧ (t.mast m).busy = true ∧ (t.mast m).repair = BitVec.ofNat 64 (op * 2 ^ 60 + pa.toNat) ∧
      (t.mast m).rows = (s.mast m).rows ∧ (t.mast m).banks = (s.mast m).banks) ∧
  (∀ (s : State) (m : Nat),
    let op := fieldOf (s.mast m).repair 60 4
    let pa := fieldOf (s.mast m).repair 0 36
    m / 16 = s.dev → (s.mast m).busy = true → s.soft = [] → s.bad = [] →
    ∃ t, exec (.repairComplete m) s = .next t ∧ t.mem = s.mem ∧ (t.mast m).busy = false ∧
      (op = 1 → (s.mast m).spareRow pa = true → (t.mast m).result = 0 ∧ (t.mast m).rows = (s.mast m).rows ++ [pa] ∧ (t.mast m).srows = (s.mast m).srows - 1 ∧
        t.bosun.keptRows = s.bosun.keptRows ++ [(m % 16, pa)]) ∧
      (op = 2 → (s.mast m).spareBank pa = true → (t.mast m).result = 0 ∧ (t.mast m).banks = (s.mast m).banks ++ [pa] ∧ (t.mast m).sbanks = (s.mast m).sbanks - 1 ∧
        t.bosun.keptBanks = s.bosun.keptBanks ++ [(m % 16, pa)]) ∧
      ((op = 1 ∧ (s.mast m).spareRow pa = false) ∨ (op = 2 ∧ (s.mast m).spareBank pa = false) →
        (t.mast m).result = 5 ∧ (t.mast m).rows = (s.mast m).rows ∧ (t.mast m).banks = (s.mast m).banks)) ∧
  (∀ (s : State) (m n : Nat), (s.mast m).busy = false → n < 64 → (s.stn m n).fenced = false →
    ∃ t : State, t = s.updMast m (fun x => { x with repair := BitVec.ofNat 64 (3 * 2 ^ 60 + n * 2 ^ 36), result := 0 }) ∧
      exec (.fenceStation m n) s = .next (t.fenceStn m n) ∧ ((t.fenceStn m n).stn m n).fenced = true ∧ ((t.fenceStn m n).stn m n).crew = none) ∧
  (∀ (s : State) (m : Nat), (s.mast m).busy = false → (s.mast m).fenced = false →
    ∃ t : State, t = s.updMast m (fun x => { x with repair := BitVec.ofNat 64 (4 * 2 ^ 60), result := 0 }) ∧
      exec (.fenceMast m) s = .next (t.fenceMast m) ∧ ((t.fenceMast m).mast m).fenced = true ∧ ((t.fenceMast m).mast m).tlb = [] ∧
      ((t.fenceMast m).mast m).walk = none ∧ ((t.fenceMast m).mast m).faults = [] ∧ ((t.fenceMast m).mast m).caps = [] ∧
      ∀ n < 64, ((t.fenceMast m).stn m n).fenced = true) ∧
  (∀ (s : State) (m sec : Nat),
    let cell := m * 2 ^ 37 + sec % 2 ^ 32 * 32
    ∃ t, exec (.scrub m sec) s = .next t ∧ t.mem = s.mem ∧ t.bad = s.bad ∧
      (∀ c, c ∈ t.soft ↔ c ∈ s.soft ∧ (c ≠ cell ∨ cell ∈ s.bad)) ∧
      (cell ∈ s.soft → cell ∉ s.bad → m = cellMast cell → (t.mast m).cecnt = satInc (s.mast m).cecnt)) ∧
  (∀ (s : State) (gid sid : Nat) (sg : SubGroup) (g : Group) (ok : Bool),
    s.subs.find? (fun e => decide (e.2.gid = gid)) = some (sid, sg) → SMap.get? s.groups gid = some g →
    exec (.softError (.registers gid) ok) s =
      .next (if ok then s.countCe sg.mast
        else (sg.mast / 16 :: (s.crewDev gid).toList).dedup.foldl (fun s d => s.on d (fun s => s.forceReset g.ctx)) (s.countUeAt sg.mast 3 (sg.stn * 2 ^ 20)))) ∧
  (∀ (s : State) (m n ctx : Nat) (va : Word) (ok : Bool),
    (∃ t, exec (.softError (.codeSector m n ctx va) ok) s = .next t ∧ t.mem = s.mem ∧
      ∀ c ∈ (t.stn m n).store, c ∈ (s.stn m n).store ∧ (c.ctx ≠ ctx ∨ c.va.toNat / 32 ≠ va.toNat / 32)) ∧
    (∃ t, exec (.softError (.tlbEntry m ctx va) ok) s = .next t ∧ t.mem = s.mem ∧ ∀ e ∈ (t.mast m).tlb, e ∈ (s.mast m).tlb ∧ e.hits ctx va = false)) ∧
  (∀ (s : State) (m : Nat), m / 16 = s.dev →
    ((s.mast m).foot = .powered → ∃ t, exec (.tierReady m 0) s = .next t ∧ (t.mast m).foot = .ready ∧ (t.mast m).column = .powered ∧ t.mem = s.mem) ∧
    ((s.mast m).column = .powered → ∃ t, exec (.tierReady m 1) s = .next t ∧ (t.mast m).column = .ready ∧ (t.mast m).dram = .powered ∧
      ∀ a, RMap.get (n := 8) t.mem a = if m * 2 ^ 37 + 2 ^ 36 ≤ a ∧ a < m * 2 ^ 37 + 2 ^ 37 then 0 else RMap.get (n := 8) s.mem a) ∧
    ((s.mast m).dram = .powered → ∃ t, exec (.tierReady m 2) s = .next t ∧ (t.mast m).dram = .ready ∧
      (∀ a, RMap.get (n := 8) t.mem a = if m * 2 ^ 37 ≤ a ∧ a < m * 2 ^ 37 + 2 ^ 36 then 0 else RMap.get (n := 8) s.mem a) ∧
      ∀ f, f < 0xBF000 → t.frameTag m f = 0)) ∧
  (∀ (s : State) (m tier : Nat), m / 16 = s.dev →
    (tier = 0 ∧ (s.mast m).foot = .powered) ∨ (tier = 1 ∧ (s.mast m).column = .powered) ∨ (tier = 2 ∧ (s.mast m).dram = .powered) → (s.mast m).fenced = false →
    ∃ t, exec (.tierReadyTimeout m tier) s = .next t ∧ (t.mast m).fenced = true ∧ t.bosun.tierfail.getLsbD (m % 16) = true) ∧
  (∀ (s : State) (m n : Nat), m / 16 = s.dev → s.bosun.on = true →
    (8 ≤ n → n ≤ 16 → (s.bosun.hold = false ∨ n = 8) → ∃ t, exec (.clockScaling m n) s = .next t ∧ (t.mast m).clkN = BitVec.ofNat 5 n ∧ t.mem = s.mem) ∧
    (n ≤ 1 → ∃ t, exec (.clockScaling m n) s = .next t ∧ (t.mast m).dramSpace = decide (n = 1) ∧ (t.mast m).clkN = (s.mast m).clkN)) ∧
  (∀ (s : State) (x : BitVec 8), s.bosun.on = true →
    (95 ≤ x.toNat → exec (.thermalThrottle x) s = .next { s with bosun := { s.bosun with thi := true, tmax := x } }) ∧
    (105 ≤ x.toNat → ∃ t, exec (.thermalHold x) s = .next t ∧ t.bosun = { s.bosun with thi := true, hold := true, tmax := x } ∧
      (∀ e ∈ t.masts, e.1 / 16 = s.dev → e.2.clkN = 8) ∧ t.mem = s.mem) ∧
    (115 ≤ x.toNat → ∃ t, exec (.thermalTrip x) s = .next t ∧ t.bosun.trip = true ∧ t.bosun.on = false ∧ t.bosun.down = true ∧ swept s t ∧ t.ctxs = [])) ∧
  (∀ (s : State) (x : BitVec 8), s.bosun.hold = true → x.toNat < 100 →
    exec (.thermalHoldRelease x) s = .next { s with bosun := { s.bosun with hold := false, tmax := x } }) ∧
  (∀ (s : State), s.bosun.boot = 0 →
    ∃ t, exec .powerOn s = .next t ∧ t.bosun.on = true ∧ t.bosun.hostUp = false ∧ swept s t ∧ t.ctxs = [] ∧ t.regs.silicon = s.regs.silicon ∧
      ∀ n < 16, (t.mast (s.dev * 16 + n)).foot = .powered ∧ (t.mast (s.dev * 16 + n)).column = .off ∧ (t.mast (s.dev * 16 + n)).dram = .off ∧
        (t.mast (s.dev * 16 + n)).fenced = s.bosun.keptMasts.getLsbD n) ∧
  (∀ (s : State), ∃ t, exec .powerDown s = .next t ∧ t.bosun.on = false ∧ t.bosun.down = true ∧ swept s t ∧ (∀ n < 16, t.mast (s.dev * 16 + n) = Mast.reset) ∧ t.ctxs = []) ∧
  (∀ (s : State), s.replaying = true →
    ∃ t, exec .replayDivergence s = .next t ∧ t.halting = true ∧ t.mem = s.mem ∧
      (∀ u < 17, (s.jrnOf u).mode = 2 → (t.jrnOf u).div = true) ∧
      t.events = s.events ++ [{ typ := 2, code := 0, tag := 0, ctx := 0, w1 := 0, w2 := 0, w3 := 0 }] ∧
      ∀ k u v l, SMap.get? s.subs k = some u → SMap.get? t.subs k = some v → ∀ x, SMap.get? u.lanes l = some x → (∀ e ∈ u.lanes, SMap.get? u.lanes e.1 = some e.2) → l < 64 →
        SMap.get? v.lanes l = some (if x.st = .ready ∧ u.mast / 16 = s.dev then { x with st := .halted } else x))
end

