-- ==== Sys2Proof/Laws/Maps.lean ====
section
/-! SUPPORT. What reading and writing the sparse maps does, and that every write keeps their canonical form. -/

namespace Sys2Proof.Machine

open Sys2Proof

variable {α : Type}

@[simp] theorem SMap.get?_nil (k : Nat) : SMap.get? ([] : SMap α) k = none := rfl

theorem SMap.get?_cons (e : Nat × α) (m : SMap α) (k : Nat) : SMap.get? (e :: m) k = if e.1 = k then some e.2 else SMap.get? m k := rfl

theorem SMap.get?_del (m : SMap α) (j k : Nat) : SMap.get? (SMap.del m j) k = if j = k then none else SMap.get? m k := by
  induction m with
  | nil => simp [SMap.del]
  | cons e m ih =>
    obtain ⟨i, a⟩ := e
    simp only [SMap.del, SMap.get?]
    by_cases h : i = j
    · subst h; simp only [if_true]; rw [ih]; by_cases h2 : i = k <;> simp [h2]
    · simp only [h, if_false, SMap.get?]; rw [ih]
      by_cases h2 : i = k
      · subst h2; simp [Ne.symm h]
      · simp [h2]

theorem SMap.get?_ins (m : SMap α) (j k : Nat) (x : α) (h : SMap.get? m j = none) :
    SMap.get? (SMap.ins m j x) k = if j = k then some x else SMap.get? m k := by
  induction m with
  | nil => simp [SMap.ins, SMap.get?]
  | cons e m ih =>
    obtain ⟨i, a⟩ := e
    simp only [SMap.get?] at h
    by_cases hi : i = j
    · simp [hi] at h
    · simp only [hi, if_false] at h
      simp only [SMap.ins]
      by_cases hlt : j < i
      · simp only [hlt, if_true, SMap.get?]
      · simp only [hlt, if_false, SMap.get?]; rw [ih h]
        by_cases h2 : i = k
        · subst h2; simp [Ne.symm hi]
        · simp [h2]

/-- A record reads back, and a write leaves every other record alone. -/
theorem SMap.get?_put (m : SMap α) (j k : Nat) (x : α) : SMap.get? (SMap.put m j x) k = if j = k then some x else SMap.get? m k := by
  unfold SMap.put
  rw [SMap.get?_ins _ _ _ _ (by rw [SMap.get?_del]; simp), SMap.get?_del]
  by_cases h : j = k <;> simp [h]

@[simp] theorem SMap.get?_put_same (m : SMap α) (k : Nat) (x : α) : SMap.get? (SMap.put m k x) k = some x := by simp [SMap.get?_put]

theorem SMap.get?_put_ne (m : SMap α) {j k : Nat} (x : α) (h : j ≠ k) : SMap.get? (SMap.put m j x) k = SMap.get? m k := by
  simp [SMap.get?_put, h]

theorem SMap.del_ins (m : SMap α) (k : Nat) (x : α) : SMap.del (SMap.ins m k x) k = SMap.del m k := by
  induction m with
  | nil => simp [SMap.ins, SMap.del]
  | cons e m ih =>
    obtain ⟨i, a⟩ := e
    simp only [SMap.ins]
    by_cases h : k < i
    · simp only [h, if_true]
      conv => lhs; unfold SMap.del
      simp
    · simp only [h, if_false]
      conv => lhs; unfold SMap.del
      conv => rhs; unfold SMap.del
      rw [ih]

theorem SMap.del_del (m : SMap α) (k : Nat) : SMap.del (SMap.del m k) k = SMap.del m k := by
  induction m with
  | nil => rfl
  | cons e m ih =>
    obtain ⟨i, a⟩ := e
    simp only [SMap.del]
    by_cases h : i = k
    · simp [h, ih]
    · simp [h, SMap.del, ih]

/-- The later of two writes to one record stands. -/
@[simp] theorem SMap.put_put (m : SMap α) (k : Nat) (x y : α) : SMap.put (SMap.put m k x) k y = SMap.put m k y := by
  unfold SMap.put; rw [SMap.del_ins, SMap.del_del]

theorem SMap.upd_some (m : SMap α) (k : Nat) (f : α → α) (a : α) (h : SMap.get? m k = some a) : SMap.upd m k f = SMap.put m k (f a) := by
  simp [SMap.upd, h]

theorem SMap.upd_none (m : SMap α) (k : Nat) (f : α → α) (h : SMap.get? m k = none) : SMap.upd m k f = m := by
  simp [SMap.upd, h]

/-- A record after a table's records have all been changed. -/
theorem SMap.get?_map {β : Type} (m : SMap α) (f : Nat → α → β) (k : Nat) :
    SMap.get? (m.map (fun e => (e.1, f e.1 e.2))) k = (SMap.get? m k).map (f k) := by
  induction m with
  | nil => rfl
  | cons e m ih =>
    obtain ⟨i, a⟩ := e
    simp only [List.map, SMap.get?]
    by_cases h : i = k
    · subst h; simp
    · simp [h, ih]

/-- A record of the records that pass a test on their keys. -/
theorem SMap.get?_filter_key (m : SMap α) (f : Nat → Bool) (k : Nat) :
    SMap.get? (m.filter (fun e => f e.1)) k = if f k then SMap.get? m k else none := by
  induction m with
  | nil => simp
  | cons e m ih =>
    obtain ⟨i, a⟩ := e
    by_cases hi : f i
    · rw [List.filter_cons_of_pos (by simpa using hi)]
      simp only [SMap.get?_cons]
      by_cases h : i = k
      · subst h; simp [hi]
      · simp [h, ih]
    · rw [List.filter_cons_of_neg (by simpa using hi), ih]
      simp only [SMap.get?_cons]
      by_cases h : i = k
      · subst h; simp [hi]
      · simp [h]

theorem SMap.mem_of_get? (m : SMap α) (k : Nat) (x : α) (h : SMap.get? m k = some x) : (k, x) ∈ m := by
  induction m with
  | nil => simp at h
  | cons e m ih =>
    obtain ⟨i, a⟩ := e
    simp only [SMap.get?] at h
    by_cases hi : i = k
    · simp [hi] at h; simp [hi, h]
    · simp [hi] at h; exact List.mem_cons_of_mem _ (ih h)

/-! ## The canonical form -/

theorem SMap.risingFrom_mono {m : SMap α} {a b : Nat} (hab : a ≤ b) (h : SMap.risingFrom b m = true) : SMap.risingFrom a m = true := by
  cases m with
  | nil => rfl
  | cons e m =>
    obtain ⟨i, x⟩ := e
    simp only [SMap.risingFrom, Bool.and_eq_true, decide_eq_true_eq] at h ⊢
    exact ⟨by omega, h.2⟩

theorem SMap.risingFrom_del (m : SMap α) (b k : Nat) (h : SMap.risingFrom b m = true) : SMap.risingFrom b (SMap.del m k) = true := by
  induction m generalizing b with
  | nil => rfl
  | cons e m ih =>
    obtain ⟨i, x⟩ := e
    simp only [SMap.risingFrom, Bool.and_eq_true, decide_eq_true_eq] at h
    simp only [SMap.del]
    by_cases hi : i = k
    · simp only [hi, if_true]; exact SMap.risingFrom_mono (by omega) (ih _ h.2)
    · simp only [hi, if_false, SMap.risingFrom, Bool.and_eq_true, decide_eq_true_eq]; exact ⟨h.1, ih _ h.2⟩

theorem SMap.risingFrom_ins (m : SMap α) (b k : Nat) (x : α) (h : SMap.risingFrom b m = true) (hb : b ≤ k)
    (hk : SMap.get? m k = none) : SMap.risingFrom b (SMap.ins m k x) = true := by
  induction m generalizing b with
  | nil => simp [SMap.ins, SMap.risingFrom, hb]
  | cons e m ih =>
    obtain ⟨i, y⟩ := e
    simp only [SMap.risingFrom, Bool.and_eq_true, decide_eq_true_eq] at h
    simp only [SMap.get?] at hk
    by_cases hi : i = k
    · simp [hi] at hk
    · simp only [hi, if_false] at hk
      simp only [SMap.ins]
      by_cases hlt : k < i
      · simp only [hlt, if_true, SMap.risingFrom, Bool.and_eq_true, decide_eq_true_eq]; exact ⟨hb, by omega, h.2⟩
      · simp only [hlt, if_false, SMap.risingFrom, Bool.and_eq_true, decide_eq_true_eq]
        exact ⟨h.1, ih _ h.2 (by omega) hk⟩

/-- Writing a record keeps the canonical form. -/
theorem SMap.wf_put (m : SMap α) (k : Nat) (x : α) (h : SMap.wf m = true) : SMap.wf (SMap.put m k x) = true :=
  SMap.risingFrom_ins _ _ _ _ (SMap.risingFrom_del _ _ _ h) (Nat.zero_le _) (by rw [SMap.get?_del]; simp)

/-- Removing a record keeps the canonical form. -/
theorem SMap.wf_del (m : SMap α) (k : Nat) (h : SMap.wf m = true) : SMap.wf (SMap.del m k) = true := SMap.risingFrom_del _ _ _ h

theorem SMap.mem_del {m : SMap α} {k : Nat} {e : Nat × α} (h : e ∈ SMap.del m k) : e ∈ m := by
  induction m with
  | nil => simp [SMap.del] at h
  | cons d m ih =>
    obtain ⟨i, a⟩ := d
    simp only [SMap.del] at h
    by_cases hi : i = k
    · simp only [hi, if_true] at h; exact List.mem_cons_of_mem _ (ih h)
    · simp only [hi, if_false, List.mem_cons] at h
      rcases h with h | h
      · simp [h]
      · exact List.mem_cons_of_mem _ (ih h)

theorem SMap.mem_ins {m : SMap α} {k : Nat} {x : α} {e : Nat × α} (h : e ∈ SMap.ins m k x) : e = (k, x) ∨ e ∈ m := by
  induction m with
  | nil => simpa [SMap.ins] using h
  | cons d m ih =>
    obtain ⟨i, a⟩ := d
    simp only [SMap.ins] at h
    by_cases hi : k < i
    · simpa [hi] using h
    · simp only [hi, if_false, List.mem_cons] at h
      rcases h with h | h
      · simp [h]
      · rcases ih h with h | h
        · exact .inl h
        · exact .inr (List.mem_cons_of_mem _ h)

/-- Writing a value keeps the canonical form of a register file or memory: a 0 is not listed. -/
theorem RMap.wf_set {n : Nat} (m : RMap n) (k : Nat) (x : BitVec n) (h : RMap.wf m = true) : RMap.wf (RMap.set m k x) = true := by
  simp only [RMap.wf, Bool.and_eq_true, RMap.noZero, List.all_eq_true, decide_eq_true_eq] at h ⊢
  unfold RMap.set
  by_cases hx : x = 0
  · simp only [hx, if_true]
    exact ⟨SMap.wf_del _ _ h.1, fun e he => h.2 e (SMap.mem_del he)⟩
  · simp only [hx, if_false]
    refine ⟨SMap.wf_put _ _ _ h.1, fun e he => ?_⟩
    rcases SMap.mem_ins he with rfl | he
    · simpa using hx
    · exact h.2 e (SMap.mem_del he)

/-- A value reads back, and a write leaves every other place alone. -/
theorem RMap.get_set {n : Nat} (m : RMap n) (j k : Nat) (x : BitVec n) : RMap.get (RMap.set m j x) k = if j = k then x else RMap.get m k := by
  unfold RMap.get RMap.set
  by_cases hx : x = 0
  · simp only [hx, if_true, SMap.get?_del]; by_cases h : j = k <;> simp [h]
  · simp only [hx, if_false, SMap.get?_put]; by_cases h : j = k <;> simp [h]

@[simp] theorem RMap.get_set_same {n : Nat} (m : RMap n) (k : Nat) (x : BitVec n) : RMap.get (RMap.set m k x) k = x := by simp [RMap.get_set]

end Sys2Proof.Machine
end

