-- ==== Sys2Proof/Laws/Issue.lean ====
section
/-! SUPPORT. Everything that the issue of a program word can do (spec 03, R67, R72 to R75): one lemma per outcome. -/

namespace Sys2Proof.Machine

open Sys2Proof Sys2Proof.Safety

/-- The parts of a run. -/
theorem run_eq {s : State} {h : Hd} {r : Run} (hr : run s h = some r) :
    ∃ is sg g, s.issuing = some is ∧ SMap.get? s.subs is.sid = some sg ∧ SMap.get? s.groups sg.gid = some g ∧
      r = { sid := is.sid, gid := sg.gid, sg := sg, g := g, set := is.lanes,
            act := guarded sg (s.stn sg.mast sg.stn).cycles is.lanes h.gneg h.guard, pc := is.pc, len := h.len, stall := h.stall,
            iw := is.iword, xw := is.xword, now := (s.stn sg.mast sg.stn).cycles } := by
  unfold run issuer at hr
  cases h1 : s.issuing with
  | none => simp [h1] at hr
  | some is =>
    cases h2 : SMap.get? s.subs is.sid with
    | none => simp [h1, h2] at hr
    | some sg =>
      cases h3 : SMap.get? s.groups sg.gid with
      | none => simp [h1, h2, h3] at hr
      | some g =>
        simp only [h1, h2, h3, Option.map_some, Option.some.injEq] at hr
        exact ⟨is, sg, g, rfl, h2, h3, hr.symm⟩

/-- The sub-group of a run stands in the state. -/
theorem run_sub {s : State} {h : Hd} {r : Run} (hr : run s h = some r) : SMap.get? s.subs r.sid = some r.sg := by
  obtain ⟨is, sg, g, h1, h2, h3, rfl⟩ := run_eq hr; exact h2

/-- The group of a run stands in the state. -/
theorem run_group {s : State} {h : Hd} {r : Run} (hr : run s h = some r) : SMap.get? s.groups r.gid = some r.g := by
  obtain ⟨is, sg, g, h1, h2, h3, rfl⟩ := run_eq hr; exact h3

theorem run_gid {s : State} {h : Hd} {r : Run} (hr : run s h = some r) : r.gid = r.sg.gid := by
  obtain ⟨is, sg, g, h1, h2, h3, rfl⟩ := run_eq hr; rfl

theorem run_now {s : State} {h : Hd} {r : Run} (hr : run s h = some r) : r.now = (s.stn r.sg.mast r.sg.stn).cycles := by
  obtain ⟨is, sg, g, h1, h2, h3, rfl⟩ := run_eq hr; rfl

/-- The issue of a word, taken apart: what it does depends on the run, the word's legality, and what holds it. -/
theorem issueWord_run {s : State} {h : Hd} {g : Sig} {r : Run} {info : Run → Nat → Word} {body : Body} (hr : run s h = some r) :
    issueWord s h.gneg h.guard h.stall h.len g info body =
      (let fin := fun (t : State) => Host.Outcome.next (ρ := Refusal) (φ := Fault) { t with issuing := none }
       let back := r.set &&& r.sg.laneMask (fun l => l.refuse.isSome)
       let loose := r.set &&& r.sg.laneMask (fun l => l.rel.isSome)
       let board := fun (ids : List Nat) => fin (r.waitFor s r.set (.scoreboard ids) none (some r.sg.bound) .zero)
       if back ≠ 0 then
         fin (r.trapOf s back 8 (((SMap.get? r.sg.lanes (lowest back)).bind (fun l => l.refuse)).getD 0) (info r (lowest back)) back false)
       else if loose ≠ 0 && !g.join then fin (r.trapOf s loose 1 1 0 loose false)
       else if s.heldBy r (guardRegs h r) [] ≠ [] then board (s.heldBy r (guardRegs h r) [])
       else if r.act = 0 then fin (r.done s)
       else match g.judge r.sg r.g with
         | some f => fin (r.trap s f.cause f.detail 0 r.act)
         | none =>
           if s.heldBy r (readRegs g r) (writeRegs g r) ≠ [] then board (s.heldBy r (readRegs g r) (writeRegs g r))
           else if r.sg.chk && decide (shortLanes h g r ≠ 0) then fin (r.trap s 5 0 0 (shortLanes h g r))
           else fin (body r s)) := by
  obtain ⟨is, sg, gr, h1, h2, h3, rfl⟩ := run_eq hr
  unfold issueWord
  simp only [h1, h2, h3]
  rfl

/-- A word that reaches its guard, taken apart. -/
theorem reaches_iff {s : State} {h : Hd} {g : Sig} {r : Run} :
    reaches s h g r = true ↔ r.set &&& r.sg.laneMask (fun l => l.refuse.isSome) = 0 ∧
      (g.join = true ∨ r.set &&& r.sg.laneMask (fun l => l.rel.isSome) = 0) ∧ s.heldBy r (guardRegs h r) [] = [] := by
  simp [reaches, and_assoc]

theorem passes_iff {s : State} {h : Hd} {g : Sig} {r : Run} :
    passes s h g r = true ↔ reaches s h g r = true ∧ r.act ≠ 0 ∧ g.judge r.sg r.g = none ∧
      s.heldBy r (readRegs g r) (writeRegs g r) = [] ∧ (r.sg.chk && decide (shortLanes h g r ≠ 0)) = false := by
  simp only [passes, Bool.and_eq_true, decide_eq_true_eq, Option.isNone_iff_eq_none, Bool.not_eq_true', and_assoc]

theorem issueWord_reached {s : State} {h : Hd} {g : Sig} {r : Run} {info : Run → Nat → Word} {body : Body}
    (hr : run s h = some r) (hc : reaches s h g r = true) :
    issueWord s h.gneg h.guard h.stall h.len g info body =
      (if r.act = 0 then .next { r.done s with issuing := none }
       else match g.judge r.sg r.g with
         | some f => .next { r.trap s f.cause f.detail 0 r.act with issuing := none }
         | none =>
           if s.heldBy r (readRegs g r) (writeRegs g r) ≠ [] then
             .next { r.waitFor s r.set (.scoreboard (s.heldBy r (readRegs g r) (writeRegs g r))) none (some r.sg.bound) .zero with issuing := none }
           else if r.sg.chk && decide (shortLanes h g r ≠ 0) then .next { r.trap s 5 0 0 (shortLanes h g r) with issuing := none }
           else .next { body r s with issuing := none }) := by
  obtain ⟨h1, h2, h3⟩ := reaches_iff.mp hc
  rw [issueWord_run hr]
  have h2' : ¬ ((decide (r.set &&& r.sg.laneMask (fun l => l.rel.isSome) ≠ 0) && !g.join) = true) := by
    rcases h2 with h2 | h2 <;> simp [h2]
  simp only [h1, h3, ne_eq, not_true_eq_false, if_false]
  rw [if_neg h2']

/-- A WORD THAT PASSES TAKES EFFECT. -/
theorem issueWord_passes {s : State} {h : Hd} {g : Sig} {r : Run} {info : Run → Nat → Word} {body : Body}
    (hr : run s h = some r) (hp : passes s h g r = true) :
    issueWord s h.gneg h.guard h.stall h.len g info body = .next { body r s with issuing := none } := by
  obtain ⟨h1, h2, h3, h4, h5⟩ := passes_iff.mp hp
  rw [issueWord_reached hr h1]
  rw [if_neg h2, h3]
  simp only [h4, ne_eq, not_true_eq_false, if_false]
  rw [if_neg (by rw [h5]; decide)]

/-- A word no lane of which is active retires with no effect. -/
theorem issueWord_idle {s : State} {h : Hd} {g : Sig} {r : Run} {info : Run → Nat → Word} {body : Body}
    (hr : run s h = some r) (hc : reaches s h g r = true) (ha : r.act = 0) :
    issueWord s h.gneg h.guard h.stall h.len g info body = .next { r.done s with issuing := none } := by
  rw [issueWord_reached hr hc, if_pos ha]

/-- A word that fails a check traps with its whole active mask. -/
theorem issueWord_fails {s : State} {h : Hd} {g : Sig} {r : Run} {info : Run → Nat → Word} {body : Body} {f : Fail}
    (hr : run s h = some r) (hc : reaches s h g r = true) (ha : r.act ≠ 0) (hf : g.judge r.sg r.g = some f) :
    issueWord s h.gneg h.guard h.stall h.len g info body =
      .next { r.trap s f.cause f.detail 0 r.act with issuing := none } := by
  rw [issueWord_reached hr hc, if_neg ha, hf]

/-- Issue always answers a next state when an issue set issues. -/
theorem issueWord_next {s : State} {h : Hd} (g : Sig) {r : Run} (info : Run → Nat → Word) (body : Body) (hr : run s h = some r) :
    ∃ t, issueWord s h.gneg h.guard h.stall h.len g info body = .next t := by
  rw [issueWord_run hr]
  simp only
  split
  · exact ⟨_, rfl⟩
  split
  · exact ⟨_, rfl⟩
  split
  · exact ⟨_, rfl⟩
  split
  · exact ⟨_, rfl⟩
  split
  · exact ⟨_, rfl⟩
  split
  · exact ⟨_, rfl⟩
  split <;> exact ⟨_, rfl⟩

/-- A run whose word issues: the word's head and legality, the run, and that it passes. -/
theorem issues_eq {s : State} {i : Instr} {r : Run} (hi : issues s i = some r) :
    ∃ h g, form s i = some (h, g) ∧ run s h = some r ∧ passes s h g r = true := by
  unfold issues at hi
  cases hf : form s i with
  | none => simp [hf] at hi
  | some e =>
    obtain ⟨h, g⟩ := e
    simp only [hf] at hi
    obtain ⟨h1, h2⟩ := Option.filter_eq_some_iff.mp hi
    exact ⟨h, g, rfl, h1, h2⟩

end Sys2Proof.Machine
end

