-- ==== Sys2Proof/Laws/State.lean ====
section
/-! SUPPORT. Each field of the state after each named update: its own field changed, every other as before. -/

namespace Sys2Proof.Machine

open Sys2Proof

@[simp] theorem State.updSub_mem (s : State) (sid : Nat) (f : SubGroup → SubGroup) : (s.updSub sid f).mem = s.mem := rfl
@[simp] theorem State.updSub_bad (s : State) (sid : Nat) (f : SubGroup → SubGroup) : (s.updSub sid f).bad = s.bad := rfl
@[simp] theorem State.updSub_soft (s : State) (sid : Nat) (f : SubGroup → SubGroup) : (s.updSub sid f).soft = s.soft := rfl
@[simp] theorem State.updSub_tags (s : State) (sid : Nat) (f : SubGroup → SubGroup) : (s.updSub sid f).tags = s.tags := rfl
@[simp] theorem State.updSub_masts (s : State) (sid : Nat) (f : SubGroup → SubGroup) : (s.updSub sid f).masts = s.masts := rfl
@[simp] theorem State.updSub_stns (s : State) (sid : Nat) (f : SubGroup → SubGroup) : (s.updSub sid f).stns = s.stns := rfl
@[simp] theorem State.updSub_launches (s : State) (sid : Nat) (f : SubGroup → SubGroup) : (s.updSub sid f).launches = s.launches := rfl
@[simp] theorem State.updSub_crews (s : State) (sid : Nat) (f : SubGroup → SubGroup) : (s.updSub sid f).crews = s.crews := rfl
@[simp] theorem State.updSub_groups (s : State) (sid : Nat) (f : SubGroup → SubGroup) : (s.updSub sid f).groups = s.groups := rfl
@[simp] theorem State.updSub_subs (s : State) (sid : Nat) (f : SubGroup → SubGroup) : (s.updSub sid f).subs = SMap.upd s.subs sid f := rfl
@[simp] theorem State.updSub_waits (s : State) (sid : Nat) (f : SubGroup → SubGroup) : (s.updSub sid f).waits = s.waits := rfl
@[simp] theorem State.updSub_images (s : State) (sid : Nat) (f : SubGroup → SubGroup) : (s.updSub sid f).images = s.images := rfl
@[simp] theorem State.updSub_ties (s : State) (sid : Nat) (f : SubGroup → SubGroup) : (s.updSub sid f).ties = s.ties := rfl
@[simp] theorem State.updSub_msgs (s : State) (sid : Nat) (f : SubGroup → SubGroup) : (s.updSub sid f).msgs = s.msgs := rfl
@[simp] theorem State.updSub_slices (s : State) (sid : Nat) (f : SubGroup → SubGroup) : (s.updSub sid f).slices = s.slices := rfl
@[simp] theorem State.updSub_calls (s : State) (sid : Nat) (f : SubGroup → SubGroup) : (s.updSub sid f).calls = s.calls := rfl
@[simp] theorem State.updSub_dev (s : State) (sid : Nat) (f : SubGroup → SubGroup) : (s.updSub sid f).dev = s.dev := rfl
@[simp] theorem State.updSub_others (s : State) (sid : Nat) (f : SubGroup → SubGroup) : (s.updSub sid f).others = s.others := rfl
@[simp] theorem State.updSub_ctxs (s : State) (sid : Nat) (f : SubGroup → SubGroup) : (s.updSub sid f).ctxs = s.ctxs := rfl
@[simp] theorem State.updSub_queues (s : State) (sid : Nat) (f : SubGroup → SubGroup) : (s.updSub sid f).queues = s.queues := rfl
@[simp] theorem State.updSub_ptrs (s : State) (sid : Nat) (f : SubGroup → SubGroup) : (s.updSub sid f).ptrs = s.ptrs := rfl
@[simp] theorem State.updSub_deck (s : State) (sid : Nat) (f : SubGroup → SubGroup) : (s.updSub sid f).deck = s.deck := rfl
@[simp] theorem State.updSub_regs (s : State) (sid : Nat) (f : SubGroup → SubGroup) : (s.updSub sid f).regs = s.regs := rfl
@[simp] theorem State.updSub_events (s : State) (sid : Nat) (f : SubGroup → SubGroup) : (s.updSub sid f).events = s.events := rfl
@[simp] theorem State.updSub_evCount (s : State) (sid : Nat) (f : SubGroup → SubGroup) : (s.updSub sid f).evCount = s.evCount := rfl
@[simp] theorem State.updSub_qps (s : State) (sid : Nat) (f : SubGroup → SubGroup) : (s.updSub sid f).qps = s.qps := rfl
@[simp] theorem State.updSub_hostOut (s : State) (sid : Nat) (f : SubGroup → SubGroup) : (s.updSub sid f).hostOut = s.hostOut := rfl
@[simp] theorem State.updSub_shroud (s : State) (sid : Nat) (f : SubGroup → SubGroup) : (s.updSub sid f).shroud = s.shroud := rfl
@[simp] theorem State.updSub_bosun (s : State) (sid : Nat) (f : SubGroup → SubGroup) : (s.updSub sid f).bosun = s.bosun := rfl
@[simp] theorem State.updSub_ckpt (s : State) (sid : Nat) (f : SubGroup → SubGroup) : (s.updSub sid f).ckpt = s.ckpt := rfl
@[simp] theorem State.updSub_halting (s : State) (sid : Nat) (f : SubGroup → SubGroup) : (s.updSub sid f).halting = s.halting := rfl
@[simp] theorem State.updSub_journal (s : State) (sid : Nat) (f : SubGroup → SubGroup) : (s.updSub sid f).journal = s.journal := rfl
@[simp] theorem State.updSub_agenda (s : State) (sid : Nat) (f : SubGroup → SubGroup) : (s.updSub sid f).agenda = s.agenda := rfl
@[simp] theorem State.updSub_issuing (s : State) (sid : Nat) (f : SubGroup → SubGroup) : (s.updSub sid f).issuing = s.issuing := rfl
@[simp] theorem State.updSub_freeCtr (s : State) (sid : Nat) (f : SubGroup → SubGroup) : (s.updSub sid f).freeCtr = s.freeCtr := rfl
@[simp] theorem State.updSub_nextId (s : State) (sid : Nat) (f : SubGroup → SubGroup) : (s.updSub sid f).nextId = s.nextId := rfl

@[simp] theorem State.updGroup_mem (s : State) (gid : Nat) (f : Group → Group) : (s.updGroup gid f).mem = s.mem := rfl
@[simp] theorem State.updGroup_bad (s : State) (gid : Nat) (f : Group → Group) : (s.updGroup gid f).bad = s.bad := rfl
@[simp] theorem State.updGroup_soft (s : State) (gid : Nat) (f : Group → Group) : (s.updGroup gid f).soft = s.soft := rfl
@[simp] theorem State.updGroup_tags (s : State) (gid : Nat) (f : Group → Group) : (s.updGroup gid f).tags = s.tags := rfl
@[simp] theorem State.updGroup_masts (s : State) (gid : Nat) (f : Group → Group) : (s.updGroup gid f).masts = s.masts := rfl
@[simp] theorem State.updGroup_stns (s : State) (gid : Nat) (f : Group → Group) : (s.updGroup gid f).stns = s.stns := rfl
@[simp] theorem State.updGroup_launches (s : State) (gid : Nat) (f : Group → Group) : (s.updGroup gid f).launches = s.launches := rfl
@[simp] theorem State.updGroup_crews (s : State) (gid : Nat) (f : Group → Group) : (s.updGroup gid f).crews = s.crews := rfl
@[simp] theorem State.updGroup_groups (s : State) (gid : Nat) (f : Group → Group) : (s.updGroup gid f).groups = SMap.upd s.groups gid f := rfl
@[simp] theorem State.updGroup_subs (s : State) (gid : Nat) (f : Group → Group) : (s.updGroup gid f).subs = s.subs := rfl
@[simp] theorem State.updGroup_waits (s : State) (gid : Nat) (f : Group → Group) : (s.updGroup gid f).waits = s.waits := rfl
@[simp] theorem State.updGroup_images (s : State) (gid : Nat) (f : Group → Group) : (s.updGroup gid f).images = s.images := rfl
@[simp] theorem State.updGroup_ties (s : State) (gid : Nat) (f : Group → Group) : (s.updGroup gid f).ties = s.ties := rfl
@[simp] theorem State.updGroup_msgs (s : State) (gid : Nat) (f : Group → Group) : (s.updGroup gid f).msgs = s.msgs := rfl
@[simp] theorem State.updGroup_slices (s : State) (gid : Nat) (f : Group → Group) : (s.updGroup gid f).slices = s.slices := rfl
@[simp] theorem State.updGroup_calls (s : State) (gid : Nat) (f : Group → Group) : (s.updGroup gid f).calls = s.calls := rfl
@[simp] theorem State.updGroup_dev (s : State) (gid : Nat) (f : Group → Group) : (s.updGroup gid f).dev = s.dev := rfl
@[simp] theorem State.updGroup_others (s : State) (gid : Nat) (f : Group → Group) : (s.updGroup gid f).others = s.others := rfl
@[simp] theorem State.updGroup_ctxs (s : State) (gid : Nat) (f : Group → Group) : (s.updGroup gid f).ctxs = s.ctxs := rfl
@[simp] theorem State.updGroup_queues (s : State) (gid : Nat) (f : Group → Group) : (s.updGroup gid f).queues = s.queues := rfl
@[simp] theorem State.updGroup_ptrs (s : State) (gid : Nat) (f : Group → Group) : (s.updGroup gid f).ptrs = s.ptrs := rfl
@[simp] theorem State.updGroup_deck (s : State) (gid : Nat) (f : Group → Group) : (s.updGroup gid f).deck = s.deck := rfl
@[simp] theorem State.updGroup_regs (s : State) (gid : Nat) (f : Group → Group) : (s.updGroup gid f).regs = s.regs := rfl
@[simp] theorem State.updGroup_events (s : State) (gid : Nat) (f : Group → Group) : (s.updGroup gid f).events = s.events := rfl
@[simp] theorem State.updGroup_evCount (s : State) (gid : Nat) (f : Group → Group) : (s.updGroup gid f).evCount = s.evCount := rfl
@[simp] theorem State.updGroup_qps (s : State) (gid : Nat) (f : Group → Group) : (s.updGroup gid f).qps = s.qps := rfl
@[simp] theorem State.updGroup_hostOut (s : State) (gid : Nat) (f : Group → Group) : (s.updGroup gid f).hostOut = s.hostOut := rfl
@[simp] theorem State.updGroup_shroud (s : State) (gid : Nat) (f : Group → Group) : (s.updGroup gid f).shroud = s.shroud := rfl
@[simp] theorem State.updGroup_bosun (s : State) (gid : Nat) (f : Group → Group) : (s.updGroup gid f).bosun = s.bosun := rfl
@[simp] theorem State.updGroup_ckpt (s : State) (gid : Nat) (f : Group → Group) : (s.updGroup gid f).ckpt = s.ckpt := rfl
@[simp] theorem State.updGroup_halting (s : State) (gid : Nat) (f : Group → Group) : (s.updGroup gid f).halting = s.halting := rfl
@[simp] theorem State.updGroup_journal (s : State) (gid : Nat) (f : Group → Group) : (s.updGroup gid f).journal = s.journal := rfl
@[simp] theorem State.updGroup_agenda (s : State) (gid : Nat) (f : Group → Group) : (s.updGroup gid f).agenda = s.agenda := rfl
@[simp] theorem State.updGroup_issuing (s : State) (gid : Nat) (f : Group → Group) : (s.updGroup gid f).issuing = s.issuing := rfl
@[simp] theorem State.updGroup_freeCtr (s : State) (gid : Nat) (f : Group → Group) : (s.updGroup gid f).freeCtr = s.freeCtr := rfl
@[simp] theorem State.updGroup_nextId (s : State) (gid : Nat) (f : Group → Group) : (s.updGroup gid f).nextId = s.nextId := rfl

@[simp] theorem State.updImg_mem (s : State) (i : Nat) (f : Image → Image) : (s.updImg i f).mem = s.mem := rfl
@[simp] theorem State.updImg_bad (s : State) (i : Nat) (f : Image → Image) : (s.updImg i f).bad = s.bad := rfl
@[simp] theorem State.updImg_soft (s : State) (i : Nat) (f : Image → Image) : (s.updImg i f).soft = s.soft := rfl
@[simp] theorem State.updImg_tags (s : State) (i : Nat) (f : Image → Image) : (s.updImg i f).tags = s.tags := rfl
@[simp] theorem State.updImg_masts (s : State) (i : Nat) (f : Image → Image) : (s.updImg i f).masts = s.masts := rfl
@[simp] theorem State.updImg_stns (s : State) (i : Nat) (f : Image → Image) : (s.updImg i f).stns = s.stns := rfl
@[simp] theorem State.updImg_launches (s : State) (i : Nat) (f : Image → Image) : (s.updImg i f).launches = s.launches := rfl
@[simp] theorem State.updImg_crews (s : State) (i : Nat) (f : Image → Image) : (s.updImg i f).crews = s.crews := rfl
@[simp] theorem State.updImg_groups (s : State) (i : Nat) (f : Image → Image) : (s.updImg i f).groups = s.groups := rfl
@[simp] theorem State.updImg_subs (s : State) (i : Nat) (f : Image → Image) : (s.updImg i f).subs = s.subs := rfl
@[simp] theorem State.updImg_waits (s : State) (i : Nat) (f : Image → Image) : (s.updImg i f).waits = s.waits := rfl
@[simp] theorem State.updImg_images (s : State) (i : Nat) (f : Image → Image) : (s.updImg i f).images = SMap.upd s.images i f := rfl
@[simp] theorem State.updImg_ties (s : State) (i : Nat) (f : Image → Image) : (s.updImg i f).ties = s.ties := rfl
@[simp] theorem State.updImg_msgs (s : State) (i : Nat) (f : Image → Image) : (s.updImg i f).msgs = s.msgs := rfl
@[simp] theorem State.updImg_slices (s : State) (i : Nat) (f : Image → Image) : (s.updImg i f).slices = s.slices := rfl
@[simp] theorem State.updImg_calls (s : State) (i : Nat) (f : Image → Image) : (s.updImg i f).calls = s.calls := rfl
@[simp] theorem State.updImg_dev (s : State) (i : Nat) (f : Image → Image) : (s.updImg i f).dev = s.dev := rfl
@[simp] theorem State.updImg_others (s : State) (i : Nat) (f : Image → Image) : (s.updImg i f).others = s.others := rfl
@[simp] theorem State.updImg_ctxs (s : State) (i : Nat) (f : Image → Image) : (s.updImg i f).ctxs = s.ctxs := rfl
@[simp] theorem State.updImg_queues (s : State) (i : Nat) (f : Image → Image) : (s.updImg i f).queues = s.queues := rfl
@[simp] theorem State.updImg_ptrs (s : State) (i : Nat) (f : Image → Image) : (s.updImg i f).ptrs = s.ptrs := rfl
@[simp] theorem State.updImg_deck (s : State) (i : Nat) (f : Image → Image) : (s.updImg i f).deck = s.deck := rfl
@[simp] theorem State.updImg_regs (s : State) (i : Nat) (f : Image → Image) : (s.updImg i f).regs = s.regs := rfl
@[simp] theorem State.updImg_events (s : State) (i : Nat) (f : Image → Image) : (s.updImg i f).events = s.events := rfl
@[simp] theorem State.updImg_evCount (s : State) (i : Nat) (f : Image → Image) : (s.updImg i f).evCount = s.evCount := rfl
@[simp] theorem State.updImg_qps (s : State) (i : Nat) (f : Image → Image) : (s.updImg i f).qps = s.qps := rfl
@[simp] theorem State.updImg_hostOut (s : State) (i : Nat) (f : Image → Image) : (s.updImg i f).hostOut = s.hostOut := rfl
@[simp] theorem State.updImg_shroud (s : State) (i : Nat) (f : Image → Image) : (s.updImg i f).shroud = s.shroud := rfl
@[simp] theorem State.updImg_bosun (s : State) (i : Nat) (f : Image → Image) : (s.updImg i f).bosun = s.bosun := rfl
@[simp] theorem State.updImg_ckpt (s : State) (i : Nat) (f : Image → Image) : (s.updImg i f).ckpt = s.ckpt := rfl
@[simp] theorem State.updImg_halting (s : State) (i : Nat) (f : Image → Image) : (s.updImg i f).halting = s.halting := rfl
@[simp] theorem State.updImg_journal (s : State) (i : Nat) (f : Image → Image) : (s.updImg i f).journal = s.journal := rfl
@[simp] theorem State.updImg_agenda (s : State) (i : Nat) (f : Image → Image) : (s.updImg i f).agenda = s.agenda := rfl
@[simp] theorem State.updImg_issuing (s : State) (i : Nat) (f : Image → Image) : (s.updImg i f).issuing = s.issuing := rfl
@[simp] theorem State.updImg_freeCtr (s : State) (i : Nat) (f : Image → Image) : (s.updImg i f).freeCtr = s.freeCtr := rfl
@[simp] theorem State.updImg_nextId (s : State) (i : Nat) (f : Image → Image) : (s.updImg i f).nextId = s.nextId := rfl

@[simp] theorem State.updCrew_mem (s : State) (c : Nat) (f : Crew → Crew) : (s.updCrew c f).mem = s.mem := rfl
@[simp] theorem State.updCrew_bad (s : State) (c : Nat) (f : Crew → Crew) : (s.updCrew c f).bad = s.bad := rfl
@[simp] theorem State.updCrew_soft (s : State) (c : Nat) (f : Crew → Crew) : (s.updCrew c f).soft = s.soft := rfl
@[simp] theorem State.updCrew_tags (s : State) (c : Nat) (f : Crew → Crew) : (s.updCrew c f).tags = s.tags := rfl
@[simp] theorem State.updCrew_masts (s : State) (c : Nat) (f : Crew → Crew) : (s.updCrew c f).masts = s.masts := rfl
@[simp] theorem State.updCrew_stns (s : State) (c : Nat) (f : Crew → Crew) : (s.updCrew c f).stns = s.stns := rfl
@[simp] theorem State.updCrew_launches (s : State) (c : Nat) (f : Crew → Crew) : (s.updCrew c f).launches = s.launches := rfl
@[simp] theorem State.updCrew_crews (s : State) (c : Nat) (f : Crew → Crew) : (s.updCrew c f).crews = SMap.upd s.crews c f := rfl
@[simp] theorem State.updCrew_groups (s : State) (c : Nat) (f : Crew → Crew) : (s.updCrew c f).groups = s.groups := rfl
@[simp] theorem State.updCrew_subs (s : State) (c : Nat) (f : Crew → Crew) : (s.updCrew c f).subs = s.subs := rfl
@[simp] theorem State.updCrew_waits (s : State) (c : Nat) (f : Crew → Crew) : (s.updCrew c f).waits = s.waits := rfl
@[simp] theorem State.updCrew_images (s : State) (c : Nat) (f : Crew → Crew) : (s.updCrew c f).images = s.images := rfl
@[simp] theorem State.updCrew_ties (s : State) (c : Nat) (f : Crew → Crew) : (s.updCrew c f).ties = s.ties := rfl
@[simp] theorem State.updCrew_msgs (s : State) (c : Nat) (f : Crew → Crew) : (s.updCrew c f).msgs = s.msgs := rfl
@[simp] theorem State.updCrew_slices (s : State) (c : Nat) (f : Crew → Crew) : (s.updCrew c f).slices = s.slices := rfl
@[simp] theorem State.updCrew_calls (s : State) (c : Nat) (f : Crew → Crew) : (s.updCrew c f).calls = s.calls := rfl
@[simp] theorem State.updCrew_dev (s : State) (c : Nat) (f : Crew → Crew) : (s.updCrew c f).dev = s.dev := rfl
@[simp] theorem State.updCrew_others (s : State) (c : Nat) (f : Crew → Crew) : (s.updCrew c f).others = s.others := rfl
@[simp] theorem State.updCrew_ctxs (s : State) (c : Nat) (f : Crew → Crew) : (s.updCrew c f).ctxs = s.ctxs := rfl
@[simp] theorem State.updCrew_queues (s : State) (c : Nat) (f : Crew → Crew) : (s.updCrew c f).queues = s.queues := rfl
@[simp] theorem State.updCrew_ptrs (s : State) (c : Nat) (f : Crew → Crew) : (s.updCrew c f).ptrs = s.ptrs := rfl
@[simp] theorem State.updCrew_deck (s : State) (c : Nat) (f : Crew → Crew) : (s.updCrew c f).deck = s.deck := rfl
@[simp] theorem State.updCrew_regs (s : State) (c : Nat) (f : Crew → Crew) : (s.updCrew c f).regs = s.regs := rfl
@[simp] theorem State.updCrew_events (s : State) (c : Nat) (f : Crew → Crew) : (s.updCrew c f).events = s.events := rfl
@[simp] theorem State.updCrew_evCount (s : State) (c : Nat) (f : Crew → Crew) : (s.updCrew c f).evCount = s.evCount := rfl
@[simp] theorem State.updCrew_qps (s : State) (c : Nat) (f : Crew → Crew) : (s.updCrew c f).qps = s.qps := rfl
@[simp] theorem State.updCrew_hostOut (s : State) (c : Nat) (f : Crew → Crew) : (s.updCrew c f).hostOut = s.hostOut := rfl
@[simp] theorem State.updCrew_shroud (s : State) (c : Nat) (f : Crew → Crew) : (s.updCrew c f).shroud = s.shroud := rfl
@[simp] theorem State.updCrew_bosun (s : State) (c : Nat) (f : Crew → Crew) : (s.updCrew c f).bosun = s.bosun := rfl
@[simp] theorem State.updCrew_ckpt (s : State) (c : Nat) (f : Crew → Crew) : (s.updCrew c f).ckpt = s.ckpt := rfl
@[simp] theorem State.updCrew_halting (s : State) (c : Nat) (f : Crew → Crew) : (s.updCrew c f).halting = s.halting := rfl
@[simp] theorem State.updCrew_journal (s : State) (c : Nat) (f : Crew → Crew) : (s.updCrew c f).journal = s.journal := rfl
@[simp] theorem State.updCrew_agenda (s : State) (c : Nat) (f : Crew → Crew) : (s.updCrew c f).agenda = s.agenda := rfl
@[simp] theorem State.updCrew_issuing (s : State) (c : Nat) (f : Crew → Crew) : (s.updCrew c f).issuing = s.issuing := rfl
@[simp] theorem State.updCrew_freeCtr (s : State) (c : Nat) (f : Crew → Crew) : (s.updCrew c f).freeCtr = s.freeCtr := rfl
@[simp] theorem State.updCrew_nextId (s : State) (c : Nat) (f : Crew → Crew) : (s.updCrew c f).nextId = s.nextId := rfl

@[simp] theorem State.updLaunch_mem (s : State) (l : Nat) (f : Launch → Launch) : (s.updLaunch l f).mem = s.mem := rfl
@[simp] theorem State.updLaunch_bad (s : State) (l : Nat) (f : Launch → Launch) : (s.updLaunch l f).bad = s.bad := rfl
@[simp] theorem State.updLaunch_soft (s : State) (l : Nat) (f : Launch → Launch) : (s.updLaunch l f).soft = s.soft := rfl
@[simp] theorem State.updLaunch_tags (s : State) (l : Nat) (f : Launch → Launch) : (s.updLaunch l f).tags = s.tags := rfl
@[simp] theorem State.updLaunch_masts (s : State) (l : Nat) (f : Launch → Launch) : (s.updLaunch l f).masts = s.masts := rfl
@[simp] theorem State.updLaunch_stns (s : State) (l : Nat) (f : Launch → Launch) : (s.updLaunch l f).stns = s.stns := rfl
@[simp] theorem State.updLaunch_launches (s : State) (l : Nat) (f : Launch → Launch) : (s.updLaunch l f).launches = SMap.upd s.launches l f := rfl
@[simp] theorem State.updLaunch_crews (s : State) (l : Nat) (f : Launch → Launch) : (s.updLaunch l f).crews = s.crews := rfl
@[simp] theorem State.updLaunch_groups (s : State) (l : Nat) (f : Launch → Launch) : (s.updLaunch l f).groups = s.groups := rfl
@[simp] theorem State.updLaunch_subs (s : State) (l : Nat) (f : Launch → Launch) : (s.updLaunch l f).subs = s.subs := rfl
@[simp] theorem State.updLaunch_waits (s : State) (l : Nat) (f : Launch → Launch) : (s.updLaunch l f).waits = s.waits := rfl
@[simp] theorem State.updLaunch_images (s : State) (l : Nat) (f : Launch → Launch) : (s.updLaunch l f).images = s.images := rfl
@[simp] theorem State.updLaunch_ties (s : State) (l : Nat) (f : Launch → Launch) : (s.updLaunch l f).ties = s.ties := rfl
@[simp] theorem State.updLaunch_msgs (s : State) (l : Nat) (f : Launch → Launch) : (s.updLaunch l f).msgs = s.msgs := rfl
@[simp] theorem State.updLaunch_slices (s : State) (l : Nat) (f : Launch → Launch) : (s.updLaunch l f).slices = s.slices := rfl
@[simp] theorem State.updLaunch_calls (s : State) (l : Nat) (f : Launch → Launch) : (s.updLaunch l f).calls = s.calls := rfl
@[simp] theorem State.updLaunch_dev (s : State) (l : Nat) (f : Launch → Launch) : (s.updLaunch l f).dev = s.dev := rfl
@[simp] theorem State.updLaunch_others (s : State) (l : Nat) (f : Launch → Launch) : (s.updLaunch l f).others = s.others := rfl
@[simp] theorem State.updLaunch_ctxs (s : State) (l : Nat) (f : Launch → Launch) : (s.updLaunch l f).ctxs = s.ctxs := rfl
@[simp] theorem State.updLaunch_queues (s : State) (l : Nat) (f : Launch → Launch) : (s.updLaunch l f).queues = s.queues := rfl
@[simp] theorem State.updLaunch_ptrs (s : State) (l : Nat) (f : Launch → Launch) : (s.updLaunch l f).ptrs = s.ptrs := rfl
@[simp] theorem State.updLaunch_deck (s : State) (l : Nat) (f : Launch → Launch) : (s.updLaunch l f).deck = s.deck := rfl
@[simp] theorem State.updLaunch_regs (s : State) (l : Nat) (f : Launch → Launch) : (s.updLaunch l f).regs = s.regs := rfl
@[simp] theorem State.updLaunch_events (s : State) (l : Nat) (f : Launch → Launch) : (s.updLaunch l f).events = s.events := rfl
@[simp] theorem State.updLaunch_evCount (s : State) (l : Nat) (f : Launch → Launch) : (s.updLaunch l f).evCount = s.evCount := rfl
@[simp] theorem State.updLaunch_qps (s : State) (l : Nat) (f : Launch → Launch) : (s.updLaunch l f).qps = s.qps := rfl
@[simp] theorem State.updLaunch_hostOut (s : State) (l : Nat) (f : Launch → Launch) : (s.updLaunch l f).hostOut = s.hostOut := rfl
@[simp] theorem State.updLaunch_shroud (s : State) (l : Nat) (f : Launch → Launch) : (s.updLaunch l f).shroud = s.shroud := rfl
@[simp] theorem State.updLaunch_bosun (s : State) (l : Nat) (f : Launch → Launch) : (s.updLaunch l f).bosun = s.bosun := rfl
@[simp] theorem State.updLaunch_ckpt (s : State) (l : Nat) (f : Launch → Launch) : (s.updLaunch l f).ckpt = s.ckpt := rfl
@[simp] theorem State.updLaunch_halting (s : State) (l : Nat) (f : Launch → Launch) : (s.updLaunch l f).halting = s.halting := rfl
@[simp] theorem State.updLaunch_journal (s : State) (l : Nat) (f : Launch → Launch) : (s.updLaunch l f).journal = s.journal := rfl
@[simp] theorem State.updLaunch_agenda (s : State) (l : Nat) (f : Launch → Launch) : (s.updLaunch l f).agenda = s.agenda := rfl
@[simp] theorem State.updLaunch_issuing (s : State) (l : Nat) (f : Launch → Launch) : (s.updLaunch l f).issuing = s.issuing := rfl
@[simp] theorem State.updLaunch_freeCtr (s : State) (l : Nat) (f : Launch → Launch) : (s.updLaunch l f).freeCtr = s.freeCtr := rfl
@[simp] theorem State.updLaunch_nextId (s : State) (l : Nat) (f : Launch → Launch) : (s.updLaunch l f).nextId = s.nextId := rfl

@[simp] theorem State.updCtx_mem (s : State) (c : Nat) (f : Ctx → Ctx) : (s.updCtx c f).mem = s.mem := rfl
@[simp] theorem State.updCtx_bad (s : State) (c : Nat) (f : Ctx → Ctx) : (s.updCtx c f).bad = s.bad := rfl
@[simp] theorem State.updCtx_soft (s : State) (c : Nat) (f : Ctx → Ctx) : (s.updCtx c f).soft = s.soft := rfl
@[simp] theorem State.updCtx_tags (s : State) (c : Nat) (f : Ctx → Ctx) : (s.updCtx c f).tags = s.tags := rfl
@[simp] theorem State.updCtx_masts (s : State) (c : Nat) (f : Ctx → Ctx) : (s.updCtx c f).masts = s.masts := rfl
@[simp] theorem State.updCtx_stns (s : State) (c : Nat) (f : Ctx → Ctx) : (s.updCtx c f).stns = s.stns := rfl
@[simp] theorem State.updCtx_launches (s : State) (c : Nat) (f : Ctx → Ctx) : (s.updCtx c f).launches = s.launches := rfl
@[simp] theorem State.updCtx_crews (s : State) (c : Nat) (f : Ctx → Ctx) : (s.updCtx c f).crews = s.crews := rfl
@[simp] theorem State.updCtx_groups (s : State) (c : Nat) (f : Ctx → Ctx) : (s.updCtx c f).groups = s.groups := rfl
@[simp] theorem State.updCtx_subs (s : State) (c : Nat) (f : Ctx → Ctx) : (s.updCtx c f).subs = s.subs := rfl
@[simp] theorem State.updCtx_waits (s : State) (c : Nat) (f : Ctx → Ctx) : (s.updCtx c f).waits = s.waits := rfl
@[simp] theorem State.updCtx_images (s : State) (c : Nat) (f : Ctx → Ctx) : (s.updCtx c f).images = s.images := rfl
@[simp] theorem State.updCtx_ties (s : State) (c : Nat) (f : Ctx → Ctx) : (s.updCtx c f).ties = s.ties := rfl
@[simp] theorem State.updCtx_msgs (s : State) (c : Nat) (f : Ctx → Ctx) : (s.updCtx c f).msgs = s.msgs := rfl
@[simp] theorem State.updCtx_slices (s : State) (c : Nat) (f : Ctx → Ctx) : (s.updCtx c f).slices = s.slices := rfl
@[simp] theorem State.updCtx_calls (s : State) (c : Nat) (f : Ctx → Ctx) : (s.updCtx c f).calls = s.calls := rfl
@[simp] theorem State.updCtx_dev (s : State) (c : Nat) (f : Ctx → Ctx) : (s.updCtx c f).dev = s.dev := rfl
@[simp] theorem State.updCtx_others (s : State) (c : Nat) (f : Ctx → Ctx) : (s.updCtx c f).others = s.others := rfl
@[simp] theorem State.updCtx_ctxs (s : State) (c : Nat) (f : Ctx → Ctx) : (s.updCtx c f).ctxs = SMap.upd s.ctxs c f := rfl
@[simp] theorem State.updCtx_queues (s : State) (c : Nat) (f : Ctx → Ctx) : (s.updCtx c f).queues = s.queues := rfl
@[simp] theorem State.updCtx_ptrs (s : State) (c : Nat) (f : Ctx → Ctx) : (s.updCtx c f).ptrs = s.ptrs := rfl
@[simp] theorem State.updCtx_deck (s : State) (c : Nat) (f : Ctx → Ctx) : (s.updCtx c f).deck = s.deck := rfl
@[simp] theorem State.updCtx_regs (s : State) (c : Nat) (f : Ctx → Ctx) : (s.updCtx c f).regs = s.regs := rfl
@[simp] theorem State.updCtx_events (s : State) (c : Nat) (f : Ctx → Ctx) : (s.updCtx c f).events = s.events := rfl
@[simp] theorem State.updCtx_evCount (s : State) (c : Nat) (f : Ctx → Ctx) : (s.updCtx c f).evCount = s.evCount := rfl
@[simp] theorem State.updCtx_qps (s : State) (c : Nat) (f : Ctx → Ctx) : (s.updCtx c f).qps = s.qps := rfl
@[simp] theorem State.updCtx_hostOut (s : State) (c : Nat) (f : Ctx → Ctx) : (s.updCtx c f).hostOut = s.hostOut := rfl
@[simp] theorem State.updCtx_shroud (s : State) (c : Nat) (f : Ctx → Ctx) : (s.updCtx c f).shroud = s.shroud := rfl
@[simp] theorem State.updCtx_bosun (s : State) (c : Nat) (f : Ctx → Ctx) : (s.updCtx c f).bosun = s.bosun := rfl
@[simp] theorem State.updCtx_ckpt (s : State) (c : Nat) (f : Ctx → Ctx) : (s.updCtx c f).ckpt = s.ckpt := rfl
@[simp] theorem State.updCtx_halting (s : State) (c : Nat) (f : Ctx → Ctx) : (s.updCtx c f).halting = s.halting := rfl
@[simp] theorem State.updCtx_journal (s : State) (c : Nat) (f : Ctx → Ctx) : (s.updCtx c f).journal = s.journal := rfl
@[simp] theorem State.updCtx_agenda (s : State) (c : Nat) (f : Ctx → Ctx) : (s.updCtx c f).agenda = s.agenda := rfl
@[simp] theorem State.updCtx_issuing (s : State) (c : Nat) (f : Ctx → Ctx) : (s.updCtx c f).issuing = s.issuing := rfl
@[simp] theorem State.updCtx_freeCtr (s : State) (c : Nat) (f : Ctx → Ctx) : (s.updCtx c f).freeCtr = s.freeCtr := rfl
@[simp] theorem State.updCtx_nextId (s : State) (c : Nat) (f : Ctx → Ctx) : (s.updCtx c f).nextId = s.nextId := rfl

@[simp] theorem State.updMast_mem (s : State) (m : Nat) (f : Mast → Mast) : (s.updMast m f).mem = s.mem := rfl
@[simp] theorem State.updMast_bad (s : State) (m : Nat) (f : Mast → Mast) : (s.updMast m f).bad = s.bad := rfl
@[simp] theorem State.updMast_soft (s : State) (m : Nat) (f : Mast → Mast) : (s.updMast m f).soft = s.soft := rfl
@[simp] theorem State.updMast_tags (s : State) (m : Nat) (f : Mast → Mast) : (s.updMast m f).tags = s.tags := rfl
@[simp] theorem State.updMast_masts (s : State) (m : Nat) (f : Mast → Mast) : (s.updMast m f).masts = SMap.put s.masts m (f (s.mast m)) := rfl
@[simp] theorem State.updMast_stns (s : State) (m : Nat) (f : Mast → Mast) : (s.updMast m f).stns = s.stns := rfl
@[simp] theorem State.updMast_launches (s : State) (m : Nat) (f : Mast → Mast) : (s.updMast m f).launches = s.launches := rfl
@[simp] theorem State.updMast_crews (s : State) (m : Nat) (f : Mast → Mast) : (s.updMast m f).crews = s.crews := rfl
@[simp] theorem State.updMast_groups (s : State) (m : Nat) (f : Mast → Mast) : (s.updMast m f).groups = s.groups := rfl
@[simp] theorem State.updMast_subs (s : State) (m : Nat) (f : Mast → Mast) : (s.updMast m f).subs = s.subs := rfl
@[simp] theorem State.updMast_waits (s : State) (m : Nat) (f : Mast → Mast) : (s.updMast m f).waits = s.waits := rfl
@[simp] theorem State.updMast_images (s : State) (m : Nat) (f : Mast → Mast) : (s.updMast m f).images = s.images := rfl
@[simp] theorem State.updMast_ties (s : State) (m : Nat) (f : Mast → Mast) : (s.updMast m f).ties = s.ties := rfl
@[simp] theorem State.updMast_msgs (s : State) (m : Nat) (f : Mast → Mast) : (s.updMast m f).msgs = s.msgs := rfl
@[simp] theorem State.updMast_slices (s : State) (m : Nat) (f : Mast → Mast) : (s.updMast m f).slices = s.slices := rfl
@[simp] theorem State.updMast_calls (s : State) (m : Nat) (f : Mast → Mast) : (s.updMast m f).calls = s.calls := rfl
@[simp] theorem State.updMast_dev (s : State) (m : Nat) (f : Mast → Mast) : (s.updMast m f).dev = s.dev := rfl
@[simp] theorem State.updMast_others (s : State) (m : Nat) (f : Mast → Mast) : (s.updMast m f).others = s.others := rfl
@[simp] theorem State.updMast_ctxs (s : State) (m : Nat) (f : Mast → Mast) : (s.updMast m f).ctxs = s.ctxs := rfl
@[simp] theorem State.updMast_queues (s : State) (m : Nat) (f : Mast → Mast) : (s.updMast m f).queues = s.queues := rfl
@[simp] theorem State.updMast_ptrs (s : State) (m : Nat) (f : Mast → Mast) : (s.updMast m f).ptrs = s.ptrs := rfl
@[simp] theorem State.updMast_deck (s : State) (m : Nat) (f : Mast → Mast) : (s.updMast m f).deck = s.deck := rfl
@[simp] theorem State.updMast_regs (s : State) (m : Nat) (f : Mast → Mast) : (s.updMast m f).regs = s.regs := rfl
@[simp] theorem State.updMast_events (s : State) (m : Nat) (f : Mast → Mast) : (s.updMast m f).events = s.events := rfl
@[simp] theorem State.updMast_evCount (s : State) (m : Nat) (f : Mast → Mast) : (s.updMast m f).evCount = s.evCount := rfl
@[simp] theorem State.updMast_qps (s : State) (m : Nat) (f : Mast → Mast) : (s.updMast m f).qps = s.qps := rfl
@[simp] theorem State.updMast_hostOut (s : State) (m : Nat) (f : Mast → Mast) : (s.updMast m f).hostOut = s.hostOut := rfl
@[simp] theorem State.updMast_shroud (s : State) (m : Nat) (f : Mast → Mast) : (s.updMast m f).shroud = s.shroud := rfl
@[simp] theorem State.updMast_bosun (s : State) (m : Nat) (f : Mast → Mast) : (s.updMast m f).bosun = s.bosun := rfl
@[simp] theorem State.updMast_ckpt (s : State) (m : Nat) (f : Mast → Mast) : (s.updMast m f).ckpt = s.ckpt := rfl
@[simp] theorem State.updMast_halting (s : State) (m : Nat) (f : Mast → Mast) : (s.updMast m f).halting = s.halting := rfl
@[simp] theorem State.updMast_journal (s : State) (m : Nat) (f : Mast → Mast) : (s.updMast m f).journal = s.journal := rfl
@[simp] theorem State.updMast_agenda (s : State) (m : Nat) (f : Mast → Mast) : (s.updMast m f).agenda = s.agenda := rfl
@[simp] theorem State.updMast_issuing (s : State) (m : Nat) (f : Mast → Mast) : (s.updMast m f).issuing = s.issuing := rfl
@[simp] theorem State.updMast_freeCtr (s : State) (m : Nat) (f : Mast → Mast) : (s.updMast m f).freeCtr = s.freeCtr := rfl
@[simp] theorem State.updMast_nextId (s : State) (m : Nat) (f : Mast → Mast) : (s.updMast m f).nextId = s.nextId := rfl

@[simp] theorem State.updStn_mem (s : State) (m n : Nat) (f : Station → Station) : (s.updStn m n f).mem = s.mem := rfl
@[simp] theorem State.updStn_bad (s : State) (m n : Nat) (f : Station → Station) : (s.updStn m n f).bad = s.bad := rfl
@[simp] theorem State.updStn_soft (s : State) (m n : Nat) (f : Station → Station) : (s.updStn m n f).soft = s.soft := rfl
@[simp] theorem State.updStn_tags (s : State) (m n : Nat) (f : Station → Station) : (s.updStn m n f).tags = s.tags := rfl
@[simp] theorem State.updStn_masts (s : State) (m n : Nat) (f : Station → Station) : (s.updStn m n f).masts = s.masts := rfl
@[simp] theorem State.updStn_stns (s : State) (m n : Nat) (f : Station → Station) : (s.updStn m n f).stns = SMap.put s.stns (m * 64 + n) (f (s.stn m n)) := rfl
@[simp] theorem State.updStn_launches (s : State) (m n : Nat) (f : Station → Station) : (s.updStn m n f).launches = s.launches := rfl
@[simp] theorem State.updStn_crews (s : State) (m n : Nat) (f : Station → Station) : (s.updStn m n f).crews = s.crews := rfl
@[simp] theorem State.updStn_groups (s : State) (m n : Nat) (f : Station → Station) : (s.updStn m n f).groups = s.groups := rfl
@[simp] theorem State.updStn_subs (s : State) (m n : Nat) (f : Station → Station) : (s.updStn m n f).subs = s.subs := rfl
@[simp] theorem State.updStn_waits (s : State) (m n : Nat) (f : Station → Station) : (s.updStn m n f).waits = s.waits := rfl
@[simp] theorem State.updStn_images (s : State) (m n : Nat) (f : Station → Station) : (s.updStn m n f).images = s.images := rfl
@[simp] theorem State.updStn_ties (s : State) (m n : Nat) (f : Station → Station) : (s.updStn m n f).ties = s.ties := rfl
@[simp] theorem State.updStn_msgs (s : State) (m n : Nat) (f : Station → Station) : (s.updStn m n f).msgs = s.msgs := rfl
@[simp] theorem State.updStn_slices (s : State) (m n : Nat) (f : Station → Station) : (s.updStn m n f).slices = s.slices := rfl
@[simp] theorem State.updStn_calls (s : State) (m n : Nat) (f : Station → Station) : (s.updStn m n f).calls = s.calls := rfl
@[simp] theorem State.updStn_dev (s : State) (m n : Nat) (f : Station → Station) : (s.updStn m n f).dev = s.dev := rfl
@[simp] theorem State.updStn_others (s : State) (m n : Nat) (f : Station → Station) : (s.updStn m n f).others = s.others := rfl
@[simp] theorem State.updStn_ctxs (s : State) (m n : Nat) (f : Station → Station) : (s.updStn m n f).ctxs = s.ctxs := rfl
@[simp] theorem State.updStn_queues (s : State) (m n : Nat) (f : Station → Station) : (s.updStn m n f).queues = s.queues := rfl
@[simp] theorem State.updStn_ptrs (s : State) (m n : Nat) (f : Station → Station) : (s.updStn m n f).ptrs = s.ptrs := rfl
@[simp] theorem State.updStn_deck (s : State) (m n : Nat) (f : Station → Station) : (s.updStn m n f).deck = s.deck := rfl
@[simp] theorem State.updStn_regs (s : State) (m n : Nat) (f : Station → Station) : (s.updStn m n f).regs = s.regs := rfl
@[simp] theorem State.updStn_events (s : State) (m n : Nat) (f : Station → Station) : (s.updStn m n f).events = s.events := rfl
@[simp] theorem State.updStn_evCount (s : State) (m n : Nat) (f : Station → Station) : (s.updStn m n f).evCount = s.evCount := rfl
@[simp] theorem State.updStn_qps (s : State) (m n : Nat) (f : Station → Station) : (s.updStn m n f).qps = s.qps := rfl
@[simp] theorem State.updStn_hostOut (s : State) (m n : Nat) (f : Station → Station) : (s.updStn m n f).hostOut = s.hostOut := rfl
@[simp] theorem State.updStn_shroud (s : State) (m n : Nat) (f : Station → Station) : (s.updStn m n f).shroud = s.shroud := rfl
@[simp] theorem State.updStn_bosun (s : State) (m n : Nat) (f : Station → Station) : (s.updStn m n f).bosun = s.bosun := rfl
@[simp] theorem State.updStn_ckpt (s : State) (m n : Nat) (f : Station → Station) : (s.updStn m n f).ckpt = s.ckpt := rfl
@[simp] theorem State.updStn_halting (s : State) (m n : Nat) (f : Station → Station) : (s.updStn m n f).halting = s.halting := rfl
@[simp] theorem State.updStn_journal (s : State) (m n : Nat) (f : Station → Station) : (s.updStn m n f).journal = s.journal := rfl
@[simp] theorem State.updStn_agenda (s : State) (m n : Nat) (f : Station → Station) : (s.updStn m n f).agenda = s.agenda := rfl
@[simp] theorem State.updStn_issuing (s : State) (m n : Nat) (f : Station → Station) : (s.updStn m n f).issuing = s.issuing := rfl
@[simp] theorem State.updStn_freeCtr (s : State) (m n : Nat) (f : Station → Station) : (s.updStn m n f).freeCtr = s.freeCtr := rfl
@[simp] theorem State.updStn_nextId (s : State) (m n : Nat) (f : Station → Station) : (s.updStn m n f).nextId = s.nextId := rfl

@[simp] theorem State.post_mem (s : State) (e : Event) : (s.post e).mem = s.mem := rfl
@[simp] theorem State.post_bad (s : State) (e : Event) : (s.post e).bad = s.bad := rfl
@[simp] theorem State.post_soft (s : State) (e : Event) : (s.post e).soft = s.soft := rfl
@[simp] theorem State.post_tags (s : State) (e : Event) : (s.post e).tags = s.tags := rfl
@[simp] theorem State.post_masts (s : State) (e : Event) : (s.post e).masts = s.masts := rfl
@[simp] theorem State.post_stns (s : State) (e : Event) : (s.post e).stns = s.stns := rfl
@[simp] theorem State.post_launches (s : State) (e : Event) : (s.post e).launches = s.launches := rfl
@[simp] theorem State.post_crews (s : State) (e : Event) : (s.post e).crews = s.crews := rfl
@[simp] theorem State.post_groups (s : State) (e : Event) : (s.post e).groups = s.groups := rfl
@[simp] theorem State.post_subs (s : State) (e : Event) : (s.post e).subs = s.subs := rfl
@[simp] theorem State.post_waits (s : State) (e : Event) : (s.post e).waits = s.waits := rfl
@[simp] theorem State.post_images (s : State) (e : Event) : (s.post e).images = s.images := rfl
@[simp] theorem State.post_ties (s : State) (e : Event) : (s.post e).ties = s.ties := rfl
@[simp] theorem State.post_msgs (s : State) (e : Event) : (s.post e).msgs = s.msgs := rfl
@[simp] theorem State.post_slices (s : State) (e : Event) : (s.post e).slices = s.slices := rfl
@[simp] theorem State.post_calls (s : State) (e : Event) : (s.post e).calls = s.calls := rfl
@[simp] theorem State.post_dev (s : State) (e : Event) : (s.post e).dev = s.dev := rfl
@[simp] theorem State.post_others (s : State) (e : Event) : (s.post e).others = s.others := rfl
@[simp] theorem State.post_ctxs (s : State) (e : Event) : (s.post e).ctxs = s.ctxs := rfl
@[simp] theorem State.post_queues (s : State) (e : Event) : (s.post e).queues = s.queues := rfl
@[simp] theorem State.post_ptrs (s : State) (e : Event) : (s.post e).ptrs = s.ptrs := rfl
@[simp] theorem State.post_deck (s : State) (e : Event) : (s.post e).deck = s.deck := rfl
@[simp] theorem State.post_regs (s : State) (e : Event) : (s.post e).regs = s.regs := rfl
@[simp] theorem State.post_events (s : State) (e : Event) : (s.post e).events = s.events ++ [e] := rfl
@[simp] theorem State.post_evCount (s : State) (e : Event) : (s.post e).evCount = s.evCount := rfl
@[simp] theorem State.post_qps (s : State) (e : Event) : (s.post e).qps = s.qps := rfl
@[simp] theorem State.post_hostOut (s : State) (e : Event) : (s.post e).hostOut = s.hostOut := rfl
@[simp] theorem State.post_shroud (s : State) (e : Event) : (s.post e).shroud = s.shroud := rfl
@[simp] theorem State.post_bosun (s : State) (e : Event) : (s.post e).bosun = s.bosun := rfl
@[simp] theorem State.post_ckpt (s : State) (e : Event) : (s.post e).ckpt = s.ckpt := rfl
@[simp] theorem State.post_halting (s : State) (e : Event) : (s.post e).halting = s.halting := rfl
@[simp] theorem State.post_journal (s : State) (e : Event) : (s.post e).journal = s.journal := rfl
@[simp] theorem State.post_agenda (s : State) (e : Event) : (s.post e).agenda = s.agenda := rfl
@[simp] theorem State.post_issuing (s : State) (e : Event) : (s.post e).issuing = s.issuing := rfl
@[simp] theorem State.post_freeCtr (s : State) (e : Event) : (s.post e).freeCtr = s.freeCtr := rfl
@[simp] theorem State.post_nextId (s : State) (e : Event) : (s.post e).nextId = s.nextId := rfl

@[simp] theorem State.store_tags (s : State) (c : Nat) (bs : List Byte) : (s.store c bs).tags = s.tags := rfl
@[simp] theorem State.store_masts (s : State) (c : Nat) (bs : List Byte) : (s.store c bs).masts = s.masts := rfl
@[simp] theorem State.store_stns (s : State) (c : Nat) (bs : List Byte) : (s.store c bs).stns = s.stns := rfl
@[simp] theorem State.store_launches (s : State) (c : Nat) (bs : List Byte) : (s.store c bs).launches = s.launches := rfl
@[simp] theorem State.store_crews (s : State) (c : Nat) (bs : List Byte) : (s.store c bs).crews = s.crews := rfl
@[simp] theorem State.store_groups (s : State) (c : Nat) (bs : List Byte) : (s.store c bs).groups = s.groups := rfl
@[simp] theorem State.store_subs (s : State) (c : Nat) (bs : List Byte) : (s.store c bs).subs = s.subs := rfl
@[simp] theorem State.store_waits (s : State) (c : Nat) (bs : List Byte) : (s.store c bs).waits = s.waits := rfl
@[simp] theorem State.store_images (s : State) (c : Nat) (bs : List Byte) : (s.store c bs).images = s.images := rfl
@[simp] theorem State.store_ties (s : State) (c : Nat) (bs : List Byte) : (s.store c bs).ties = s.ties := rfl
@[simp] theorem State.store_msgs (s : State) (c : Nat) (bs : List Byte) : (s.store c bs).msgs = s.msgs := rfl
@[simp] theorem State.store_slices (s : State) (c : Nat) (bs : List Byte) : (s.store c bs).slices = s.slices := rfl
@[simp] theorem State.store_calls (s : State) (c : Nat) (bs : List Byte) : (s.store c bs).calls = s.calls := rfl
@[simp] theorem State.store_dev (s : State) (c : Nat) (bs : List Byte) : (s.store c bs).dev = s.dev := rfl
@[simp] theorem State.store_others (s : State) (c : Nat) (bs : List Byte) : (s.store c bs).others = s.others := rfl
@[simp] theorem State.store_ctxs (s : State) (c : Nat) (bs : List Byte) : (s.store c bs).ctxs = s.ctxs := rfl
@[simp] theorem State.store_queues (s : State) (c : Nat) (bs : List Byte) : (s.store c bs).queues = s.queues := rfl
@[simp] theorem State.store_ptrs (s : State) (c : Nat) (bs : List Byte) : (s.store c bs).ptrs = s.ptrs := rfl
@[simp] theorem State.store_deck (s : State) (c : Nat) (bs : List Byte) : (s.store c bs).deck = s.deck := rfl
@[simp] theorem State.store_regs (s : State) (c : Nat) (bs : List Byte) : (s.store c bs).regs = s.regs := rfl
@[simp] theorem State.store_events (s : State) (c : Nat) (bs : List Byte) : (s.store c bs).events = s.events := rfl
@[simp] theorem State.store_evCount (s : State) (c : Nat) (bs : List Byte) : (s.store c bs).evCount = s.evCount := rfl
@[simp] theorem State.store_qps (s : State) (c : Nat) (bs : List Byte) : (s.store c bs).qps = s.qps := rfl
@[simp] theorem State.store_hostOut (s : State) (c : Nat) (bs : List Byte) : (s.store c bs).hostOut = s.hostOut := rfl
@[simp] theorem State.store_shroud (s : State) (c : Nat) (bs : List Byte) : (s.store c bs).shroud = s.shroud := rfl
@[simp] theorem State.store_bosun (s : State) (c : Nat) (bs : List Byte) : (s.store c bs).bosun = s.bosun := rfl
@[simp] theorem State.store_ckpt (s : State) (c : Nat) (bs : List Byte) : (s.store c bs).ckpt = s.ckpt := rfl
@[simp] theorem State.store_halting (s : State) (c : Nat) (bs : List Byte) : (s.store c bs).halting = s.halting := rfl
@[simp] theorem State.store_journal (s : State) (c : Nat) (bs : List Byte) : (s.store c bs).journal = s.journal := rfl
@[simp] theorem State.store_agenda (s : State) (c : Nat) (bs : List Byte) : (s.store c bs).agenda = s.agenda := rfl
@[simp] theorem State.store_issuing (s : State) (c : Nat) (bs : List Byte) : (s.store c bs).issuing = s.issuing := rfl
@[simp] theorem State.store_freeCtr (s : State) (c : Nat) (bs : List Byte) : (s.store c bs).freeCtr = s.freeCtr := rfl
@[simp] theorem State.store_nextId (s : State) (c : Nat) (bs : List Byte) : (s.store c bs).nextId = s.nextId := rfl
@[simp] theorem State.store_mem (s : State) (c : Nat) (bs : List Byte) : (s.store c bs).mem = writeMem s.mem c bs := rfl

@[simp] theorem State.fresh_mem (s : State) : s.fresh.2.mem = s.mem := rfl
@[simp] theorem State.fresh_bad (s : State) : s.fresh.2.bad = s.bad := rfl
@[simp] theorem State.fresh_soft (s : State) : s.fresh.2.soft = s.soft := rfl
@[simp] theorem State.fresh_tags (s : State) : s.fresh.2.tags = s.tags := rfl
@[simp] theorem State.fresh_masts (s : State) : s.fresh.2.masts = s.masts := rfl
@[simp] theorem State.fresh_stns (s : State) : s.fresh.2.stns = s.stns := rfl
@[simp] theorem State.fresh_launches (s : State) : s.fresh.2.launches = s.launches := rfl
@[simp] theorem State.fresh_crews (s : State) : s.fresh.2.crews = s.crews := rfl
@[simp] theorem State.fresh_groups (s : State) : s.fresh.2.groups = s.groups := rfl
@[simp] theorem State.fresh_subs (s : State) : s.fresh.2.subs = s.subs := rfl
@[simp] theorem State.fresh_waits (s : State) : s.fresh.2.waits = s.waits := rfl
@[simp] theorem State.fresh_images (s : State) : s.fresh.2.images = s.images := rfl
@[simp] theorem State.fresh_ties (s : State) : s.fresh.2.ties = s.ties := rfl
@[simp] theorem State.fresh_msgs (s : State) : s.fresh.2.msgs = s.msgs := rfl
@[simp] theorem State.fresh_slices (s : State) : s.fresh.2.slices = s.slices := rfl
@[simp] theorem State.fresh_calls (s : State) : s.fresh.2.calls = s.calls := rfl
@[simp] theorem State.fresh_dev (s : State) : s.fresh.2.dev = s.dev := rfl
@[simp] theorem State.fresh_others (s : State) : s.fresh.2.others = s.others := rfl
@[simp] theorem State.fresh_ctxs (s : State) : s.fresh.2.ctxs = s.ctxs := rfl
@[simp] theorem State.fresh_queues (s : State) : s.fresh.2.queues = s.queues := rfl
@[simp] theorem State.fresh_ptrs (s : State) : s.fresh.2.ptrs = s.ptrs := rfl
@[simp] theorem State.fresh_deck (s : State) : s.fresh.2.deck = s.deck := rfl
@[simp] theorem State.fresh_regs (s : State) : s.fresh.2.regs = s.regs := rfl
@[simp] theorem State.fresh_events (s : State) : s.fresh.2.events = s.events := rfl
@[simp] theorem State.fresh_evCount (s : State) : s.fresh.2.evCount = s.evCount := rfl
@[simp] theorem State.fresh_qps (s : State) : s.fresh.2.qps = s.qps := rfl
@[simp] theorem State.fresh_hostOut (s : State) : s.fresh.2.hostOut = s.hostOut := rfl
@[simp] theorem State.fresh_shroud (s : State) : s.fresh.2.shroud = s.shroud := rfl
@[simp] theorem State.fresh_bosun (s : State) : s.fresh.2.bosun = s.bosun := rfl
@[simp] theorem State.fresh_ckpt (s : State) : s.fresh.2.ckpt = s.ckpt := rfl
@[simp] theorem State.fresh_halting (s : State) : s.fresh.2.halting = s.halting := rfl
@[simp] theorem State.fresh_journal (s : State) : s.fresh.2.journal = s.journal := rfl
@[simp] theorem State.fresh_agenda (s : State) : s.fresh.2.agenda = s.agenda := rfl
@[simp] theorem State.fresh_issuing (s : State) : s.fresh.2.issuing = s.issuing := rfl
@[simp] theorem State.fresh_freeCtr (s : State) : s.fresh.2.freeCtr = s.freeCtr := rfl
@[simp] theorem State.fresh_nextId (s : State) : s.fresh.2.nextId = s.nextId + 1 := rfl
@[simp] theorem State.fresh_fst (s : State) : s.fresh.1 = s.nextId := rfl

@[simp] theorem State.free_mem (s : State) : s.free.2.mem = s.mem := rfl
@[simp] theorem State.free_bad (s : State) : s.free.2.bad = s.bad := rfl
@[simp] theorem State.free_soft (s : State) : s.free.2.soft = s.soft := rfl
@[simp] theorem State.free_tags (s : State) : s.free.2.tags = s.tags := rfl
@[simp] theorem State.free_masts (s : State) : s.free.2.masts = s.masts := rfl
@[simp] theorem State.free_stns (s : State) : s.free.2.stns = s.stns := rfl
@[simp] theorem State.free_launches (s : State) : s.free.2.launches = s.launches := rfl
@[simp] theorem State.free_crews (s : State) : s.free.2.crews = s.crews := rfl
@[simp] theorem State.free_groups (s : State) : s.free.2.groups = s.groups := rfl
@[simp] theorem State.free_subs (s : State) : s.free.2.subs = s.subs := rfl
@[simp] theorem State.free_waits (s : State) : s.free.2.waits = s.waits := rfl
@[simp] theorem State.free_images (s : State) : s.free.2.images = s.images := rfl
@[simp] theorem State.free_ties (s : State) : s.free.2.ties = s.ties := rfl
@[simp] theorem State.free_msgs (s : State) : s.free.2.msgs = s.msgs := rfl
@[simp] theorem State.free_slices (s : State) : s.free.2.slices = s.slices := rfl
@[simp] theorem State.free_calls (s : State) : s.free.2.calls = s.calls := rfl
@[simp] theorem State.free_dev (s : State) : s.free.2.dev = s.dev := rfl
@[simp] theorem State.free_others (s : State) : s.free.2.others = s.others := rfl
@[simp] theorem State.free_ctxs (s : State) : s.free.2.ctxs = s.ctxs := rfl
@[simp] theorem State.free_queues (s : State) : s.free.2.queues = s.queues := rfl
@[simp] theorem State.free_ptrs (s : State) : s.free.2.ptrs = s.ptrs := rfl
@[simp] theorem State.free_deck (s : State) : s.free.2.deck = s.deck := rfl
@[simp] theorem State.free_regs (s : State) : s.free.2.regs = s.regs := rfl
@[simp] theorem State.free_events (s : State) : s.free.2.events = s.events := rfl
@[simp] theorem State.free_evCount (s : State) : s.free.2.evCount = s.evCount := rfl
@[simp] theorem State.free_qps (s : State) : s.free.2.qps = s.qps := rfl
@[simp] theorem State.free_hostOut (s : State) : s.free.2.hostOut = s.hostOut := rfl
@[simp] theorem State.free_shroud (s : State) : s.free.2.shroud = s.shroud := rfl
@[simp] theorem State.free_bosun (s : State) : s.free.2.bosun = s.bosun := rfl
@[simp] theorem State.free_ckpt (s : State) : s.free.2.ckpt = s.ckpt := rfl
@[simp] theorem State.free_halting (s : State) : s.free.2.halting = s.halting := rfl
@[simp] theorem State.free_journal (s : State) : s.free.2.journal = s.journal := rfl
@[simp] theorem State.free_agenda (s : State) : s.free.2.agenda = s.agenda := rfl
@[simp] theorem State.free_issuing (s : State) : s.free.2.issuing = s.issuing := rfl
@[simp] theorem State.free_nextId (s : State) : s.free.2.nextId = s.nextId := rfl
@[simp] theorem State.free_freeCtr (s : State) : s.free.2.freeCtr = s.freeCtr + 1 := rfl

/-- A sub-group after a change of one. -/
theorem State.updSub_get? (s : State) (sid k : Nat) (f : SubGroup → SubGroup) :
    SMap.get? (s.updSub sid f).subs k = if sid = k then (SMap.get? s.subs k).map f else SMap.get? s.subs k := by
  simp only [State.updSub_subs]
  cases h : SMap.get? s.subs sid with
  | none =>
    rw [SMap.upd_none _ _ _ h]; by_cases hk : sid = k
    · subst hk; simp [h]
    · simp [hk]
  | some a =>
    rw [SMap.upd_some _ _ _ _ h, SMap.get?_put]; by_cases hk : sid = k
    · subst hk; simp [h]
    · simp [hk]

/-- A group after a change of one. -/
theorem State.updGroup_get? (s : State) (gid k : Nat) (f : Group → Group) :
    SMap.get? (s.updGroup gid f).groups k = if gid = k then (SMap.get? s.groups k).map f else SMap.get? s.groups k := by
  simp only [State.updGroup_groups]
  cases h : SMap.get? s.groups gid with
  | none =>
    rw [SMap.upd_none _ _ _ h]; by_cases hk : gid = k
    · subst hk; simp [h]
    · simp [hk]
  | some a =>
    rw [SMap.upd_some _ _ _ _ h, SMap.get?_put]; by_cases hk : gid = k
    · subst hk; simp [h]
    · simp [hk]

/-- A mast after a change of one. -/
theorem State.updMast_mast (s : State) (m k : Nat) (f : Mast → Mast) : (s.updMast m f).mast k = if m = k then f (s.mast m) else s.mast k := by
  unfold State.mast; simp only [State.updMast_masts, SMap.get?_put]
  by_cases h : m = k <;> simp [h, State.mast]

/-- A change of a sub-group that is there. -/
theorem State.updSub_of_get? {s : State} {sid : Nat} {sg : SubGroup} (f : SubGroup → SubGroup) (h : SMap.get? s.subs sid = some sg) :
    s.updSub sid f = { s with subs := SMap.put s.subs sid (f sg) } := by
  unfold State.updSub; rw [SMap.upd_some _ _ _ _ h]

/-- A change of a group that is there. -/
theorem State.updGroup_of_get? {s : State} {gid : Nat} {g : Group} (f : Group → Group) (h : SMap.get? s.groups gid = some g) :
    s.updGroup gid f = { s with groups := SMap.put s.groups gid (f g) } := by
  unfold State.updGroup; rw [SMap.upd_some _ _ _ _ h]

/-! ## Memory -/

/-- Writing bytes keeps the canonical form of memory. -/
theorem writeMem_wf (m : Memory) (c : Nat) (bs : List Byte) (h : Memory.wf m = true) : Memory.wf (writeMem m c bs) = true := by
  induction bs generalizing m c with
  | nil => exact h
  | cons b bs ih => exact ih _ _ (RMap.wf_set _ _ _ h)

/-- The device in place is put in place: nothing changes. -/
@[simp] theorem State.enter_self (s : State) : s.enter s.dev = s := if_pos rfl

@[simp] theorem State.enter_mem (s : State) (d : Nat) : (s.enter d).mem = s.mem := by
  unfold State.enter; split <;> [rfl; (split <;> rfl)]
@[simp] theorem State.enter_bad (s : State) (d : Nat) : (s.enter d).bad = s.bad := by
  unfold State.enter; split <;> [rfl; (split <;> rfl)]
@[simp] theorem State.enter_soft (s : State) (d : Nat) : (s.enter d).soft = s.soft := by
  unfold State.enter; split <;> [rfl; (split <;> rfl)]
@[simp] theorem State.enter_tags (s : State) (d : Nat) : (s.enter d).tags = s.tags := by
  unfold State.enter; split <;> [rfl; (split <;> rfl)]
@[simp] theorem State.enter_masts (s : State) (d : Nat) : (s.enter d).masts = s.masts := by
  unfold State.enter; split <;> [rfl; (split <;> rfl)]
@[simp] theorem State.enter_stns (s : State) (d : Nat) : (s.enter d).stns = s.stns := by
  unfold State.enter; split <;> [rfl; (split <;> rfl)]
@[simp] theorem State.enter_launches (s : State) (d : Nat) : (s.enter d).launches = s.launches := by
  unfold State.enter; split <;> [rfl; (split <;> rfl)]
@[simp] theorem State.enter_crews (s : State) (d : Nat) : (s.enter d).crews = s.crews := by
  unfold State.enter; split <;> [rfl; (split <;> rfl)]
@[simp] theorem State.enter_groups (s : State) (d : Nat) : (s.enter d).groups = s.groups := by
  unfold State.enter; split <;> [rfl; (split <;> rfl)]
@[simp] theorem State.enter_subs (s : State) (d : Nat) : (s.enter d).subs = s.subs := by
  unfold State.enter; split <;> [rfl; (split <;> rfl)]
@[simp] theorem State.enter_waits (s : State) (d : Nat) : (s.enter d).waits = s.waits := by
  unfold State.enter; split <;> [rfl; (split <;> rfl)]
@[simp] theorem State.enter_images (s : State) (d : Nat) : (s.enter d).images = s.images := by
  unfold State.enter; split <;> [rfl; (split <;> rfl)]
@[simp] theorem State.enter_ties (s : State) (d : Nat) : (s.enter d).ties = s.ties := by
  unfold State.enter; split <;> [rfl; (split <;> rfl)]
@[simp] theorem State.enter_msgs (s : State) (d : Nat) : (s.enter d).msgs = s.msgs := by
  unfold State.enter; split <;> [rfl; (split <;> rfl)]
@[simp] theorem State.enter_slices (s : State) (d : Nat) : (s.enter d).slices = s.slices := by
  unfold State.enter; split <;> [rfl; (split <;> rfl)]
@[simp] theorem State.enter_calls (s : State) (d : Nat) : (s.enter d).calls = s.calls := by
  unfold State.enter; split <;> [rfl; (split <;> rfl)]
@[simp] theorem State.enter_agenda (s : State) (d : Nat) : (s.enter d).agenda = s.agenda := by
  unfold State.enter; split <;> [rfl; (split <;> rfl)]
@[simp] theorem State.enter_issuing (s : State) (d : Nat) : (s.enter d).issuing = s.issuing := by
  unfold State.enter; split <;> [rfl; (split <;> rfl)]
@[simp] theorem State.enter_freeCtr (s : State) (d : Nat) : (s.enter d).freeCtr = s.freeCtr := by
  unfold State.enter; split <;> [rfl; (split <;> rfl)]
@[simp] theorem State.enter_nextId (s : State) (d : Nat) : (s.enter d).nextId = s.nextId := by
  unfold State.enter; split <;> [rfl; (split <;> rfl)]

/-- A change seen from the device in place is the change, where it leaves that device in place. -/
theorem State.on_self (s : State) (f : State → State) (h : (f s).dev = s.dev) : s.on s.dev f = f s := by
  unfold State.on
  rw [State.enter_self, ← h, State.enter_self]

/-- What a change keeps of the fields that all devices share, it keeps as any device sees it. -/
theorem State.on_mem (s : State) (d : Nat) (f : State → State) (h : ∀ u : State, (f u).mem = u.mem) : (s.on d f).mem = s.mem := by
  unfold State.on
  rw [State.enter_mem, h, State.enter_mem]

/-- A store keeps the canonical form of memory. -/
theorem State.store_wf (s : State) (c : Nat) (bs : List Byte) (h : Memory.wf s.mem = true) : Memory.wf (s.store c bs).mem = true :=
  writeMem_wf _ _ _ h

/-- Every byte after some are written: those written read back, every other is as before. -/
theorem writeMem_get (m : Memory) (c : Nat) (bs : List Byte) (a : Nat) :
    RMap.get (n := 8) (writeMem m c bs) a = if c ≤ a ∧ a < c + bs.length then bs.getD (a - c) 0 else RMap.get (n := 8) m a := by
  induction bs generalizing m c with
  | nil =>
    rw [if_neg (by simp only [List.length_nil]; omega)]; rfl
  | cons b bs ih =>
    simp only [writeMem, ih, RMap.get_set, List.length_cons]
    by_cases h1 : a = c
    · subst h1; simp
    · by_cases h2 : c + 1 ≤ a ∧ a < c + 1 + bs.length
      · have h3 : c ≤ a ∧ a < c + (bs.length + 1) := by omega
        rw [if_pos h2, if_pos h3]
        have : a - c = (a - (c + 1)) + 1 := by omega
        rw [this, List.getD_cons_succ]
      · have h3 : ¬ (c ≤ a ∧ a < c + (bs.length + 1)) := by omega
        rw [if_neg h2, if_neg h3]; simp [Ne.symm h1]

/-- A store changes no byte outside those it writes. -/
theorem State.store_other (s : State) (c : Nat) (bs : List Byte) (a : Nat) (h : a < c ∨ c + bs.length ≤ a) :
    RMap.get (n := 8) (s.store c bs).mem a = RMap.get (n := 8) s.mem a := by
  rw [State.store_mem, writeMem_get, if_neg (by omega)]

end Sys2Proof.Machine
end

