-- ==== Sys2Proof/Laws/Regs.lean ====
section
/-! SUPPORT. Lane masks, registers after writes, and the retirement of a word that meets neither a debug step nor a tie point. -/

namespace Sys2Proof.Machine

open Sys2Proof Sys2Proof.Safety

/-! ## Masks -/

theorem getLsbD_ofNat_two_pow (l i : Nat) : (BitVec.ofNat 64 (2 ^ l)).getLsbD i = (decide (i < 64) && decide (l = i)) := by
  rw [BitVec.getLsbD_ofNat, Nat.testBit_two_pow]

theorem getLsbD_foldl_or (ls : List Nat) (m : Mask) (i : Nat) :
    (ls.foldl (fun m l => m ||| BitVec.ofNat 64 (2 ^ l)) m).getLsbD i = (m.getLsbD i || (decide (i < 64) && decide (i ∈ ls))) := by
  induction ls generalizing m with
  | nil => simp
  | cons l ls ih =>
    simp only [List.foldl_cons, ih, BitVec.getLsbD_or, getLsbD_ofNat_two_pow, List.mem_cons]
    by_cases h : l = i
    · subst h; by_cases h2 : l < 64 <;> simp [h2]
    · have h' : ¬ i = l := fun e => h e.symm
      simp [h, h']

/-- The lanes of a mask made of some lanes. -/
theorem getLsbD_maskOf (ls : List Nat) (i : Nat) : (maskOf ls).getLsbD i = (decide (i < 64) && decide (i ∈ ls)) := by
  unfold maskOf; rw [getLsbD_foldl_or]; simp

/-- The lanes of a mask. -/
theorem mem_lanesOf (m : Mask) (l : Nat) : l ∈ lanesOf m ↔ m.getLsbD l = true := by
  simp only [lanesOf, List.mem_filter, List.mem_range, and_iff_right_iff_imp]
  intro h; exact BitVec.lt_of_getLsbD h

@[simp] theorem maskOf_lanesOf (m : Mask) : maskOf (lanesOf m) = m := by
  apply BitVec.eq_of_getLsbD_eq
  intro i hi
  rw [getLsbD_maskOf]
  by_cases h : m.getLsbD i = true
  · simp [hi, mem_lanesOf, h]
  · simp [mem_lanesOf, h]

/-- A sub-group's lanes that pass a test. -/
theorem getLsbD_laneMask (sg : SubGroup) (f : Lane → Bool) (i : Nat) :
    (sg.laneMask f).getLsbD i = true ↔ i < 64 ∧ ∃ x, (i, x) ∈ sg.lanes ∧ f x = true := by
  unfold SubGroup.laneMask
  rw [getLsbD_maskOf]
  simp only [Bool.and_eq_true, decide_eq_true_eq, List.mem_map, List.mem_filter, Prod.exists]
  constructor
  · rintro ⟨h, a, x, ⟨hm, hf⟩, rfl⟩; exact ⟨h, x, hm, hf⟩
  · rintro ⟨h, x, hm, hf⟩; exact ⟨h, i, x, ⟨hm, hf⟩, rfl⟩

theorem mask_and_eq_zero_iff (a b : Mask) : a &&& b = 0 ↔ ∀ i, a.getLsbD i = true → b.getLsbD i = true → False := by
  constructor
  · intro h i h1 h2
    have : (a &&& b).getLsbD i = true := by simp [h1, h2]
    simp [h] at this
  · intro h
    apply BitVec.eq_of_getLsbD_eq
    intro i _
    by_cases h1 : a.getLsbD i = true
    · by_cases h2 : b.getLsbD i = true
      · exact absurd (h i h1 h2) id
      · simp [h2]
    · simp [h1]

/-! ## Registers -/

/-- setBit sets one bit and leaves the others. -/
theorem getLsbD_setBit {n : Nat} (x : BitVec n) (i j : Nat) (b : Bool) (hi : i < n) :
    (setBit x i b).getLsbD j = if i = j then b else x.getLsbD j := by
  unfold setBit
  cases b with
  | true =>
    simp only [if_true, BitVec.getLsbD_or, BitVec.getLsbD_ofNat, Nat.testBit_two_pow]
    by_cases h : i = j
    · subst h; simp [hi]
    · simp [h]
  | false =>
    rw [if_neg (by decide), BitVec.getLsbD_and, BitVec.getLsbD_not, BitVec.getLsbD_ofNat, Nat.testBit_two_pow]
    by_cases h : i = j
    · subst h; rw [if_pos rfl, decide_eq_true hi]; simp
    · rw [if_neg h, decide_eq_false h]
      by_cases hj : j < n
      · simp [hj]
      · rw [BitVec.getLsbD_of_ge x j (by omega)]; simp

/-- Every register after one is written. -/
theorem SubGroup.setReg_reg (sg : SubGroup) (w x : Reg) (y : Word) (hw : RegOk w) (hx : RegOk x) :
    (sg.setReg w y).reg x = if w = x then held w y else sg.reg x := by
  cases w with
  | v l n =>
    cases x with
    | v l' n' =>
      simp only [RegOk] at hw hx
      simp only [SubGroup.setReg, SubGroup.reg, RMap.get_set, held, Reg.v.injEq]
      by_cases h : l = l' ∧ n = n'
      · simp [h]
      · rw [if_neg (by omega), if_neg h]
    | x n' => exact hx.elim
    | _ => simp [SubGroup.setReg, SubGroup.reg]
  | p l n =>
    cases x with
    | p l' n' =>
      simp only [RegOk] at hw hx
      by_cases h0 : n = 0
      · subst h0; simp only [SubGroup.setReg, if_true, held, Reg.p.injEq]
        by_cases h : l = l' ∧ 0 = n'
        · obtain ⟨rfl, rfl⟩ := h; simp [SubGroup.reg]
        · rw [if_neg h]
      · simp only [SubGroup.setReg, h0, if_false, SubGroup.reg, RMap.get_set, held, Reg.p.injEq]
        by_cases h : l = l' ∧ n = n'
        · obtain ⟨rfl, rfl⟩ := h; simp [h0]
        · rw [if_neg h, if_neg (show ¬ (l * 8 + n = l' * 8 + n') by omega)]
    | x n' => exact hx.elim
    | _ => by_cases h0 : n = 0 <;> simp [SubGroup.setReg, SubGroup.reg, h0]
  | s n =>
    cases x with
    | s n' => simp [SubGroup.setReg, SubGroup.reg, RMap.get_set, held]
    | x n' => exact hx.elim
    | _ => simp [SubGroup.setReg, SubGroup.reg]
  | k n =>
    cases x with
    | k n' =>
      simp only [RegOk] at hw hx
      by_cases h0 : n = 0
      · subst h0; simp only [SubGroup.setReg, if_true, held, Reg.k.injEq]
        by_cases h : 0 = n'
        · subst h; simp [SubGroup.reg]
        · rw [if_neg h]
      · simp only [SubGroup.setReg, h0, if_false, SubGroup.reg, held, Reg.k.injEq, getLsbD_setBit _ _ _ _ hw]
        by_cases h : n = n'
        · subst h; simp [h0]
        · simp [h]
    | x n' => exact hx.elim
    | _ => by_cases h0 : n = 0 <;> simp [SubGroup.setReg, SubGroup.reg, h0]
  | d n =>
    cases x with
    | d n' => simp [SubGroup.setReg, SubGroup.reg, RMap.get_set, held]
    | x n' => exact hx.elim
    | _ => simp [SubGroup.setReg, SubGroup.reg]
  | x n => exact hw.elim

/-- A fixed-latency write changes the registers as setReg does. -/
theorem SubGroup.writeFixed_reg (sg : SubGroup) (now lat : Nat) (ls : List Nat) (w x : Reg) (y : Word) :
    (sg.writeFixed now lat ls w y).reg x = (sg.setReg w y).reg x := by cases x <;> rfl

theorem after_nil (a : SubGroup) (x : Reg) : after a [] x = a.reg x := rfl

theorem after_concat (a : SubGroup) (ws : List (Reg × Word)) (w : Reg × Word) (x : Reg) :
    after a (ws ++ [w]) x = if w.1 = x then held x w.2 else after a ws x := by
  unfold after
  simp only [List.reverse_append, List.reverse_cons, List.reverse_nil, List.nil_append, List.singleton_append, List.find?_cons]
  by_cases h : w.1 = x <;> simp [h]

/-- Every register after some fixed-latency writes. -/
theorem SubGroup.foldl_writeFixed_reg (sg : SubGroup) (now lat : Nat) (ls : List Nat) (ws : List (Reg × Word)) (x : Reg)
    (hws : ∀ w ∈ ws, RegOk w.1) (hx : RegOk x) :
    (ws.foldl (fun sg w => sg.writeFixed now lat ls w.1 w.2) sg).reg x = after sg ws x := by
  induction ws using List.reverseRecOn with
  | nil => rfl
  | append_singleton ws w ih =>
    rw [List.foldl_append, after_concat]
    simp only [List.foldl_cons, List.foldl_nil, SubGroup.writeFixed_reg]
    rw [SubGroup.setReg_reg _ _ _ _ (hws w (by simp)) hx, ih (fun w hw => hws w (by simp [hw]))]
    by_cases h : w.1 = x
    · simp [h]
    · simp [h]

/-- A fold of updates that keep some view of a sub-group keeps it. -/
theorem foldl_keeps {α β σ : Type} (f : σ → α → σ) (v : σ → β) (h : ∀ s a, v (f s a) = v s) (l : List α) (s : σ) : v (l.foldl f s) = v s := by
  induction l generalizing s with
  | nil => rfl
  | cons a l ih => rw [List.foldl_cons, ih, h]

theorem SubGroup.writeFixed_lanes (sg : SubGroup) (now lat : Nat) (ls : List Nat) (w : Reg) (y : Word) :
    (sg.writeFixed now lat ls w y).lanes = sg.lanes := by
  cases w <;> simp only [SubGroup.writeFixed, SubGroup.setReg, SubGroup.setSpecial] <;> first | rfl | (split <;> rfl)

theorem SubGroup.writeFixed_aflags (sg : SubGroup) (now lat : Nat) (ls : List Nat) (w : Reg) (y : Word) :
    (sg.writeFixed now lat ls w y).aflags = sg.aflags := by
  cases w <;> simp only [SubGroup.writeFixed, SubGroup.setReg, SubGroup.setSpecial] <;> first | rfl | (split <;> rfl)

theorem SubGroup.writeFixed_seed (sg : SubGroup) (now lat : Nat) (ls : List Nat) (w : Reg) (y : Word) (hw : RegOk w) :
    (sg.writeFixed now lat ls w y).seed = sg.seed := by
  cases w <;> simp only [SubGroup.writeFixed, SubGroup.setReg] <;> first | exact hw.elim | rfl | (split <;> rfl)

theorem Kept.refl (a : SubGroup) : Kept a a := ⟨rfl, rfl, rfl, rfl, rfl, rfl, rfl, rfl, rfl, rfl, rfl, rfl, rfl, rfl⟩

theorem SubGroup.writeFixed_kept (sg : SubGroup) (now lat : Nat) (ls : List Nat) (w : Reg) (y : Word) (hw : RegOk w) :
    Kept sg (sg.writeFixed now lat ls w y) := by
  cases w <;> simp only [SubGroup.writeFixed, SubGroup.setReg] <;> first | exact hw.elim | exact Kept.refl _ | (split <;> exact Kept.refl _)

theorem Kept.trans {a b c : SubGroup} (h : Kept a b) (h' : Kept b c) : Kept a c := by
  unfold Kept at *
  obtain ⟨h1, h2, h3, h4, h5, h6, h7, h8, h9, h10, h11, h12, h13, h14⟩ := h
  obtain ⟨k1, k2, k3, k4, k5, k6, k7, k8, k9, k10, k11, k12, k13, k14⟩ := h'
  exact ⟨k1.trans h1, k2.trans h2, k3.trans h3, k4.trans h4, k5.trans h5, k6.trans h6, k7.trans h7, k8.trans h8, k9.trans h9,
    k10.trans h10, k11.trans h11, k12.trans h12, k13.trans h13, k14.trans h14⟩

theorem SubGroup.foldl_writeFixed_kept (sg : SubGroup) (now lat : Nat) (ls : List Nat) (ws : List (Reg × Word)) (hws : ∀ w ∈ ws, RegOk w.1) :
    Kept sg (ws.foldl (fun sg w => sg.writeFixed now lat ls w.1 w.2) sg) := by
  induction ws generalizing sg with
  | nil => exact Kept.refl _
  | cons w ws ih => exact Kept.trans (SubGroup.writeFixed_kept sg now lat ls w.1 w.2 (hws w (by simp))) (ih _ (fun v hv => hws v (by simp [hv])))

theorem SubGroup.foldl_writeFixed_seed (sg : SubGroup) (now lat : Nat) (ls : List Nat) (ws : List (Reg × Word)) (hws : ∀ w ∈ ws, RegOk w.1) :
    (ws.foldl (fun sg w => sg.writeFixed now lat ls w.1 w.2) sg).seed = sg.seed := by
  induction ws generalizing sg with
  | nil => rfl
  | cons w ws ih => exact (ih _ (fun v hv => hws v (by simp [hv]))).trans (SubGroup.writeFixed_seed sg now lat ls w.1 w.2 (hws w (by simp)))

/-! ## Retirement -/

/-- The lanes of a sub-group whose issue set has completed a word. -/
def lanesAfter (r : Run) (pc : Nat → Word) : SMap Lane :=
  r.sg.lanes.map (fun e => (e.1, if r.set.getLsbD e.1 then laneAfter r (pc e.1) e.2 else e.2))

theorem quiet_lane {r : Run} {pc : Nat → Word} (hq : quiet r pc = true) {l : Nat} {x : Lane} (h : (l, x) ∈ r.sg.lanes) :
    if r.set.getLsbD l = true then x.step = false ∧ (x.meet = 0 ∨ pc l ≠ x.meet)
    else ¬ (x.st = .ready ∧ x.rel = none ∧ x.refuse = none ∧ x.meet ≠ 0 ∧ x.pc = x.meet) := by
  have := (List.all_eq_true.mp hq) (l, x) h
  by_cases hs : r.set.getLsbD l = true
  · simpa [hs] using this
  · simp only [hs, Bool.false_eq_true, if_false] at this ⊢
    rintro ⟨h1, h2, h3, h4, h5⟩
    simp [h1, h2, h3, h5] at this
    exact h4 this

/-- A QUIET RETIREMENT moves the lanes of the issue set and does nothing else, whatever the word wrote to its own sub-group
before it. -/
theorem State.retireAt_quiet {s : State} {r : Run} {u : SubGroup} {pc : Nat → Word} (tpc iw xw : Word)
    (hu : SMap.get? s.subs r.sid = some u) (hl : u.lanes = r.sg.lanes) (hn : (s.stn u.mast u.stn).cycles = r.now)
    (hq : quiet r pc = true) :
    s.retireAt r.sid r.set r.stall r.len pc tpc iw xw =
      { s with subs := SMap.put s.subs r.sid (({ u with lanes := lanesAfter r pc } : SubGroup).prune r.now) } := by
  have hstep : r.set &&& u.laneMask (fun l => l.step) = 0 := by
    rw [mask_and_eq_zero_iff]
    intro i h1 h2
    obtain ⟨_, x, hm, hx⟩ := (getLsbD_laneMask _ _ _).mp h2
    have := quiet_lane hq (hl ▸ hm)
    simp [h1, hx] at this
  have hadv : s.advance r.sid r.set r.stall r.len pc tpc iw xw =
      { s with subs := SMap.put s.subs r.sid (({ u with lanes := lanesAfter r pc } : SubGroup).prune r.now) } := by
    unfold State.advance
    simp only [hu, hn, hstep, if_true]
    rw [State.updSub_of_get? _ hu]
    have : u.lanes.map (fun e =>
        if r.set.getLsbD e.1 then
          (e.1, { e.2 with pc := pc e.1, st := .ready, dist := e.2.dist + max r.stall 1, readyAt := r.now + max r.stall 1,
                           since := r.now + max r.stall 1, starve := 0, yield := false, rel := none, refuse := none })
        else e) = lanesAfter r pc := by
      rw [hl]; unfold lanesAfter
      apply List.map_congr_left
      rintro ⟨l, x⟩ _
      by_cases h : r.set.getLsbD l = true <;> simp [h, laneAfter]
    rw [this]
  unfold State.retireAt
  rw [hadv]
  unfold State.holdReady State.holdReadyBy
  simp only [SMap.get?_put_same]
  have hnone : ((({ u with lanes := lanesAfter r pc } : SubGroup).prune r.now).lanes.filter (fun e =>
      decide (e.2.st = .ready) && e.2.rel.isNone && e.2.refuse.isNone && decide (e.2.meet ≠ 0) && decide (e.2.pc = e.2.meet))) = [] := by
    rw [List.filter_eq_nil_iff]
    rintro ⟨l, y⟩ hy hh
    simp only [SubGroup.prune, lanesAfter, List.mem_map, Prod.mk.injEq] at hy
    obtain ⟨⟨l', x⟩, hx, rfl, rfl⟩ := hy
    have hqq := quiet_lane hq hx
    simp only [Bool.and_eq_true, decide_eq_true_eq, Option.isNone_iff_eq_none] at hh
    obtain ⟨⟨⟨⟨h1, h2⟩, h3⟩, h4⟩, h5⟩ := hh
    by_cases hs : r.set.getLsbD l' = true
    · simp only [hs, if_true, laneAfter] at hqq h4 h5
      rcases hqq.2 with h | h
      · exact h4 h
      · exact h h5
    · simp only [hs, Bool.false_eq_true, if_false] at hqq h1 h2 h3 h4 h5
      exact hqq ⟨h1, h2, h3, h4, h5⟩
  rw [hnone]
  rfl

/-- Where every lane of the sub-group stands after the word. -/
theorem moved_lanesAfter (r : Run) (pc : Nat → Word) (u : SubGroup) (h : u.lanes = lanesAfter r pc) : Moved r u pc := by
  intro l
  rw [h]
  unfold lanesAfter
  rw [SMap.get?_map r.sg.lanes (fun l x => if r.set.getLsbD l then laneAfter r (pc l) x else x)]

theorem SubGroup.prune_reg (sg : SubGroup) (now : Nat) (x : Reg) : (sg.prune now).reg x = sg.reg x := by cases x <;> rfl

theorem SubGroup.prune_lanes (sg : SubGroup) (now : Nat) : (sg.prune now).lanes = sg.lanes := rfl

theorem SubGroup.withLanes_reg (sg : SubGroup) (ls : SMap Lane) (x : Reg) : ({ sg with lanes := ls } : SubGroup).reg x = sg.reg x := by
  cases x <;> rfl

theorem SubGroup.raise_reg (sg : SubGroup) (f : BitVec 8) (x : Reg) : (sg.raise f).reg x = sg.reg x := by cases x <;> rfl

theorem retire_eq {s : State} {r : Run} {u : SubGroup} (hu : SMap.get? s.subs r.sid = some u) (hl : u.lanes = r.sg.lanes) :
    r.done s = s.retireAt r.sid r.set r.stall r.len (nextPc r)
      (((SMap.get? r.sg.lanes (lowest r.set)).map (fun x => x.pc)).getD 0) r.iw r.xw := by
  unfold Run.done State.retire
  simp only [hu, hl]
  rfl

/-- A WORD OF FIXED LATENCY writes its results and its flags and moves its lanes; nothing else changes. -/
theorem Run.fixed_quiet {s : State} {h : Hd} {r : Run} (lat : Nat) (ws : List (Reg × Word)) (fl : BitVec 8)
    (hr : run s h = some r) (hq : quiet r (nextPc r) = true) (hws : ∀ w ∈ ws, RegOk w.1) :
    ∃ u, r.fixed s lat ws fl = { s with subs := SMap.put s.subs r.sid u } ∧ Moved r u (nextPc r) ∧ Kept r.sg u ∧
      RegsAfter r.sg u ws ∧ u.aflags = r.sg.aflags ||| (fl &&& 0x3F) ∧ u.seed = r.sg.seed := by
  let w := (ws.foldl (fun sg w => sg.writeFixed r.now lat (lanesOf r.set) w.1 w.2) r.sg)
  have hw1 : w.lanes = r.sg.lanes := foldl_keeps _ SubGroup.lanes (fun s a => SubGroup.writeFixed_lanes s _ _ _ _ _) ws r.sg
  have hw2 : w.aflags = r.sg.aflags := foldl_keeps _ SubGroup.aflags (fun s a => SubGroup.writeFixed_aflags s _ _ _ _ _) ws r.sg
  have hw3 : w.seed = r.sg.seed := SubGroup.foldl_writeFixed_seed _ _ _ _ _ hws
  have hw4 : Kept r.sg w := SubGroup.foldl_writeFixed_kept _ _ _ _ _ hws
  have hsub := run_sub hr
  have hnow := run_now hr
  refine ⟨({ (w.raise fl) with lanes := lanesAfter r (nextPc r) } : SubGroup).prune r.now, ?_, ?_, ?_, ?_, ?_, ?_⟩
  · unfold Run.fixed
    rw [State.updSub_of_get? _ hsub]
    have hu : SMap.get? ({ s with subs := SMap.put s.subs r.sid (w.raise fl) } : State).subs r.sid = some (w.raise fl) := SMap.get?_put_same _ _ _
    rw [retire_eq hu hw1, State.retireAt_quiet _ _ _ hu hw1 ?_ hq]
    · simp
    · have e1 : (w.raise fl).mast = r.sg.mast := hw4.2.1
      have e2 : (w.raise fl).stn = r.sg.stn := hw4.2.2.1
      rw [e1, e2, hnow]; rfl
  · exact moved_lanesAfter _ _ _ rfl
  · exact hw4
  · intro x hx
    rw [SubGroup.prune_reg, SubGroup.withLanes_reg, SubGroup.raise_reg]
    exact SubGroup.foldl_writeFixed_reg _ _ _ _ _ _ hws hx
  · show w.aflags ||| (fl &&& 0x3F) = _
    rw [hw2]
  · exact hw3

/-- A word with no result moves its lanes; nothing else changes. -/
theorem Run.done_quiet {s : State} {h : Hd} {r : Run} (hr : run s h = some r) (hq : quiet r (nextPc r) = true) :
    ∃ u, r.done s = { s with subs := SMap.put s.subs r.sid u } ∧ Moved r u (nextPc r) ∧ Kept r.sg u ∧ RegsAfter r.sg u [] ∧
      u.aflags = r.sg.aflags ∧ u.seed = r.sg.seed := by
  have hsub := run_sub hr
  refine ⟨({ r.sg with lanes := lanesAfter r (nextPc r) } : SubGroup).prune r.now, ?_, moved_lanesAfter _ _ _ rfl, Kept.refl _, ?_, rfl, rfl⟩
  · rw [retire_eq hsub rfl, State.retireAt_quiet _ _ _ hsub rfl (run_now hr).symm hq]
  · intro x _; rw [SubGroup.prune_reg, SubGroup.withLanes_reg]; rfl

/-- Raising flags moves nothing else. -/
theorem SubGroup.raise_kept (sg : SubGroup) (f : BitVec 8) : Kept sg (sg.raise f) := Kept.refl _

/-- A WORD OF VARIABLE LATENCY sends its results out, raises its flags and moves its lanes; nothing else changes. -/
theorem Run.later_from {s : State} {r : Run} {g : Group} (ws : List (Reg × Word)) (fl : BitVec 8)
    (hsub : SMap.get? s.subs r.sid = some r.sg) (hgrp : SMap.get? s.groups r.gid = some g)
    (hnow : r.now = (s.stn r.sg.mast r.sg.stn).cycles) (hq : quiet r (nextPc r) = true) :
    ∃ u, SentOut s { r.later s ws fl with issuing := none } r u ws ∧ Moved r u (nextPc r) ∧ Kept r.sg u ∧ RegsAfter r.sg u [] ∧
      u.aflags = r.sg.aflags ||| (fl &&& 0x3F) ∧ u.seed = r.sg.seed := by
  refine ⟨({ (r.sg.raise fl) with lanes := lanesAfter r (nextPc r) } : SubGroup).prune r.now, ?_, moved_lanesAfter _ _ _ rfl, Kept.refl _, ?_, rfl, rfl⟩
  · unfold SentOut Run.later
    rw [State.updSub_of_get? _ hsub, SMap.upd_some _ _ _ _ hgrp]
    by_cases hw : sentWrites ws = []
    · have hu : SMap.get? ({ s with subs := SMap.put s.subs r.sid (r.sg.raise fl) } : State).subs r.sid = some (r.sg.raise fl) := SMap.get?_put_same _ _ _
      simp only [hw, List.isEmpty_nil, if_true, OnlySub]
      rw [retire_eq hu rfl, State.retireAt_quiet _ _ _ hu rfl (by rw [hnow]; rfl) hq]
      simp
    · have hne : (sentWrites ws).isEmpty = false := by simpa using hw
      simp only [hne, hw, if_false]
      unfold State.outstand
      simp only [State.fresh]
      rw [State.updGroup_of_get? _ (show SMap.get? ({ s with subs := SMap.put s.subs r.sid (r.sg.raise fl), nextId := s.nextId + 1 } : State).groups r.gid = some g from hgrp)]
      rw [if_neg (by simp)]
      have hu : SMap.get? ({ s with subs := SMap.put s.subs r.sid (r.sg.raise fl), groups := SMap.put s.groups r.gid (withOutst g s.nextId r.low r.set ((sentWrites ws).map (fun w => (w.1, some w.2)))), nextId := s.nextId + 1 } : State).subs r.sid = some (r.sg.raise fl) := SMap.get?_put_same _ _ _
      have := State.retireAt_quiet (((SMap.get? r.sg.lanes (lowest r.set)).map (fun x => x.pc)).getD 0) r.iw r.xw hu rfl (by rw [hnow]; rfl) hq
      unfold withOutst at this hu
      rw [retire_eq hu rfl, this]
      simp [withOutst]
  · intro x _; rw [SubGroup.prune_reg, SubGroup.withLanes_reg, SubGroup.raise_reg]; rfl

/-- The same of a run that issues. -/
theorem Run.later_quiet {s : State} {h : Hd} {r : Run} (ws : List (Reg × Word)) (fl : BitVec 8)
    (hr : run s h = some r) (hq : quiet r (nextPc r) = true) :
    ∃ u, SentOut s { r.later s ws fl with issuing := none } r u ws ∧ Moved r u (nextPc r) ∧ Kept r.sg u ∧ RegsAfter r.sg u [] ∧
      u.aflags = r.sg.aflags ||| (fl &&& 0x3F) ∧ u.seed = r.sg.seed :=
  Run.later_from ws fl (run_sub hr) (run_group hr) (run_now hr) hq

/-! ## Operands that passed the checks -/

/-- What a passed judgement says of an operand position. -/
theorem judge_none_pos {g : Sig} {sg : SubGroup} {gr : Group} (h : g.judge sg gr = none) :
    ∀ p ∈ g.pos, p.refused gr = false ∧ p.misaligned = false ∧ p.overBudget gr.wins = false ∧ opReserved p.o = false := by
  unfold Sig.judge at h
  split at h
  · rename_i hp; rw [h] at hp; simp at hp
  split at h
  · simp at h
  rename_i h6
  split at h
  · simp at h
  split at h
  · simp at h
  split at h
  · simp at h
  split at h
  · simp at h
  split at h
  · simp at h
  rename_i h11
  split at h
  · simp at h
  rename_i h12
  split at h
  · simp at h
  rename_i h13
  simp only [Bool.or_eq_true, List.any_eq_true, not_or, not_exists, not_and, Bool.not_eq_true] at h6 h11 h12 h13
  intro p hp
  exact ⟨h11.1.1 p hp, h12.1 p hp, h13 p hp, h6.2 p hp⟩

/-- The writes to a destination that passed the checks name registers of the machine. -/
theorem dstWrites_ok {o : Operand} {a : Acc} {wide : Bool} {g : Group} (l x : Nat)
    (h1 : ((Pos.dst o a).wide wide).refused g = false) (h2 : ((Pos.dst o a).wide wide).misaligned = false) :
    ∀ w ∈ dstWrites o wide l x, RegOk w.1 := by
  cases o with
  | v n =>
    have hn := n.isLt
    cases wide with
    | false => simp [dstWrites, RegOk]; omega
    | true =>
      simp only [Pos.wide, Pos.dst, Pos.refused, Pos.misaligned, if_true, Bool.or_eq_false_iff, Bool.and_eq_false_iff,
        decide_eq_false_iff_not, not_not] at h1 h2
      simp only [dstWrites, if_true, List.mem_cons, List.not_mem_nil, or_false, forall_eq_or_imp, forall_eq, RegOk]
      constructor
      · omega
      · rcases h1.2 with h | h
        · omega
        · exact absurd h2 h
  | s n => have := n.isLt; simp [dstWrites, RegOk]; omega
  | p n => have := n.isLt; simp [dstWrites, RegOk]; omega
  | k n => have := n.isLt; simp [dstWrites, RegOk]; omega
  | d n => have := n.isLt; simp [dstWrites, RegOk]; omega
  | q n => simp [dstWrites]
  | zero => simp [dstWrites]
  | rsv n => simp [dstWrites]

end Sys2Proof.Machine
end

