-- ==== Sys2Proof/Laws/Exec.lean ====
section
/-! SUPPORT. The meaning of a program word as the issue of that word: its head, its legality and its effect. -/

set_option Elab.async false

namespace Sys2Proof.Machine

open Sys2Proof Sys2Proof.Safety

/-- The meaning of a computing word. -/
theorem exec_alu {s : State} {i : Instr} {h : Hd} {sh : Shape} {f : List Nat → Nat × Flags} (ha : aluForm i = some (h, sh, f)) :
    exec i s = aluWord s h sh f ∧ form s i = some (h, sh.fullSig) := by
  cases i <;> simp only [aluForm, Option.some.injEq, Prod.mk.injEq, reduceCtorEq] at ha <;> obtain ⟨rfl, rfl, rfl⟩ := ha <;>
    exact ⟨rfl, rfl⟩

theorem exec_cvt_form (w : FWord) (s : State) {h : Hd} {g : Sig} (hf : form s (.cvt w) = some (h, g)) :
    ∃ info body, exec (.cvt w) s = issueWord s h.gneg h.guard h.stall h.len g info body := by
  simp only [form, Option.some.injEq, Prod.mk.injEq] at hf
  obtain ⟨rfl, rfl⟩ := hf
  rw [show exec (.cvt w) s = execCvt w s from rfl]
  unfold execCvt convWord issueF
  exact ⟨_, _, rfl⟩

theorem exec_cvtf_form (w : FWord) (s : State) {h : Hd} {g : Sig} (hf : form s (.cvtf w) = some (h, g)) :
    ∃ info body, exec (.cvtf w) s = issueWord s h.gneg h.guard h.stall h.len g info body := by
  simp only [form, Option.some.injEq, Prod.mk.injEq] at hf
  obtain ⟨rfl, rfl⟩ := hf
  rw [show exec (.cvtf w) s = execCvtf w s from rfl]
  unfold execCvtf convWord issueF
  exact ⟨_, _, rfl⟩

theorem exec_pack_form (w : FWord) (s : State) {h : Hd} {g : Sig} (hf : form s (.pack w) = some (h, g)) :
    ∃ info body, exec (.pack w) s = issueWord s h.gneg h.guard h.stall h.len g info body := by
  simp only [form, Option.some.injEq, Prod.mk.injEq] at hf
  obtain ⟨rfl, rfl⟩ := hf
  rw [show exec (.pack w) s = execPack w s from rfl]
  unfold execPack convWord issueF
  exact ⟨_, _, rfl⟩

theorem exec_unpack_form (w : FWord) (s : State) {h : Hd} {g : Sig} (hf : form s (.unpack w) = some (h, g)) :
    ∃ info body, exec (.unpack w) s = issueWord s h.gneg h.guard h.stall h.len g info body := by
  simp only [form, Option.some.injEq, Prod.mk.injEq] at hf
  obtain ⟨rfl, rfl⟩ := hf
  rw [show exec (.unpack w) s = execUnpack w s from rfl]
  unfold execUnpack convWord issueF
  exact ⟨_, _, rfl⟩

theorem exec_qscale_form (w : FWord) (s : State) {h : Hd} {g : Sig} (hf : form s (.qscale w) = some (h, g)) :
    ∃ info body, exec (.qscale w) s = issueWord s h.gneg h.guard h.stall h.len g info body := by
  simp only [form, Option.some.injEq, Prod.mk.injEq] at hf
  obtain ⟨rfl, rfl⟩ := hf
  rw [show exec (.qscale w) s = execQscale w s from rfl]
  unfold execQscale convWord issueF
  exact ⟨_, _, rfl⟩

theorem exec_dqscale_form (w : FWord) (s : State) {h : Hd} {g : Sig} (hf : form s (.dqscale w) = some (h, g)) :
    ∃ info body, exec (.dqscale w) s = issueWord s h.gneg h.guard h.stall h.len g info body := by
  simp only [form, Option.some.injEq, Prod.mk.injEq] at hf
  obtain ⟨rfl, rfl⟩ := hf
  rw [show exec (.dqscale w) s = execDqscale w s from rfl]
  unfold execDqscale convWord issueF
  exact ⟨_, _, rfl⟩

theorem exec_xlane_form (w : FWord) (s : State) {h : Hd} {g : Sig} (hf : form s (.xlane w) = some (h, g)) :
    ∃ info body, exec (.xlane w) s = issueWord s h.gneg h.guard h.stall h.len g info body := by
  simp only [form, Option.some.injEq, Prod.mk.injEq] at hf
  obtain ⟨rfl, rfl⟩ := hf
  rw [show exec (.xlane w) s = execXlane w s from rfl]
  unfold execXlane issueF
  exact ⟨_, _, rfl⟩

theorem exec_vote_form (w : FWord) (s : State) {h : Hd} {g : Sig} (hf : form s (.vote w) = some (h, g)) :
    ∃ info body, exec (.vote w) s = issueWord s h.gneg h.guard h.stall h.len g info body := by
  simp only [form, Option.some.injEq, Prod.mk.injEq] at hf
  obtain ⟨rfl, rfl⟩ := hf
  rw [show exec (.vote w) s = execVote w s from rfl]
  unfold execVote issueF
  exact ⟨_, _, rfl⟩

theorem exec_ballot_form (w : FWord) (s : State) {h : Hd} {g : Sig} (hf : form s (.ballot w) = some (h, g)) :
    ∃ info body, exec (.ballot w) s = issueWord s h.gneg h.guard h.stall h.len g info body := by
  simp only [form, Option.some.injEq, Prod.mk.injEq] at hf
  obtain ⟨rfl, rfl⟩ := hf
  rw [show exec (.ballot w) s = execBallot w s from rfl]
  unfold execBallot issueF
  exact ⟨_, _, rfl⟩

theorem exec_scan_form (w : FWord) (s : State) {h : Hd} {g : Sig} (hf : form s (.scan w) = some (h, g)) :
    ∃ info body, exec (.scan w) s = issueWord s h.gneg h.guard h.stall h.len g info body := by
  simp only [form, Option.some.injEq, Prod.mk.injEq] at hf
  obtain ⟨rfl, rfl⟩ := hf
  rw [show exec (.scan w) s = execScan w s from rfl]
  unfold execScan issueF
  exact ⟨_, _, rfl⟩

theorem exec_segscan_form (w : FWord) (s : State) {h : Hd} {g : Sig} (hf : form s (.segscan w) = some (h, g)) :
    ∃ info body, exec (.segscan w) s = issueWord s h.gneg h.guard h.stall h.len g info body := by
  simp only [form, Option.some.injEq, Prod.mk.injEq] at hf
  obtain ⟨rfl, rfl⟩ := hf
  rw [show exec (.segscan w) s = execSegscan w s from rfl]
  unfold execSegscan issueF
  exact ⟨_, _, rfl⟩

theorem exec_redux_form (w : FWord) (s : State) {h : Hd} {g : Sig} (hf : form s (.redux w) = some (h, g)) :
    ∃ info body, exec (.redux w) s = issueWord s h.gneg h.guard h.stall h.len g info body := by
  simp only [form, Option.some.injEq, Prod.mk.injEq] at hf
  obtain ⟨rfl, rfl⟩ := hf
  rw [show exec (.redux w) s = execRedux w s from rfl]
  unfold execRedux issueF
  exact ⟨_, _, rfl⟩

theorem exec_matchM_form (w : FWord) (s : State) {h : Hd} {g : Sig} (hf : form s (.matchM w) = some (h, g)) :
    ∃ info body, exec (.matchM w) s = issueWord s h.gneg h.guard h.stall h.len g info body := by
  simp only [form, Option.some.injEq, Prod.mk.injEq] at hf
  obtain ⟨rfl, rfl⟩ := hf
  rw [show exec (.matchM w) s = execMatchM w s from rfl]
  unfold execMatchM issueF
  exact ⟨_, _, rfl⟩

theorem exec_elect_form (w : FWord) (s : State) {h : Hd} {g : Sig} (hf : form s (.elect w) = some (h, g)) :
    ∃ info body, exec (.elect w) s = issueWord s h.gneg h.guard h.stall h.len g info body := by
  simp only [form, Option.some.injEq, Prod.mk.injEq] at hf
  obtain ⟨rfl, rfl⟩ := hf
  rw [show exec (.elect w) s = execElect w s from rfl]
  unfold execElect issueF
  exact ⟨_, _, rfl⟩

theorem exec_active_form (w : FWord) (s : State) {h : Hd} {g : Sig} (hf : form s (.active w) = some (h, g)) :
    ∃ info body, exec (.active w) s = issueWord s h.gneg h.guard h.stall h.len g info body := by
  simp only [form, Option.some.injEq, Prod.mk.injEq] at hf
  obtain ⟨rfl, rfl⟩ := hf
  rw [show exec (.active w) s = execActive w s from rfl]
  unfold execActive issueF
  exact ⟨_, _, rfl⟩

theorem exec_bra_form (w : IWord) (s : State) {h : Hd} {g : Sig} (hf : form s (.bra w) = some (h, g)) :
    ∃ info body, exec (.bra w) s = issueWord s h.gneg h.guard h.stall h.len g info body := by
  simp only [form, Option.some.injEq, Prod.mk.injEq] at hf
  obtain ⟨rfl, rfl⟩ := hf
  rw [show exec (.bra w) s = execBra w s from rfl]
  unfold execBra issueI
  exact ⟨_, _, rfl⟩

theorem exec_brx_form (w : FWord) (s : State) {h : Hd} {g : Sig} (hf : form s (.brx w) = some (h, g)) :
    ∃ info body, exec (.brx w) s = issueWord s h.gneg h.guard h.stall h.len g info body := by
  simp only [form, Option.some.injEq, Prod.mk.injEq] at hf
  obtain ⟨rfl, rfl⟩ := hf
  rw [show exec (.brx w) s = execBrx w s from rfl]
  unfold execBrx issueF
  exact ⟨_, _, rfl⟩

theorem exec_call_form (w : IWord) (s : State) {h : Hd} {g : Sig} (hf : form s (.call w) = some (h, g)) :
    ∃ info body, exec (.call w) s = issueWord s h.gneg h.guard h.stall h.len g info body := by
  simp only [form, Option.some.injEq, Prod.mk.injEq] at hf
  obtain ⟨rfl, rfl⟩ := hf
  rw [show exec (.call w) s = execCall w s from rfl]
  unfold execCall issueI
  exact ⟨_, _, rfl⟩

theorem exec_calli_form (w : FWord) (s : State) {h : Hd} {g : Sig} (hf : form s (.calli w) = some (h, g)) :
    ∃ info body, exec (.calli w) s = issueWord s h.gneg h.guard h.stall h.len g info body := by
  simp only [form, Option.some.injEq, Prod.mk.injEq] at hf
  obtain ⟨rfl, rfl⟩ := hf
  rw [show exec (.calli w) s = execCalli w s from rfl]
  unfold execCalli issueF
  exact ⟨_, _, rfl⟩

theorem exec_ret_form (w : FWord) (s : State) {h : Hd} {g : Sig} (hf : form s (.ret w) = some (h, g)) :
    ∃ info body, exec (.ret w) s = issueWord s h.gneg h.guard h.stall h.len g info body := by
  simp only [form, Option.some.injEq, Prod.mk.injEq] at hf
  obtain ⟨rfl, rfl⟩ := hf
  rw [show exec (.ret w) s = execRet w s from rfl]
  unfold execRet issueF
  exact ⟨_, _, rfl⟩

theorem exec_tie_form (w : FWord) (x : Option XWord) (s : State) {h : Hd} {g : Sig} (hf : form s (.tie w x) = some (h, g)) :
    ∃ info body, exec (.tie w x) s = issueWord s h.gneg h.guard h.stall h.len g info body := by
  cases x with
  | none => simp [form] at hf
  | some xw =>
    simp only [form, Option.map_some, Option.some.injEq, Prod.mk.injEq] at hf
    obtain ⟨rfl, rfl⟩ := hf
    rw [show exec (.tie w (some xw)) s = execTie w (some xw) s from rfl]
    unfold execTie issueF
    exact ⟨_, _, rfl⟩

theorem exec_join_form (w : FWord) (s : State) {h : Hd} {g : Sig} (hf : form s (.join w) = some (h, g)) :
    ∃ info body, exec (.join w) s = issueWord s h.gneg h.guard h.stall h.len g info body := by
  simp only [form, Option.some.injEq, Prod.mk.injEq] at hf
  obtain ⟨rfl, rfl⟩ := hf
  rw [show exec (.join w) s = execJoin w s from rfl]
  unfold execJoin issueF
  exact ⟨_, _, rfl⟩

theorem exec_exit_form (w : FWord) (s : State) {h : Hd} {g : Sig} (hf : form s (.exit w) = some (h, g)) :
    ∃ info body, exec (.exit w) s = issueWord s h.gneg h.guard h.stall h.len g info body := by
  simp only [form, Option.some.injEq, Prod.mk.injEq] at hf
  obtain ⟨rfl, rfl⟩ := hf
  rw [show exec (.exit w) s = execExit w s from rfl]
  unfold execExit issueF
  exact ⟨_, _, rfl⟩

theorem exec_yield_form (w : FWord) (s : State) {h : Hd} {g : Sig} (hf : form s (.yield w) = some (h, g)) :
    ∃ info body, exec (.yield w) s = issueWord s h.gneg h.guard h.stall h.len g info body := by
  simp only [form, Option.some.injEq, Prod.mk.injEq] at hf
  obtain ⟨rfl, rfl⟩ := hf
  rw [show exec (.yield w) s = execYield w s from rfl]
  unfold execYield issueF
  exact ⟨_, _, rfl⟩

theorem exec_loopq_form (w : FWord) (x : Option XWord) (s : State) {h : Hd} {g : Sig} (hf : form s (.loopq w x) = some (h, g)) :
    ∃ info body, exec (.loopq w x) s = issueWord s h.gneg h.guard h.stall h.len g info body := by
  cases x with
  | none => simp [form] at hf
  | some xw =>
    simp only [form, Option.map_some, Option.some.injEq, Prod.mk.injEq] at hf
    obtain ⟨rfl, rfl⟩ := hf
    rw [show exec (.loopq w (some xw)) s = execLoopq w (some xw) s from rfl]
    unfold execLoopq issueF
    exact ⟨_, _, rfl⟩

theorem exec_nop_form (w : FWord) (s : State) {h : Hd} {g : Sig} (hf : form s (.nop w) = some (h, g)) :
    ∃ info body, exec (.nop w) s = issueWord s h.gneg h.guard h.stall h.len g info body := by
  simp only [form, Option.some.injEq, Prod.mk.injEq] at hf
  obtain ⟨rfl, rfl⟩ := hf
  rw [show exec (.nop w) s = execNop w s from rfl]
  unfold execNop issueF
  exact ⟨_, _, rfl⟩

theorem exec_reservedEncoding_form (w : Word) (x : Option XWord) (s : State) {h : Hd} {g : Sig} (hf : form s (.reservedEncoding w x) = some (h, g)) :
    ∃ info body, exec (.reservedEncoding w x) s = issueWord s h.gneg h.guard h.stall h.len g info body := by
  simp only [form] at hf
  split at hf
  · simp at hf
  · rename_i hx
    simp only [Option.some.injEq, Prod.mk.injEq] at hf
    obtain ⟨rfl, rfl⟩ := hf
    rw [show exec (.reservedEncoding w x) s = execReservedEncoding w x s from rfl]
    unfold execReservedEncoding
    rw [if_neg hx]
    exact ⟨_, _, rfl⟩

theorem exec_ldg_form (w : FWord) (x : Option XWord) (s : State) {h : Hd} {g : Sig} (hf : form s (.ldg w x) = some (h, g)) :
    ∃ info body, exec (.ldg w x) s = issueWord s h.gneg h.guard h.stall h.len g info body := by
  simp only [form] at hf
  split at hf
  · simp at hf
  · rename_i hx
    simp only [Option.some.injEq, Prod.mk.injEq] at hf
    obtain ⟨rfl, rfl⟩ := hf
    rw [show exec (.ldg w x) s = execLdg w x s from rfl]
    unfold execLdg loadWord issueMem
    try simp only []
    rw [if_neg (by simpa using hx)]
    exact ⟨_, _, rfl⟩

theorem exec_stg_form (w : FWord) (x : Option XWord) (s : State) {h : Hd} {g : Sig} (hf : form s (.stg w x) = some (h, g)) :
    ∃ info body, exec (.stg w x) s = issueWord s h.gneg h.guard h.stall h.len g info body := by
  simp only [form] at hf
  split at hf
  · simp at hf
  · rename_i hx
    simp only [Option.some.injEq, Prod.mk.injEq] at hf
    obtain ⟨rfl, rfl⟩ := hf
    rw [show exec (.stg w x) s = execStg w x s from rfl]
    unfold execStg storeWord issueMem
    try simp only []
    rw [if_neg (by simpa using hx)]
    exact ⟨_, _, rfl⟩

theorem exec_ldl_form (w : FWord) (x : Option XWord) (s : State) {h : Hd} {g : Sig} (hf : form s (.ldl w x) = some (h, g)) :
    ∃ info body, exec (.ldl w x) s = issueWord s h.gneg h.guard h.stall h.len g info body := by
  simp only [form] at hf
  split at hf
  · simp at hf
  · rename_i hx
    simp only [Option.some.injEq, Prod.mk.injEq] at hf
    obtain ⟨rfl, rfl⟩ := hf
    rw [show exec (.ldl w x) s = execLdl w x s from rfl]
    unfold execLdl loadWord issueMem
    try simp only []
    rw [if_neg (by simpa using hx)]
    exact ⟨_, _, rfl⟩

theorem exec_stl_form (w : FWord) (x : Option XWord) (s : State) {h : Hd} {g : Sig} (hf : form s (.stl w x) = some (h, g)) :
    ∃ info body, exec (.stl w x) s = issueWord s h.gneg h.guard h.stall h.len g info body := by
  simp only [form] at hf
  split at hf
  · simp at hf
  · rename_i hx
    simp only [Option.some.injEq, Prod.mk.injEq] at hf
    obtain ⟨rfl, rfl⟩ := hf
    rw [show exec (.stl w x) s = execStl w x s from rfl]
    unfold execStl storeWord issueMem
    try simp only []
    rw [if_neg (by simpa using hx)]
    exact ⟨_, _, rfl⟩

theorem exec_lds_form (w : FWord) (x : Option XWord) (s : State) {h : Hd} {g : Sig} (hf : form s (.lds w x) = some (h, g)) :
    ∃ info body, exec (.lds w x) s = issueWord s h.gneg h.guard h.stall h.len g info body := by
  simp only [form] at hf
  split at hf
  · simp at hf
  · rename_i hx
    simp only [Option.some.injEq, Prod.mk.injEq] at hf
    obtain ⟨rfl, rfl⟩ := hf
    rw [show exec (.lds w x) s = execLds w x s from rfl]
    unfold execLds loadWord issueMem
    try simp only []
    rw [if_neg (by simpa using hx)]
    exact ⟨_, _, rfl⟩

theorem exec_sts_form (w : FWord) (x : Option XWord) (s : State) {h : Hd} {g : Sig} (hf : form s (.sts w x) = some (h, g)) :
    ∃ info body, exec (.sts w x) s = issueWord s h.gneg h.guard h.stall h.len g info body := by
  simp only [form] at hf
  split at hf
  · simp at hf
  · rename_i hx
    simp only [Option.some.injEq, Prod.mk.injEq] at hf
    obtain ⟨rfl, rfl⟩ := hf
    rw [show exec (.sts w x) s = execSts w x s from rfl]
    unfold execSts storeWord issueMem
    try simp only []
    rw [if_neg (by simpa using hx)]
    exact ⟨_, _, rfl⟩

theorem exec_ldw_form (w : FWord) (x : Option XWord) (s : State) {h : Hd} {g : Sig} (hf : form s (.ldw w x) = some (h, g)) :
    ∃ info body, exec (.ldw w x) s = issueWord s h.gneg h.guard h.stall h.len g info body := by
  simp only [form] at hf
  split at hf
  · simp at hf
  · rename_i hx
    simp only [Option.some.injEq, Prod.mk.injEq] at hf
    obtain ⟨rfl, rfl⟩ := hf
    rw [show exec (.ldw w x) s = execLdw w x s from rfl]
    unfold execLdw issueMem
    try simp only []
    rw [if_neg (by simpa using hx)]
    exact ⟨_, _, rfl⟩

theorem exec_post_form (w : FWord) (x : Option XWord) (s : State) {h : Hd} {g : Sig} (hf : form s (.post w x) = some (h, g)) :
    ∃ info body, exec (.post w x) s = issueWord s h.gneg h.guard h.stall h.len g info body := by
  simp only [form] at hf
  split at hf
  · simp at hf
  · rename_i hx
    simp only [Option.some.injEq, Prod.mk.injEq] at hf
    obtain ⟨rfl, rfl⟩ := hf
    rw [show exec (.post w x) s = execPost w x s from rfl]
    unfold execPost issueMem
    try simp only []
    rw [if_neg (by simpa using hx)]
    exact ⟨_, _, rfl⟩

theorem exec_atom_form (w : FWord) (x : Option XWord) (s : State) {h : Hd} {g : Sig} (hf : form s (.atom w x) = some (h, g)) :
    ∃ info body, exec (.atom w x) s = issueWord s h.gneg h.guard h.stall h.len g info body := by
  simp only [form] at hf
  split at hf
  · simp at hf
  · rename_i hx
    simp only [Option.some.injEq, Prod.mk.injEq] at hf
    obtain ⟨rfl, rfl⟩ := hf
    rw [show exec (.atom w x) s = execAtom w x s from rfl]
    unfold execAtom issueMem
    try simp only []
    rw [if_neg (by simpa using hx)]
    exact ⟨_, _, rfl⟩

theorem exec_atomcas_form (w : FWord) (x : Option XWord) (s : State) {h : Hd} {g : Sig} (hf : form s (.atomcas w x) = some (h, g)) :
    ∃ info body, exec (.atomcas w x) s = issueWord s h.gneg h.guard h.stall h.len g info body := by
  simp only [form] at hf
  split at hf
  · simp at hf
  · rename_i hx
    simp only [Option.some.injEq, Prod.mk.injEq] at hf
    obtain ⟨rfl, rfl⟩ := hf
    rw [show exec (.atomcas w x) s = execAtomcas w x s from rfl]
    unfold execAtomcas issueMem
    try simp only []
    rw [if_neg (by simpa using hx)]
    exact ⟨_, _, rfl⟩

theorem exec_red_form (w : FWord) (x : Option XWord) (s : State) {h : Hd} {g : Sig} (hf : form s (.red w x) = some (h, g)) :
    ∃ info body, exec (.red w x) s = issueWord s h.gneg h.guard h.stall h.len g info body := by
  simp only [form] at hf
  split at hf
  · simp at hf
  · rename_i hx
    simp only [Option.some.injEq, Prod.mk.injEq] at hf
    obtain ⟨rfl, rfl⟩ := hf
    rw [show exec (.red w x) s = execRed w x s from rfl]
    unfold execRed issueMem
    try simp only []
    rw [if_neg (by simpa using hx)]
    exact ⟨_, _, rfl⟩

theorem exec_home_form (w : FWord) (x : Option XWord) (s : State) {h : Hd} {g : Sig} (hf : form s (.home w x) = some (h, g)) :
    ∃ info body, exec (.home w x) s = issueWord s h.gneg h.guard h.stall h.len g info body := by
  simp only [form] at hf
  split at hf
  · simp at hf
  · rename_i hx
    simp only [Option.some.injEq, Prod.mk.injEq] at hf
    obtain ⟨rfl, rfl⟩ := hf
    rw [show exec (.home w x) s = execHome w x s from rfl]
    unfold execHome issueMem
    try simp only []
    rw [if_neg (by simpa using hx)]
    exact ⟨_, _, rfl⟩

theorem exec_migrG_form (w : FWord) (x : Option XWord) (s : State) {h : Hd} {g : Sig} (hf : form s (.migrG w x) = some (h, g)) :
    ∃ info body, exec (.migrG w x) s = issueWord s h.gneg h.guard h.stall h.len g info body := by
  simp only [form] at hf
  split at hf
  · simp at hf
  · rename_i hx
    simp only [Option.some.injEq, Prod.mk.injEq] at hf
    obtain ⟨rfl, rfl⟩ := hf
    rw [show exec (.migrG w x) s = execMigrG w x s from rfl]
    unfold execMigrG issueMem
    try simp only []
    rw [if_neg (by simpa using hx)]
    exact ⟨_, _, rfl⟩

theorem exec_migrL_form (w : FWord) (x : Option XWord) (s : State) {h : Hd} {g : Sig} (hf : form s (.migrL w x) = some (h, g)) :
    ∃ info body, exec (.migrL w x) s = issueWord s h.gneg h.guard h.stall h.len g info body := by
  simp only [form] at hf
  split at hf
  · simp at hf
  · rename_i hx
    simp only [Option.some.injEq, Prod.mk.injEq] at hf
    obtain ⟨rfl, rfl⟩ := hf
    rw [show exec (.migrL w x) s = execMigrL w x s from rfl]
    unfold execMigrL issueMem
    try simp only []
    rw [if_neg (by simpa using hx)]
    exact ⟨_, _, rfl⟩

theorem exec_qcfg_form (w : FWord) (s : State) {h : Hd} {g : Sig} (hf : form s (.qcfg w) = some (h, g)) :
    ∃ info body, exec (.qcfg w) s = issueWord s h.gneg h.guard h.stall h.len g info body := by
  simp only [form, Option.some.injEq, Prod.mk.injEq] at hf
  obtain ⟨rfl, rfl⟩ := hf
  rw [show exec (.qcfg w) s = execQcfg w s from rfl]
  unfold execQcfg issueF
  exact ⟨_, _, rfl⟩

theorem exec_qidx_form (w : FWord) (s : State) {h : Hd} {g : Sig} (hf : form s (.qidx w) = some (h, g)) :
    ∃ info body, exec (.qidx w) s = issueWord s h.gneg h.guard h.stall h.len g info body := by
  simp only [form, Option.some.injEq, Prod.mk.injEq] at hf
  obtain ⟨rfl, rfl⟩ := hf
  rw [show exec (.qidx w) s = execQidx w s from rfl]
  unfold execQidx issueF
  exact ⟨_, _, rfl⟩

theorem exec_qld_form (w : FWord) (s : State) {h : Hd} {g : Sig} (hf : form s (.qld w) = some (h, g)) :
    ∃ info body, exec (.qld w) s = issueWord s h.gneg h.guard h.stall h.len g info body := by
  simp only [form, Option.some.injEq, Prod.mk.injEq] at hf
  obtain ⟨rfl, rfl⟩ := hf
  rw [show exec (.qld w) s = execQld w s from rfl]
  unfold execQld issueF
  exact ⟨_, _, rfl⟩

theorem exec_qclose_form (w : FWord) (s : State) {h : Hd} {g : Sig} (hf : form s (.qclose w) = some (h, g)) :
    ∃ info body, exec (.qclose w) s = issueWord s h.gneg h.guard h.stall h.len g info body := by
  simp only [form, Option.some.injEq, Prod.mk.injEq] at hf
  obtain ⟨rfl, rfl⟩ := hf
  rw [show exec (.qclose w) s = execQclose w s from rfl]
  unfold execQclose issueF
  exact ⟨_, _, rfl⟩

theorem exec_fence_form (w : FWord) (s : State) {h : Hd} {g : Sig} (hf : form s (.fence w) = some (h, g)) :
    ∃ info body, exec (.fence w) s = issueWord s h.gneg h.guard h.stall h.len g info body := by
  simp only [form, Option.some.injEq, Prod.mk.injEq] at hf
  obtain ⟨rfl, rfl⟩ := hf
  rw [show exec (.fence w) s = execFence w s from rfl]
  unfold execFence fenceWord issueF
  exact ⟨_, _, rfl⟩

theorem exec_fenceX_form (w : FWord) (s : State) {h : Hd} {g : Sig} (hf : form s (.fenceX w) = some (h, g)) :
    ∃ info body, exec (.fenceX w) s = issueWord s h.gneg h.guard h.stall h.len g info body := by
  simp only [form, Option.some.injEq, Prod.mk.injEq] at hf
  obtain ⟨rfl, rfl⟩ := hf
  rw [show exec (.fenceX w) s = execFenceX w s from rfl]
  unfold execFenceX fenceWord issueF
  exact ⟨_, _, rfl⟩

theorem exec_mma_form (w : FWord) (s : State) {h : Hd} {g : Sig} (hf : form s (.mma w) = some (h, g)) :
    ∃ info body, exec (.mma w) s = issueWord s h.gneg h.guard h.stall h.len g info body := by
  simp only [form, Option.some.injEq, Prod.mk.injEq] at hf
  obtain ⟨rfl, rfl⟩ := hf
  rw [show exec (.mma w) s = execMma w s from rfl]
  unfold execMma issueF
  exact ⟨_, _, rfl⟩

theorem exec_mmaBs_form (w : FWord) (x : Option XWord) (s : State) {h : Hd} {g : Sig} (hf : form s (.mmaBs w x) = some (h, g)) :
    ∃ info body, exec (.mmaBs w x) s = issueWord s h.gneg h.guard h.stall h.len g info body := by
  cases x with
  | none => simp [form] at hf
  | some xw =>
    simp only [form, Option.map_some, Option.some.injEq, Prod.mk.injEq] at hf
    obtain ⟨rfl, rfl⟩ := hf
    rw [show exec (.mmaBs w (some xw)) s = execMmaBs w (some xw) s from rfl]
    unfold execMmaBs issueF
    exact ⟨_, _, rfl⟩

theorem exec_mmaSp_form (w : FWord) (x : Option XWord) (s : State) {h : Hd} {g : Sig} (hf : form s (.mmaSp w x) = some (h, g)) :
    ∃ info body, exec (.mmaSp w x) s = issueWord s h.gneg h.guard h.stall h.len g info body := by
  cases x with
  | none => simp [form] at hf
  | some xw =>
    simp only [form, Option.map_some, Option.some.injEq, Prod.mk.injEq] at hf
    obtain ⟨rfl, rfl⟩ := hf
    rw [show exec (.mmaSp w (some xw)) s = execMmaSp w (some xw) s from rfl]
    unfold execMmaSp issueF
    exact ⟨_, _, rfl⟩

theorem exec_bmc_form (w : FWord) (s : State) {h : Hd} {g : Sig} (hf : form s (.bmc w) = some (h, g)) :
    ∃ info body, exec (.bmc w) s = issueWord s h.gneg h.guard h.stall h.len g info body := by
  simp only [form, Option.some.injEq, Prod.mk.injEq] at hf
  obtain ⟨rfl, rfl⟩ := hf
  rw [show exec (.bmc w) s = execBmc w s from rfl]
  unfold execBmc issueF
  exact ⟨_, _, rfl⟩

theorem exec_bmx_form (w : FWord) (s : State) {h : Hd} {g : Sig} (hf : form s (.bmx w) = some (h, g)) :
    ∃ info body, exec (.bmx w) s = issueWord s h.gneg h.guard h.stall h.len g info body := by
  simp only [form, Option.some.injEq, Prod.mk.injEq] at hf
  obtain ⟨rfl, rfl⟩ := hf
  rw [show exec (.bmx w) s = execBmx w s from rfl]
  unfold execBmx issueF
  exact ⟨_, _, rfl⟩

theorem exec_kset_form (w : FWord) (s : State) {h : Hd} {g : Sig} (hf : form s (.kset w) = some (h, g)) :
    ∃ info body, exec (.kset w) s = issueWord s h.gneg h.guard h.stall h.len g info body := by
  simp only [form, Option.some.injEq, Prod.mk.injEq] at hf
  obtain ⟨rfl, rfl⟩ := hf
  rw [show exec (.kset w) s = execKset w s from rfl]
  unfold execKset issueF
  exact ⟨_, _, rfl⟩

theorem exec_ktst_form (w : FWord) (s : State) {h : Hd} {g : Sig} (hf : form s (.ktst w) = some (h, g)) :
    ∃ info body, exec (.ktst w) s = issueWord s h.gneg h.guard h.stall h.len g info body := by
  simp only [form, Option.some.injEq, Prod.mk.injEq] at hf
  obtain ⟨rfl, rfl⟩ := hf
  rw [show exec (.ktst w) s = execKtst w s from rfl]
  unfold execKtst issueF
  exact ⟨_, _, rfl⟩

theorem exec_mpart_form (w : FWord) (s : State) {h : Hd} {g : Sig} (hf : form s (.mpart w) = some (h, g)) :
    ∃ info body, exec (.mpart w) s = issueWord s h.gneg h.guard h.stall h.len g info body := by
  simp only [form, Option.some.injEq, Prod.mk.injEq] at hf
  obtain ⟨rfl, rfl⟩ := hf
  rw [show exec (.mpart w) s = execMpart w s from rfl]
  unfold execMpart issueF
  exact ⟨_, _, rfl⟩

theorem exec_smerge_form (w : FWord) (x : Option XWord) (s : State) {h : Hd} {g : Sig} (hf : form s (.smerge w x) = some (h, g)) :
    ∃ info body, exec (.smerge w x) s = issueWord s h.gneg h.guard h.stall h.len g info body := by
  cases x with
  | none => simp [form] at hf
  | some xw =>
    simp only [form, Option.map_some, Option.some.injEq, Prod.mk.injEq] at hf
    obtain ⟨rfl, rfl⟩ := hf
    rw [show exec (.smerge w (some xw)) s = execSmerge w (some xw) s from rfl]
    unfold execSmerge issueF
    exact ⟨_, _, rfl⟩

theorem exec_cp_form (w : FWord) (s : State) {h : Hd} {g : Sig} (hf : form s (.cp w) = some (h, g)) :
    ∃ info body, exec (.cp w) s = issueWord s h.gneg h.guard h.stall h.len g info body := by
  simp only [form, Option.some.injEq, Prod.mk.injEq] at hf
  obtain ⟨rfl, rfl⟩ := hf
  rw [show exec (.cp w) s = execCp w s from rfl]
  unfold execCp issueF
  exact ⟨_, _, rfl⟩

theorem exec_cpm_form (w : FWord) (s : State) {h : Hd} {g : Sig} (hf : form s (.cpm w) = some (h, g)) :
    ∃ info body, exec (.cpm w) s = issueWord s h.gneg h.guard h.stall h.len g info body := by
  simp only [form, Option.some.injEq, Prod.mk.injEq] at hf
  obtain ⟨rfl, rfl⟩ := hf
  rw [show exec (.cpm w) s = execCpm w s from rfl]
  unfold execCpm issueF
  exact ⟨_, _, rfl⟩

theorem exec_cpcv_form (w : FWord) (s : State) {h : Hd} {g : Sig} (hf : form s (.cpcv w) = some (h, g)) :
    ∃ info body, exec (.cpcv w) s = issueWord s h.gneg h.guard h.stall h.len g info body := by
  simp only [form, Option.some.injEq, Prod.mk.injEq] at hf
  obtain ⟨rfl, rfl⟩ := hf
  rw [show exec (.cpcv w) s = execCpcv w s from rfl]
  unfold execCpcv issueF
  exact ⟨_, _, rfl⟩

theorem exec_cpw_form (w : FWord) (s : State) {h : Hd} {g : Sig} (hf : form s (.cpw w) = some (h, g)) :
    ∃ info body, exec (.cpw w) s = issueWord s h.gneg h.guard h.stall h.len g info body := by
  simp only [form, Option.some.injEq, Prod.mk.injEq] at hf
  obtain ⟨rfl, rfl⟩ := hf
  rw [show exec (.cpw w) s = execCpw w s from rfl]
  unfold execCpw issueF
  exact ⟨_, _, rfl⟩

theorem exec_capr_form (w : FWord) (s : State) {h : Hd} {g : Sig} (hf : form s (.capr w) = some (h, g)) :
    ∃ info body, exec (.capr w) s = issueWord s h.gneg h.guard h.stall h.len g info body := by
  simp only [form, Option.some.injEq, Prod.mk.injEq] at hf
  obtain ⟨rfl, rfl⟩ := hf
  rw [show exec (.capr w) s = execCapr w s from rfl]
  unfold execCapr issueF
  exact ⟨_, _, rfl⟩

theorem exec_capw_form (w : FWord) (s : State) {h : Hd} {g : Sig} (hf : form s (.capw w) = some (h, g)) :
    ∃ info body, exec (.capw w) s = issueWord s h.gneg h.guard h.stall h.len g info body := by
  simp only [form, Option.some.injEq, Prod.mk.injEq] at hf
  obtain ⟨rfl, rfl⟩ := hf
  rw [show exec (.capw w) s = execCapw w s from rfl]
  unfold execCapw issueF
  exact ⟨_, _, rfl⟩

theorem exec_bcallT_form (w : FWord) (x : Option XWord) (s : State) {h : Hd} {g : Sig} (hf : form s (.bcallT w x) = some (h, g)) :
    ∃ info body, exec (.bcallT w x) s = issueWord s h.gneg h.guard h.stall h.len g info body := by
  simp only [form] at hf
  split at hf
  · simp at hf
  · rename_i hx
    simp only [Option.some.injEq, Prod.mk.injEq] at hf
    obtain ⟨rfl, rfl⟩ := hf
    rw [show exec (.bcallT w x) s = execBcallT w x s from rfl]
    unfold execBcallT issueMem
    try simp only []
    rw [if_neg (by simpa using hx)]
    exact ⟨_, _, rfl⟩

theorem exec_bcallN_form (w : FWord) (x : Option XWord) (s : State) {h : Hd} {g : Sig} (hf : form s (.bcallN w x) = some (h, g)) :
    ∃ info body, exec (.bcallN w x) s = issueWord s h.gneg h.guard h.stall h.len g info body := by
  simp only [form] at hf
  split at hf
  · simp at hf
  · rename_i hx
    simp only [Option.some.injEq, Prod.mk.injEq] at hf
    obtain ⟨rfl, rfl⟩ := hf
    rw [show exec (.bcallN w x) s = execBcallN w x s from rfl]
    unfold execBcallN issueMem
    try simp only []
    rw [if_neg (by simpa using hx)]
    exact ⟨_, _, rfl⟩

theorem exec_bwait_form (w : FWord) (s : State) {h : Hd} {g : Sig} (hf : form s (.bwait w) = some (h, g)) :
    ∃ info body, exec (.bwait w) s = issueWord s h.gneg h.guard h.stall h.len g info body := by
  simp only [form, Option.some.injEq, Prod.mk.injEq] at hf
  obtain ⟨rfl, rfl⟩ := hf
  rw [show exec (.bwait w) s = execBwait w s from rfl]
  unfold execBwait issueF
  exact ⟨_, _, rfl⟩

theorem exec_barc_form (w : FWord) (s : State) {h : Hd} {g : Sig} (hf : form s (.barc w) = some (h, g)) :
    ∃ info body, exec (.barc w) s = issueWord s h.gneg h.guard h.stall h.len g info body := by
  simp only [form, Option.some.injEq, Prod.mk.injEq] at hf
  obtain ⟨rfl, rfl⟩ := hf
  rw [show exec (.barc w) s = execBarc w s from rfl]
  unfold execBarc arriveWord issueF
  exact ⟨_, _, rfl⟩

theorem exec_barw_form (w : FWord) (s : State) {h : Hd} {g : Sig} (hf : form s (.barw w) = some (h, g)) :
    ∃ info body, exec (.barw w) s = issueWord s h.gneg h.guard h.stall h.len g info body := by
  simp only [form, Option.some.injEq, Prod.mk.injEq] at hf
  obtain ⟨rfl, rfl⟩ := hf
  rw [show exec (.barw w) s = execBarw w s from rfl]
  unfold execBarw phaseWord issueF
  exact ⟨_, _, rfl⟩

theorem exec_barx_form (w : FWord) (s : State) {h : Hd} {g : Sig} (hf : form s (.barx w) = some (h, g)) :
    ∃ info body, exec (.barx w) s = issueWord s h.gneg h.guard h.stall h.len g info body := by
  simp only [form, Option.some.injEq, Prod.mk.injEq] at hf
  obtain ⟨rfl, rfl⟩ := hf
  rw [show exec (.barx w) s = execBarx w s from rfl]
  unfold execBarx issueF
  exact ⟨_, _, rfl⟩

theorem exec_mbar_form (w : FWord) (s : State) {h : Hd} {g : Sig} (hf : form s (.mbar w) = some (h, g)) :
    ∃ info body, exec (.mbar w) s = issueWord s h.gneg h.guard h.stall h.len g info body := by
  simp only [form, Option.some.injEq, Prod.mk.injEq] at hf
  obtain ⟨rfl, rfl⟩ := hf
  rw [show exec (.mbar w) s = execMbar w s from rfl]
  unfold execMbar issueF
  exact ⟨_, _, rfl⟩

theorem exec_gbara_form (w : FWord) (s : State) {h : Hd} {g : Sig} (hf : form s (.gbara w) = some (h, g)) :
    ∃ info body, exec (.gbara w) s = issueWord s h.gneg h.guard h.stall h.len g info body := by
  simp only [form, Option.some.injEq, Prod.mk.injEq] at hf
  obtain ⟨rfl, rfl⟩ := hf
  rw [show exec (.gbara w) s = execGbara w s from rfl]
  unfold execGbara arriveWord issueF
  exact ⟨_, _, rfl⟩

theorem exec_gbarw_form (w : FWord) (s : State) {h : Hd} {g : Sig} (hf : form s (.gbarw w) = some (h, g)) :
    ∃ info body, exec (.gbarw w) s = issueWord s h.gneg h.guard h.stall h.len g info body := by
  simp only [form, Option.some.injEq, Prod.mk.injEq] at hf
  obtain ⟨rfl, rfl⟩ := hf
  rw [show exec (.gbarw w) s = execGbarw w s from rfl]
  unfold execGbarw phaseWord issueF
  exact ⟨_, _, rfl⟩

theorem exec_qpush_form (w : FWord) (s : State) {h : Hd} {g : Sig} (hf : form s (.qpush w) = some (h, g)) :
    ∃ info body, exec (.qpush w) s = issueWord s h.gneg h.guard h.stall h.len g info body := by
  simp only [form, Option.some.injEq, Prod.mk.injEq] at hf
  obtain ⟨rfl, rfl⟩ := hf
  rw [show exec (.qpush w) s = execQpush w s from rfl]
  unfold execQpush queueWord issueF
  exact ⟨_, _, rfl⟩

theorem exec_qpop_form (w : FWord) (s : State) {h : Hd} {g : Sig} (hf : form s (.qpop w) = some (h, g)) :
    ∃ info body, exec (.qpop w) s = issueWord s h.gneg h.guard h.stall h.len g info body := by
  simp only [form, Option.some.injEq, Prod.mk.injEq] at hf
  obtain ⟨rfl, rfl⟩ := hf
  rw [show exec (.qpop w) s = execQpop w s from rfl]
  unfold execQpop queueWord issueF
  exact ⟨_, _, rfl⟩

theorem exec_qtryPush_form (w : FWord) (s : State) {h : Hd} {g : Sig} (hf : form s (.qtryPush w) = some (h, g)) :
    ∃ info body, exec (.qtryPush w) s = issueWord s h.gneg h.guard h.stall h.len g info body := by
  simp only [form, Option.some.injEq, Prod.mk.injEq] at hf
  obtain ⟨rfl, rfl⟩ := hf
  rw [show exec (.qtryPush w) s = execQtryPush w s from rfl]
  unfold execQtryPush tryWord issueF
  exact ⟨_, _, rfl⟩

theorem exec_qtryPop_form (w : FWord) (s : State) {h : Hd} {g : Sig} (hf : form s (.qtryPop w) = some (h, g)) :
    ∃ info body, exec (.qtryPop w) s = issueWord s h.gneg h.guard h.stall h.len g info body := by
  simp only [form, Option.some.injEq, Prod.mk.injEq] at hf
  obtain ⟨rfl, rfl⟩ := hf
  rw [show exec (.qtryPop w) s = execQtryPop w s from rfl]
  unfold execQtryPop tryWord issueF
  exact ⟨_, _, rfl⟩

theorem exec_trap_form (w : FWord) (s : State) {h : Hd} {g : Sig} (hf : form s (.trap w) = some (h, g)) :
    ∃ info body, exec (.trap w) s = issueWord s h.gneg h.guard h.stall h.len g info body := by
  simp only [form, Option.some.injEq, Prod.mk.injEq] at hf
  obtain ⟨rfl, rfl⟩ := hf
  rw [show exec (.trap w) s = execTrap w s from rfl]
  unfold execTrap issueF
  exact ⟨_, _, rfl⟩

theorem exec_trapI_form (w : IWord) (s : State) {h : Hd} {g : Sig} (hf : form s (.trapI w) = some (h, g)) :
    ∃ info body, exec (.trapI w) s = issueWord s h.gneg h.guard h.stall h.len g info body := by
  simp only [form, Option.some.injEq, Prod.mk.injEq] at hf
  obtain ⟨rfl, rfl⟩ := hf
  rw [show exec (.trapI w) s = execTrapI w s from rfl]
  unfold execTrapI issueI
  exact ⟨_, _, rfl⟩

theorem exec_tfence_form (w : FWord) (s : State) {h : Hd} {g : Sig} (hf : form s (.tfence w) = some (h, g)) :
    ∃ info body, exec (.tfence w) s = issueWord s h.gneg h.guard h.stall h.len g info body := by
  simp only [form, Option.some.injEq, Prod.mk.injEq] at hf
  obtain ⟨rfl, rfl⟩ := hf
  rw [show exec (.tfence w) s = execTfence w s from rfl]
  unfold execTfence issueF
  exact ⟨_, _, rfl⟩

theorem exec_tret_form (w : FWord) (s : State) {h : Hd} {g : Sig} (hf : form s (.tret w) = some (h, g)) :
    ∃ info body, exec (.tret w) s = issueWord s h.gneg h.guard h.stall h.len g info body := by
  simp only [form, Option.some.injEq, Prod.mk.injEq] at hf
  obtain ⟨rfl, rfl⟩ := hf
  rw [show exec (.tret w) s = execTret w s from rfl]
  unfold execTret issueF
  exact ⟨_, _, rfl⟩

theorem exec_movsRead_form (w : FWord) (s : State) {h : Hd} {g : Sig} (hf : form s (.movsRead w) = some (h, g)) :
    ∃ info body, exec (.movsRead w) s = issueWord s h.gneg h.guard h.stall h.len g info body := by
  simp only [form, Option.some.injEq, Prod.mk.injEq] at hf
  obtain ⟨rfl, rfl⟩ := hf
  rw [show exec (.movsRead w) s = execMovsRead w s from rfl]
  unfold execMovsRead readSpecial issueF
  exact ⟨_, _, rfl⟩

theorem exec_movsWrite_form (w : FWord) (s : State) {h : Hd} {g : Sig} (hf : form s (.movsWrite w) = some (h, g)) :
    ∃ info body, exec (.movsWrite w) s = issueWord s h.gneg h.guard h.stall h.len g info body := by
  simp only [form, Option.some.injEq, Prod.mk.injEq] at hf
  obtain ⟨rfl, rfl⟩ := hf
  rw [show exec (.movsWrite w) s = execMovsWrite w s from rfl]
  unfold execMovsWrite writeSpecialWord issueF
  exact ⟨_, _, rfl⟩

theorem exec_movspRead_form (w : FWord) (s : State) {h : Hd} {g : Sig} (hf : form s (.movspRead w) = some (h, g)) :
    ∃ info body, exec (.movspRead w) s = issueWord s h.gneg h.guard h.stall h.len g info body := by
  simp only [form, Option.some.injEq, Prod.mk.injEq] at hf
  obtain ⟨rfl, rfl⟩ := hf
  rw [show exec (.movspRead w) s = execMovspRead w s from rfl]
  unfold execMovspRead readSpecial issueF
  exact ⟨_, _, rfl⟩

theorem exec_movspWrite_form (w : FWord) (s : State) {h : Hd} {g : Sig} (hf : form s (.movspWrite w) = some (h, g)) :
    ∃ info body, exec (.movspWrite w) s = issueWord s h.gneg h.guard h.stall h.len g info body := by
  simp only [form, Option.some.injEq, Prod.mk.injEq] at hf
  obtain ⟨rfl, rfl⟩ := hf
  rw [show exec (.movspWrite w) s = execMovspWrite w s from rfl]
  unfold execMovspWrite writeSpecialWord issueF
  exact ⟨_, _, rfl⟩

theorem exec_segldL_form (w : FWord) (s : State) {h : Hd} {g : Sig} (hf : form s (.segldL w) = some (h, g)) :
    ∃ info body, exec (.segldL w) s = issueWord s h.gneg h.guard h.stall h.len g info body := by
  simp only [form, Option.some.injEq, Prod.mk.injEq] at hf
  obtain ⟨rfl, rfl⟩ := hf
  rw [show exec (.segldL w) s = execSegldL w s from rfl]
  unfold execSegldL issueF
  exact ⟨_, _, rfl⟩

theorem exec_segldP_form (w : FWord) (s : State) {h : Hd} {g : Sig} (hf : form s (.segldP w) = some (h, g)) :
    ∃ info body, exec (.segldP w) s = issueWord s h.gneg h.guard h.stall h.len g info body := by
  simp only [form, Option.some.injEq, Prod.mk.injEq] at hf
  obtain ⟨rfl, rfl⟩ := hf
  rw [show exec (.segldP w) s = execSegldP w s from rfl]
  unfold execSegldP issueF
  exact ⟨_, _, rfl⟩

theorem exec_tlbf_form (w : FWord) (s : State) {h : Hd} {g : Sig} (hf : form s (.tlbf w) = some (h, g)) :
    ∃ info body, exec (.tlbf w) s = issueWord s h.gneg h.guard h.stall h.len g info body := by
  simp only [form, Option.some.injEq, Prod.mk.injEq] at hf
  obtain ⟨rfl, rfl⟩ := hf
  rw [show exec (.tlbf w) s = execTlbf w s from rfl]
  unfold execTlbf issueF
  exact ⟨_, _, rfl⟩

theorem exec_tlbiVa_form (w : FWord) (s : State) {h : Hd} {g : Sig} (hf : form s (.tlbiVa w) = some (h, g)) :
    ∃ info body, exec (.tlbiVa w) s = issueWord s h.gneg h.guard h.stall h.len g info body := by
  simp only [form, Option.some.injEq, Prod.mk.injEq] at hf
  obtain ⟨rfl, rfl⟩ := hf
  rw [show exec (.tlbiVa w) s = execTlbiVa w s from rfl]
  unfold execTlbiVa issueF
  exact ⟨_, _, rfl⟩

theorem exec_tlbiCtx_form (w : FWord) (s : State) {h : Hd} {g : Sig} (hf : form s (.tlbiCtx w) = some (h, g)) :
    ∃ info body, exec (.tlbiCtx w) s = issueWord s h.gneg h.guard h.stall h.len g info body := by
  simp only [form, Option.some.injEq, Prod.mk.injEq] at hf
  obtain ⟨rfl, rfl⟩ := hf
  rw [show exec (.tlbiCtx w) s = execTlbiCtx w s from rfl]
  unfold execTlbiCtx issueF
  exact ⟨_, _, rfl⟩

theorem exec_tlbiAll_form (w : FWord) (s : State) {h : Hd} {g : Sig} (hf : form s (.tlbiAll w) = some (h, g)) :
    ∃ info body, exec (.tlbiAll w) s = issueWord s h.gneg h.guard h.stall h.len g info body := by
  simp only [form, Option.some.injEq, Prod.mk.injEq] at hf
  obtain ⟨rfl, rfl⟩ := hf
  rw [show exec (.tlbiAll w) s = execTlbiAll w s from rfl]
  unfold execTlbiAll issueF
  exact ⟨_, _, rfl⟩

theorem exec_dlsetRel_form (w : FWord) (s : State) {h : Hd} {g : Sig} (hf : form s (.dlsetRel w) = some (h, g)) :
    ∃ info body, exec (.dlsetRel w) s = issueWord s h.gneg h.guard h.stall h.len g info body := by
  simp only [form, Option.some.injEq, Prod.mk.injEq] at hf
  obtain ⟨rfl, rfl⟩ := hf
  rw [show exec (.dlsetRel w) s = execDlsetRel w s from rfl]
  unfold execDlsetRel issueF
  exact ⟨_, _, rfl⟩

theorem exec_dlsetI_form (w : IWord) (s : State) {h : Hd} {g : Sig} (hf : form s (.dlsetI w) = some (h, g)) :
    ∃ info body, exec (.dlsetI w) s = issueWord s h.gneg h.guard h.stall h.len g info body := by
  simp only [form, Option.some.injEq, Prod.mk.injEq] at hf
  obtain ⟨rfl, rfl⟩ := hf
  rw [show exec (.dlsetI w) s = execDlsetI w s from rfl]
  unfold execDlsetI issueI
  exact ⟨_, _, rfl⟩

theorem exec_dlsetAbs_form (w : FWord) (s : State) {h : Hd} {g : Sig} (hf : form s (.dlsetAbs w) = some (h, g)) :
    ∃ info body, exec (.dlsetAbs w) s = issueWord s h.gneg h.guard h.stall h.len g info body := by
  simp only [form, Option.some.injEq, Prod.mk.injEq] at hf
  obtain ⟨rfl, rfl⟩ := hf
  rw [show exec (.dlsetAbs w) s = execDlsetAbs w s from rfl]
  unfold execDlsetAbs issueF
  exact ⟨_, _, rfl⟩

theorem exec_dlsetDef_form (w : FWord) (s : State) {h : Hd} {g : Sig} (hf : form s (.dlsetDef w) = some (h, g)) :
    ∃ info body, exec (.dlsetDef w) s = issueWord s h.gneg h.guard h.stall h.len g info body := by
  simp only [form, Option.some.injEq, Prod.mk.injEq] at hf
  obtain ⟨rfl, rfl⟩ := hf
  rw [show exec (.dlsetDef w) s = execDlsetDef w s from rfl]
  unfold execDlsetDef issueF
  exact ⟨_, _, rfl⟩

theorem exec_clkrd_form (w : FWord) (s : State) {h : Hd} {g : Sig} (hf : form s (.clkrd w) = some (h, g)) :
    ∃ info body, exec (.clkrd w) s = issueWord s h.gneg h.guard h.stall h.len g info body := by
  simp only [form, Option.some.injEq, Prod.mk.injEq] at hf
  obtain ⟨rfl, rfl⟩ := hf
  rw [show exec (.clkrd w) s = execClkrd w s from rfl]
  unfold execClkrd issueF
  exact ⟨_, _, rfl⟩

theorem exec_halt_form (w : FWord) (s : State) {h : Hd} {g : Sig} (hf : form s (.halt w) = some (h, g)) :
    ∃ info body, exec (.halt w) s = issueWord s h.gneg h.guard h.stall h.len g info body := by
  simp only [form, Option.some.injEq, Prod.mk.injEq] at hf
  obtain ⟨rfl, rfl⟩ := hf
  rw [show exec (.halt w) s = execHalt w s from rfl]
  unfold execHalt issueF
  exact ⟨_, _, rfl⟩

theorem exec_dstep_form (w : FWord) (s : State) {h : Hd} {g : Sig} (hf : form s (.dstep w) = some (h, g)) :
    ∃ info body, exec (.dstep w) s = issueWord s h.gneg h.guard h.stall h.len g info body := by
  simp only [form, Option.some.injEq, Prod.mk.injEq] at hf
  obtain ⟨rfl, rfl⟩ := hf
  rw [show exec (.dstep w) s = execDstep w s from rfl]
  unfold execDstep issueF
  exact ⟨_, _, rfl⟩

theorem exec_ctxsave_form (w : FWord) (x : Option XWord) (s : State) {h : Hd} {g : Sig} (hf : form s (.ctxsave w x) = some (h, g)) :
    ∃ info body, exec (.ctxsave w x) s = issueWord s h.gneg h.guard h.stall h.len g info body := by
  simp only [form] at hf
  split at hf
  · simp at hf
  · rename_i hx
    simp only [Option.some.injEq, Prod.mk.injEq] at hf
    obtain ⟨rfl, rfl⟩ := hf
    rw [show exec (.ctxsave w x) s = execCtxsave w x s from rfl]
    unfold execCtxsave issueMem
    try simp only []
    rw [if_neg (by simpa using hx)]
    exact ⟨_, _, rfl⟩

theorem exec_ctxload_form (w : FWord) (x : Option XWord) (s : State) {h : Hd} {g : Sig} (hf : form s (.ctxload w x) = some (h, g)) :
    ∃ info body, exec (.ctxload w x) s = issueWord s h.gneg h.guard h.stall h.len g info body := by
  simp only [form] at hf
  split at hf
  · simp at hf
  · rename_i hx
    simp only [Option.some.injEq, Prod.mk.injEq] at hf
    obtain ⟨rfl, rfl⟩ := hf
    rw [show exec (.ctxload w x) s = execCtxload w x s from rfl]
    unfold execCtxload issueMem
    try simp only []
    rw [if_neg (by simpa using hx)]
    exact ⟨_, _, rfl⟩

/-- A word that computes one result per lane has a legality. -/
theorem exec_alu_form {s : State} {i : Instr} {h : Hd} {g : Sig} {e : Hd × Shape × (List Nat → Nat × Flags)}
    (ha : aluForm i = some e) (hf : form s i = some (h, g)) :
    ∃ info body, exec i s = issueWord s h.gneg h.guard h.stall h.len g info body := by
  obtain ⟨h', sh, f⟩ := e
  obtain ⟨he, hf'⟩ := exec_alu (s := s) ha
  rw [hf'] at hf; simp only [Option.some.injEq, Prod.mk.injEq] at hf
  obtain ⟨rfl, rfl⟩ := hf
  rw [he]; unfold aluWord
  exact ⟨_, _, rfl⟩

/-- Every word with one guard runs through issueWord with the head and legality that form names. -/
theorem exec_form {s : State} {i : Instr} {h : Hd} {g : Sig} (hf : form s i = some (h, g)) :
    ∃ info body, exec i s = issueWord s h.gneg h.guard h.stall h.len g info body := by
  cases ha : aluForm i with
  | some e => exact exec_alu_form ha hf
  | none =>
    cases i
    case cvt w => exact exec_cvt_form w s hf
    case cvtf w => exact exec_cvtf_form w s hf
    case pack w => exact exec_pack_form w s hf
    case unpack w => exact exec_unpack_form w s hf
    case qscale w => exact exec_qscale_form w s hf
    case dqscale w => exact exec_dqscale_form w s hf
    case xlane w => exact exec_xlane_form w s hf
    case vote w => exact exec_vote_form w s hf
    case ballot w => exact exec_ballot_form w s hf
    case scan w => exact exec_scan_form w s hf
    case segscan w => exact exec_segscan_form w s hf
    case redux w => exact exec_redux_form w s hf
    case matchM w => exact exec_matchM_form w s hf
    case elect w => exact exec_elect_form w s hf
    case active w => exact exec_active_form w s hf
    case bra w => exact exec_bra_form w s hf
    case brx w => exact exec_brx_form w s hf
    case call w => exact exec_call_form w s hf
    case calli w => exact exec_calli_form w s hf
    case ret w => exact exec_ret_form w s hf
    case tie w x => exact exec_tie_form w x s hf
    case join w => exact exec_join_form w s hf
    case exit w => exact exec_exit_form w s hf
    case yield w => exact exec_yield_form w s hf
    case loopq w x => exact exec_loopq_form w x s hf
    case nop w => exact exec_nop_form w s hf
    case reservedEncoding w x => exact exec_reservedEncoding_form w x s hf
    case ldg w x => exact exec_ldg_form w x s hf
    case stg w x => exact exec_stg_form w x s hf
    case ldl w x => exact exec_ldl_form w x s hf
    case stl w x => exact exec_stl_form w x s hf
    case lds w x => exact exec_lds_form w x s hf
    case sts w x => exact exec_sts_form w x s hf
    case ldw w x => exact exec_ldw_form w x s hf
    case post w x => exact exec_post_form w x s hf
    case atom w x => exact exec_atom_form w x s hf
    case atomcas w x => exact exec_atomcas_form w x s hf
    case red w x => exact exec_red_form w x s hf
    case home w x => exact exec_home_form w x s hf
    case migrG w x => exact exec_migrG_form w x s hf
    case migrL w x => exact exec_migrL_form w x s hf
    case qcfg w => exact exec_qcfg_form w s hf
    case qidx w => exact exec_qidx_form w s hf
    case qld w => exact exec_qld_form w s hf
    case qclose w => exact exec_qclose_form w s hf
    case fence w => exact exec_fence_form w s hf
    case fenceX w => exact exec_fenceX_form w s hf
    case mma w => exact exec_mma_form w s hf
    case mmaBs w x => exact exec_mmaBs_form w x s hf
    case mmaSp w x => exact exec_mmaSp_form w x s hf
    case bmc w => exact exec_bmc_form w s hf
    case bmx w => exact exec_bmx_form w s hf
    case kset w => exact exec_kset_form w s hf
    case ktst w => exact exec_ktst_form w s hf
    case mpart w => exact exec_mpart_form w s hf
    case smerge w x => exact exec_smerge_form w x s hf
    case cp w => exact exec_cp_form w s hf
    case cpm w => exact exec_cpm_form w s hf
    case cpcv w => exact exec_cpcv_form w s hf
    case cpw w => exact exec_cpw_form w s hf
    case capr w => exact exec_capr_form w s hf
    case capw w => exact exec_capw_form w s hf
    case bcallT w x => exact exec_bcallT_form w x s hf
    case bcallN w x => exact exec_bcallN_form w x s hf
    case bwait w => exact exec_bwait_form w s hf
    case barc w => exact exec_barc_form w s hf
    case barw w => exact exec_barw_form w s hf
    case barx w => exact exec_barx_form w s hf
    case mbar w => exact exec_mbar_form w s hf
    case gbara w => exact exec_gbara_form w s hf
    case gbarw w => exact exec_gbarw_form w s hf
    case qpush w => exact exec_qpush_form w s hf
    case qpop w => exact exec_qpop_form w s hf
    case qtryPush w => exact exec_qtryPush_form w s hf
    case qtryPop w => exact exec_qtryPop_form w s hf
    case trap w => exact exec_trap_form w s hf
    case trapI w => exact exec_trapI_form w s hf
    case tfence w => exact exec_tfence_form w s hf
    case tret w => exact exec_tret_form w s hf
    case movsRead w => exact exec_movsRead_form w s hf
    case movsWrite w => exact exec_movsWrite_form w s hf
    case movspRead w => exact exec_movspRead_form w s hf
    case movspWrite w => exact exec_movspWrite_form w s hf
    case segldL w => exact exec_segldL_form w s hf
    case segldP w => exact exec_segldP_form w s hf
    case tlbf w => exact exec_tlbf_form w s hf
    case tlbiVa w => exact exec_tlbiVa_form w s hf
    case tlbiCtx w => exact exec_tlbiCtx_form w s hf
    case tlbiAll w => exact exec_tlbiAll_form w s hf
    case dlsetRel w => exact exec_dlsetRel_form w s hf
    case dlsetI w => exact exec_dlsetI_form w s hf
    case dlsetAbs w => exact exec_dlsetAbs_form w s hf
    case dlsetDef w => exact exec_dlsetDef_form w s hf
    case clkrd w => exact exec_clkrd_form w s hf
    case halt w => exact exec_halt_form w s hf
    case dstep w => exact exec_dstep_form w s hf
    case ctxsave w x => exact exec_ctxsave_form w x s hf
    case ctxload w x => exact exec_ctxload_form w x s hf
    all_goals first | (simp only [form, reduceCtorEq] at hf; done) | simp only [aluForm, reduceCtorEq] at ha

end Sys2Proof.Machine
end

