-- ==== Sys2Proof/Laws/PerInstr.lean ====
section
/-! SUPPORT. Statements about every instruction as syntax, one lemma per constructor. Family XWords: where an instruction has
a second word, that word is of class X, and its head is of class F or I (R58, R61). -/

set_option Elab.async false

namespace Sys2Proof.Laws.XWords

open Sys2Proof

/-- A second word is of class X, and it follows a head of class F or I. -/
def Statement (i : Instr) : Prop :=
  i.wf = true → ∀ w y, encode i = some (w, some y) → wordClass y = 3#2 ∧ (wordClass w = 0#2 ∨ wordClass w = 2#2)

theorem class_append (c : BitVec 2) (r : BitVec 62) : wordClass (c ++ r : Word) = c := by
  apply BitVec.eq_of_getLsbD_eq
  intro i hi
  have h := @BitVec.getLsbD_append 2 62 (62 + i) c r
  simp only [wordClass, BitVec.getLsbD_extractLsb', hi, decide_true, Bool.true_and]
  rw [show ((c ++ r : Word).getLsbD (62 + i)) = _ from h]
  simp

theorem class_f (op : BitVec 10) (f : FWord) : wordClass (f.toWord op) = 0#2 := by
  have : f.toWord op = (0#2 ++ (op ++ BitVec.ofBool f.gneg ++ f.guard ++ f.stall ++ f.dest.code ++ f.a.code ++ f.b.code ++ f.c.code ++ f.hi ++ f.lo) : Word) := by
    simp only [FWord.toWord, BitVec.append_assoc, BitVec.cast_eq]
  rw [this, class_append]

theorem class_i (op : BitVec 10) (i : IWord) : wordClass (i.toWord op) = 2#2 := by
  have : i.toWord op = (2#2 ++ (op ++ BitVec.ofBool i.gneg ++ i.guard ++ i.stall ++ i.dest.code ++ i.a.code ++ i.imm) : Word) := by
    simp only [IWord.toWord, BitVec.append_assoc, BitVec.cast_eq]
  rw [this, class_append]

theorem class_x (x : XWord) : wordClass (xToWord x) = 3#2 := class_append 3#2 x

theorem no_word {i : Instr} (h : encode i = none) : Statement i := by
  intro _ w y e; rw [h] at e; cases e

theorem one_word {i : Instr} {a : Word} (h : encode i = some (a, none)) : Statement i := by
  intro _ w y e; rw [h] at e; cases e

theorem f_word {i : Instr} {op : BitVec 10} {f : FWord} {x : Option XWord} (h : encode i = some (f.toWord op, x.map xToWord)) : Statement i := by
  intro _ w y e; rw [h] at e
  cases x with
  | none => cases e
  | some v => cases e; exact ⟨class_x v, .inl (class_f op f)⟩

theorem i_word {i : Instr} {op : BitVec 10} {f : IWord} (h : encode i = some (f.toWord op, f.x.map xToWord)) : Statement i := by
  intro _ w y e; rw [h] at e
  cases hx : f.x with
  | none => rw [hx] at e; cases e
  | some v => rw [hx] at e; cases e; exact ⟨class_x v, .inr (class_i op f)⟩

theorem iadd (w : FWord) : Statement (.iadd w) := one_word rfl

theorem iaddI (w : IWord) : Statement (.iaddI w) := i_word rfl

theorem isub (w : FWord) : Statement (.isub w) := one_word rfl

theorem isubI (w : IWord) : Statement (.isubI w) := i_word rfl

theorem imul (w : FWord) : Statement (.imul w) := one_word rfl

theorem imulI (w : IWord) : Statement (.imulI w) := i_word rfl

theorem imad (w : FWord) : Statement (.imad w) := one_word rfl

theorem imulh (w : FWord) : Statement (.imulh w) := one_word rfl

theorem imulhI (w : IWord) : Statement (.imulhI w) := i_word rfl

theorem idiv (w : FWord) : Statement (.idiv w) := one_word rfl

theorem idivI (w : IWord) : Statement (.idivI w) := i_word rfl

theorem irem (w : FWord) : Statement (.irem w) := one_word rfl

theorem iremI (w : IWord) : Statement (.iremI w) := i_word rfl

theorem imin (w : FWord) : Statement (.imin w) := one_word rfl

theorem iminI (w : IWord) : Statement (.iminI w) := i_word rfl

theorem imax (w : FWord) : Statement (.imax w) := one_word rfl

theorem imaxI (w : IWord) : Statement (.imaxI w) := i_word rfl

theorem iabs (w : FWord) : Statement (.iabs w) := one_word rfl

theorem ineg (w : FWord) : Statement (.ineg w) := one_word rfl

theorem and (w : FWord) : Statement (.and w) := one_word rfl

theorem andI (w : IWord) : Statement (.andI w) := i_word rfl

theorem or (w : FWord) : Statement (.or w) := one_word rfl

theorem orI (w : IWord) : Statement (.orI w) := i_word rfl

theorem xor (w : FWord) : Statement (.xor w) := one_word rfl

theorem xorI (w : IWord) : Statement (.xorI w) := i_word rfl

theorem not (w : FWord) : Statement (.not w) := one_word rfl

theorem andn (w : FWord) : Statement (.andn w) := one_word rfl

theorem andnI (w : IWord) : Statement (.andnI w) := i_word rfl

theorem btab (w : FWord) : Statement (.btab w) := one_word rfl

theorem shl (w : FWord) : Statement (.shl w) := one_word rfl

theorem shlI (w : IWord) : Statement (.shlI w) := i_word rfl

theorem shr (w : FWord) : Statement (.shr w) := one_word rfl

theorem shrI (w : IWord) : Statement (.shrI w) := i_word rfl

theorem sar (w : FWord) : Statement (.sar w) := one_word rfl

theorem sarI (w : IWord) : Statement (.sarI w) := i_word rfl

theorem cshf (w : FWord) : Statement (.cshf w) := one_word rfl

theorem popc (w : FWord) : Statement (.popc w) := one_word rfl

theorem clz (w : FWord) : Statement (.clz w) := one_word rfl

theorem ctz (w : FWord) : Statement (.ctz w) := one_word rfl

theorem brev (w : FWord) : Statement (.brev w) := one_word rfl

theorem bfe (w : FWord) : Statement (.bfe w) := one_word rfl

theorem bfi (w : FWord) : Statement (.bfi w) := one_word rfl

theorem prmt (w : FWord) : Statement (.prmt w) := one_word rfl

theorem prmtI (w : IWord) : Statement (.prmtI w) := i_word rfl

theorem lea (w : FWord) : Statement (.lea w) := one_word rfl

theorem icmp (w : FWord) : Statement (.icmp w) := one_word rfl

theorem icmpI (w : IWord) : Statement (.icmpI w) := i_word rfl

theorem ptab (w : FWord) : Statement (.ptab w) := one_word rfl

theorem isel (w : FWord) : Statement (.isel w) := one_word rfl

theorem sel (w : FWord) : Statement (.sel w) := one_word rfl

theorem mov (w : FWord) : Statement (.mov w) := one_word rfl

theorem movI (w : IWord) : Statement (.movI w) := i_word rfl

theorem fadd (w : FWord) : Statement (.fadd w) := one_word rfl

theorem faddI (w : IWord) : Statement (.faddI w) := i_word rfl

theorem fsub (w : FWord) : Statement (.fsub w) := one_word rfl

theorem fsubI (w : IWord) : Statement (.fsubI w) := i_word rfl

theorem fmul (w : FWord) : Statement (.fmul w) := one_word rfl

theorem fmulI (w : IWord) : Statement (.fmulI w) := i_word rfl

theorem ffma (w : FWord) : Statement (.ffma w) := one_word rfl

theorem fmin (w : FWord) : Statement (.fmin w) := one_word rfl

theorem fminI (w : IWord) : Statement (.fminI w) := i_word rfl

theorem fmax (w : FWord) : Statement (.fmax w) := one_word rfl

theorem fmaxI (w : IWord) : Statement (.fmaxI w) := i_word rfl

theorem fabs (w : FWord) : Statement (.fabs w) := one_word rfl

theorem fneg (w : FWord) : Statement (.fneg w) := one_word rfl

theorem fsgn (w : FWord) : Statement (.fsgn w) := one_word rfl

theorem fcmp (w : FWord) : Statement (.fcmp w) := one_word rfl

theorem fcmpI (w : IWord) : Statement (.fcmpI w) := i_word rfl

theorem fclass (w : FWord) : Statement (.fclass w) := one_word rfl

theorem frnd (w : FWord) : Statement (.frnd w) := one_word rfl

theorem frcp (w : FWord) : Statement (.frcp w) := one_word rfl

theorem frsq (w : FWord) : Statement (.frsq w) := one_word rfl

theorem fsqrt (w : FWord) : Statement (.fsqrt w) := one_word rfl

theorem fexp2 (w : FWord) : Statement (.fexp2 w) := one_word rfl

theorem flog2 (w : FWord) : Statement (.flog2 w) := one_word rfl

theorem fsin (w : FWord) : Statement (.fsin w) := one_word rfl

theorem fcos (w : FWord) : Statement (.fcos w) := one_word rfl

theorem dadd (w : FWord) : Statement (.dadd w) := one_word rfl

theorem daddI (w : IWord) : Statement (.daddI w) := i_word rfl

theorem dsub (w : FWord) : Statement (.dsub w) := one_word rfl

theorem dsubI (w : IWord) : Statement (.dsubI w) := i_word rfl

theorem dmul (w : FWord) : Statement (.dmul w) := one_word rfl

theorem dmulI (w : IWord) : Statement (.dmulI w) := i_word rfl

theorem dfma (w : FWord) : Statement (.dfma w) := one_word rfl

theorem dmin (w : FWord) : Statement (.dmin w) := one_word rfl

theorem dminI (w : IWord) : Statement (.dminI w) := i_word rfl

theorem dmax (w : FWord) : Statement (.dmax w) := one_word rfl

theorem dmaxI (w : IWord) : Statement (.dmaxI w) := i_word rfl

theorem dabs (w : FWord) : Statement (.dabs w) := one_word rfl

theorem dneg (w : FWord) : Statement (.dneg w) := one_word rfl

theorem dcmp (w : FWord) : Statement (.dcmp w) := one_word rfl

theorem dcmpI (w : IWord) : Statement (.dcmpI w) := i_word rfl

theorem dclass (w : FWord) : Statement (.dclass w) := one_word rfl

theorem drnd (w : FWord) : Statement (.drnd w) := one_word rfl

theorem cvt (w : FWord) : Statement (.cvt w) := one_word rfl

theorem cvtf (w : FWord) : Statement (.cvtf w) := one_word rfl

theorem pack (w : FWord) : Statement (.pack w) := one_word rfl

theorem unpack (w : FWord) : Statement (.unpack w) := one_word rfl

theorem qscale (w : FWord) : Statement (.qscale w) := one_word rfl

theorem dqscale (w : FWord) : Statement (.dqscale w) := one_word rfl

theorem fldexp (w : FWord) : Statement (.fldexp w) := one_word rfl

theorem ffrexp (w : FWord) : Statement (.ffrexp w) := one_word rfl

theorem xlane (w : FWord) : Statement (.xlane w) := one_word rfl

theorem vote (w : FWord) : Statement (.vote w) := one_word rfl

theorem ballot (w : FWord) : Statement (.ballot w) := one_word rfl

theorem scan (w : FWord) : Statement (.scan w) := one_word rfl

theorem segscan (w : FWord) : Statement (.segscan w) := one_word rfl

theorem redux (w : FWord) : Statement (.redux w) := one_word rfl

theorem matchM (w : FWord) : Statement (.matchM w) := one_word rfl

theorem elect (w : FWord) : Statement (.elect w) := one_word rfl

theorem active (w : FWord) : Statement (.active w) := one_word rfl

theorem bra (w : IWord) : Statement (.bra w) := i_word rfl

theorem brx (w : FWord) : Statement (.brx w) := one_word rfl

theorem call (w : IWord) : Statement (.call w) := i_word rfl

theorem calli (w : FWord) : Statement (.calli w) := one_word rfl

theorem ret (w : FWord) : Statement (.ret w) := one_word rfl

theorem tie (w : FWord) (x : Option XWord) : Statement (.tie w x) := f_word rfl

theorem join (w : FWord) : Statement (.join w) := one_word rfl

theorem exit (w : FWord) : Statement (.exit w) := one_word rfl

theorem yield (w : FWord) : Statement (.yield w) := one_word rfl

theorem loopq (w : FWord) (x : Option XWord) : Statement (.loopq w x) := f_word rfl

theorem nop (w : FWord) : Statement (.nop w) := one_word rfl

theorem pairedWord (w : PWord) : Statement (.pairedWord w) := one_word rfl

theorem reservedEncoding (w : Word) (x : Option XWord) : Statement (.reservedEncoding w x) := by
  intro hw a y e
  cases x with
  | none => cases e
  | some v =>
    cases e
    refine ⟨class_x v, ?_⟩
    simp only [Instr.wf, reservedWord] at hw
    by_cases h0 : w.extractLsb' 62 2 = 0#2
    · exact .inl h0
    · by_cases h2 : w.extractLsb' 62 2 = 2#2
      · exact .inr h2
      · simp [h0, h2] at hw

theorem ldg (w : FWord) (x : Option XWord) : Statement (.ldg w x) := f_word rfl

theorem stg (w : FWord) (x : Option XWord) : Statement (.stg w x) := f_word rfl

theorem ldl (w : FWord) (x : Option XWord) : Statement (.ldl w x) := f_word rfl

theorem stl (w : FWord) (x : Option XWord) : Statement (.stl w x) := f_word rfl

theorem lds (w : FWord) (x : Option XWord) : Statement (.lds w x) := f_word rfl

theorem sts (w : FWord) (x : Option XWord) : Statement (.sts w x) := f_word rfl

theorem ldw (w : FWord) (x : Option XWord) : Statement (.ldw w x) := f_word rfl

theorem post (w : FWord) (x : Option XWord) : Statement (.post w x) := f_word rfl

theorem atom (w : FWord) (x : Option XWord) : Statement (.atom w x) := f_word rfl

theorem atomcas (w : FWord) (x : Option XWord) : Statement (.atomcas w x) := f_word rfl

theorem red (w : FWord) (x : Option XWord) : Statement (.red w x) := f_word rfl

theorem home (w : FWord) (x : Option XWord) : Statement (.home w x) := f_word rfl

theorem migrG (w : FWord) (x : Option XWord) : Statement (.migrG w x) := f_word rfl

theorem migrL (w : FWord) (x : Option XWord) : Statement (.migrL w x) := f_word rfl

theorem qcfg (w : FWord) : Statement (.qcfg w) := one_word rfl

theorem qidx (w : FWord) : Statement (.qidx w) := one_word rfl

theorem qld (w : FWord) : Statement (.qld w) := one_word rfl

theorem qclose (w : FWord) : Statement (.qclose w) := one_word rfl

theorem fence (w : FWord) : Statement (.fence w) := one_word rfl

theorem fenceX (w : FWord) : Statement (.fenceX w) := one_word rfl

theorem mma (w : FWord) : Statement (.mma w) := one_word rfl

theorem mmaBs (w : FWord) (x : Option XWord) : Statement (.mmaBs w x) := f_word rfl

theorem mmaSp (w : FWord) (x : Option XWord) : Statement (.mmaSp w x) := f_word rfl

theorem bmc (w : FWord) : Statement (.bmc w) := one_word rfl

theorem bmx (w : FWord) : Statement (.bmx w) := one_word rfl

theorem kset (w : FWord) : Statement (.kset w) := one_word rfl

theorem ktst (w : FWord) : Statement (.ktst w) := one_word rfl

theorem mpart (w : FWord) : Statement (.mpart w) := one_word rfl

theorem smerge (w : FWord) (x : Option XWord) : Statement (.smerge w x) := f_word rfl

theorem cp (w : FWord) : Statement (.cp w) := one_word rfl

theorem cpm (w : FWord) : Statement (.cpm w) := one_word rfl

theorem cpcv (w : FWord) : Statement (.cpcv w) := one_word rfl

theorem cpw (w : FWord) : Statement (.cpw w) := one_word rfl

theorem capr (w : FWord) : Statement (.capr w) := one_word rfl

theorem capw (w : FWord) : Statement (.capw w) := one_word rfl

theorem bcallT (w : FWord) (x : Option XWord) : Statement (.bcallT w x) := f_word rfl

theorem bcallN (w : FWord) (x : Option XWord) : Statement (.bcallN w x) := f_word rfl

theorem bwait (w : FWord) : Statement (.bwait w) := one_word rfl

theorem barc (w : FWord) : Statement (.barc w) := one_word rfl

theorem barw (w : FWord) : Statement (.barw w) := one_word rfl

theorem barx (w : FWord) : Statement (.barx w) := one_word rfl

theorem mbar (w : FWord) : Statement (.mbar w) := one_word rfl

theorem gbara (w : FWord) : Statement (.gbara w) := one_word rfl

theorem gbarw (w : FWord) : Statement (.gbarw w) := one_word rfl

theorem qpush (w : FWord) : Statement (.qpush w) := one_word rfl

theorem qpop (w : FWord) : Statement (.qpop w) := one_word rfl

theorem qtryPush (w : FWord) : Statement (.qtryPush w) := one_word rfl

theorem qtryPop (w : FWord) : Statement (.qtryPop w) := one_word rfl

theorem trap (w : FWord) : Statement (.trap w) := one_word rfl

theorem trapI (w : IWord) : Statement (.trapI w) := i_word rfl

theorem tfence (w : FWord) : Statement (.tfence w) := one_word rfl

theorem tret (w : FWord) : Statement (.tret w) := one_word rfl

theorem movsRead (w : FWord) : Statement (.movsRead w) := one_word rfl

theorem movsWrite (w : FWord) : Statement (.movsWrite w) := one_word rfl

theorem movspRead (w : FWord) : Statement (.movspRead w) := one_word rfl

theorem movspWrite (w : FWord) : Statement (.movspWrite w) := one_word rfl

theorem segldL (w : FWord) : Statement (.segldL w) := one_word rfl

theorem segldP (w : FWord) : Statement (.segldP w) := one_word rfl

theorem tlbf (w : FWord) : Statement (.tlbf w) := one_word rfl

theorem tlbiVa (w : FWord) : Statement (.tlbiVa w) := one_word rfl

theorem tlbiCtx (w : FWord) : Statement (.tlbiCtx w) := one_word rfl

theorem tlbiAll (w : FWord) : Statement (.tlbiAll w) := one_word rfl

theorem dlsetRel (w : FWord) : Statement (.dlsetRel w) := one_word rfl

theorem dlsetI (w : IWord) : Statement (.dlsetI w) := i_word rfl

theorem dlsetAbs (w : FWord) : Statement (.dlsetAbs w) := one_word rfl

theorem dlsetDef (w : FWord) : Statement (.dlsetDef w) := one_word rfl

theorem clkrd (w : FWord) : Statement (.clkrd w) := one_word rfl

theorem halt (w : FWord) : Statement (.halt w) := one_word rfl

theorem dstep (w : FWord) : Statement (.dstep w) := one_word rfl

theorem ctxsave (w : FWord) (x : Option XWord) : Statement (.ctxsave w x) := f_word rfl

theorem ctxload (w : FWord) (x : Option XWord) : Statement (.ctxload w x) := f_word rfl

theorem variableLatencyWrite (gid id : Nat) : Statement (.variableLatencyWrite gid id) := no_word rfl

theorem instructionFetch (wait : Nat) : Statement (.instructionFetch wait) := no_word rfl

theorem continuationDeparture (img : Nat) : Statement (.continuationDeparture img) := no_word rfl

theorem imageLanding (img : Nat) : Statement (.imageLanding img) := no_word rfl

theorem holdTransfer (mast : Nat) : Statement (.holdTransfer mast) := no_word rfl

theorem imageAdmission (mast queue : Nat) : Statement (.imageAdmission mast queue) := no_word rfl

theorem tieNotice (msg : Nat) : Statement (.tieNotice msg) := no_word rfl

theorem exitNotice (msg : Nat) : Statement (.exitNotice msg) := no_word rfl

theorem tieExpiry (tie : Nat) : Statement (.tieExpiry tie) := no_word rfl

theorem postedOperation (msg : Nat) : Statement (.postedOperation msg) := no_word rfl

theorem postedAcknowledgement (msg : Nat) : Statement (.postedAcknowledgement msg) := no_word rfl

theorem ldwWake (wait : Nat) : Statement (.ldwWake wait) := no_word rfl

theorem ldwTimeout (wait : Nat) : Statement (.ldwTimeout wait) := no_word rfl

theorem fenceTimeout (wait : Nat) : Statement (.fenceTimeout wait) := no_word rfl

theorem streamFetch (gid q : Nat) : Statement (.streamFetch gid q) := no_word rfl

theorem streamElementArrival (gid q : Nat) : Statement (.streamElementArrival gid q) := no_word rfl

theorem barrierArrival (msg : Nat) : Statement (.barrierArrival msg) := no_word rfl

theorem barrierCompletionNotice (msg : Nat) : Statement (.barrierCompletionNotice msg) := no_word rfl

theorem barrierWaitTimeout (wait : Nat) : Statement (.barrierWaitTimeout wait) := no_word rfl

theorem queueRetry (wait : Nat) : Statement (.queueRetry wait) := no_word rfl

theorem queueWaitTimeout (wait : Nat) : Statement (.queueWaitTimeout wait) := no_word rfl

theorem sliceAccept (wait : Nat) : Statement (.sliceAccept wait) := no_word rfl

theorem sliceWaitTimeout (wait : Nat) : Statement (.sliceWaitTimeout wait) := no_word rfl

theorem cpwTimeout (wait : Nat) : Statement (.cpwTimeout wait) := no_word rfl

theorem capstanAccept (wait : Nat) : Statement (.capstanAccept wait) := no_word rfl

theorem caprTimeout (wait : Nat) : Statement (.caprTimeout wait) := no_word rfl

theorem capstanReduction (mast : Nat) : Statement (.capstanReduction mast) := no_word rfl

theorem capwWake (wait : Nat) : Statement (.capwWake wait) := no_word rfl

theorem capwTimeout (wait : Nat) : Statement (.capwTimeout wait) := no_word rfl

theorem jibCall (call : Nat) : Statement (.jibCall call) := no_word rfl

theorem jibReply (call : Nat) : Statement (.jibReply call) := no_word rfl

theorem bcallParkExpiry (wait : Nat) : Statement (.bcallParkExpiry wait) := no_word rfl

theorem bwaitTimeout (wait : Nat) : Statement (.bwaitTimeout wait) := no_word rfl

theorem implicitWaitExpiry (wait : Nat) : Statement (.implicitWaitExpiry wait) := no_word rfl

theorem walkStart (mast : Nat) : Statement (.walkStart mast) := no_word rfl

theorem walkEnd (mast : Nat) : Statement (.walkEnd mast) := no_word rfl

theorem crewPlacement (mast crew : Nat) : Statement (.crewPlacement mast crew) := no_word rfl

theorem launchComplete (launch : Nat) : Statement (.launchComplete launch) := no_word rfl

theorem cmdNop (queue : Nat) : Statement (.cmdNop queue) := no_word rfl

theorem launch (queue : Nat) : Statement (.launch queue) := no_word rfl

theorem wait (queue : Nat) : Statement (.wait queue) := no_word rfl

theorem waitReread (queue : Nat) : Statement (.waitReread queue) := no_word rfl

theorem stallRecord (queue : Nat) : Statement (.stallRecord queue) := no_word rfl

theorem signal (queue : Nat) : Statement (.signal queue) := no_word rfl

theorem preemptComplete (ctx : Nat) : Statement (.preemptComplete ctx) := no_word rfl

theorem restoreComplete (ctx : Nat) : Statement (.restoreComplete ctx) := no_word rfl

theorem barrierWithdrawal (msg : Nat) : Statement (.barrierWithdrawal msg) := no_word rfl

theorem barrierExit (msg : Nat) : Statement (.barrierExit msg) := no_word rfl

theorem gatheringExpiry (cid tag : Nat) : Statement (.gatheringExpiry cid tag) := no_word rfl

theorem tackleTransfer (mast quad : Nat) (picks : List (Nat × Nat)) : Statement (.tackleTransfer mast quad picks) := no_word rfl

theorem escalationIncrement (msg : Nat) : Statement (.escalationIncrement msg) := no_word rfl

theorem escalationReset (msg : Nat) : Statement (.escalationReset msg) := no_word rfl

theorem retry (mast idx : Nat) (seq : BitVec 32) : Statement (.retry mast idx seq) := no_word rfl

theorem fail (mast idx : Nat) (seq : BitVec 32) : Statement (.fail mast idx seq) := no_word rfl

theorem doorbell (value : Word) : Statement (.doorbell value) := no_word rfl

theorem drvfeatWrite (value : Word) : Statement (.drvfeatWrite value) := no_word rfl

theorem journalControlWrite (off : Nat) (value : Word) : Statement (.journalControlWrite off value) := no_word rfl

theorem registerWrite (off : Nat) (value : Word) : Statement (.registerWrite off value) := no_word rfl

theorem ctxreg (c : HCmd) : Statement (.ctxreg c) := no_word rfl

theorem qreg (c : HCmd) : Statement (.qreg c) := no_word rfl

theorem qrestart (c : HCmd) : Statement (.qrestart c) := no_word rfl

theorem preempt (c : HCmd) : Statement (.preempt c) := no_word rfl

theorem pdlExpiry (ctx : Nat) : Statement (.pdlExpiry ctx) := no_word rfl

theorem restore (c : HCmd) : Statement (.restore c) := no_word rfl

theorem resume (c : HCmd) : Statement (.resume c) := no_word rfl

theorem debuggo (c : HCmd) : Statement (.debuggo c) := no_word rfl

theorem destroy (c : HCmd) : Statement (.destroy c) := no_word rfl

theorem ftag (c : HCmd) : Statement (.ftag c) := no_word rfl

theorem member (c : HCmd) : Statement (.member c) := no_word rfl

theorem membershipTimeout (dev : Nat) : Statement (.membershipTimeout dev) := no_word rfl

theorem ckpt (c : HCmd) : Statement (.ckpt c) := no_word rfl

theorem ckload (c : HCmd) : Statement (.ckload c) := no_word rfl

theorem attest (c : HCmd) : Statement (.attest c) := no_word rfl

theorem rdmaWrite (qp key off : Nat) (data : List Byte) : Statement (.rdmaWrite qp key off data) := no_word rfl

theorem rdmaRead (qp key off len : Nat) : Statement (.rdmaRead qp key off len) := no_word rfl

theorem compareAndSwap (qp key off : Nat) (cmp swap : Word) : Statement (.compareAndSwap qp key off cmp swap) := no_word rfl

theorem fetchAndAdd (qp key off : Nat) (add : Word) : Statement (.fetchAndAdd qp key off add) := no_word rfl

theorem invalidRequest (qp : Nat) : Statement (.invalidRequest qp) := no_word rfl

theorem cnp (qp : Nat) : Statement (.cnp qp) := no_word rfl

theorem ecnCe (qp : Nat) : Statement (.ecnCe qp) := no_word rfl

theorem riluaganFlit (f : Flit) : Statement (.riluaganFlit f) := no_word rfl

theorem shroudPortFailure (port : Nat) : Statement (.shroudPortFailure port) := no_word rfl

theorem row (mast : Nat) (pa : BitVec 36) : Statement (.row mast pa) := no_word rfl

theorem bank (mast : Nat) (pa : BitVec 36) : Statement (.bank mast pa) := no_word rfl

theorem fenceStation (mast stn : Nat) : Statement (.fenceStation mast stn) := no_word rfl

theorem fenceMast (mast : Nat) : Statement (.fenceMast mast) := no_word rfl

theorem repairComplete (mast : Nat) : Statement (.repairComplete mast) := no_word rfl

theorem scrub (mast sector : Nat) : Statement (.scrub mast sector) := no_word rfl

theorem softError (site : SoftSite) (correctable : Bool) : Statement (.softError site correctable) := no_word rfl

theorem tierReady (mast tier : Nat) : Statement (.tierReady mast tier) := no_word rfl

theorem tierReadyTimeout (mast tier : Nat) : Statement (.tierReadyTimeout mast tier) := no_word rfl

theorem clockScaling (mast n : Nat) : Statement (.clockScaling mast n) := no_word rfl

theorem thermalThrottle (temp : BitVec 8) : Statement (.thermalThrottle temp) := no_word rfl

theorem thermalHold (temp : BitVec 8) : Statement (.thermalHold temp) := no_word rfl

theorem thermalTrip (temp : BitVec 8) : Statement (.thermalTrip temp) := no_word rfl

theorem shroudPath (dev : Nat) : Statement (.shroudPath dev) := no_word rfl

theorem qpAbandoned (qp : Nat) : Statement (.qpAbandoned qp) := no_word rfl

theorem thermalHoldRelease (temp : BitVec 8) : Statement (.thermalHoldRelease temp) := no_word rfl

theorem crewAdmission : Statement (.crewAdmission) := no_word rfl

theorem gangStart : Statement (.gangStart) := no_word rfl

theorem gangAgeLimit : Statement (.gangAgeLimit) := no_word rfl

theorem ckptImageWrite : Statement (.ckptImageWrite) := no_word rfl

theorem eventWrite : Statement (.eventWrite) := no_word rfl

theorem replayDivergence : Statement (.replayDivergence) := no_word rfl

theorem powerOn : Statement (.powerOn) := no_word rfl

theorem powerDown : Statement (.powerDown) := no_word rfl

end Sys2Proof.Laws.XWords
end

