-- ==== Sys2Proof/Tests/Slice0.lean ====
section
/-! SUPPORT. Tests: small facts that the spec writes out, and the witnesses of the statements. -/

set_option Elab.async false

namespace Sys2Proof.Tests

open Sys2Proof Sys2Proof.Machine Sys2Proof.Safety

/-! ## Encodings (the words that the spec writes out) -/

/-- An F word from its fields in the order of R59. -/
def fw (gneg : Bool) (guard : BitVec 3) (stall : BitVec 4) (dest a b c : Operand) (hi lo : BitVec 8) : FWord :=
  { gneg := gneg, guard := guard, stall := stall, dest := dest, a := a, b := b, c := c, hi := hi, lo := lo }

/-- An I word from its fields in the order of R60. -/
def iw (guard : BitVec 3) (stall : BitVec 4) (dest a : Operand) (imm : BitVec 30) (x : Option XWord) : IWord :=
  { gneg := false, guard := guard, stall := stall, dest := dest, a := a, imm := imm, x := x }

/-- Spec 03, R83: `FADD.F32 v2, v2, 1.5 ^5`. -/
theorem test_decode_faddI : decode 0x8400_5040_8FF0_0000 none = .faddI (iw 0 5 (.v 2) (.v 2) 0x0FF0_0000 none) := by decide

/-- Spec 03, R83: `FFMA.F32.RUP v8, v0, v1, v2 ^5`. -/
theorem test_decode_ffma : decode 0x0430_5100_0082_0D60 none = .ffma (fw false 0 5 (.v 8) (.v 0) (.v 1) (.v 2) 0x0D 0x60) := by decide

/-- Spec 03, R83: `FFMA.F32 v8, v1, v2, v8 || FFMA.F32 v11, v5, v6, v11 ^1`. -/
theorem test_decode_pair : decode 0x4660_4010_5302_C286 none =
    .pairedWord { stall := 1, ha := { hop := .ffma, guard := 0, dest := .v 8, a := .v 1, b := .v 2 }, hb := { hop := .ffma, guard := 0, dest := .v 11, a := .v 5, b := .v 6 } } := by decide

/-- Spec 03, R83: `EXIT`. -/
theorem test_decode_exit : decode 0x1070_0F9F_3E7C_0000 none = .exit (fw false 0 0 .zero .zero .zero .zero 0 0) := by decide

/-- Spec 03, R82: `NOP`, the padding of `.align`. -/
theorem test_decode_nop : decode 0x10A0_0F9F_3E7C_0000 none = .nop (fw false 0 0 .zero .zero .zero .zero 0 0) := by decide

/-- Spec 04: `(!p1) SEGSCAN.F32.ADD v5, v4, p2 ^10`. -/
theorem test_decode_segscan : decode 0x0C49_A0A1_317C_0D00 none = .segscan (fw true 1 10 (.v 5) (.v 4) (.p 2) .zero 0x0D 0x00) := by decide

/-- Spec 04: `TIE meet1 live:0b0000_0001`. -/
theorem test_decode_tie : decode 0x1050_0F9F_3E7C_0100 (some 0xC000_0000_0000_0006) =
    .tie (fw false 0 0 .zero .zero .zero .zero 0x01 0x00) (some 6) := by decide

/-- Spec 04: `JOIN s7, d1, 0, 0`. -/
theorem test_decode_join : decode 0x1060_08FE_7E7C_0000 none = .join (fw false 0 0 (.s 7) (.d 1) .zero .zero 0 0) := by decide

/-- Spec 05: the `ATOM` of `agas`, with its X word. -/
theorem test_decode_atom : decode 0x1480_00D1_0082_01C0 (some 0xC010_3E7C_0000_0010) =
    .atom (fw false 0 0 (.v 6) (.s 4) (.v 1) (.v 2) 0x01 0xC0) (some 0x0010_3E7C_0000_0010) := by decide

/-- Spec 06: `MMA.SP.2x2.E4M3.AC4 v32, v8, v0, v32, v10, v11, k2`. -/
theorem test_decode_mmaSp : decode 0x1820_0402_0020_5082 (some 0xC000_0000_8142_FE7C) =
    .mmaSp (fw false 0 0 (.v 32) (.v 8) (.v 0) (.v 32) 0x50 0x82) (some 0x0000_0000_8142_FE7C) := by decide

/-- Spec 06: `MPART v4, v2, s3, v1`. -/
theorem test_decode_mpart : decode 0x1870_0080_A181_0000 none = .mpart (fw false 0 0 (.v 4) (.v 2) (.s 3) (.v 1) 0 0) := by decide

/-- Spec 07: `CP s9, d2, s12`. -/
theorem test_decode_cp : decode 0x1C00_093E_A67C_0000 none = .cp (fw false 0 0 (.s 9) (.d 2) (.s 12) .zero 0 0) := by decide

/-- Spec 08: `DLSET d0, 3000` in its I form. -/
theorem test_decode_dlset : decode 0xA480_0F1F_0000_0BB8 none = .dlsetI (iw 0 0 (.d 0) .zero 3000 none) := by decide

/-- Spec 08: `BARC s6, 0, 3`, `BARW s7, d0, s6, 3` and `BARX s8, s6, 3`. -/
theorem test_decode_barriers :
    decode 0x2000_08DF_3E7C_0003 none = .barc (fw false 0 0 (.s 6) .zero .zero .zero 0 3) ∧
    decode 0x2010_08FE_237C_0003 none = .barw (fw false 0 0 (.s 7) (.d 0) (.s 6) .zero 0 3) ∧
    decode 0x2020_091F_237C_0003 none = .barx (fw false 0 0 (.s 8) .zero (.s 6) .zero 0 3) := by decide

/-- Spec 09: `LDG.B32 v20, [s2 + v1*4] live:0b0000_0101`: its address byte asks for no X word. -/
theorem test_decode_ldg : decode 0x1400_0290_80FC_0544 (some 0xC000_0000_0000_0006) =
    .ldg (fw false 0 0 (.v 20) (.s 2) (.v 1) .zero 0x05 0x44) none := by decide

/-- Spec 11: the `LDW` with its X word. -/
theorem test_decode_ldw : decode 0x1460_0071_3E46_0184 (some 0xC000_3CC9_0000_0000) =
    .ldw (fw false 0 0 (.v 3) (.s 4) .zero (.s 6) 0x01 0x84) (some 0x0000_3CC9_0000_0000) := by decide

/-- Spec 12: `QLD`, `PTAB`, `LOOPQ`, `MIGR.G` and `RED`. -/
theorem test_decode_graph :
    decode 0x14F0_007C_70FC_0004 none = .qld (fw false 0 0 (.v 3) (.q 1) (.p 1) .zero 0 4) ∧
    decode 0x01E0_4CB9_3160_0020 none = .ptab (fw false 0 4 (.p 5) (.p 4) (.p 2) (.p 0) 0 0x20) ∧
    decode 0x1090_0F9C_BE7C_0000 (some 0xC000_0000_3FFF_FFF4) = .loopq (fw false 0 0 .zero (.q 2) .zero .zero 0 0) (some 0x3FFF_FFF4) ∧
    decode 0x14C4_0F95_7E7C_0100 none = .migrG (fw false 4 0 .zero (.s 21) .zero .zero 1 0) none ∧
    decode 0x14A3_0F95_0348_1140 none = .red (fw false 3 0 .zero (.s 20) (.v 6) (.s 8) 0x11 0x40) none := by decide

/-- Spec 13: `MMA`, `BMX`, `CAPR`, `GBARA`, `GBARW.KEEP`, `BARX.GRID`, `POST` and `FENCE.POST.dev`. -/
theorem test_decode_matrix :
    decode 0x1800_0404_0C7C_1082 none = .mma (fw false 0 0 (.v 32) (.v 16) (.v 24) .zero 0x10 0x82) ∧
    decode 0x1840_0202_057C_1098 none = .bmx (fw false 0 0 (.v 16) (.v 8) (.v 10) .zero 0x10 0x98) ∧
    decode 0x1C40_08FE_20FC_0000 none = .capr (fw false 0 0 (.s 7) (.d 0) (.s 1) .zero 0 0) ∧
    decode 0x2040_08DF_3E7C_0000 none = .gbara (fw false 0 0 (.s 6) .zero .zero .zero 0 0) ∧
    decode 0x2050_08FE_A37C_0010 none = .gbarw (fw false 0 0 (.s 7) (.d 2) (.s 6) .zero 0 0x10) ∧
    decode 0x1474_0F95_FE49_0004 none = .post (fw false 4 0 .zero (.s 23) .zero (.s 9) 0 4) none ∧
    decode 0x1510_095E_65FC_0203 none = .fence (fw false 0 0 (.s 10) (.d 1) (.s 11) .zero 2 3) := by decide

/-- Spec 16: `BCALL.T`, `FENCE.X`, and `STG` with an X word. -/
theorem test_decode_jib :
    decode 0x1C61_0070_417C_0000 none = .bcallT (fw false 1 0 (.v 3) (.s 1) (.v 2) .zero 0 0) none ∧
    decode 0x1520_095E_65FC_2802 none = .fenceX (fw false 0 0 (.s 10) (.d 1) (.s 11) .zero 0x28 2) ∧
    decode 0x1415_0F90_4209_00C4 (some 0xC000_3E7C_0000_00C0) =
      .stg (fw false 5 0 .zero (.s 1) (.v 4) (.v 9) 0 0xC4) (some 0x0000_3E7C_0000_00C0) := by decide

/-- R76, R77: an unallocated opcode and a stray X word are no instruction. -/
theorem test_decode_reserved :
    decode 0x02F0_0F9F_3E7C_0000 none = .reservedEncoding 0x02F0_0F9F_3E7C_0000 none ∧
    decode 0xC000_0000_0000_0006 none = .reservedEncoding 0xC000_0000_0000_0006 none := by decide

/-! ## Well-formedness: each check refuses an ill-formed term -/

/-- An F word of zeros. -/
def fz : FWord := fw false 0 0 .zero .zero .zero .zero 0 0

theorem test_wf_operand : Operand.wf (.rsv 3) = false ∧ Operand.wf (.rsv 2) = true := by decide
theorem test_wf_f : Instr.wf (.iadd { fz with c := .rsv 3 }) = false ∧ Instr.wf (.iadd fz) = true := by decide
theorem test_wf_i : Instr.wf (.iaddI (iw 0 0 .zero (.rsv 3) 0 none)) = false := by decide
theorem test_wf_half : Instr.wf (.pairedWord { stall := 0, ha := { hop := .rsv 1, guard := 0, dest := .zero, a := .zero, b := .zero }, hb := { hop := .nop, guard := 0, dest := .zero, a := .zero, b := .zero } }) = false := by decide
theorem test_wf_x : Instr.wf (.ldg fz (some 0)) = false ∧ Instr.wf (.ldg { fz with lo := 0x84 } (some 0)) = true := by decide
theorem test_wf_migr : Instr.wf (.migrG { fz with lo := 1 } none) = false ∧ Instr.wf (.migrL fz none) = false := by decide
theorem test_wf_bcall : Instr.wf (.bcallT { fz with lo := 1 } none) = false ∧ Instr.wf (.bcallN fz none) = false := by decide
theorem test_wf_try : Instr.wf (.qtryPush { fz with lo := 8 }) = false ∧ Instr.wf (.qtryPop fz) = false := by decide
theorem test_wf_movs : Instr.wf (.movsRead { fz with hi := 1 }) = false ∧ Instr.wf (.movsWrite fz) = false ∧
    Instr.wf (.movspRead { fz with hi := 1 }) = false ∧ Instr.wf (.movspWrite fz) = false := by decide
theorem test_wf_segld : Instr.wf (.segldL { fz with lo := 1 }) = false ∧ Instr.wf (.segldP fz) = false := by decide
theorem test_wf_tlbi : Instr.wf (.tlbiVa { fz with lo := 1 }) = false ∧ Instr.wf (.tlbiVa { fz with lo := 2 }) = false ∧
    Instr.wf (.tlbiCtx fz) = false ∧ Instr.wf (.tlbiAll fz) = false := by decide
theorem test_wf_dlset : Instr.wf (.dlsetRel { fz with lo := 1 }) = false ∧ Instr.wf (.dlsetRel { fz with lo := 2 }) = false ∧
    Instr.wf (.dlsetAbs fz) = false ∧ Instr.wf (.dlsetDef fz) = false := by decide
theorem test_wf_reserved : Instr.wf (.reservedEncoding 0x10A0_0F9F_3E7C_0000 none) = false ∧
    Instr.wf (.reservedEncoding 0x02F0_0F9F_3E7C_0000 (some 0)) = false ∧ Instr.wf (.reservedEncoding 0x8400_5040_8FF0_0000 none) = false ∧
    Instr.wf (.reservedEncoding 0xC000_0000_0000_0006 (some 0)) = false ∧ Instr.wf (.reservedEncoding 0x02F0_0F9F_3E7C_0000 none) = true := by decide
theorem test_wf_masts : Instr.wf (.holdTransfer 16) = false ∧ Instr.wf (.imageAdmission 0 65) = false ∧ Instr.wf (.streamFetch 0 8) = false ∧
    Instr.wf (.streamElementArrival 0 8) = false ∧ Instr.wf (.gatheringExpiry 0 16) = false ∧ Instr.wf (.tackleTransfer 0 16 []) = false ∧
    Instr.wf (.retry 0 256 0) = false ∧ Instr.wf (.fail 0 256 0) = false ∧ Instr.wf (.membershipTimeout 1024) = false ∧
    Instr.wf (.shroudPortFailure 18) = false ∧ Instr.wf (.fenceStation 0 64) = false ∧ Instr.wf (.tierReady 0 3) = false ∧
    Instr.wf (.tierReadyTimeout 0 3) = false ∧ Instr.wf (.clockScaling 0 7) = false ∧ Instr.wf (.clockScaling 0 17) = false ∧
    Instr.wf (.shroudPath 1024) = false := by decide
theorem test_wf_qp : Instr.wf (.rdmaWrite 4096 0 0 []) = false ∧ Instr.wf (.rdmaRead 0 4096 0 0) = false ∧
    Instr.wf (.compareAndSwap 4096 0 0 0 0) = false ∧ Instr.wf (.fetchAndAdd 0 4096 0 0) = false ∧ Instr.wf (.invalidRequest 4096) = false ∧
    Instr.wf (.cnp 4096) = false ∧ Instr.wf (.ecnCe 4096) = false ∧ Instr.wf (.qpAbandoned 4096) = false := by decide

/-! ## Witnesses: a state and operands that meet the hypotheses of each statement

The states come from `ready`: right after reset, one launch with one group of eight lanes has been placed, and its eight lanes
issue the given word at address 0x1000. Each witness names the obligation whose hypotheses it meets. -/

/-- An F word with guard p0 and a stall count of 3. -/
def F (dest a b c : Operand) (hi lo : BitVec 8) : FWord := fw false 0 3 dest a b c hi lo
/-- An I word with guard p0. -/
def I (dest a : Operand) (imm : BitVec 30) (x : Option XWord) : IWord := iw 0 2 dest a imm x
def Z := Operand.zero
def V (n : Nat) := Operand.v (BitVec.ofNat 6 n)
def S (n : Nat) := Operand.s (BitVec.ofNat 5 n)
def K (n : Nat) := Operand.k (BitVec.ofNat 3 n)
def P (n : Nat) := Operand.p (BitVec.ofNat 3 n)
def D (n : Nat) := Operand.d (BitVec.ofNat 2 n)
def Q (n : Nat) := Operand.q (BitVec.ofNat 3 n)

/-- The first lanes of the group issue this instruction. -/
def readyAt (lanes : Mask) (i : Instr) : State :=
  match encode i with
  | some (w, x) => { State.reset.withFetchWord 128 (w.toNat + (x.getD 0).toNat * 2 ^ 64) with
      issuing := some { sid := 2, lanes := lanes, pc := 0x1000, iword := w, xword := x.getD 0, quads := none } }
  | none => State.reset
def ready (i : Instr) : State := readyAt 0xFF i

def rg (x : Reg) (v : Word) (s : State) : State := s.updSub 2 (fun g => g.writeNow x v)
def lanes (f : Lane → Lane) (s : State) : State := s.updSub 2 (fun g => g.mapLanes 0xFF f)
/-- The first window of the station, as an address. -/
def W : Word := 0x100000000000
/-- The crew has the whole station store, which its context owns. -/
def win (s : State) : State := (s.updCrew 3 (fun c => { c with lseg := 0x140000 })).updStn 0 0 (fun t => { t with tag := 1 })
/-- Words in the station's store. -/
def put (off : Nat) (ws : List Word) (s : State) : State := s.store (localCell 0 0 off) (ws.flatMap (fun w => leBytes 8 w.toNat))
/-- A stack of trap frames and a trap vector. -/
def frames (s : State) : State := put 0x108 [W + 0x1000] (win (s.updCtx 1 (fun c => { c with save := W + 0x100, tvec := 0x4000 })))
/-- A queue of four entries in the station's store. -/
def que (head tail : Nat) (s : State) : State :=
  s.store (localCell 0 0 0x3FF00) (leBytes 4 tail ++ leBytes 4 head ++ leBytes 4 0x1000 ++ leBytes 2 4 ++ leBytes 2 0 ++ leBytes 16 0)
/-- Supervisor mode. -/
def sup (s : State) : State := s.updSub 2 (fun g => { g with ctl := 4 })
/-- An address in s1, and one offset for each lane in v2. -/
def mw (s : State) : State := rg (.s 1) (W + 0x2000) ((List.range 8).foldl (fun s l => rg (.v l 2) (BitVec.ofNat 64 (4 * l)) s) (win s))

/-- The instruction issues, and something holds of its issue. -/
def issued (s : State) (i : Instr) (f : Run → Bool) : Bool := (issues s i).any f
/-- The issue completes without a debug step or a tie point. -/
def calm (r : Run) : Bool := quiet r (nextPc r)

/-- The places of the lanes' accesses. -/
def cellsOf (s : State) (r : Run) (sp : Space) (acc : BitVec 2) (addr : Nat → Word) (l : Nat) : Nat :=
  match s.laneAt r sp (addr l) acc with | .cell c => c | _ => 0
/-- The hypotheses LocalAccess and Sound, decided, where no sector has a symbol error. -/
def localOk (s : State) (r : Run) (sp : Space) (size : Nat) (acc : BitVec 2) (addr : Nat → Word) : Bool :=
  decide (s.memCheck r sp size true true addr = none) && decide (s.bad = []) && decide (s.soft = []) &&
  (lanesOf r.act).all (fun l => decide (s.laneAt r sp (addr l) acc = .cell (cellsOf s r sp acc addr l)) &&
    (s.laneHome r sp (addr l)).all (fun h => isHere r.sg h))

theorem localAccess_of_ok (s : State) (r : Run) (sp : Space) (size : Nat) (acc : BitVec 2) (addr : Nat → Word)
    (h : localOk s r sp size acc addr = true) :
    LocalAccess s r sp size acc addr (cellsOf s r sp acc addr) ∧ Sound s (lanesOf r.act) (cellsOf s r sp acc addr) size := by
  simp only [localOk, Bool.and_eq_true, decide_eq_true_eq, List.all_eq_true] at h
  obtain ⟨⟨⟨h1, h2⟩, h3⟩, h4⟩ := h
  refine ⟨⟨h1, fun l hl => ⟨(h4 l hl).1, fun x hx => ?_⟩⟩, fun c hc => ?_⟩
  · have := (h4 l hl).2
    rw [hx] at this
    simpa using this
  · simp [h2, h3] at hc

/-! ### Computing words -/

def aluIs (i : Instr) (fixed : Bool) : Bool :=
  match aluForm i with | some (_, sh, _) => sh.latency.isSome == fixed | none => false

theorem test_witness_ComputingWords :
    ([.iadd (F (V 5) (V 1) (V 2) Z 4 0), .imad (F (V 5) (V 1) (V 2) (V 3) 4 0), .icmp (F (P 5) (V 4) (V 2) Z 4 0), .fadd (F (V 5) (V 1) (V 2) Z 0x0D 0),
      .dfma (F (V 10) (V 2) (V 4) (V 6) 0x0C 0), .movI (I (V 5) Z 3 none), .faddI (I (V 6) (V 2) 3 none)] : List Instr).all
      (fun i => aluIs i true && issued (ready i) i calm) = true := by decide +kernel

theorem test_witness_ComputingWords_variable :
    ([.idiv (F (V 5) (V 1) (V 2) Z 4 0), .irem (F (V 5) (V 1) (V 2) Z 4 0)] : List Instr).all
      (fun i => aluIs i false && issued (ready i) i calm) = true := by decide +kernel

theorem test_witness_ConversionWords :
    ([.cvt (F (V 4) (V 2) Z Z 0 0), .unpack (F (V 8) (V 4) Z Z 0x20 0)] : List Instr).all
      (fun i => (convForm i).isSome && issued (ready i) i calm) = true := by decide +kernel

theorem test_witness_GroupWords :
    ([.xlane (F (V 4) (V 2) (V 3) Z 8 0), .ballot (F (V 4) (P 2) Z Z 0 0), .segscan (F (V 4) (V 2) (P 2) Z 0x0D 0), .redux (F (V 4) (V 2) Z Z 4 0)] : List Instr).all
      (fun i => (groupForm i).isSome && issued (ready i) i calm) = true := by decide +kernel

def pairW : PWord := { stall := 1, ha := { hop := .ffma, guard := 2, dest := V 8, a := V 1, b := V 2 }, hb := { hop := .iadd, guard := 0, dest := V 8, a := V 5, b := V 6 } }

theorem test_witness_PairedWord : (pairIssues (ready (.pairedWord pairW)) pairW).any calm = true := by decide +kernel

/-! ### Control words -/

theorem test_witness_BranchWords :
    (([.nop (F Z Z Z Z 0 0), .bra (I Z Z 0x3FFF_FFF4 none), .brx (F Z (S 3) Z Z 0 0), .ret (F Z (S 3) Z Z 0 0), .tfence (F Z Z Z Z 0 0)] : List Instr).all
      (fun i => issued (ready i) i (fun r => (branchForm r i).any (quiet r))) &&
     (let i := Instr.yield (F Z Z Z Z 0 0); issued (ready i) i calm)) = true := by decide +kernel

theorem test_witness_CallWords :
    ([.call (I (S 4) Z 5 none), .call (I (V 4) Z 5 none), .calli (F (S 4) (S 3) Z Z 0 0)] : List Instr).all
      (fun i => issued (ready i) i (fun r => (linkForm r i).any (fun e => quiet r e.1))) = true := by decide +kernel

theorem test_witness_TieWord :
    ((let i := Instr.tie (F Z Z Z Z 1 0) (some 6)
      let s := ready i
      issued s i (fun r =>
        let meet := r.pc + BitVec.ofInt 64 (8 * ((6 : XWord).extractLsb' 0 30).toInt)
        decide (meet ≠ 0) && s.tieRoom r.gid r.sg.mast r.sg.stn meet &&
          quiet { r with sg := tiedSub r.sg r.act meet (encPlace s.devno r.sg.mast r.sg.stn) 1 } (nextPc r))) &&
     (let t : Tie := { gid := 1, mast := 0, stn := 0, m := 0x2000, isOpen := true, opened := false, dl := 0, member := 3, held := 0, sid := none }
      let s := { State.reset with ties := [(7, t)] }
      decide ((s.ties.map (fun e => e.1)).Nodup) && (s.ties.find? (fun e => decide (e.2.gid = 1) && decide (e.2.mast = 0) && decide (e.2.stn = 0) && decide (e.2.m = 0x2000))).isSome)) = true := by
  decide +kernel

theorem test_witness_ExitWord : (let i := Instr.exit (F Z Z Z Z 0 0); issued (ready i) i (fun r => decide (r.act = r.set))) = true := by decide +kernel

/-- For the last clause: a part of the lanes ends, the others stay. -/
theorem test_witness_ExitWord_part :
    (let i := Instr.exit (F Z Z Z Z 0 0)
     issued (readyAt 0x0F i) i (fun r => decide (r.act = r.set) && decide ((r.g.ended ||| r.set) &&& widthMask r.g.width ≠ widthMask r.g.width))) = true := by decide +kernel

theorem test_witness_LaterWords :
    (([.kset (F (K 1) (S 3) Z Z 0 0), .ktst (F (P 4) (K 1) Z Z 0 0), .movsRead (F (V 4) Z Z Z 0 0), .home (F (V 4) (S 1) (V 2) Z 0 0) none,
       .join (F (S 7) (D 1) Z Z 0 0), .qtryPush (F (S 4) Z (S 8) Z 0 0)] : List Instr).all
      (fun i => let s := mw (ready i); issued s i (fun r => (laterForm s r i).isSome && calm r)) &&
     ([.barw (F (S 3) (D 0) (S 4) Z 0 0), .gbarw (F (S 3) (D 0) (S 4) Z 0 0), .barx (F (S 3) Z (S 4) Z 0 0)] : List Instr).all
      (fun i => let s := rg (.s 4) 7 (ready i); issued s i (fun r => (laterForm s r i).isSome && calm r))) = true := by decide +kernel

theorem test_witness_EffectWords :
    ([.movsRead (F (S 4) Z Z Z 0 1), .movsWrite (F Z (S 4) Z Z 0 1), .dlsetI (I (D 0) Z 3000 none), .clkrd (F (S 4) Z Z Z 0 0), .tlbiAll (F Z Z Z Z 0 2),
      .segldP (F Z (S 3) Z Z 0 1), .dstep (F Z Z Z Z 0 0), .migrG (F Z (S 1) Z Z 1 0) none] : List Instr).any
      (fun i => let s := sup (mw (ready i)); issued s i (fun r => (effectForm s r i).isSome && calm r)) = true := by decide +kernel

theorem test_witness_SettlingWords :
    ((let i := Instr.bwait (F (S 3) (D 0) Z Z 0 0)
      let s := ready i
      issued s i (fun r => (settleForm s r i).any (fun e => quiet { r with sg := e.1 } (nextPc r)))) &&
     (let i := Instr.join (F (S 3) (D 0) (S 4) (S 5) 0 0)
      let s := rg (.s 5) 0x8000 (lanes (fun l => { l with rel := some (0x83, 0), meet := 0x1000 }) (ready i))
      issued s i (fun r => (settleForm s r i).any (fun e => quiet { r with sg := e.1 } (nextPc r))))) = true := by decide +kernel

/-! ### Memory words -/

theorem test_witness_LoadWords :
    ([.ldg (F (V 3) (S 1) (V 2) Z 0 0x04) none, .ldl (F (V 3) (S 6) (V 2) Z 0 0x04) none] : List Instr).all
      (fun i => let s := mw (ready i); issued s i (fun r => calm r &&
        (loadForm i).any (fun e => localOk s r e.2.2 (szBytes (szOf e.1)) 0 (memAddr e.1 e.2.1 r)))) = true := by decide +kernel

theorem test_witness_StoreWords :
    ([.stg (F Z (S 1) (V 2) (V 9) 0 0x04) none, .stl (F Z (S 6) (V 2) (V 9) 0 0x04) none] : List Instr).all
      (fun i => let s := mw (ready i); issued s i (fun r => calm r &&
        (storeForm i).any (fun e => localOk s r e.2.2 (szBytes (szOf e.1)) 1 (memAddr e.1 e.2.1 r)))) = true := by decide +kernel

/-- For the last clause: the lanes store to places that do not meet. -/
theorem test_witness_StoreWords_apart :
    (let i := Instr.stg (F Z (S 1) (V 2) (V 9) 0 0x04) none
     let s := mw (ready i)
     issued s i (fun r => let c := cellsOf s r .glob 1 (memAddr (F Z (S 1) (V 2) (V 9) 0 0x04) none r)
       (lanesOf r.act).all (fun l => (lanesOf r.act).all (fun k => !decide (l < k) || decide (c l + 4 ≤ c k))))) = true := by decide +kernel

theorem test_witness_AtomicWords :
    (([.atom (F (V 6) (S 1) Z (V 9) 0x01 0xC0) (some 0x0010_3E7C_0000_0010), .atomcas (F (V 6) (S 1) Z (V 9) 0x01 0xC4) (some 0x3E7C_0000_0010)] : List Instr).all
      (fun i => let s := mw (ready i); issued s i (fun r => calm r &&
        (atomForm i).any (fun e => localOk s r .glob e.2.2.1.size 1 (memAddr e.1 e.2.1 r) &&
          (lanesOf r.act).all (fun l => let m := cellMast (sectorOf (cellsOf s r .glob 1 (memAddr e.1 e.2.1 r) l)); decide (m / 16 = s.dev) && !(s.jrnOf (m % 16)).atom)))) &&
     Memory.wf (mw (ready .crewAdmission)).mem) = true := by decide +kernel

theorem test_witness_MemoryChecks :
    (let w := F (V 3) (S 1) Z Z 0 0x04
     let i := Instr.ldg w none
     let s := rg (.s 1) (W + 0x2002) (mw (ready i))
     issued s i (fun r => (s.memCheck r .glob (szBytes (szOf w)) true true (memAddr w none r)).isSome)) = true := by decide +kernel

theorem test_witness_PostedWords :
    ((let w := F Z (S 1) (V 2) (V 9) 0 0x04
      let i := Instr.post w none
      let s := mw (ready i)
      issued s i (fun r => (s.memCheck r .glob 4 false false (memAddr w none r)).isNone && !r.g.walker && calm r)) &&
     (let w := F Z (S 1) (V 2) (V 9) 0x00 0x40
      let i := Instr.red w none
      let s := mw (ready i)
      issued s i (fun r => (s.memCheck r .glob 4 false false (memAddr w none r)).isNone && !r.g.walker && calm r))) = true := by decide +kernel

theorem test_witness_MigrateAway :
    (let w := F Z (S 21) Z Z 1 0
     let i := Instr.migrG w none
     let s := rg (.s 21) 0x0002000000000000 (ready i)
     issued s i (fun r => (s.memCheck r .glob 0 false true (memAddr w none r)).isNone && !r.g.walker && decide (r.act = r.set) &&
       (s.laneHome r .glob (memAddr w none r r.low)).any (fun h => !isHere r.sg h && (lanesOf r.act).all (fun l => decide (s.laneHome r .glob (memAddr w none r l) = some h))) &&
       (lanesOf r.act).all (fun l => decide ((SMap.get? r.sg.lanes l).map (fun y => y.meet) = some 0)) &&
       r.sg.lanes.all (fun e => r.act.getLsbD e.1 && decide (SMap.get? r.sg.lanes e.1 = some e.2)))) = true := by decide +kernel

theorem test_witness_WaitingLoadSatisfied :
    (let w := F (V 3) (S 1) Z (S 6) 0x01 0x84
     let x : XWord := 0x0000_3CC9_0000_0000
     let i := Instr.ldw w (some x)
     let s := mw (ready i)
     issued s i (fun r => !r.g.walker && decide (r.stall = stallOf r.iw) && decide (szOf w ≠ 5) && localOk s r .glob 4 0 (memAddr w (some x) r) && calm r &&
       (lanesOf r.act).all (fun l => ldwHolds (fieldOf x 46 3) (x.getLsbD 49) false (s.num (cellsOf s r .glob 0 (memAddr w (some x) r) l) 4) (r.val false w.c l)))) = true := by
  decide +kernel

/-! ### Streams and fences -/

/-- The descriptor of a walk in s8 to s13. -/
def walkOf (s : State) : State :=
  ((List.range 6).zip [W + 0x1000, 0x0000_0004_0000_0010, 0x0000_5000_0000_0001, 16, 64, 0]).foldl (fun s e => rg (.s (8 + e.1)) e.2 s) s
def stream (base : Word) (got : List StreamEl) : Stream :=
  { mast := 0, stn := 0, ind := false, base := base, n0 := 16, n1 := 1, n2 := 1, st0 := 4, st1 := 0, st2 := 0, esz := 4, depth := 4, sc := 0, qi := none,
    bound := false, desc := [], pos := 0, e := 0, got := got, secs := [], reqs := [] }
def withStream (q : Stream) (s : State) : State := s.updGroup 1 (fun g => { g with streams := [(1, q)] })
def arrived : List StreamEl := (List.range 8).map (fun i => { va := 0, i := i, val := BitVec.ofNat 64 (50 + i), trap := none })

theorem test_witness_OpenStreams :
    (let w := F (Q 1) (S 8) Z (S 4) 0 0
     let i := Instr.qcfg w
     let s := walkOf (ready i)
     issued s i (fun r => let d := descOf r w.a
       s.allHere r && (SMap.get? r.g.streams (qNum w.dest)).isNone && decide (s.depthUsed r.sg.mast r.sg.stn + depthOf (d 2) ≤ 4096) && calm r &&
       (let n := fun i => fieldOf (d (1 + i / 2)) (32 * (i % 2)) 32
        let esz := fieldOf (d 2) 44 3
        decide (n 0 ≠ 0 ∧ n 1 ≠ 0 ∧ n 2 ≠ 0 ∧ n 0 * n 1 * n 2 < 2 ^ 32 ∧ esz ≤ 5 ∧ fieldOf (d 2) 47 17 = 0 ∧ (d 0).toNat % szBytes esz = 0 ∧
          (d 3).toNat % szBytes esz = 0 ∧ (d 4).toNat % szBytes esz = 0 ∧ (d 5).toNat % szBytes esz = 0)))) = true := by decide +kernel

theorem test_witness_OpenStreams_indirect :
    (let w := F (Q 2) (S 8) (Q 1) (S 4) 0 0
     let i := Instr.qidx w
     let s := rg (.s 8) (W + 0x4000) (rg (.s 9) 0x4_0000_0004 (withStream (stream (W + 0x2000) []) (ready i)))
     issued s i (fun r => let d := descOf r w.a
       s.allHere r && (SMap.get? r.g.streams (qNum w.b)).any (fun b => !b.ind && !b.bound) && (SMap.get? r.g.streams (qNum w.dest)).isNone &&
       decide (fieldOf (d 1) 0 3 ≤ 5 ∧ fieldOf (d 1) 44 20 = 0 ∧ fieldOf (d 1) 6 26 = 0 ∧ (d 1).getLsbD 3 = false ∧
         s.depthUsed r.sg.mast r.sg.stn + depthOf (d 1) ≤ 4096) && calm r)) = true := by decide +kernel

theorem test_witness_StreamLoad :
    (let w := F (V 3) (Q 1) (P 1) Z 0 4
     let i := Instr.qld w
     let s := withStream (stream 0 arrived) (ready i)
     issued s i (fun r => (streamOf r.g w.a).any (fun q => q.arrived 8 && decide ((lanesOf r.act).length = 8) && decide (q.take 8 = 8) &&
       (List.range 8).all (fun j => (fed q 8 j).all (fun x => x.trap.isNone))) && calm r)) = true := by decide +kernel

theorem test_witness_StreamClose :
    (let w := F Z (Q 1) Z Z 0 0
     let i := Instr.qclose w
     let s := withStream (stream 0 []) (ready i)
     issued s i (fun r => (SMap.get? r.g.streams (qNum w.a)).isSome && calm r)) = true := by decide +kernel

theorem test_witness_FenceWords :
    ([.fence (F (S 3) (D 0) (S 5) Z 2 3), .fenceX (F (S 3) (D 0) Z Z 0x28 2)] : List Instr).all
      (fun i => let s := ready i; issued s i (fun r => calm r && decide (r.stall = stallOf r.iw) &&
        (fenceForm i).any (fun e => decide (s.pathsDone r.gid r.g e.2.1 (e.1.lo.toNat % 8) = e.2.1)))) = true := by decide +kernel

/-! ### Collective words -/

/-- A group of n lanes, with its tile predicates 1 and 2 true. -/
def wide (n : Nat) (s : State) : State :=
  { rg (.k 2) 1 (rg (.k 1) 1 ((s.updGroup 1 (fun g => { g with width := n })).updSub 2 (fun g =>
      { g with lanes := (List.range n).filterMap (fun l => (SMap.get? g.lanes 0).map (fun x => (l, x))) }))) with
    issuing := s.issuing.map (fun i => { i with lanes := widthMask n }) }

theorem test_witness_CollectiveWords :
    ([.mma (F (V 16) (V 0) (V 8) Z 0x30 0x80), .mpart (F (V 4) (V 2) (S 3) (V 1) 0 0), .bmx (F (V 16) (V 2) (V 8) Z 0x2A 0x20)] : List Instr).all
      (fun i => let s := wide 64 (ready i); (matrixForm s i).any (fun m => issued s i (fun r =>
        r.kp m.1 && m.2.1 r && decide (r.act = widthMask r.g.width) && (m.2.2 r).isSome && calm r))) = true := by decide +kernel

theorem test_witness_CollectiveWords_sparse :
    (let w := F (V 32) (V 8) (V 0) (V 32) 0x50 0x82
     let x : XWord := 0x0000_0000_8142_FE7C
     let i := Instr.mmaSp w (some x)
     let s := wide 64 (ready i)
     let m := MWord.ofF w
     issued s i (fun r => r.kp m.kp && mWidthOk (mShapeOf m) r.g && decide (r.act = widthMask r.g.width) &&
       decide ((mmaSpCounts s.issuingWidth w x r).1 ≤ (mmaSpCaps w x).1 ∧ (mmaSpCounts s.issuingWidth w x r).2 ≤ (mmaSpCaps w x).2) &&
       decide (r.tprog ≤ (mShapeOf m).k / 4) && decide (s.stopAt r.tprog ((mShapeOf m).k / 4) = none) && calm r &&
       decide (({ s with issuing := s.issuing.map (fun i => { i with quads := some 1 }) } : State).stopAt r.tprog ((mShapeOf m).k / 4) = some 1))) = true := by decide +kernel

/-! ### Words that wait, copies, reductions and calls -/

def tagged (t : TagSt) (s : State) : State := s.updCrew 3 (fun c => { c with tags := SMap.put c.tags 1 t })
def metOk (i : Instr) (s : State) : Bool := issued s i (fun r => (metForm s r i).isSome && decide (r.stall = stallOf r.iw) && calm r)

theorem test_witness_MetAtOnce :
    (let cpw := Instr.cpw (F (S 3) (D 0) Z Z 0 0x21)
     let capw := Instr.capw (F (S 3) (D 0) (S 4) Z 0 0)
     let barw := Instr.barw (F (S 3) (D 0) (S 4) Z 0 0)
     let gbarw := Instr.gbarw (F (S 3) (D 0) (S 4) Z 0 0)
     let qpush := Instr.qpush (F (S 4) (D 0) (S 8) Z 0 0)
     let qpop := Instr.qpop (F (S 4) (D 0) (S 8) Z 0 0)
     metOk cpw (tagged (.done 2 0x1000) (ready cpw)) && metOk capw (rg (.s 4) (W + 0x2000) (put 0x2020 [7] (win (ready capw)))) &&
     metOk barw (rg (.s 4) 0x100000000 (ready barw)) && metOk gbarw (rg (.s 4) 0x100000000 (ready gbarw)) &&
     metOk qpush (que 0 0 (ready qpush)) && metOk qpop (put 0x1008 [99] (que 0 1 (ready qpop)))) = true := by decide +kernel

def beginOk (i : Instr) (s : State) : Bool := issued s i (fun r => (waitForm s r i).isSome && decide (r.act = r.set))
/-- Deadline 9 in d0. -/
def dl9 (s : State) : State := rg (.d 0) 9 s

theorem test_witness_WaitsBegin :
    (let fence := Instr.fence (F (S 3) (D 0) (S 5) Z 2 3)
     let tie := Instr.tie (F Z Z Z Z 1 1) (some 6)
     let barc := Instr.barc (F (S 3) Z Z Z 0 3)
     let mbar := Instr.mbar (F (S 3) (D 0) Z Z 0 3)
     let barw := Instr.barw (F (S 3) (D 0) (S 4) Z 0 0)
     let barx := Instr.barx (F (S 3) Z (S 4) Z 0 0)
     let qpop := Instr.qpop (F (S 4) (D 0) (S 8) Z 0 0)
     let cpw := Instr.cpw (F (S 3) (D 0) Z Z 0 0x21)
     let qld := Instr.qld (F (V 3) (Q 1) (P 1) Z 0 4)
     beginOk fence (dl9 ((ready fence).updGroup 1 (fun g => { g with counts := [(4, 1)] }))) && beginOk tie ((ready tie).updSub 2 (fun g => { g with stn := 1 })) &&
     beginOk barc (ready barc) && beginOk mbar (dl9 (ready mbar)) && beginOk barw (dl9 (ready barw)) && beginOk barx (ready barx) &&
     beginOk qpop (dl9 (que 0 0 (ready qpop))) && beginOk cpw (dl9 (tagged (.running 2) (ready cpw))) &&
     beginOk qld (withStream (stream 0 []) (ready qld))) = true := by decide +kernel

/-- A descriptor of one part of a copy of 64 bytes in s12 to s15. -/
def cpDesc (parts : Nat) (s : State) : State :=
  rg (.s 12) 0x20000 (rg (.s 13) (W + 0x3000) (rg (.s 14) 64 (rg (.s 15) (BitVec.ofNat 64 (parts * 256 + 0x21)) (win s))))

theorem test_witness_CopyWords :
    (let i := Instr.cp (F (S 9) (D 2) (S 12) Z 0 0)
     let s := cpDesc 1 (ready i)
     issued s i (fun r => (copyForm s r i).any (fun e => let q := e.2
       decide (r.stall = stallOf r.iw) && !q.bad && q.fixed.all (fun x => decide (x.1.toNat % 32 = 0)) &&
       (q.srcs ++ q.dsts).all (fun x => oneHome x && !x.1.getLsbD 63 && !(x.1 + BitVec.ofNat 64 (x.2 - 1)).getLsbD 63 &&
         (rangeMarks x).all (fun a => (s.homeWhy r a).isNone)) &&
       decide (0 < q.kind.units) && (r.g.cid.bind (SMap.get? s.crews)).any (fun c => s.linked (r.sg.mast / 16) (c.mast / 16) && decide ((c.tag q.tag).answer q.round q.parts = .take) &&
         (s.rsvFree (r.g.cid.getD 0) c.mast (c.stn / 4) || s.sharedFree c.mast (c.stn / 4))) && s.slices.all (fun e => e.2.entry && !e.2.refused) && calm r))) = true := by decide +kernel

theorem test_witness_ReductionAndCallWords :
    (let w := F (S 7) (D 0) (S 1) Z 0 0
     let i := Instr.capr w
     let s := mw (ready i)
     issued s i (fun r => let va := s.directOf r.g (r.sval w.b)
       let m := s.vaMast va
       let id := capEng s r va
       decide (r.stall = stallOf r.iw) && (s.blockTrap r (r.sval w.b)).isNone && s.linked (r.sg.mast / 16) (m / 16) && decide ((s.mast m).caps.length < 32) &&
       (s.blockMeets id va).isNone && (List.range 24).all (fun i => match s.engAt id (va + BitVec.ofNat 64 (8 * i)) 0 with | .ok _ => true | .error _ => false) &&
       calm r)) = true := by decide +kernel

theorem test_witness_ReductionAndCallWords_calls :
    (let w := F (V 3) (S 1) (V 2) Z 0 0
     let w2 := F (V 3) (S 1) (V 2) Z 0 1
     let ok := fun (i : Instr) (w : FWord) => issued (ready i) i (fun r => decide (r.act = r.set) && ((ready i).memCheck r .glob 32 false false (memAddr w none r)).isNone && calm r)
     ok (.bcallT w none) w && ok (.bcallN w2 none) w2) = true := by decide +kernel

/-! ### Traps, and contexts in memory -/

theorem test_witness_TrapAndHaltWords :
    (let t := Instr.trap (F Z Z (S 3) Z 0 0)
     let i := Instr.trapI (I Z Z 5 none)
     let f := Instr.tfence (F Z Z Z Z 0 0)
     let ok := fun (i : Instr) (s : State) => issued s i (fun r => decide (r.act = r.set) && (trapForm s r i).isSome)
     ok t (ready t) && ok i (ready i) && ok f ((ready f).updSub 2 (fun g => { g with aflags := 3, atrap := 1 }))) = true := by decide +kernel

/-- The places of the words of a trap frame. -/
def frameCells (s : State) (c : Ctx) (va : Word) (i : Nat) : Nat := match s.frameAt 1 c (va + BitVec.ofNat 64 (8 * i)) with | .cell k => k | _ => 0

theorem test_witness_TrapEntry :
    (let s := frames (ready (.trap (F Z Z (S 3) Z 0 0)))
     match SMap.get? s.subs 2, SMap.get? s.groups 1, SMap.get? s.ctxs 1 with
     | some sg, some g, some c =>
       decide (sg.gid = 1) && decide (g.ctx = 1) && decide (c.tvec ≠ 0) && sg.lanes.all (fun e => decide (e.2.meet = 0)) && (s.crewOf g).any (fun cr => g.freeFrame.any (fun f => (s.frameOf g cr f).any (fun va =>
         decide (cr.mast / 16 = s.dev) && decide (s.slotArray g.ctx c = some (W + 0x1000)) && (List.range 80).all (fun i => decide (s.frameAt g.ctx c (va + BitVec.ofNat 64 (8 * i)) = .cell (frameCells s c va i)) &&
           decide (frameCells s c va i = frameCells s c va 0 + 8 * i)))))
     | _, _, _ => false) = true := by decide +kernel

/-- A trap frame that names the lanes and their return addresses: its 80 words as R197 lays them out, made by taking a trap. -/
def trapped (i : Instr) : State :=
  let s := (frames (ready i)).enterTrap 2 0xFF { cause := 0xF, detail := 0, info := 3, fmask := 0xFF, next := true, tpc := 0x1000, len := 8, iword := 5, xword := 6 }
  { s with issuing := (ready i).issuing.map (fun x => { x with pc := 0x4000 }) }

theorem test_witness_TrapReturn :
    (let i := Instr.tret (F Z Z Z Z 0 0)
     let s := trapped i
     issued s i (fun r => (s.ctxOf r.g).any (fun c => match s.sysRead r.g.ctx c r.sg.tframe 80 with
       | .words ws _ =>
         let f := Frame.ofWords ws
         let pc := fun l => f.rpc.getD l 0
         decide (r.act = r.set ∧ r.sg.tframe ≠ 0 ∧ s.soft = [] ∧ r.act = f.amask &&& ~~~r.g.ended ∧ r.act &&& ~~~f.rmask = 0 ∧ f.hmask = 0 ∧ r.sg.armed = none) &&
         (lanesOf r.act).all (fun l => decide ((pc l).toNat % 8 = 0) && !(pc l).getLsbD 63) && (List.range 64).all (fun l => !(pc l).getLsbD 63) && quiet r pc
       | _ => false))) = true := by decide +kernel

theorem test_witness_TrapAndHaltWords_halt :
    (let i := Instr.halt (F Z Z Z Z 0 0)
     issued (sup (ready i)) i (fun r => decide (r.act = r.set) && quiet r (fun _ => r.pc + 8))) = true := by decide +kernel

def ctxsaveI : Instr := .ctxsave (F Z (S 1) Z Z 0 0) none

theorem test_witness_ImageWords :
    (let w := F Z (S 1) Z Z 0 0
     let s := sup (mw (ready ctxsaveI))
     issued s ctxsaveI (fun r => decide (r.act = r.set) && (s.memCheck r .glob 32 false false (memAddr w none r)).isNone && !r.g.streaming && decide (r.g.outst = []) &&
       (s.ctxOf r.g).any (fun c => match (s.saveImage r).2.sysPlaces r.g.ctx c (memAddr w none r r.low) (s.saveImage r).1.flits with
         | .words _ _ => true | _ => false))) = true := by decide +kernel

/-- The image that CTXSAVE of the upper four lanes leaves in memory is loaded by the lower four. -/
def savedHalf (i : Instr) : State :=
  let s := sup (mw (readyAt 0xF0 ctxsaveI))
  match exec ctxsaveI s with
  | .next t => { t with issuing := (readyAt 0x0F i).issuing }
  | _ => s

theorem test_witness_ImageWords_load :
    (let w := F (S 3) (S 1) Z Z 0 0
     let i := Instr.ctxload w none
     let s := savedHalf i
     issued s i (fun r => let va := memAddr w none r r.low
       (s.memCheck r .glob 32 false false (memAddr w none r)).isNone && decide (s.soft = []) && decide (r.sid < s.nextId) && calm r &&
       (s.ctxOf r.g).any (fun c => match s.sysRead r.g.ctx c va 16 with
         | .words head _ =>
           let h := ImageHead.ofWords (head ++ List.replicate 8 0)
           decide (h.len ≤ 526) && (s.loadOk r h).any (fun gid => match s.sysRead r.g.ctx c va (4 * h.len) with
             | .words ws _ => (ImageHead.ofWords ws).ok && decide (SMap.get? (s.loadImage gid (s.vaMast (s.directOf r.g va)) (ImageHead.ofWords ws) ws).subs r.sid = some r.sg)
             | _ => false)
         | _ => false))) = true := by decide +kernel

/-! ### Issue and steps -/

theorem test_witness_EncodeDecode : (let i := Instr.nop (F Z Z Z Z 0 0); i.wf && (encode i).isSome) = true := by decide

/-- State.reset with a word placed: its turn is the next step. -/
def placed (i : Instr) : State :=
  match encode i with
  | some (w, x) => State.reset.withFetchWord 128 (w.toNat + (x.getD 0).toNat * 2 ^ 64)
  | none => State.reset

/-- The issue turn of a word, or a turn that stops it at a quad boundary, on the device where its lanes stand. -/
def turnOk (s : State) : Bool :=
  let go := fun (sid lane : Nat) (q : Option Nat) (s0 : State) =>
    let s1 := entered s0 ((s0.subDev sid).getD s0.dev)
    let quads := q.bind (fun q => s1.quadStop sid q)
    (s1.issueSet sid lane).any (fun e => match s1.fetchWords e.1 e.2.1 e.2.2.2 with
      | .words w next => s1.isPicked sid lane && (match exec (decode w next) { s1 with issuing := some { sid := sid, lanes := e.2.2.1, pc := e.2.2.2, iword := w, xword := ((takenX w next).map xToWord).getD 0, quads := quads } } with
        | .next _ => true | _ => false)
      | _ => false)
  match s.agenda with
  | .issue sid lane :: rest => go sid lane none { s with agenda := rest }
  | .quads sid lane q :: rest => go sid lane (some q) { s with agenda := rest }
  | _ => false

theorem test_witness_StepRunsDecoded :
    (let s := placed (.nop (F Z Z Z Z 0 0))
     turnOk s && turnOk { s with agenda := [.quads 2 0 1] }) = true := by decide +kernel

theorem test_witness_StepRunsDecoded_event :
    ((let s := { State.reset with agenda := [.event (.tierReady 0 0)] }
      match exec (.tierReady 0 0) { entered { s with agenda := [] } ((s.subject (.tierReady 0 0)).getD s.dev) with issuing := none } with | .next _ => true | _ => false) &&
     (let s := { State.reset with agenda := [.eventAt 1 .eventWrite], others := [(1, Device.reset)] }
      match exec .eventWrite { entered { s with agenda := [] } 1 with issuing := none } with | .next t => decide (t.dev = 1) | _ => false)) = true := by decide +kernel

/-- The parts of an issue: its head, its signature and its run. -/
def parts (s : State) (i : Instr) (f : Hd → Sig → Run → Bool) : Bool := (form s i).any (fun e => (run s e.1).any (f e.1 e.2))

theorem test_witness_WordsSkippedOrHeld :
    ((let i := Instr.nop (fw true 0 3 Z Z Z Z 0 0)
      parts (ready i) i (fun h g r => reaches (ready i) h g r && decide (r.act = 0) && calm r)) &&
     (let i := Instr.iadd (F (V 5) (V 1) (V 2) Z 4 0)
      let s := (ready i).updGroup 1 (fun g => { g with outst := [{ id := 90, lane := 0, path := 0xFF, writes := [(.v 0 1, some 7)] }] })
      parts s i (fun h g r => decide (r.set &&& r.sg.laneMask (fun l => l.refuse.isSome) = 0) && decide (r.set &&& r.sg.laneMask (fun l => l.rel.isSome) = 0) &&
        decide (s.heldBy r (readRegs g r) (writeRegs g r) = [90]) && decide (s.heldBy r (guardRegs h r) [] = []) && decide (r.act ≠ 0) && (g.judge r.sg r.g).isNone)) &&
     (let i := Instr.nop (fw false 1 3 Z Z Z Z 0 0)
      let s := (ready i).updGroup 1 (fun g => { g with outst := [{ id := 90, lane := 0, path := 0xFF, writes := [(.p 0 1, some 1)] }] })
      parts s i (fun h _ r => decide (s.heldBy r (guardRegs h r) [] = [90])))) = true := by decide +kernel

theorem test_witness_IssueTraps :
    (let nop := Instr.nop (F Z Z Z Z 0 0)
     let s1 := lanes (fun l => { l with refuse := some 2 }) (ready nop)
     let s2 := lanes (fun l => { l with rel := some (0, 5) }) (ready nop)
     let halt := Instr.halt (F Z Z Z Z 0 0)
     let x := Instr.reservedEncoding 0xC000_0000_0000_0006 none
     let u := Instr.reservedEncoding 0x02F0_0F9F_3E7C_0000 none
     parts s1 nop (fun _ _ r => decide (r.set &&& r.sg.laneMask (fun l => l.refuse.isSome) ≠ 0)) &&
     parts s2 nop (fun _ g r => decide (r.set &&& r.sg.laneMask (fun l => l.refuse.isSome) = 0) && decide (r.set &&& r.sg.laneMask (fun l => l.rel.isSome) ≠ 0) && !g.join) &&
     parts (ready halt) halt (fun h g r => reaches (ready halt) h g r && decide (r.act ≠ 0) && (g.judge r.sg r.g).isSome) &&
     ((issuer (ready x)).isSome && (encode x).isSome && (form (ready x) x).isNone) &&
     parts (ready u) u (fun h g r => reaches (ready u) h g r && decide (r.act ≠ 0))) = true := by decide +kernel

/-- For the stall counts: with CHK set, a register that was written one issue ago with a latency of more is read. -/
theorem test_witness_IssueTraps_stall :
    (let i := Instr.iadd (F (V 5) (V 1) (V 2) Z 4 0)
     let s := (ready i).updSub 2 (fun g => { g with ctl := 1, stale := [{ reg := .v 0 1, prev := 0, lanes := [(0, 12)], cyc := 99 }] })
     parts s i (fun h g r => reaches s h g r && decide (r.act ≠ 0) && (g.judge r.sg r.g).isNone && decide (s.heldBy r (readRegs g r) (writeRegs g r) = []) && r.sg.chk &&
       decide (shortLanes h g r ≠ 0))) = true := by decide +kernel

/-! ### Happenings -/

def nopS : State := win (ready (.nop (F Z Z Z Z 0 0)))
/-- The state in which an instruction has begun to wait, changed by f; the first wait of it, with its run. -/
def begun (i : Instr) (s : State) (f : State → State) (p : State → Nat → Wait → Run → Bool) : Bool :=
  match exec i s with
  | .next t => (match (f t).waits with | e :: _ => ((f t).runOf e.2).any (p (f t) e.1 e.2) | [] => false)
  | _ => false
def clk (n : Word) (s : State) : State := s.updSub 2 (fun g => { g with gclk := n })
def lateOk (s : State) (wid : Nat) (w : Wait) (r : Run) : Bool :=
  w.dk.any (fun dl => decide (dl.toNat ≤ r.sg.gclk.toNat)) && !r.g.walker && calm r && (lateForm s wid w r).isSome
def barwI (m : BitVec 8) : Instr := .barw (F (S 3) (D 0) (S 4) Z 0 m)

theorem test_witness_WaitTimeouts :
    (let fence := Instr.fence (F (S 3) (D 0) (S 5) Z 2 3)
     begun fence (dl9 ((ready fence).updGroup 1 (fun g => { g with counts := [(4, 1)] }))) (clk 9) lateOk &&
     begun (barwI 0x10) (dl9 (ready (barwI 0x10))) (clk 9) lateOk &&
     begun (barwI 0) (dl9 (ready (barwI 0))) (clk 9) (fun s _ w r => match w.kind with
       | .barrier ref tok false _ .waiting => decide ((w.dk.getD 0).toNat ≤ r.sg.gclk.toNat) && !s.phaseOver ref tok
       | _ => false)) = true := by decide +kernel

def slice0 : Slice :=
  { dev := 0, gid := 1, ctx := 1, cid := 3, lane := 0, tag := 1, round := 2, parts := 1, sreg := 0, kind := .cp (W + 0x2000) (W + 0x3000) 64, refused := false, entry := true,
    reserved := false, order := 5, done := [], lost := 0, code := 0, skip := 0, counted := false, tile := none, dead := [], reach := 0, lanes := 1, dl := 9, pc := 0x1000, iword := 0, x := none }
def waitOf (k : WaitKind) : Wait :=
  { sid := 2, lanes := 0xFF, kind := k, dk := some 9, bound := some 0, status := S 3, pc := 0x1000, len := 8, iword := 0, xword := 0 }
/-- Eight lanes that wait. -/
def waitS (k : WaitKind) : State := { lanes (fun l => { l with st := .waiting }) nopS with issuing := none, waits := [(80, waitOf k)] }
def runOk (s : State) : Bool := (s.runOf (waitOf .bcall)).any calm

theorem test_witness_WaitWakes :
    ((let qpush := Instr.qpush (F (S 4) (D 0) (S 8) Z 0 0)
      begun qpush (dl9 (que 0 4 (ready qpush))) (que 1 4) (fun s wid w r => calm r && (wakeForm s wid w r).isSome)) &&
     (let s := tagged .idle { waitS (.slice 50) with slices := [(50, { slice0 with entry := false })] }
      runOk s && (SMap.get? s.slices 50).any (fun sl => (SMap.get? s.crews 3).any (fun c => s.linked 0 (c.mast / 16) && decide ((c.tag 1).answer sl.round sl.parts = .take) &&
        (s.entryFor 50 sl c).isSome && !sl.refused && decide (sl.done.length < sl.kind.units) && s.slices.all (fun e => !e.2.refused)))) &&
     (let s := (waitS (.barrier (.crew 3 0) 0 false false .waiting)).putBar (.crew 3 0) { phase := 1, count := 0, expct := none }
      let t := s.send 5 9 (.barDone (.crew 3 0) 0)
      runOk s && s.phaseOver (.crew 3 0) 0 && (SMap.get? t.msgs (t.nextId - 1)).any (fun m => t.firstMsg (t.nextId - 1) m)) &&
     (let s := nopS.updGroup 1 (fun g => { g with outst := [{ id := 90, lane := 0, path := 0xFF, writes := [(.v 0 1, some 7)] }] })
      s.canDeliver 1 && decide (s.subs.map (fun e => e.1) = [2]) && (SMap.get? s.groups 1).any (fun g => decide (g.ended ≠ BitVec.allOnes 64)))) = true := by decide +kernel

/-- A message that has come to its place, with a wait of the first barrier of the crew. -/
def arriveS (k : WaitKind) (b : MsgBody) : State := (waitS k).send 5 9 b
def arrives (s : State) : Bool := (SMap.get? s.msgs (s.nextId - 1)).any (fun m => s.firstMsg (s.nextId - 1) m)

theorem test_witness_BarrierMessages :
    ((let s := arriveS (.barrier (.crew 3 0) 0 false false .arriving) (.barArrive (.crew 3 0) 8 none 80)
      arrives s && s.barHere (.crew 3 0) && runOk s) &&
     (let s := (arriveS (.barrier (.crew 3 0) 0 false false .arriving) (.barArrive (.crew 3 0) 8 (some 9) 80)).putBar (.crew 3 0) { phase := 1, count := 3, expct := some 17 }
      arrives s && s.barHere (.crew 3 0) && runOk s) &&
     (let s := arriveS (.barrier (.mast 4 0 3) 0 false true .arriving) (.barArrive (.mast 4 0 3) 8 none 80)
      arrives s && s.barHere (.mast 4 0 3) && !s.stopping 2 && (s.runOf (waitOf .bcall)).any (fun r => decide (r.sg.gclk.toNat < 9))) &&
     (let s := arriveS (.barrier (.crew 3 0) 0 false false .withdrawing) (.barWithdraw (.crew 3 0) 0 8 80)
      arrives s && s.barHere (.crew 3 0) && runOk s && (SMap.get? s.groups 1).any (fun g => !g.walker)) &&
     (let s := nopS.send 5 9 (.barExit (.crew 3 0) 8)
      arrives s && s.barHere (.crew 3 0))) = true := by decide +kernel

def acc0 : LaneAcc := { lane := 0, addr := W + 0x2004, data := 5, swap := 0 }
def tie0 : Tie := { gid := 1, mast := 0, stn := 0, m := 0x2000, isOpen := true, opened := true, dl := 5, member := 0x1FF, held := 0xFF, sid := some 2 }

theorem test_witness_Notices :
    ((let s := { nopS with ties := [(70, tie0), (71, { tie0 with held := 0, opened := false })] }.send 5 9 (.exitNotice 1 0x100)
      arrives s && decide ((s.ties.map (fun e => e.1)).Nodup)) &&
     (let s := arriveS .tie (.tieNotice 80 1 0x2000 0xFF 0 0 2)
      arrives s && s.tieRoom 1 0 0 0x2000 && (s.runOf (waitOf .tie)).any (fun r => quiet { r with sg := tiedSub r.sg r.set 0x2000 (encPlace 0 0 0) 0 } (nextPc r))) &&
     (let s := nopS.send 0 0 (.posted 1 1 none 4 [acc0] 0 none)
      arrives s && !s.fencedAt acc0.addr && (match s.placeOf 1 acc0.addr 1 with | .cell _ => true | _ => false) && s.bad.isEmpty && s.soft.isEmpty) &&
     (let s := nopS.send 0 (cpPort 0) (.ack 1 1 2 4 true)
      arrives s && (SMap.get? s.groups 1).isSome) &&
     (let s := (nopS.updCtx 1 (fun c => { c with esclim := 3 })).send 0 (cpPort 0) (.escInc 1 1 0x0F 9 0x1000 8 0 0)
      arrives s && (SMap.get? s.ctxs 1).any (fun c => decide (c.esc + 1 < c.limit)) && (SMap.get? s.groups 1).isSome) &&
     (let s := (nopS.updCtx 1 (fun c => { c with esclim := 3, esc := 2 })).send 0 (cpPort 0) (.escInc 1 1 0x0F 9 0x1000 8 0 0)
      arrives s && (SMap.get? s.ctxs 1).any (fun c => decide (c.limit ≤ c.esc + 1))) &&
     (let s := nopS.send 0 (cpPort 0) (.escReset 1)
      arrives s && (SMap.get? s.ctxs 1).isSome)) = true := by decide +kernel

/-- A continuation on its way to mast 1: made by MIGR.G. -/
def imgS : State :=
  let i := Instr.migrG (F Z (S 21) Z Z 1 0) none
  match exec i (rg (.s 21) 0x0002000000000000 (ready i)) with | .next t => t | _ => State.reset
def img0 (f : Nat → Image → Bool) (s : State) : Bool := match s.images with | [e] => f e.1 e.2 | _ => false
def flown : State := match imgS.images with | e :: _ => (match exec (.continuationDeparture e.1) imgS with | .next t => t | _ => imgS) | [] => imgS
def landed : State := match flown.images with | e :: _ => (match exec (.imageLanding e.1) flown with | .next t => t | _ => flown) | [] => flown
def fetch0 : XlReq := { ctx := 1, va := W + 0x2008, acc := 2, held := none, fail := false }

theorem test_witness_Movement :
    (img0 (fun _ im => decide (im.phase = .departing ∧ im.awaits = []) && imgS.knows (im.smast / 16) im.tdev && imgS.linked (im.smast / 16) (im.tmast / 16) && imgS.roomFor im) imgS &&
     img0 (fun k im => decide (im.phase = .flying) && flown.knows (im.smast / 16) im.tdev && flown.linked (im.smast / 16) (im.tmast / 16) && flown.nextOnRoute k im) flown &&
     img0 (fun _ im => im.landedAt 1 && (landed.reserveHeads 1).admits im && (SMap.get? landed.subs landed.nextId).isNone && decide (im.tstn = 64 ∧ im.bundle = none ∧ im.refuse = 0 ∧ im.halted = false ∧ im.held = false ∧ im.kind ≠ 2) &&
       im.sg.lanes.all (fun e => decide (e.2.meet = 0)) && ((landed.reserveHeads 1).mergePlace im).isNone && ((landed.reserveHeads 1).mergeStn im).isNone && ((landed.reserveHeads 1).chooseStn 1 im).isSome) landed &&
     (let s := { landed with images := landed.images.map (fun e => (e.1, { e.2 with phase := .landed true })) }
      img0 (fun _ im => decide (im.tmast = 1 ∧ im.phase = .landed true ∧ s.landedBytes 1 false + im.size ≤ bufferBytes)) s) &&
     (let s := clk 9 { nopS with ties := [(70, tie0)] }
      (SMap.get? s.subs 2).any (fun u => decide (tie0.dl ≤ u.gclk.toNat)) && decide (tie0.held ≠ 0)) &&
     (let s := { waitS (.fetch fetch0) with waits := [(80, { waitOf (.fetch fetch0) with pc := W + 0x2008 })] }
      let w := { waitOf (.fetch fetch0) with pc := W + 0x2008 }
      (s.runOf w).any (fun r => let va := s.fetchVa r.g w fetch0
        (s.ctxOf r.g).any (fun c => (match s.home c va with | .none _ => false | .dram _ m | .window _ m _ _ => s.linked (r.sg.mast / 16) (m / 16))) &&
        !s.fencedAt fetch0.va && decide (s.standing (fun ks => ks.contains 80) = []) &&
        (match s.placeOf r.g.ctx (s.directOf r.g va) (s.codeAcc r.sg r.g fetch0.va) with | .cell k => !s.badAt k | _ => false)))) = true := by decide +kernel

def streamS : State := withStream (stream (W + 0x2000) []) nopS
def streamReqS : State := match exec (.streamFetch 1 1) streamS with | .next t => t | _ => streamS

theorem test_witness_StreamsAndBounds :
    ((SMap.get? streamS.groups 1).any (fun g => (SMap.get? g.streams 1).any (fun st => (SMap.get? streamS.ctxs g.ctx).any (fun c =>
       st.qi.isNone && decide (st.next < st.total ∧ st.next < st.ahead ∧ st.secs = [] ∧ st.reqs = []) && !g.walker && decide (st.sectors < st.depth) && (g.element st st.next).any (fun e => (streamS.elementTrap c false st e).isNone)))) &&
     (SMap.get? streamReqS.groups 1).any (fun g => (SMap.get? g.streams 1).any (fun st => match st.reqs with
       | [r] => (match r.els with
         | e :: _ => r.x.isNone && !streamReqS.fencedAt e.va && streamReqS.linked (st.mast / 16) (streamReqS.vaMast e.va / 16) && (match streamReqS.placeOf g.ctx e.va 0 with | .cell c => decide (sectorOf c ∉ streamReqS.bad) | _ => false)
         | [] => false)
       | _ => false)) && decide (streamReqS.waits = []) &&
     (let s := waitS .bcall
      (SMap.get? s.waits 80).any (fun w => w.bound.any (fun b => (SMap.get? s.subs w.sid).any (fun u => decide (b ≤ u.gclk.toNat) && decide (w.lanes ≠ 0) &&
        decide (w.lanes &&& u.laneMask (fun l => decide (l.meet ≠ 0)) = 0)))))) = true := by decide +kernel

/-- The second clause: the next elements lie in a sector that the stream has read. -/
theorem test_witness_StreamsAndBounds_again :
    (let s := withStream { stream (W + 0x2000) [] with secs := [((W + 0x2000).toNat / 32, 7)], n0 := 4 } nopS
     (SMap.get? s.groups 1).any (fun g => (SMap.get? g.streams 1).any (fun st => (SMap.get? s.ctxs g.ctx).any (fun c => (g.element st st.next).any (fun e =>
       let sv := ((g.lowestLive.bind (s.holderOf 1)).bind (SMap.get? s.subs)).map SubGroup.sv
       let els := (g.run st (e.va.toNat / 32) (fun y => (s.elementTrap c (sv.getD false) st y).isNone) 32 st.next).map (fun x => { x with va := s.direct c x.va })
       (s.elementTrap c (sv.getD false) st e).isNone && decide (st.next < st.ahead) && (st.want els none).isSome))))) = true := by decide +kernel

def put2 (s : State) : State := put 0x3000 [0x4000000000000000] (put 0x2000 [0x3FF0000000000000] s)
def block0 (flag : Word) : List Word := [packWord [(0xC, 8), (2, 16), (3, 32)], W + 0x4000, flag, 7, 0, 0, 0, 0, W + 0x2000, W + 0x3000] ++ List.replicate 14 0
def cap0 (flag : Word) : CapEntry := { dev := 0, gid := 1, ctx := 1, blk := W + 0x5000, words := block0 flag, x := none, dead := [], fin := none, reach := 0 }
def isOk {α : Type} (e : Except EngStop α) : Bool := match e with | .ok _ => true | .error _ => false
def eng0 : EngId := { ctx := 1, dev := 0, at' := 0, dead := [] }

theorem test_witness_Engines :
    ((let s := tagged (.running 2) { nopS with slices := [(50, slice0)] }
      decide (s.servedAt 0 0 ≠ []) && (match s.movable 3 with | (k, sl) :: _ => decide (k = 50 ∧ sl.done = []) | [] => false) &&
      (match s.engAt eng0 (W + 0x2000) 0 with | .ok c => !s.badAt c | .error _ => false) && isOk (s.engAt eng0 (W + 0x3000) 1)) &&
     (let s := tagged (.gathering 2 4 2 0) { nopS with slices := [(50, { slice0 with parts := 4 })] }
      (SMap.get? s.crews 3).any (fun c => decide (c.tag 1 = .gathering 2 4 2 0)) && (s.copyOf 3 1).all (fun e => decide (e.2.lost = 0 ∧ e.2.skip = 0)) &&
        decide ((s.tagWaits 3 1).foldl State.trySlice s = s) && s.waits.isEmpty) &&
     (let e := cap0 (W + 0x6000)
      let s := (put2 nopS).updMast 0 (fun t => { t with caps := [e] })
      let b := CapBlock.ofWords e.words
      let o := s.reduceAll (e.eng 0) b (List.range b.sectors)
      s.engKnown (e.eng 0) && s.blockValid (e.eng 0) 0 e.words b && o.stop.isNone && decide (o.lost < 2 ^ 24) &&
      (match s.engAt (e.eng 0) (W + 0x5020) 1 with
       | .ok p => !s.badAt p && (let t := s.store p (leBytes 8 (statusWord 0 0 0 0 0).toNat)
         t.flagOk (e.eng 0) b.flag && (match t.engAt (e.eng 0) b.flag 1 with | .ok f => !t.badAt f | .error _ => false) && !t.flagOk (e.eng 0) (b.flag + 4))
       | .error _ => false) &&
      isOk (s.engRead eng0 (W + 0x2000)) && isOk (s.engRead eng0 (W + 0x3000)) && isOk (s.engAt eng0 (W + 0x4000) 1) && isOk (s.engRead eng0 (W + 0x4000))) &&
     (let e := { cap0 0 with words := (block0 0).set 0 0 }
      let b := CapBlock.ofWords e.words
      let s := nopS.updMast 0 (fun t => { t with caps := [e] })
      !s.blockValid (e.eng 0) 0 e.words b && decide (b.sectors < 2 ^ 24))) = true := by decide +kernel

/-- A page of DRAM: address 0x10000 of context 1 on mast 0, physical address 0x30000. -/
def paged (s : State) : State :=
  { ((s.updCtx 1 (fun c => { c with tb := [(0, 1)] })).updMast 0 (fun t => { t with tlb := [{ ctx := 1, va := 0x10000, ent := 0x30000 * 256 + 0x2E }] })) with
    tags := RMap.set s.tags 3 1 }
/-- A jib record with one 16-element query row and no key, and a call of it. -/
def jibS : State :=
  let s := paged nopS
  let cell := dramCell 0 0x30000
  { s.store cell ((packWord [(1, 16), (0xE, 8)] :: 0 :: 0 :: 0x10400 :: List.replicate 4 0).flatMap (fun w => leBytes 8 w.toNat)) with
    calls := [(9, { dev := 0, gid := 1, ctx := 1, lane := 2, sreg := 0, record := 0x10000, wait := none, after := 0, wait2 := true, unit := none, arr := 0, phase := .queued, reach := 0, x := none })] }

theorem test_witness_Engines_jib :
    ((SMap.get? jibS.calls 9).any (fun c => match jibS.engAt (jibS.callEng c) c.record 0 with
      | .ok cell =>
          let t := jibS.callArrive 9 c
          decide (c.phase = .queued ∧ c.unit = none ∧ c.x = none ∧ jibS.vaMast c.record = 0 ∧ (jibS.vaPlace c.record).2 = 64) && jibS.linked c.dev 0 &&
          (match t.jibRun (t.callEng c) 0 (bankGroup (cell % 2 ^ 37)) c.record with | .ok _ => true | .error _ => false)
      | .error _ => false) &&
     (match jibS.engAt eng0 0x10400 1 with
      | .ok p => !jibS.badAt p && (jibS.putReply eng0 (replySectors 0x10400 (List.replicate 80 7))).2.isNone
      | .error _ => false)) = true := by decide +kernel

def walkR : WalkReq := { ctx := 1, va := 0x1234560000, kind := 1, acc := 1 }
def walkS : State := (nopS.updCtx 1 (fun c => { c with tb := [(0, 0x155)], wentry := 0x9000 })).updMast 0 (fun t => { t with walks := [walkR, { walkR with va := 5 }] })
def xl0 (held : Option (BitVec 32)) (fail : Bool) : XlReq := { ctx := 1, va := walkR.va, acc := 1, held := held, fail := fail }
/-- The walk has ended with nothing filled, and an access waits for its page. -/
def walked : State :=
  match exec (.walkStart 0) { walkS with waits := [(80, waitOf (.access (xl0 none false) { op := .store 4, dest := Z, ops := [acc0] }))] } with
  | .next t => (match (t.mast 0).walk with | some w => t.updGroup w.gid (fun g => { g with ended := BitVec.allOnes 64 }) | none => t)
  | _ => walkS

theorem test_witness_Walks :
    (decide ((walkS.mast 0).walks.head? = some walkR) && (walkS.mast 0).walk.isNone && !(walkS.mast 0).fenced && (walkS.walkerStn 0).isSome && (walkS.ctxAt 0 1).isSome &&
     ((walked.mast 0).walk.any (fun w => (SMap.get? walked.groups w.gid).all (fun g => decide (g.ended = BitVec.allOnes 64)) && w.why.isSome &&
       walked.xreqs.any (fun e => XlReq.merged w.req e.2))) &&
     decide (freeSlot (walkS.mast 0).faults = some 0) &&
     ((walkS.holdFault 1 walkR.va 1 1).1.mast 0).faults.any (fun e => decide (e.slot = some 0) && decide (e.seq = (walkS.mast 0).seq)) &&
     (let s := waitS (.access (xl0 none true) { op := .store 4, dest := Z, ops := [acc0] })
      (SMap.get? s.waits 80).any (fun w => match w.kind with | .access x _ => x.fail | _ => false))) = true := by decide +kernel

def queue0 (p : QPhase) : Queue :=
  { ctx := 1, num := 0, desc := W + 0x6000, base := W + 0x7000, head := 3, tail := 5, slots := 16, quant := 1, adv := 1, stopped := false, dc := 0, phase := p, x := none }
def queueS (cmd : List Word) (p : QPhase) : State := { put 0x70C0 (cmd ++ List.replicate (8 - cmd.length) 0) nopS with queues := [(64, queue0 p)] }
def starts (s : State) (f : Ctx → List Word → Bool) : Bool := match s.startable 64 with | some (_, c, some ws) => f c ws | _ => false
def record0 : List Word := [0x4000, 7, W + 0x8000, packWord [(2, 32), (1, 20), (0, 17), (0, 15), (1, 11)], 3, 65536, 0x140000, 0]
def launchS : State := put 0x8000 [W, W] (put 0x7800 record0 (queueS [1, W + 0x7800, W + 0x9000, 5] .idle))
def doneS (ctr : Word) : State :=
  ({ (nopS.updGroup 1 (fun g => { g with ended := BitVec.allOnes 64 })) with subs := [] }).updLaunch 4 (fun l =>
    { l with counter := ctr, incr := 6, retired := l.crews, admitted := l.crews, placed := l.crews })

theorem test_witness_Commands :
    (starts (queueS [0] .idle) (fun _ ws => !badCmd ws && decide (fieldOf (ws.getD 0 0) 0 8 = 0)) &&
     starts launchS (fun c ws => !badCmd ws && decide (fieldOf (ws.getD 0 0) 0 8 = 1) && launchS.reachable c (ws.getD 2 0) && (launchS.cpWords 1 c (ws.getD 1 0) 8).any (fun rcd => !launchS.badRecord rcd &&
       (launchS.cpWords 1 c (rcd.getD 2 0) (fieldOf (rcd.getD 3 0) 32 21)).any (fun a => a.all (fun x => (launchS.anchorAt c x).isSome))) && decide (launchS.gridsHeld < 256)) &&
     starts (queueS [2, W + 0x9000, 8, 3] .idle) (fun c ws => !badCmd ws && decide (fieldOf (ws.getD 0 0) 0 8 = 2) && (queueS [] .idle).reachable c (ws.getD 1 0)) &&
     starts (queueS [3, W + 0x9000, 5] .idle) (fun c ws => !badCmd ws && decide (fieldOf (ws.getD 0 0) 0 8 = 3) && (queueS [] .idle).reachable c (ws.getD 1 0)) &&
     starts (queueS [4] .idle) (fun _ ws => badCmd ws) && starts (queueS [0x201, W, W] .idle) (fun _ ws => badCmd ws && decide (fieldOf (ws.getD 0 0) 0 8 = 1)) &&
     (match ((queueS [] .idle).counterAt 1 (W + 0x9000) 0 none).2, ((queueS [] .idle).counterAt 1 (W + 0x9000) 1 none).2 with | .at _, .at _ => true | _, _ => false) &&
     (SMap.get? (doneS 0).launches 4).any (fun l => !l.counted && (doneS 0).launchDone 4 l && decide (l.counter = 0)) &&
     (SMap.get? (doneS (W + 0x9000)).launches 4).any (fun l => !l.counted && (doneS (W + 0x9000)).launchDone 4 l)) = true := by decide +kernel

def launch0 : Launch :=
  { dev := 0, ctx := 1, queue := 64, entry := 0x4000, param := 7, anchors := [W + 0x200000, W + 0x200000], crews := 2, groups := 3, wins := 2, width := 16, prio := 1, dit := true, chk := false, gang := 0,
    rsv := 0, weight := 1, dldef := 77, lseg := 0x140000, pseg := 0, counter := 0, incr := 0, admitted := 0, placed := 0, retired := 0, grid := [], mbars := [], gangAge := none,
    gangHeld := false, order := 0, headNo := 0, word0 := 0, counted := false, x := none }
def admitS (l : Launch) : State := { nopS with launches := SMap.put nopS.launches 60 l, queues := [(64, queue0 (.launching 60))] }
def admitted : State := match exec .crewAdmission (admitS launch0) with | .next t => t | _ => nopS
/-- A gang of one crew that has been admitted. -/
def gang1 : Launch := { launch0 with gang := 1, crews := 1, anchors := [W + 0x200000] }
def gangS : State := match exec .crewAdmission (admitS gang1) with | .next t => t | _ => nopS

theorem test_witness_Placement :
    ((match (admitS launch0).nextQueue 1 with | some e => decide (e.1 = 64 ∧ e.2.2.1 = 60) | none => false) && ((admitS launch0).nextQueue 2).isNone && ((admitS launch0).nextQueue 3).isNone &&
     !(admitS launch0).bosun.hold && ((admitS launch0).eligible (queue0 (.launching 60))).isSome &&
     (SMap.get? (admitS launch0).ctxs 1).any (fun c => ((admitS launch0).anchorAt c (W + 0x200000)).any (fun a => decide (a.1 = 0))) &&
     (let s1 := admitted.reserveHeads 0
      let head := decide (s1.headCrew 0 = some (60, 0))
      decide ((s1.mast 0).order[0]? = some (60, 0)) && !s1.bosun.hold && (SMap.get? s1.launches 60).any (fun l => decide (l.gang = 0) && !s1.gangBlocks 60 l &&
        (SMap.get? s1.ctxs l.ctx).any (fun c => decide (c.st = .running) && (s1.anchorAt c (l.anchors.getD 0 0)).any (fun a => decide (a.1 = 0) &&
          (s1.roomiest 0 ((s1.candidates l 0 a.2).filter (fun n => s1.takesCrew 60 0 l 0 n && (head || (s1.stn 0 n).resv.isNone)))).isSome)))) &&
     decide (gangS.pendingGang = some 60) && gangS.crewRuns 60 && (SMap.get? gangS.launches 60).any (fun l => decide ((gangS.gangPlaces 60 l).length = l.crews) &&
       (gangS.gangPlaces 60 l).all (fun e => gangS.takesCrew 60 e.2.2 l e.1 e.2.1)) &&
     (let s := gangS.updLaunch 60 (fun l => { l with gangAge := some 65536 })
      decide (s.pendingGang = some 60))) = true := by decide +kernel

/-- Negotiation has succeeded, every feature is active, and s8 of the save area and the context records lie in the station's store. -/
def cmdS : State :=
  let s := nopS.updCtx 1 (fun c => { c with save := W + 0x4000, pdl := 77 })
  { put 0x4010 [W + 0x10000, 0x20000] s with regs := { s.regs with neg := 1, active := 0x1F } }
def cmd0 (a0 a1 a2 : Word) : HCmd := { tag := 3, ctx := 1, a0 := a0, a1 := a1, a2 := a2 }

/-- Tables of context 1 on mast 0, that map addresses 0x10000 and 0x20000 to its frames 3 and 5. -/
def tabled (s : State) : State :=
  let t := paged (s.updCtx 1 (fun c => { c with root := 0x30000 }))
  let t := { t with tags := RMap.set t.tags 5 1 }.updCtx 1 (fun c => { c with tb := [(0, 9)] })
  let w := fun (pa : Nat) (x : Word) (s : State) => s.store (dramCell 0 pa) (leBytes 8 x.toNat)
  w 0x40000 (0x42000 * 256 + 1) (w 0x42000 (0x44000 * 256 + 1) (w 0x44008 (0x30000 * 256 + 0x2E) (w 0x44010 (0x50000 * 256 + 0x2E) t)))
/-- A root and a context record of context 2, and a queue descriptor of context 1. -/
def regS : State :=
  let s := put 0x5000 [1] (put 0x6000 [W + 0x7000, 0, packWord [(16, 32), (4, 0)], 0] (cmdS.updCtx 1 (fun c => { c with grantVa := W + 0x5000 })))
  let s := { s with tags := RMap.set s.tags 3 2 }
  s.store (dramCell 0 0x30000) ([packWord [(2, 48), (3, 0)], 0x4000, W + 0x4000, 0x30400].flatMap (fun w => leBytes 8 w.toNat))
def ctx1 (s : State) (f : Ctx → Bool) : Bool := (SMap.get? s.ctxs 1).any f
def c2 : HCmd := { tag := 3, ctx := 2, a0 := 0x30000, a1 := 0, a2 := 0 }

theorem test_witness_ContextCommands_register :
    ((let u := regS.noteCmd 1 c2
      decide (regS.regs.neg = 1) && (SMap.get? regS.ctxs 2).isNone && (u.physWords 2 0x30000 32 8).any (fun ws => (u.readRoot 2 (ctxOfWords ws)).isSome && decide (fieldOf (ws.getD 0 0) 48 16 = 2))) &&
     (let s := tabled regS
      let c := cmd0 (W + 0x6000) 0 0
      let u := s.noteCmd 2 c
      ctx1 s (fun x => decide (x.nq = 0) && decide (x.st ≠ .reset) && (u.readRoot 1 x).any (fun z =>
        (({ u with ctxs := SMap.put u.ctxs 1 { z with grant := ({ u with ctxs := SMap.put u.ctxs 1 z } : State).readGrant 1 z } } : State).queueWords 1 (W + 0x6000)).isSome))) &&
     (let s := { put 0x6000 [W + 0x7000, 0, packWord [(16, 32), (4, 0)], 0] cmdS with queues := [(64, { queue0 .idle with stopped := true })] }
      ctx1 s (fun x => decide (x.st ≠ .reset)) && ((s.noteCmd 3 (cmd0 0 0 0)).queueWords 1 (W + 0x6000)).isSome) &&
     (let c := cmd0 0 5 (packWord [(7, 32), (2, 0)])
      decide (BitVec.ofNat 16 (fieldOf c.a2 32 16) ≠ 0xFFFF ∧ c.a1.toNat + fieldOf c.a2 0 20 ≤ dataFrames)) &&
     (cmdS.regs.active.getLsbD 1 && decide (fieldOf (cmd0 5 1 0).a0 0 10 ≠ cmdS.devno)) &&
     (let s := { cmdS with regs := { cmdS.regs with member := 0x20 }, shroud := { cmdS.shroud with noPath := RMap.set cmdS.shroud.noPath 5 2000000 } }
      s.regs.member.getLsbD 5 && decide (5 ≠ s.devno ∧ 5 ∉ s.shroud.paths ∧ 2000000 ≤ (RMap.get s.shroud.noPath 5).toNat))) = true := by decide +kernel

theorem test_witness_ContextCommands_run :
    ((let s0 := trapped (.nop (F Z Z Z Z 0 0))
      let s := { lanes (fun l => { l with st := .stopped }) s0 with regs := { s0.regs with neg := 1 }, issuing := none }
      ctx1 s (fun x => (s.groupByPlace 1 0).any (fun e => decide (e.1 = 1) && (SMap.get? s.subs 2).any (fun u => decide (u.laneMask (fun l => decide (l.st = .stopped)) ≠ 0) &&
        decide ((s.subs.filter (fun e => decide (e.2.gid = 1))).map (fun e => e.1) = [2]) && ((s.noteCmd 6 (cmd0 0 0 0)).resumeSub x e.2 2 u).isSome)))) &&
     (let s := { lanes (fun l => { l with st := .halted }) cmdS with issuing := none }
      (s.groupByPlace 1 0).isSome && decide ((s.subs.filter (fun e => decide (e.2.gid = 1))).length = 1) && s.subs.all (fun e => e.2.lanes.all (fun l => decide (l.2.meet = 0)))) &&
     (ctx1 cmdS (fun _ => true)) &&
     (let s := tabled cmdS
      let u := s.noteCmd 0x0D (cmd0 0x10000 0x14000 0)
      ctx1 s (fun x => u.ownRun 1 x 0x10000 149 true && u.ownRun 1 x 0x14000 2 false && (u.cpWords 1 x 0x14000 8).isSome &&
        (u.cpCell 1 x 0x14000 false).any (fun p => !s.badAt p) && (u.cpCell 1 x 0x14020 false).any (fun p => !s.badAt p)))) = true := by decide +kernel

theorem test_witness_ContextCommands_checkpoint :
    ((let s := cmdS.updCtx 1 (fun c => { c with st := .saved })
      decide (s.regs.neg = 1) && s.regs.active.getLsbD 3 && s.ckpt.isNone && (SMap.get? s.ctxs 1).isSome && s.ctxs.all (fun e => decide (e.2.st = .saved)) && s.queues.isEmpty) &&
     (let s := put 0x8000 [0x10000, 0x10000] (tabled cmdS)
      let k : Ckpt := { tag := 3, ctx := 1, table := W + 0x8000, pctx := 1, whole := false, load := false }
      s.ckDrained k && ctx1 s (fun c => !s.beyond c k.table && (s.readSegs 1 c k.table 64).any (fun gs => decide (gs.length = 1) && gs.all (fun g => !s.beyond c g.1 && s.segOk 1 c g)) &&
        (s.segGet 1 c [(0x10000, 0x10000)] 0 256).any (fun hb => !headerOk (wordsOf 32 hb))) &&
      (let x := cmd0 (W + 0x8000) (packWord [(1, 48)]) 0
       let u : State := { s.noteCmd 0x0C x with ckpt := some { k with load := true } }
       ctx1 s (fun c => !u.beyond c x.a0 && (u.readSegs 1 c x.a0 64).any (fun gs => gs.all (fun g => !u.beyond c g.1 && u.segOk 1 c g)) &&
         (u.segGet 1 c [(0x10000, 0x10000)] 0 256).any (fun hb => !headerOk (wordsOf 32 hb)))))) = true := by decide +kernel

/-- A context that is being saved, with nothing unsettled: its crew has a store of 0x40 bytes and no group left. -/
def savingS : State :=
  match Machine.execPreempt (cmd0 0 0 0) { cmdS.updCrew 3 (fun c => { c with lseg := 0x40, groups := [] }) with issuing := none } with | .next t => t | _ => State.reset
/-- A context saved with one crew record, of a crew at the first station. -/
def savedS : State := put 0x10000 [packWord [(2, 56), (1, 0)], 0, 0, 0] (put 0x4010 [W + 0x10000, 0x20000, 32]
  ({ cmdS with issuing := none, groups := [], subs := [], crews := [] }.updCtx 1 (fun c => { c with st := .saved }) |>.updStn 0 0 (fun t => { t with crew := none })))
def saveOk (s : State) (fits : Bool) : Bool :=
  let gs := s.ctxGroups 1
  let u := (s.pendings ((s.ctxSubs 1).map (fun e => e.2.gid) ++ gs).dedup).foldl (fun s e => s.deliver e.1 e.2.id) s
  ctx1 s (fun c => decide (c.st = .saving) && !s.unsettled 1 && (u.cpWords 1 c (c.save + 0x10) 2).any (fun ws =>
    decide (8 * ((saveRecs u 1 gs).map List.length).sum ≤ (ws.getD 1 0).toNat) == fits && (!fits || (u.cpPut 1 c (ws.getD 0 0) (saveRecs u 1 gs).flatten).isSome)))

theorem test_witness_SaveAndRestore :
    (decide (cmdS.regs.neg = 1) && ctx1 cmdS (fun x => decide (x.st = .running)) && saveOk savingS true &&
     saveOk (put 0x4018 [8] savingS) false &&
     ctx1 (savingS.updCtx 1 (fun c => { c with left := some 0 })) (fun c => decide (c.st = .saving ∧ c.left = some 0)) &&
     (let s := { savedS with tags := RMap.set savedS.tags 0 1 }
      let u := s.noteCmd 5 (cmd0 0 0 0)
      decide (s.regs.neg = 1) && !s.inCkpt 1 && ctx1 s (fun x => decide (x.st = .saved) && (u.readRoot 1 x).any (fun y => (u.savedRecs 1 y).any (fun rs => !rs.isEmpty && rs.all (fun r => !u.recFenced r))))) &&
     (let s := savedS.updCtx 1 (fun c => { c with st := .restoring, left := none })
      ctx1 s (fun c => (s.savedRecs 1 c).any (fun rs => s.stationsFree (s.crewPairs 1 rs) && !(s.updStn 0 0 (fun t => { t with crew := some 99 })).stationsFree (s.crewPairs 1 rs)))) &&
     (let s := (savedS.updCtx 1 (fun c => { c with st := .restoring, left := some 0 }))
      s.images.isEmpty && ctx1 s (fun c => decide (c.st = .restoring ∧ c.left = some 0)))) = true := by decide +kernel

/-- Region 5 gives a host 256 bytes of the station's store, in every way. -/
def hostS : State :=
  (cmdS.updRegion 5 (fun g => { g with va := W + 0x2000, len := 0x100, ctx := 1, at_ := true, wr := true, rd := true })).updBosun (fun b => { b with hostUp := true })
def flit0 : Flit := { src := 5, port := 2, seq := 0, cls := 1, count := 0, link := 0, slots := [], crc := 0 }

theorem test_witness_HostPort :
    (hostS.bosun.hostUp && decide ((hostS.qp 7).error = false ∧ (hostS.qp 7).waiting = [] ∧ (hostS.qp 7).x = none) &&
     (match (hostS.updQp 7 (fun q => { q with waiting := [.read 5 8 4] })).packet 7 (.read 5 8 4) with | (_, .done _) => true | _ => false) &&
     decide (((hostS.updQp 7 (fun q => { q with waiting := [.read 5 8 4] })).qp 7).waiting ≠ []) &&
     ctx1 hostS (fun c => let g := hostS.region 5
       decide (g.len ≠ 0 ∧ 8 + 8 ≤ g.len.toNat ∧ (g.va + 8).toNat % 32 + 8 ≤ 32 ∧ g.wr = true ∧ g.rd = true ∧ g.at_ = true ∧ (g.va + 8).toNat % 8 = 0) &&
       (match hostS.hostAt 1 c (g.va + 8) 1 with | (t, .cell k) => decide (t = hostS) && soundAt hostS (sectorOf k) 32 | _ => false) &&
       (match hostS.hostAt 1 c (g.va + 8) 0 with | (t, .cell k) => decide (t = hostS) && soundAt hostS (sectorOf k) 32 | _ => false)) &&
     (let s := { hostS with queues := [(64, queue0 .idle)] }
      ctx1 s (fun c => (s.cpWord 1 c (W + 0x6008)).isSome)) &&
     !State.reset.regs.judged && decide (State.reset.regs.neg = 0) && (journalPlace 0x103100).isSome && (journalPlace 0x203108).isSome &&
     (let s := { hostS with regs := { hostS.regs with evslots := 4 }, events := [{ typ := 1, code := 0, tag := 3, ctx := 1, w1 := 0, w2 := 0, w3 := 0 }] }
      s.eventRoom) &&
     hostS.regs.active.getLsbD 1 && decide (2 ∉ hostS.shroud.failed ∧ 5 ∉ hostS.shroud.paths ∧ 5 ≠ hostS.devno ∧ flit0.seq = RMap.get hostS.shroud.seqs (5 * 32 + 2))) = true := by
  decide +kernel

theorem test_witness_HostPort_crc : ∃ f g : Flit, Config.crc64 (flitBytes f) = f.crc ∧ Config.crc64 (flitBytes g) ≠ g.crc :=
  ⟨{ flit0 with crc := Config.crc64 (flitBytes flit0) }, { flit0 with crc := Config.crc64 (flitBytes flit0) + 1 }, rfl, fun h => by
    have h' : Config.crc64 (flitBytes flit0) = Config.crc64 (flitBytes flit0) + 1 := h
    bv_omega⟩

/-- Device 1 of the domain has a link to this device; an answer and an image of it are on their way here. -/
def linkS : State :=
  { hostS with
    regs := { hostS.regs with active := 0x1F }
    shroud := { hostS.shroud with paths := [5] }
    others := [(1, { Device.reset with regs := { Device.reset.regs with neg := 1, devnum := 5, active := 0x1F }, shroud := { Device.reset.shroud with paths := [0] } })]
    msgs := [(90, { src := stnPort 16 3, dst := stnPort 0 0, body := .done 5 })]
    images := flown.images.map (fun e => (e.1, { e.2 with smast := 16, tmast := 0 })) }

theorem linkS_port : linkS.portFor 16 0 = some (Config.portHash 0 16 % 18) := by
  have h : (List.range shroudPorts).filter (fun p => !((linkS.partOf (16 / 16)).map (fun d => d.shroud.failed.contains p)).getD true) = List.range 18 := by decide +kernel
  have h' : Config.portHash 0 16 % 18 < 18 := Nat.mod_lt _ (by decide)
  unfold State.portFor
  simp only [h, List.length_range, List.getElem?_range h']

theorem test_witness_HostPort_flit : ∃ p < 18, p ∉ linkS.shroud.failed ∧ RMap.get linkS.shroud.seqs (5 * 32 + p) = 0 ∧
    linkS.nextFrom (linkS.devIx 5) p 2 = some (90, .done 5) ∧ (linkS.imageFrom (linkS.devIx 5) p).any (fun e => decide (1 < e.2.flits)) = true := by
  have hd : linkS.devno = 0 := by decide +kernel
  have h1 : linkS.devIx 5 = 1 := by decide +kernel
  refine ⟨Config.portHash 0 16 % 18, Nat.mod_lt _ (by decide), List.not_mem_nil, rfl, ?_, ?_⟩
  · have hm : linkS.msgs = [(90, { src := stnPort 16 3, dst := stnPort 0 0, body := .done 5 })] := rfl
    have hp : portMast (stnPort 16 3) = 16 := by decide
    have hf : linkS.firstMsg 90 { src := stnPort 16 3, dst := stnPort 0 0, body := .done 5 } = true := by decide +kernel
    have hs : portDev (stnPort 16 3) = 1 ∧ portDev (stnPort 0 0) = linkS.dev := by decide +kernel
    simp [State.nextFrom, hm, hp, hd, h1, linkS_port, hf, hs, MsgBody.cls]
  · have hc : linkS.images.all (fun e => decide (e.2.phase = .flying) && decide (e.2.smast = 16) && linkS.own e.2.tmast && linkS.nextOnRoute e.1 e.2 && decide (1 < e.2.flits)) = true ∧
        linkS.images ≠ [] := by decide +kernel
    cases h : linkS.images with
    | nil => exact absurd h hc.2
    | cons e es =>
      have he := hc.1
      rw [h] at he
      simp only [List.all_cons, Bool.and_eq_true, decide_eq_true_eq] at he
      simp [State.imageFrom, h, he.1, hd, h1, linkS_port]

theorem test_witness_DeviceService :
    (let m := State.reset.mast 0
     !m.busy && !m.fenced && !(State.reset.stn 0 3).fenced && m.spareRow 0x100 && m.spareBank 0x100 && !({ m with srows := 0 } : Mast).spareRow 0x100 &&
     State.reset.soft.isEmpty && State.reset.bad.isEmpty && !State.reset.bosun.hold && decide (State.reset.bosun.boot = 0) &&
     (let s : State := { linkS with shroud := State.reset.shroud }
      s.regs.active.getLsbD 1 && (s.partOf (s.devIx 5)).any (fun p => p.regs.active.getLsbD 1) && decide ((5 : Nat) ≠ s.devno ∧ (5 : Nat) ∉ s.shroud.paths)) &&
     nopS.bosun.on && (nopS.subs.find? (fun e => decide (e.2.gid = 1))).isSome &&
     (match Machine.execPowerOn State.reset with | .next t => decide ((t.mast 0).foot = .powered) && t.bosun.on | _ => false) &&
     (let s := { nopS with bosun := { nopS.bosun with hold := true } }
      s.bosun.hold) &&
     (State.reset.updJrn 0 (fun j => { j with mode := 2 })).replaying) = true := by decide +kernel

/-! ### Values -/

/-- The formats that the hypotheses of IntegerArithmetic, BitWords, IntegerDivision, FloatMinMax and FloatClass name, in words that carry them. -/
theorem test_witness_values :
    ((Mods.ofNat (fMods (F Z Z Z Z 4 0))).fmt ∈ fmtsI ∧ (Mods.ofNat (fMods (F Z Z Z Z 4 0x10))).sat = true ∧ (Mods.ofI (I Z Z 0 none) 4).fmt ∈ fmtsIN ∧
      (Mods.ofNat (fMods (F Z Z Z Z 7 0))).fmt ∈ fmtsIN ∧ (Mods.ofNat ((F Z Z Z Z 8 0xAA).hi.toNat * 256)).fmt ∈ fmtsB ∧ fMods (F Z Z Z Z 8 0) / 256 % 32 = 8) ∧
    ((Mods.ofNat (fMods (F Z Z Z Z 0xD 0))).fmt = 0xD ∧ (Mods.ofNat (fMods (F Z Z Z Z 0xE 0))).fmt = 0xE ∧ (Mods.ofNat (fMods (F Z Z Z Z 0xC 0))).fmt = 0xC ∧
      (Mods.ofI (I Z Z 0 none) 0xD).fmt = 0xD ∧ (Mods.ofI (I Z Z 0 none) 0xC).fmt = 0xC) := by decide

/-- R89: -7 / 2 = -3 rest -1, a zero divisor, and the minimum divided by -1. -/
theorem test_idiv : (computes (.idiv (F Z Z Z Z 4 0)) [0xFFFF_FFF9, 2] = some (0xFFFF_FFFD, 0) ∧ computes (.irem (F Z Z Z Z 4 0)) [0xFFFF_FFF9, 2] = some (0xFFFF_FFFF, 0)) ∧
    (computes (.idiv (F Z Z Z Z 4 0)) [5, 0] = some (0xFFFF_FFFF, 0) ∧ computes (.irem (F Z Z Z Z 4 0)) [5, 0] = some (5, 0)) ∧
    computes (.idiv (F Z Z Z Z 4 0)) [0x8000_0000, 0xFFFF_FFFF] = some (0x8000_0000, 0) := by decide +kernel

/-- R87: BTAB with lut 0xAA gives a, with 0xCC b, with 0xF0 c. -/
theorem test_btab : computes (.btab (F Z Z Z Z 8 0xAA)) [0x1234_5678, 0x9ABC_DEF0, 0x0F0F_0F0F] = some (0x1234_5678, 0) ∧
    computes (.btab (F Z Z Z Z 8 0xCC)) [0x1234_5678, 0x9ABC_DEF0, 0x0F0F_0F0F] = some (0x9ABC_DEF0, 0) ∧
    computes (.btab (F Z Z Z Z 8 0xF0)) [0x1234_5678, 0x9ABC_DEF0, 0x0F0F_0F0F] = some (0x0F0F_0F0F, 0) := by decide +kernel

/-- R92: FMIN of +0 and -0 is -0, and of a signalling NaN and 1 is 1 with NV. -/
theorem test_fmin : computes (.fmin (F Z Z Z Z 0xD 0)) [0, 0x8000_0000] = some (0x8000_0000, 0) ∧
    computes (.fmin (F Z Z Z Z 0xD 0)) [0x7F80_0001, 0x3F80_0000] = some (0x3F80_0000, 1) := by decide +kernel

end Sys2Proof.Tests
end

section
/-! # Every step keeps memory canonical (O45, O46)

`State.MemWf` says of a state what `Safety.Inv` says. Of a function of the model that leaves the memory as it is, a lemma `…_mem` says so; of one
that may change it, `…_memWf` (for a state) or `…_nextWf` (for an outcome) says that it keeps `MemWf`. Memory changes in two ways only: by
`writeMem` (`State.store`, and a crew's saved station that is loaded back) and by dropping entries (a station that changes owner, memory that powers
up, a device that is reset). The lemmas follow the model's files and, within a file, the order of its definitions. -/

namespace Sys2Proof.Machine

open Sys2Proof

/-- `Safety.Inv`, in a form that `simp` sees through. -/
@[simp] abbrev State.MemWf (s : State) : Prop := Memory.wf s.mem = true

@[simp] theorem State.ite_mem (c : Prop) [Decidable c] (s t : State) : (if c then s else t).mem = if c then s.mem else t.mem := apply_ite ..

@[simp] theorem Memory.wf_ite (c : Prop) [Decidable c] (m k : Memory) : Memory.wf (if c then m else k) = if c then m.wf else k.wf := apply_ite ..

/-- A write keeps the canonical form. -/
@[simp] theorem Memory.wf_writeMem {m : Memory} (h : m.wf = true) {c : Nat} {bs : List Byte} : Memory.wf (writeMem m c bs) = true :=
  writeMem_wf m c bs h

theorem SMap.risingFrom_filter {α : Type} {m : SMap α} (p : Nat × α → Bool) {b : Nat} (h : SMap.risingFrom b m = true) :
    SMap.risingFrom b (m.filter p) = true := by
  induction m generalizing b with
  | nil => rfl
  | cons e m ih =>
    obtain ⟨i, x⟩ := e
    simp only [SMap.risingFrom, Bool.and_eq_true, decide_eq_true_eq] at h
    rw [List.filter_cons]
    split
    · simpa [SMap.risingFrom, h.1] using ih h.2
    · exact SMap.risingFrom_mono (by omega) (ih h.2)

/-- Dropping entries keeps the canonical form. -/
@[simp] theorem Memory.wf_filter {m : Memory} {p : Host.Cell → Bool} (h : m.wf = true) : Memory.wf (m.filter p) = true := by
  simp only [Memory.wf, RMap.wf, RMap.noZero, Bool.and_eq_true, List.all_eq_true] at h ⊢
  obtain ⟨hr, hz⟩ := h
  exact ⟨SMap.risingFrom_filter p hr, fun e he => hz e (List.mem_of_mem_filter he)⟩

@[simp] theorem Memory.wf_keep {m : Memory} {f : Nat → Bool} (h : m.wf = true) : Memory.wf (RMap.keep m f) = true := Memory.wf_filter h

/-! ### Folds over states -/

theorem foldl_mem {α : Type} {f : State → α → State} (hf : ∀ u a, (f u a).mem = u.mem) (l : List α) (s : State) : (l.foldl f s).mem = s.mem := by
  induction l generalizing s with
  | nil => rfl
  | cons a l ih => exact (ih _).trans (hf s a)

theorem foldl_memWf {α : Type} {f : State → α → State} (hf : ∀ a (u : State), u.MemWf → (f u a).MemWf) {l : List α} {s : State} (hs : s.MemWf) :
    (l.foldl f s).MemWf :=
  List.foldlRecOn l f hs fun u hu a _ => hf a u hu

/-! ### Outcomes, and actions that keep the form -/

/-- If the outcome is a next state, its memory is canonical. -/
def NextWf (o : Host.Outcome State Fault Refusal) : Prop := ∀ t, o = .next t → t.MemWf

@[simp] theorem nextWf_next {t : State} : NextWf (.next t) ↔ t.MemWf := by simp [NextWf]

@[simp] theorem nextWf_fault {r : Fault} : NextWf (.fault r) := by simp [NextWf]

@[simp] theorem nextWf_refused {r : Refusal} : NextWf (.refused r) := by simp [NextWf]

/-- The action keeps memory canonical. -/
def Keeps (f : State → State) : Prop := ∀ s, s.MemWf → (f s).MemWf

/-- Every action of the list keeps memory canonical. -/
def KeepAll (fs : List (State → State)) : Prop := ∀ f ∈ fs, Keeps f

theorem keepAll_nil : KeepAll [] := by simp [KeepAll]

theorem keepAll_cons {f : State → State} {fs : List (State → State)} : KeepAll (f :: fs) ↔ Keeps f ∧ KeepAll fs := List.forall_mem_cons

theorem keepAll_singleton {f : State → State} : KeepAll [f] ↔ Keeps f := List.forall_mem_singleton

theorem keepAll_append {fs gs : List (State → State)} : KeepAll (fs ++ gs) ↔ KeepAll fs ∧ KeepAll gs := List.forall_mem_append

theorem keepAll_map {α : Type} {l : List α} {g : α → State → State} (hg : ∀ a, Keeps (g a)) : KeepAll (l.map g) :=
  List.forall_mem_map.2 fun a _ => hg a

theorem keepAll_flatMap {α : Type} {l : List α} {g : α → List (State → State)} (hg : ∀ a, KeepAll (g a)) : KeepAll (l.flatMap g) := by
  intro f hf
  obtain ⟨a, -, ha⟩ := List.mem_flatMap.1 hf
  exact hg a f ha

theorem keepAll_ite {c : Prop} [Decidable c] {fs gs : List (State → State)} (hf : KeepAll fs) (hg : KeepAll gs) :
    KeepAll (if c then fs else gs) := by
  split
  · exact hf
  · exact hg

/-- The state that a queue's turn leaves, if it has its turn now, has canonical memory. -/
@[simp] def QTry.MemWf : QTry → Prop
  | .done s _ _ => s.MemWf
  | .wait => True

theorem State.store_memWf {s : State} {c : Nat} {bs : List Byte} (hs : s.MemWf) : (s.store c bs).MemWf := Memory.wf_writeMem hs

/-! ### States that may not be there -/

theorem getD_memWf {o : Option State} {s : State} (ho : ∀ t ∈ o, t.MemWf) (hs : s.MemWf) : (o.getD s).MemWf := by
  cases o with
  | none => exact hs
  | some t => exact ho t rfl

theorem bind_memWf {α : Type} {o : Option α} {f : α → Option State} (hf : ∀ a, ∀ t ∈ f a, t.MemWf) : ∀ t ∈ o.bind f, t.MemWf := by
  intro t ht
  obtain ⟨a, -, ha⟩ := Option.bind_eq_some_iff.1 ht
  exact hf a t ha

theorem foldl_bind_memWf {α : Type} {f : State → α → Option State} (hf : ∀ a (u : State), u.MemWf → ∀ t ∈ f u a, t.MemWf) {l : List α}
    {o : Option State} (ho : ∀ t ∈ o, t.MemWf) : ∀ t ∈ l.foldl (fun o a => o.bind fun u => f u a) o, t.MemWf := by
  induction l generalizing o with
  | nil => exact ho
  | cons a l ih =>
    refine ih fun t ht => ?_
    obtain ⟨u, hu, ht⟩ := Option.bind_eq_some_iff.1 ht
    exact hf a u (ho u hu) t ht

end Sys2Proof.Machine
end

section
/-! ## Access: the accessors and the moves to and from a device -/

namespace Sys2Proof.Machine

open Sys2Proof

theorem State.on_memWf {s : State} {d : Nat} {f : State → State} (hf : Keeps f) (hs : s.MemWf) : (s.on d f).MemWf := by
  simpa [State.on] using hf _ (by simpa using hs)

@[simp] theorem State.updReceiver_mem (s : State) (gid lane : Nat) (f : SubGroup → SubGroup) : (s.updReceiver gid lane f).mem = s.mem := by
  fun_cases State.updReceiver <;> grind [State.updSub_mem, State.updImg_mem]

@[simp] theorem State.postAt_mem (s : State) (m : Nat) (e : Event) : (s.postAt m e).mem = s.mem := by simp [State.postAt, State.on]

@[simp] theorem State.tellBosun_mem (s : State) (m ctx : Nat) (cause : BitVec 8) : (s.tellBosun m ctx cause).mem = s.mem := by
  simp [State.tellBosun, State.on]

theorem State.atSub_memWf {s : State} {sid : Nat} {f : State → State} (hf : Keeps f) (hs : s.MemWf) : (s.atSub sid f).MemWf := by
  unfold State.atSub
  split
  · exact State.on_memWf hf hs
  · exact hf s hs

@[simp] theorem State.send_mem (s : State) (src dst : Nat) (b : MsgBody) : (s.send src dst b).mem = s.mem := rfl

@[simp] theorem State.note_mem (s : State) (u typ ctx : Nat) (w1 w2 w3 : Word) : (s.note u typ ctx w1 w2 w3).mem = s.mem := by simp [State.note]

@[simp] theorem State.noteAt_mem (s : State) (m typ ctx : Nat) (w1 w2 w3 : Word) : (s.noteAt m typ ctx w1 w2 w3).mem = s.mem := by
  simp [State.noteAt, State.on]

@[simp] theorem State.countWait_mem (s : State) (sid : Nat) (lanes : Mask) : (s.countWait sid lanes).mem = s.mem := by
  unfold State.countWait
  split <;> simp

@[simp] theorem State.noteLanes_mem (s : State) (typ sid : Nat) (lanes : Mask) (x : Word) : (s.noteLanes typ sid lanes x).mem = s.mem := by
  fun_cases State.noteLanes <;> simp

@[simp] theorem State.clockRead_mem (s : State) (sid : Nat) (lanes : Mask) (x : Word) : (s.clockRead sid lanes x).2.mem = s.mem := by
  simp [State.clockRead]

end Sys2Proof.Machine
end

section
/-! ## Xlate: holds and translation -/

namespace Sys2Proof.Machine

open Sys2Proof

@[simp] theorem State.askWalk_mem (s : State) (ctx : Nat) (va : Word) (acc : BitVec 2) : (s.askWalk ctx va acc).mem = s.mem := by simp [State.askWalk]

@[simp] theorem State.faultEvent_mem (s : State) (m : Nat) (newi ovfi : Bool) : (s.faultEvent m newi ovfi).mem = s.mem := by simp [State.faultEvent]

@[simp] theorem State.holdFault_mem (s : State) (ctx : Nat) (va : Word) (why : BitVec 8) (acc : BitVec 2) : (s.holdFault ctx va why acc).1.mem = s.mem := by
  unfold State.holdFault
  dsimp only
  split <;> simp

@[simp] theorem State.tryXl_mem (s : State) (x : XlReq) : (s.tryXl x).1.mem = s.mem := by
  unfold State.tryXl
  dsimp only
  repeat' split
  all_goals simp

theorem State.cpPut_memWf {s : State} {ctx : Nat} {c : Ctx} {va : Word} {ws : List Word} (hs : s.MemWf) : ∀ t ∈ s.cpPut ctx c va ws, t.MemWf := by
  induction ws generalizing s va with
  | nil => simp [State.cpPut, hs]
  | cons w ws ih =>
    unfold State.cpPut
    split
    · exact ih (State.store_memWf hs)
    · simp

@[simp] theorem State.cpBytes_memWf {s : State} {ctx : Nat} {c : Ctx} {va : Word} {bs : List Byte} (hs : s.MemWf) : (s.cpBytes ctx c va bs).MemWf := by
  unfold State.cpBytes
  split <;> simp [hs]

@[simp] theorem State.syncQueue_memWf {s : State} {q : Queue} (hs : s.MemWf) : (s.syncQueue q).MemWf := by
  fun_cases State.syncQueue <;> grind [State.cpBytes_memWf]

@[simp] theorem State.putQueue_memWf {s : State} {k : Nat} {q : Queue} (hs : s.MemWf) : (s.putQueue k q).MemWf := by simp [State.putQueue, hs]

end Sys2Proof.Machine
end

section
/-! ## Ops: what every word ends in: results, waits, traps and messages -/

namespace Sys2Proof.Machine

open Sys2Proof

@[simp] theorem State.putFrame_memWf {s : State} {ctx : Nat} {c : Ctx} {va : Word} {ws : List Word} (hs : s.MemWf) : (s.putFrame ctx c va ws).MemWf := by
  induction ws generalizing s va with
  | nil => exact hs
  | cons w ws ih =>
    unfold State.putFrame
    dsimp only
    split
    · exact ih (State.store_memWf hs)
    · exact ih hs
    · exact ih hs

@[simp] theorem State.faultRecord_mem (s : State) (g : Group) (t : TrapReq) (dl : Word) : (s.faultRecord g t dl).mem = s.mem := by
  simp [State.faultRecord]

@[simp] theorem State.stopLanes_mem (s : State) (sid : Nat) (lanes : Mask) (g : Group) (t : TrapReq) : (s.stopLanes sid lanes g t).mem = s.mem := by
  simp [State.stopLanes]

@[simp] theorem State.enterFrame_memWf {s : State} {sid : Nat} {lanes : Mask} {sg : SubGroup} {g : Group} {c : Ctx} {va : Word} {f : Nat}
    {t : TrapReq} (hs : s.MemWf) : (s.enterFrame sid lanes sg g c va f t).MemWf := by simp [State.enterFrame, hs]

@[simp] theorem State.beginWait_mem (s : State) (w : Wait) : (s.beginWait w).mem = s.mem := by simp [State.beginWait]

@[simp] theorem State.standBy_mem (s : State) (w : Wait) (ks : List Nat) : (s.standBy w ks).mem = s.mem := by simp [State.standBy]

@[simp] theorem State.endWalker_mem (s : State) (gid : Nat) : (s.endWalker gid).mem = s.mem := by
  unfold State.endWalker
  split <;> simp

@[simp] theorem State.enterHandler_memWf {s : State} {sid : Nat} {lanes : Mask} {t : TrapReq} (hs : s.MemWf) : (s.enterHandler sid lanes t).MemWf := by
  unfold State.enterHandler
  repeat' split
  all_goals grind [State.endWalker_mem, State.stopLanes_mem, State.enterFrame_memWf, State.tryXl_mem, State.updGroup_mem, State.beginWait_mem]

@[simp] theorem State.retireCrew_memWf {s : State} {cid : Nat} (hs : s.MemWf) : (s.retireCrew cid).MemWf := by
  unfold State.retireCrew
  dsimp only
  repeat' split
  all_goals try simp [hs]
  exact State.on_memWf (fun u hu => by split <;> simp [hu]) hs

@[simp] theorem State.endLanes_memWf {s : State} {sid : Nat} {lanes : Mask} (hs : s.MemWf) : (s.endLanes sid lanes).MemWf := by
  unfold State.endLanes
  repeat' split
  all_goals simp [hs]

@[simp] theorem State.releaseTie_mem (s : State) (tid : Nat) (t : Tie) (status : BitVec 8) : (s.releaseTie tid t status).mem = s.mem := by
  unfold State.releaseTie
  split <;> simp

@[simp] theorem State.judgeTie_mem (s : State) (tid : Nat) : (s.judgeTie tid).mem = s.mem := by fun_cases State.judgeTie <;> simp

@[simp] theorem State.joinOccurrence_mem (s : State) (sid : Nat) (lanes : Mask) (m : Word) : (s.joinOccurrence sid lanes m).mem = s.mem := by
  fun_cases State.joinOccurrence <;> grind [State.fresh_mem, State.judgeTie_mem, State.updSub_mem, State.updGroup_mem]

@[simp] theorem State.formImage_mem (s : State) (sid : Nat) (lanes : Mask) (kind : BitVec 4) (live : BitVec 8) (dev m n : Nat) :
    (s.formImage sid lanes kind live dev m n).mem = s.mem := by
  unfold State.formImage
  dsimp only
  repeat' split
  all_goals simp

@[simp] theorem State.departTo_mem (s : State) (sid : Nat) (lanes : Mask) (kind : BitVec 4) (live : BitVec 8) (dev m n : Nat) :
    (s.departTo sid lanes kind live dev m n).mem = s.mem := by
  unfold State.departTo
  split
  · rfl
  · exact foldl_mem (fun _ _ => State.formImage_mem ..) _ _

theorem State.holdAt_memWf {trap : TrapWay} (ht : ∀ {s : State} {sid lanes t}, s.MemWf → (trap s sid lanes t).MemWf) {s : State} {sid : Nat} {lanes : Mask}
    {m : Word} (hs : s.MemWf) : (State.holdAt trap s sid lanes m).MemWf := by
  unfold State.holdAt
  dsimp only
  repeat' split
  all_goals simp [hs, ht]

theorem State.holdReadyBy_memWf {trap : TrapWay} (ht : ∀ {s : State} {sid lanes t}, s.MemWf → (trap s sid lanes t).MemWf) {s : State} {sid : Nat}
    (hs : s.MemWf) : (State.holdReadyBy trap s sid).MemWf := by
  unfold State.holdReadyBy
  split
  · exact hs
  · exact foldl_memWf (fun _ _ => State.holdAt_memWf ht) hs

theorem State.trapHold_memWf {n : Nat} {s : State} {sid : Nat} {lanes : Mask} {t : TrapReq} (hs : s.MemWf) : (State.trapHold n s sid lanes t).MemWf := by
  induction n generalizing s sid lanes t with
  | zero => exact State.enterHandler_memWf hs
  | succ n ih => exact State.holdReadyBy_memWf ih (State.enterHandler_memWf hs)

@[simp] theorem State.enterTrap_memWf {s : State} {sid : Nat} {lanes : Mask} {t : TrapReq} (hs : s.MemWf) : (s.enterTrap sid lanes t).MemWf :=
  State.trapHold_memWf hs

@[simp] theorem State.holdReady_memWf {s : State} {sid : Nat} (hs : s.MemWf) : (s.holdReady sid).MemWf :=
  State.holdReadyBy_memWf State.enterTrap_memWf hs

@[simp] theorem State.advance_memWf {s : State} {sid : Nat} {lanes : Mask} {stall len : Nat} {pc : Nat → Word} {tpc iw xw : Word} (hs : s.MemWf) :
    (s.advance sid lanes stall len pc tpc iw xw).MemWf := by
  unfold State.advance
  split <;> simp [hs]

@[simp] theorem State.retireAt_memWf {s : State} {sid : Nat} {lanes : Mask} {stall len : Nat} {pc : Nat → Word} {tpc iw xw : Word} (hs : s.MemWf) :
    (s.retireAt sid lanes stall len pc tpc iw xw).MemWf := by simp [State.retireAt, hs]

@[simp] theorem State.retire_memWf {s : State} {sid : Nat} {lanes : Mask} {stall len : Nat} {iw xw : Word} (hs : s.MemWf) :
    (s.retire sid lanes stall len iw xw).MemWf := by
  unfold State.retire
  split <;> simp [hs]

@[simp] theorem State.outstand_mem (s : State) (gid lane : Nat) (path : Mask) (ws : List (Reg × Option Word)) :
    (s.outstand gid lane path ws).2.mem = s.mem := rfl

@[simp] theorem State.escalate_mem (s : State) (sid : Nat) (g : Group) (counted reset : Bool) (lanes : Mask) (dl tpc : Word) (len : Nat)
    (iw xw : Word) : (s.escalate sid g counted reset lanes dl tpc len iw xw).mem = s.mem := by fun_cases State.escalate <;> simp

@[simp] theorem State.finish_memWf {s : State} {sid : Nat} {g : Group} {set lanes : Mask} {stall len : Nat} {counted reset : Bool} {dl iw xw : Word}
    (hs : s.MemWf) : (s.finish sid g set lanes stall len counted reset dl iw xw).MemWf := by
  unfold State.finish
  split <;> simp [hs]

@[simp] theorem State.writeReg_mem (s : State) (gid lane : Nat) (w : Reg × Word) : (s.writeReg gid lane w).mem = s.mem := by
  fun_cases State.writeReg <;> simp

@[simp] theorem State.wakeBoard_mem (s : State) (gid : Nat) : (s.wakeBoard gid).mem = s.mem := foldl_mem (fun _ _ => by simp) _ _

@[simp] theorem State.deliver_mem (s : State) (gid id : Nat) : (s.deliver gid id).mem = s.mem := by
  fun_cases State.deliver
  case case4 g _ o _ _ ws s1 s2 =>
    suffices h : s1.mem = s.mem by simpa [s2] using h
    unfold s1
    split
    · rfl
    · exact foldl_mem (fun _ _ => State.writeReg_mem ..) _ _
  all_goals rfl

@[simp] theorem State.setOutst_mem (s : State) (gid id : Nat) (x : Word) : (s.setOutst gid id x).mem = s.mem := rfl

@[simp] theorem State.detach_mem (s : State) (sid : Nat) (lanes : Mask) : (s.detach sid lanes).mem = s.mem := rfl

@[simp] theorem State.endWait_memWf {s : State} {wid : Nat} {w : Wait} {status : Option Word} {counted reset : Bool} {dl : Word} (hs : s.MemWf) :
    (s.endWait wid w status counted reset dl).MemWf := by
  unfold State.endWait
  dsimp only
  split
  · exact hs
  · refine State.atSub_memWf (fun u hu => State.finish_memWf hu) ?_
    simp [hs]

@[simp] theorem State.trapWait_memWf {s : State} {wid : Nat} {w : Wait} {cause detail : BitVec 8} {info : Word} {fmask : Mask} (hs : s.MemWf) :
    (s.trapWait wid w cause detail info fmask).MemWf := by
  refine State.atSub_memWf (fun u hu => State.enterTrap_memWf hu) ?_
  simp [hs]

@[simp] theorem State.readyWait_mem (s : State) (wid : Nat) (w : Wait) : (s.readyWait wid w).mem = s.mem := rfl

@[simp] theorem State.joinStand_mem (s : State) (wid sid : Nat) (lanes : Mask) : (s.joinStand wid sid lanes).mem = s.mem := by
  refine foldl_mem (fun _ _ => ?_) _ _
  rfl

@[simp] theorem State.redoWait_mem (s : State) (wid : Nat) (w : Wait) : (s.redoWait wid w).mem = s.mem :=
  (foldl_mem (fun _ _ => State.readyWait_mem ..) _ _).trans (State.readyWait_mem ..)

@[simp] theorem State.standDown_memWf {s : State} (hs : s.MemWf) : s.standDown.MemWf := by
  refine foldl_memWf (fun e u hu => ?_) hs
  dsimp only
  repeat' split
  · exact hu
  · simp [hu]
  · exact State.atSub_memWf (fun v hv => State.retire_memWf hv) (by simpa using hu)

end Sys2Proof.Machine
end

section
/-! ## Operands: the frame around a word: guard, checks, body -/

namespace Sys2Proof.Machine

open Sys2Proof

@[simp] theorem Run.trapOf_memWf {r : Run} {s : State} {lanes : Mask} {cause detail : BitVec 8} {info : Word} {fmask : Mask} {next : Bool}
    (hs : s.MemWf) : (r.trapOf s lanes cause detail info fmask next).MemWf := by simp [Run.trapOf, hs]

@[simp] theorem Run.trap_memWf {r : Run} {s : State} {cause detail : BitVec 8} {info : Word} {fmask : Mask} (hs : s.MemWf) :
    (r.trap s cause detail info fmask).MemWf := by simp [Run.trap, hs]

@[simp] theorem Run.done_memWf {r : Run} {s : State} (hs : s.MemWf) : (r.done s).MemWf := by simp [Run.done, hs]

@[simp] theorem Run.fixed_memWf {r : Run} {s : State} {lat : Nat} {ws : List (Reg × Word)} {fl : BitVec 8} (hs : s.MemWf) :
    (r.fixed s lat ws fl).MemWf := by simp [Run.fixed, hs]

@[simp] theorem Run.later_memWf {r : Run} {s : State} {ws : List (Reg × Word)} {fl : BitVec 8} (hs : s.MemWf) : (r.later s ws fl).MemWf := by
  simp [Run.later, hs]

@[simp] theorem Run.waitFor_memWf {r : Run} {s : State} {lanes : Mask} {k : WaitKind} {dk : Option Word} {bound : Option Nat} {st : Operand}
    (hs : s.MemWf) : (r.waitFor s lanes k dk bound st).MemWf := by
  unfold Run.waitFor
  split <;> simp [hs]

theorem issueWord_nextWf {s : State} {gneg : Bool} {guard : BitVec 3} {stall len : Nat} {sig : Sig} {info : Run → Nat → Word} {body : Body}
    (hs : s.MemWf) (hb : ∀ r, Keeps (body r)) : NextWf (issueWord s gneg guard stall len sig info body) := by
  unfold issueWord
  dsimp only
  repeat' split
  all_goals simp [hs, hb _ s hs]

theorem issueF_nextWf {s : State} {w : FWord} {x : Option XWord} {sig : Sig} {body : Body} (hs : s.MemWf) (hb : ∀ r, Keeps (body r)) :
    NextWf (issueF s w x sig body) := issueWord_nextWf hs hb

theorem issueI_nextWf {s : State} {w : IWord} {sig : Sig} {body : Body} (hs : s.MemWf) (hb : ∀ r, Keeps (body r)) :
    NextWf (issueI s w sig body) := issueWord_nextWf hs hb

@[simp] theorem issueBadX_nextWf {s : State} {detail : BitVec 8} (hs : s.MemWf) : NextWf (issueBadX s detail) := by
  unfold issueBadX
  split <;> simp [hs]

end Sys2Proof.Machine
end

section
/-! ## Flags: the exception flags -/

namespace Sys2Proof.Machine

open Sys2Proof

@[simp] theorem State.settlePoint_mem (s : State) (r : Run) : (s.settlePoint r).mem = s.mem := rfl

end Sys2Proof.Machine
end

section
/-! ## Alu: the words that compute one result per lane -/

namespace Sys2Proof.Machine

open Sys2Proof

theorem Shape.body_keeps {h : Shape} {f : List Nat → Nat × Flags} {r : Run} : Keeps (h.body f r) := by
  intro s hs
  unfold Shape.body
  dsimp only
  split
  · exact Run.fixed_memWf hs
  · exact Run.later_memWf hs

theorem aluWord_nextWf {s : State} {hd : Hd} {h : Shape} {f : List Nat → Nat × Flags} (hs : s.MemWf) : NextWf (aluWord s hd h f) :=
  issueWord_nextWf hs fun _ => Shape.body_keeps

end Sys2Proof.Machine
end

section
/-! ## Integer: the integer words -/

namespace Sys2Proof.Machine

open Sys2Proof

@[simp] theorem intF_nextWf {s : State} {w : FWord} {p : ISpec} {n : Nat} {f : IOp} (hs : s.MemWf) : NextWf (intF s w p n f) := aluWord_nextWf hs

@[simp] theorem intI_nextWf {s : State} {w : IWord} {p : ISpec} {dflt : Nat} {f : IOp} (hs : s.MemWf) : NextWf (intI s w p dflt f) :=
  aluWord_nextWf hs

@[simp] theorem execBtab_nextWf {w : FWord} {s : State} (hs : s.MemWf) : NextWf (execBtab w s) := aluWord_nextWf hs

@[simp] theorem execLea_nextWf {w : FWord} {s : State} (hs : s.MemWf) : NextWf (execLea w s) := aluWord_nextWf hs

@[simp] theorem execIcmp_nextWf {w : FWord} {s : State} (hs : s.MemWf) : NextWf (execIcmp w s) := aluWord_nextWf hs

@[simp] theorem execIcmpI_nextWf {w : IWord} {s : State} (hs : s.MemWf) : NextWf (execIcmpI w s) := aluWord_nextWf hs

@[simp] theorem execPtab_nextWf {w : FWord} {s : State} (hs : s.MemWf) : NextWf (execPtab w s) := aluWord_nextWf hs

@[simp] theorem execIsel_nextWf {w : FWord} {s : State} (hs : s.MemWf) : NextWf (execIsel w s) := aluWord_nextWf hs

@[simp] theorem execMovI_nextWf {w : IWord} {s : State} (hs : s.MemWf) : NextWf (execMovI w s) := aluWord_nextWf hs

end Sys2Proof.Machine
end

section
/-! ## Floating: the float words -/

namespace Sys2Proof.Machine

open Sys2Proof

@[simp] theorem floatF_nextWf {s : State} {w : FWord} {p : FSpec} {n : Nat} {f : FOp} (hs : s.MemWf) : NextWf (floatF s w p n f) := aluWord_nextWf hs

@[simp] theorem floatI_nextWf {s : State} {w : IWord} {p : FSpec} {dflt : Nat} {f : FOp} (hs : s.MemWf) : NextWf (floatI s w p dflt f) :=
  aluWord_nextWf hs

@[simp] theorem execPairedWord_nextWf {w : PWord} {s : State} (hs : s.MemWf) : NextWf (execPairedWord w s) := by
  fun_cases execPairedWord
  case case4 | case5 => exact nextWf_next.2 (Run.trapOf_memWf hs)
  case case6 | case9 => exact nextWf_next.2 (Run.waitFor_memWf hs)
  case case7 => exact nextWf_next.2 (Run.done_memWf hs)
  case case8 | case10 => exact nextWf_next.2 (Run.trap_memWf hs)
  case case11 => exact nextWf_next.2 (Run.done_memWf hs)
  all_goals exact nextWf_fault

end Sys2Proof.Machine
end

section
/-! ## Convert: the conversion words -/

namespace Sys2Proof.Machine

open Sys2Proof

@[simp] theorem convWord_nextWf {s : State} {w : FWord} {m : CMods} {sig : Sig} {lat : Nat} {f : Run → Nat → List (Reg × Word) × Flags}
    {lanes : Run → List Nat} (hs : s.MemWf) : NextWf (convWord s w m sig lat f lanes) := issueF_nextWf hs fun _ _ hu => by simp [hu]

@[simp] theorem execCvt_nextWf {w : FWord} {s : State} (hs : s.MemWf) : NextWf (execCvt w s) := by simp [execCvt, hs]

@[simp] theorem execCvtf_nextWf {w : FWord} {s : State} (hs : s.MemWf) : NextWf (execCvtf w s) := by simp [execCvtf, hs]

@[simp] theorem execPack_nextWf {w : FWord} {s : State} (hs : s.MemWf) : NextWf (execPack w s) := by simp [execPack, hs]

@[simp] theorem execUnpack_nextWf {w : FWord} {s : State} (hs : s.MemWf) : NextWf (execUnpack w s) := by simp [execUnpack, hs]

@[simp] theorem execQscale_nextWf {w : FWord} {s : State} (hs : s.MemWf) : NextWf (execQscale w s) := by simp [execQscale, hs]

@[simp] theorem execDqscale_nextWf {w : FWord} {s : State} (hs : s.MemWf) : NextWf (execDqscale w s) := by simp [execDqscale, hs]

@[simp] theorem execFldexp_nextWf {w : FWord} {s : State} (hs : s.MemWf) : NextWf (execFldexp w s) := aluWord_nextWf hs

@[simp] theorem execFfrexp_nextWf {w : FWord} {s : State} (hs : s.MemWf) : NextWf (execFfrexp w s) := aluWord_nextWf hs

end Sys2Proof.Machine
end

section
/-! ## GroupOps: the lane-combining words -/

namespace Sys2Proof.Machine

open Sys2Proof

@[simp] theorem execXlane_nextWf {w : FWord} {s : State} (hs : s.MemWf) : NextWf (execXlane w s) := issueF_nextWf hs fun _ _ hu => by simp [hu]

@[simp] theorem execVote_nextWf {w : FWord} {s : State} (hs : s.MemWf) : NextWf (execVote w s) := issueF_nextWf hs fun _ _ hu => by simp [hu]

@[simp] theorem execBallot_nextWf {w : FWord} {s : State} (hs : s.MemWf) : NextWf (execBallot w s) := issueF_nextWf hs fun _ _ hu => by simp [hu]

@[simp] theorem execActive_nextWf {w : FWord} {s : State} (hs : s.MemWf) : NextWf (execActive w s) := issueF_nextWf hs fun _ _ hu => by simp [hu]

@[simp] theorem execElect_nextWf {w : FWord} {s : State} (hs : s.MemWf) : NextWf (execElect w s) := issueF_nextWf hs fun _ _ hu => by simp [hu]

@[simp] theorem execMatchM_nextWf {w : FWord} {s : State} (hs : s.MemWf) : NextWf (execMatchM w s) := issueF_nextWf hs fun _ _ hu => by simp [hu]

@[simp] theorem execScan_nextWf {w : FWord} {s : State} (hs : s.MemWf) : NextWf (execScan w s) := issueF_nextWf hs fun _ _ hu => by simp [hu]

@[simp] theorem execSegscan_nextWf {w : FWord} {s : State} (hs : s.MemWf) : NextWf (execSegscan w s) := issueF_nextWf hs fun _ _ hu => by simp [hu]

@[simp] theorem execRedux_nextWf {w : FWord} {s : State} (hs : s.MemWf) : NextWf (execRedux w s) := issueF_nextWf hs fun _ _ hu => by simp [hu]

end Sys2Proof.Machine
end

section
/-! ## Control: branches, ties and exits -/

namespace Sys2Proof.Machine

open Sys2Proof

@[simp] theorem Run.branch_memWf {r : Run} {s : State} {target : Nat → Word} (hs : s.MemWf) : (r.branch s target).MemWf := by simp [Run.branch, hs]

@[simp] theorem Run.link_mem (r : Run) (s : State) (o : Operand) (lanes : Mask) (x : Word) : (r.link s o lanes x).mem = s.mem := by simp [Run.link]

@[simp] theorem execBra_nextWf {w : IWord} {s : State} (hs : s.MemWf) : NextWf (execBra w s) := issueI_nextWf hs fun _ _ hu => by simp [hu]

@[simp] theorem execCall_nextWf {w : IWord} {s : State} (hs : s.MemWf) : NextWf (execCall w s) := issueI_nextWf hs fun _ _ hu => by simp [hu]

@[simp] theorem branchReg_memWf {r : Run} {s : State} {o : Operand} (hs : s.MemWf) : (branchReg r s o).MemWf := by simp [branchReg, hs]

@[simp] theorem execBrx_nextWf {w : FWord} {s : State} (hs : s.MemWf) : NextWf (execBrx w s) := issueF_nextWf hs fun _ _ hu => by simp [hu]

@[simp] theorem execRet_nextWf {w : FWord} {s : State} (hs : s.MemWf) : NextWf (execRet w s) := issueF_nextWf hs fun _ _ hu => by simp [hu]

@[simp] theorem execCalli_nextWf {w : FWord} {s : State} (hs : s.MemWf) : NextWf (execCalli w s) := issueF_nextWf hs fun _ _ hu => by simp [hu]

@[simp] theorem State.tieMember_mem (s : State) (gid m n : Nat) (meet : Word) (lanes : Mask) : (s.tieMember gid m n meet lanes).mem = s.mem := by
  unfold State.tieMember
  split <;> simp

@[simp] theorem State.setTie_mem (s : State) (sid : Nat) (lanes : Mask) (meet : Word) (place : BitVec 32) (live : BitVec 8) :
    (s.setTie sid lanes meet place live).mem = s.mem := rfl

@[simp] theorem execTie_nextWf {w : FWord} {x : Option XWord} {s : State} (hs : s.MemWf) : NextWf (execTie w x s) := by
  unfold execTie
  split
  · exact issueBadX_nextWf hs
  · refine issueF_nextWf hs fun r u hu => ?_
    dsimp only
    repeat' split
    all_goals simp [hu]

@[simp] theorem execJoin_nextWf {w : FWord} {s : State} (hs : s.MemWf) : NextWf (execJoin w s) := by
  refine issueF_nextWf hs fun r u hu => ?_
  dsimp only
  split <;> simp [hu]

@[simp] theorem execExit_nextWf {w : FWord} {s : State} (hs : s.MemWf) : NextWf (execExit w s) := issueF_nextWf hs fun _ _ hu => by simp [hu]

@[simp] theorem execYield_nextWf {w : FWord} {s : State} (hs : s.MemWf) : NextWf (execYield w s) := issueF_nextWf hs fun _ _ hu => by simp [hu]

@[simp] theorem execNop_nextWf {w : FWord} {s : State} (hs : s.MemWf) : NextWf (execNop w s) := issueF_nextWf hs fun _ _ hu => by simp [hu]

@[simp] theorem execLoopq_nextWf {w : FWord} {x : Option XWord} {s : State} (hs : s.MemWf) : NextWf (execLoopq w x s) := by
  unfold execLoopq
  split
  · exact issueBadX_nextWf hs
  · refine issueF_nextWf hs fun r u hu => ?_
    dsimp only
    repeat' split
    all_goals simp [hu]

@[simp] theorem execReservedEncoding_nextWf {w : Word} {x : Option XWord} {s : State} (hs : s.MemWf) : NextWf (execReservedEncoding w x s) := by
  unfold execReservedEncoding
  split
  · exact issueBadX_nextWf hs
  · exact issueWord_nextWf hs fun r u hu => Run.done_memWf hu

end Sys2Proof.Machine
end

section
/-! ## Errors: memory errors -/

namespace Sys2Proof.Machine

open Sys2Proof

@[simp] theorem State.errorEvent_mem (s : State) (m : Nat) : (s.errorEvent m).mem = s.mem := by simp [State.errorEvent]

@[simp] theorem State.countCe_mem (s : State) (m : Nat) : (s.countCe m).mem = s.mem := by simp [State.countCe]

@[simp] theorem State.countUeAt_mem (s : State) (m src uepa : Nat) : (s.countUeAt m src uepa).mem = s.mem := by simp [State.countUeAt]

@[simp] theorem State.countUe_mem (s : State) (cell : Nat) : (s.countUe cell).mem = s.mem := by simp [State.countUe]

@[simp] theorem State.countRow_mem (s : State) (cell : Nat) : (s.countRow cell).mem = s.mem := by simp [State.countRow]

@[simp] theorem State.checkRead_mem (s : State) (sectors : List Nat) : (s.checkRead sectors).mem = s.mem := foldl_mem (fun _ _ => by simp) _ _

@[simp] theorem State.heal_mem (s : State) (sectors : List Nat) : (s.heal sectors).mem = s.mem := rfl

end Sys2Proof.Machine
end

section
/-! ## Memory: loads, stores and atomics -/

namespace Sys2Proof.Machine

open Sys2Proof

theorem issueMem_nextWf {s : State} {w : FWord} {x : Option XWord} {needX : Bool} {sig : Sig} {body : Body} (hs : s.MemWf) (hb : ∀ r, Keeps (body r)) :
    NextWf (issueMem s w x needX sig body) := by
  unfold issueMem
  split
  · exact issueBadX_nextWf hs
  · exact issueWord_nextWf hs hb

@[simp] theorem State.moveRemote_mem (s : State) (r : Run) (sp : Space) (live : BitVec 8) (addr : Nat → Word) :
    (s.moveRemote r sp live addr).1.mem = s.mem := by
  unfold State.moveRemote
  dsimp only
  split
  · rfl
  · exact foldl_mem (fun _ _ => State.departTo_mem ..) _ _

@[simp] theorem State.holdLanes_mem (s : State) (r : Run) (t : ThreadAcc) (acc : BitVec 2) (held : List LaneAcc) :
    (s.holdLanes r t acc held).mem = s.mem := foldl_mem (fun _ _ => by grind [State.tryXl_mem, State.beginWait_mem]) _ _

@[simp] theorem State.performOps_memWf {op : ThreadOp} {items : List CellAcc} {s : State} (hs : s.MemWf) : (State.performOps op items s).1.MemWf := by
  induction items generalizing s with
  | nil => exact hs
  | cons i is ih =>
    refine ih ?_
    split
    · exact State.store_memWf hs
    · exact hs

@[simp] theorem State.noteAtom_mem (s : State) (ctx : Nat) (req : Word) (cell : Nat) : (s.noteAtom ctx req cell).mem = s.mem := by
  simp [State.noteAtom, State.on]

@[simp] theorem State.noteAtoms_mem (s : State) (op : ThreadOp) (gid ctx lane : Nat) (items : List CellAcc) :
    (s.noteAtoms op gid ctx lane items).mem = s.mem := by
  unfold State.noteAtoms
  split
  · rfl
  · rfl
  all_goals exact foldl_mem (fun _ _ => State.noteAtom_mem ..) _ _

@[simp] theorem State.performAt_memWf {s : State} {r : Run} {t : ThreadAcc} {items : List CellAcc} (hs : s.MemWf) : (s.performAt r t items).MemWf := by
  unfold State.performAt
  dsimp only
  split <;> simp [hs]

@[simp] theorem performHere_memWf {go : Run} {s0 s : State} {t : ThreadAcc} {items : List CellAcc} (hs : s.MemWf) :
    (performHere go s0 s t items).MemWf := by
  unfold performHere
  dsimp only
  repeat' split
  all_goals simp [hs]

@[simp] theorem memPath_memWf {r : Run} {s : State} {sp : Space} {live : BitVec 8} {srcs : List Pos} {addr : Nat → Word} {t : ThreadAcc}
    (hs : s.MemWf) : (memPath r s sp live srcs addr t).MemWf := by
  unfold memPath
  split <;> simp [hs]

@[simp] theorem loadWord_nextWf {s : State} {w : FWord} {x : Option XWord} {sp : Space} (hs : s.MemWf) : NextWf (loadWord s w x sp) :=
  issueMem_nextWf hs fun _ _ hu => by simp [hu]

@[simp] theorem storeWord_nextWf {s : State} {w : FWord} {x : Option XWord} {sp : Space} (hs : s.MemWf) : NextWf (storeWord s w x sp) :=
  issueMem_nextWf hs fun _ _ hu => by simp [hu]

@[simp] theorem execAtom_nextWf {w : FWord} {x : Option XWord} {s : State} (hs : s.MemWf) : NextWf (execAtom w x s) :=
  issueMem_nextWf hs fun _ _ hu => by simp [hu]

@[simp] theorem execAtomcas_nextWf {w : FWord} {x : Option XWord} {s : State} (hs : s.MemWf) : NextWf (execAtomcas w x s) :=
  issueMem_nextWf hs fun _ _ hu => by simp [hu]

@[simp] theorem State.ldwEnd_memWf {s : State} {wid : Nat} {w : Wait} {vals : List (Nat × Word)} {wide : Bool} {dest : Operand} {status : Word}
    (hs : s.MemWf) : (s.ldwEnd wid w vals wide dest status).MemWf := by simp [State.ldwEnd, hs]

@[simp] theorem State.askPages_mem (s : State) (ctx : Nat) (xs : List XlReq) (vas : List Word) : (s.askPages ctx xs vas).1.mem = s.mem := by
  unfold State.askPages
  refine List.foldlRecOn (motive := fun st : State × List XlReq => st.1.mem = s.mem) _ _ rfl fun st hst va _ => ?_
  grind [State.tryXl_mem]

@[simp] theorem State.ldwDrop_memWf {s : State} {wid : Nat} {w : Wait} {k : WaitKind} {lanes : Mask} {cause detail : BitVec 8} {info : Word}
    (hs : s.MemWf) : (s.ldwDrop wid w k lanes cause detail info).MemWf := by simp [State.ldwDrop, hs]

@[simp] theorem State.ldwEval_memWf {s : State} {wid : Nat} (hs : s.MemWf) : (s.ldwEval wid).MemWf := by
  unfold State.ldwEval
  repeat' split
  all_goals simp [hs]

@[simp] theorem State.ldwFail_memWf {s : State} {wid : Nat} (hs : s.MemWf) : (s.ldwFail wid).MemWf := by
  unfold State.ldwFail
  repeat' split
  all_goals simp [hs]

@[simp] theorem State.ldwHoldExpire_memWf {s : State} {wid : Nat} {w : Wait} {bound : Nat} (hs : s.MemWf) : (s.ldwHoldExpire wid w bound).MemWf := by
  unfold State.ldwHoldExpire
  split <;> simp [hs]

@[simp] theorem State.ldwExpire_memWf {s : State} {wid : Nat} (hs : s.MemWf) : (s.ldwExpire wid).MemWf := by
  unfold State.ldwExpire
  dsimp only
  repeat' split
  all_goals simp [hs]

@[simp] theorem execLdw_nextWf {w : FWord} {x : Option XWord} {s : State} (hs : s.MemWf) : NextWf (execLdw w x s) := by
  refine issueMem_nextWf hs fun r u hu => ?_
  dsimp only
  split <;> simp [hu]

@[simp] theorem execLdwWake_nextWf {wait : Nat} {s : State} (hs : s.MemWf) : NextWf (execLdwWake wait s) := by simp [execLdwWake, hs]

@[simp] theorem execLdwTimeout_nextWf {wait : Nat} {s : State} (hs : s.MemWf) : NextWf (execLdwTimeout wait s) := by simp [execLdwTimeout, hs]

@[simp] theorem State.countOp_mem (s : State) (gid path reach n : Nat) : (s.countOp gid path reach n).mem = s.mem := rfl

@[simp] theorem State.ackOp_mem (s : State) (gid path reach n : Nat) (err : Bool) : (s.ackOp gid path reach n err).mem = s.mem := rfl

@[simp] theorem State.sendPosted_mem (s : State) (r : Run) (red : Option (Nat × Nat)) (size : Nat) (ops : List LaneAcc) (home : Nat × Nat × Nat) :
    (s.sendPosted r red size ops home).mem = s.mem := rfl

@[simp] theorem postPath_memWf {r : Run} {s : State} {red : Option (Nat × Nat)} {size : Nat} {addr : Nat → Word} {data : Nat → Nat} (hs : s.MemWf) :
    (postPath r s red size addr data).MemWf := by
  unfold postPath
  dsimp only
  repeat' split
  · exact Run.trap_memWf hs
  · simp [hs]
  · exact Run.done_memWf (foldl_memWf (fun _ _ hu => by simpa using hu) hs)

@[simp] theorem execPost_nextWf {w : FWord} {x : Option XWord} {s : State} (hs : s.MemWf) : NextWf (execPost w x s) :=
  issueMem_nextWf hs fun _ _ hu => by simp [hu]

@[simp] theorem execRed_nextWf {w : FWord} {x : Option XWord} {s : State} (hs : s.MemWf) : NextWf (execRed w x s) :=
  issueMem_nextWf hs fun _ _ hu => by simp [hu]

@[simp] theorem State.postedAt_memWf {s : State} {mid : Nat} {m : Msg} (hs : s.MemWf) : (s.postedAt mid m).MemWf := by
  unfold State.postedAt
  repeat' split
  all_goals grind [State.send_mem, State.tryXl_mem, State.checkRead_mem, State.heal_mem, State.performOps_memWf, State.noteAtoms_mem]

@[simp] theorem execPostedOperation_nextWf {msg : Nat} {s : State} (hs : s.MemWf) : NextWf (execPostedOperation msg s) := by
  unfold execPostedOperation
  split <;> simp [hs]

@[simp] theorem execHome_nextWf {w : FWord} {x : Option XWord} {s : State} (hs : s.MemWf) : NextWf (execHome w x s) :=
  issueMem_nextWf hs fun _ _ hu => by simp [hu]

@[simp] theorem migrPath_memWf {r : Run} {s : State} {sp : Space} {live : BitVec 8} {srcs : List Pos} {addr : Nat → Word} (hs : s.MemWf) :
    (migrPath r s sp live srcs addr).MemWf := by
  unfold migrPath
  split <;> simp [hs]

@[simp] theorem execMigrG_nextWf {w : FWord} {x : Option XWord} {s : State} (hs : s.MemWf) : NextWf (execMigrG w x s) :=
  issueMem_nextWf hs fun _ _ hu => by simp [hu]

@[simp] theorem execMigrL_nextWf {w : FWord} {x : Option XWord} {s : State} (hs : s.MemWf) : NextWf (execMigrL w x s) :=
  issueMem_nextWf hs fun _ _ hu => by simp [hu]

end Sys2Proof.Machine
end

section
/-! ## Streams: the element streams -/

namespace Sys2Proof.Machine

open Sys2Proof

@[simp] theorem State.fenceEnd_memWf {s : State} {wid : Nat} {w : Wait} {gid : Nat} {g : Group} {paths dn : BitVec 6} {map : Operand}
    {bpath : Option Nat} (hs : s.MemWf) : (s.fenceEnd wid w gid g paths dn map bpath).MemWf := by simp [State.fenceEnd, hs]

@[simp] theorem State.judgeFence_memWf {s : State} {wid : Nat} (hs : s.MemWf) : (s.judgeFence wid).MemWf := by
  fun_cases State.judgeFence <;> simp [hs]

@[simp] theorem State.judgeFences_memWf {s : State} {gid : Nat} (hs : s.MemWf) : (s.judgeFences gid).MemWf :=
  foldl_memWf (fun _ _ hu => State.judgeFence_memWf hu) hs

@[simp] theorem fenceWord_nextWf {s : State} {w : FWord} {resv : Bool} {paths : BitVec 6} {bpath : Option Nat} (hs : s.MemWf) :
    NextWf (fenceWord s w resv paths bpath) := issueF_nextWf hs fun _ _ hu => by simp [hu]

@[simp] theorem execFence_nextWf {w : FWord} {s : State} (hs : s.MemWf) : NextWf (execFence w s) := by simp [execFence, hs]

@[simp] theorem execFenceX_nextWf {w : FWord} {s : State} (hs : s.MemWf) : NextWf (execFenceX w s) := by simp [execFenceX, hs]

@[simp] theorem execFenceTimeout_nextWf {wait : Nat} {s : State} (hs : s.MemWf) : NextWf (execFenceTimeout wait s) := by simp [execFenceTimeout, hs]

@[simp] theorem execPostedAcknowledgement_nextWf {msg : Nat} {s : State} (hs : s.MemWf) : NextWf (execPostedAcknowledgement msg s) := by
  unfold execPostedAcknowledgement
  repeat' split
  all_goals simp [hs]

@[simp] theorem openStream_memWf {r : Run} {s : State} {w : FWord} {bad : Bool} {q : Stream} {bind : Group → Group} (hs : s.MemWf) :
    (openStream r s w bad q bind).MemWf := by simp [openStream, hs]

@[simp] theorem execQcfg_nextWf {w : FWord} {s : State} (hs : s.MemWf) : NextWf (execQcfg w s) := issueF_nextWf hs fun _ _ hu => by simp [hu]

@[simp] theorem execQidx_nextWf {w : FWord} {s : State} (hs : s.MemWf) : NextWf (execQidx w s) := by
  refine issueF_nextWf hs fun r u hu => ?_
  dsimp only
  split <;> simp [hu]

@[simp] theorem State.wakeQld_mem (s : State) (gid : Nat) : (s.wakeQld gid).mem = s.mem := foldl_mem (fun _ _ => State.redoWait_mem ..) _ _

@[simp] theorem execStreamFetch_nextWf {gid q : Nat} {s : State} (hs : s.MemWf) : NextWf (execStreamFetch gid q s) := by
  unfold execStreamFetch
  dsimp only
  repeat' split
  all_goals simp [hs]

@[simp] theorem State.streamArrive_mem (s : State) (gid qn k : Nat) (ctx : Nat) (q : Stream) (r : StreamReq) :
    (s.streamArrive gid qn k ctx q r).mem = s.mem := by
  unfold State.streamArrive
  dsimp only
  repeat' split
  all_goals simp

@[simp] theorem execStreamElementArrival_nextWf {gid q : Nat} {s : State} (hs : s.MemWf) : NextWf (execStreamElementArrival gid q s) := by
  unfold execStreamElementArrival
  repeat' split
  all_goals simp [hs]

@[simp] theorem execQld_nextWf {w : FWord} {s : State} (hs : s.MemWf) : NextWf (execQld w s) := by
  refine issueF_nextWf hs fun r u hu => ?_
  dsimp only
  repeat' split
  all_goals simp [hu]

@[simp] theorem execQclose_nextWf {w : FWord} {s : State} (hs : s.MemWf) : NextWf (execQclose w s) := issueF_nextWf hs fun _ _ hu => by simp [hu]

end Sys2Proof.Machine
end

section
/-! ## Matrix: the matrix words -/

namespace Sys2Proof.Machine

open Sys2Proof

theorem collective_memWf {r : Run} {s : State} {kp : Nat} {widthOk : Bool} {idle body : State → State} (hi : Keeps idle) (hb : Keeps body)
    (hs : s.MemWf) : (collective r s kp widthOk idle body).MemWf := by
  fun_cases collective
  · exact Run.done_memWf (hi s hs)
  · exact Run.trap_memWf hs
  · exact Run.trap_memWf hs
  · exact hb s hs

@[simp] theorem Run.takeArray_mem (r : Run) (s : State) (n : Nat) : (r.takeArray s n).mem = s.mem := rfl

@[simp] theorem execMma_nextWf {w : FWord} {s : State} (hs : s.MemWf) : NextWf (execMma w s) :=
  issueF_nextWf hs fun _ _ hu => collective_memWf (fun _ hv => hv) (fun _ hv => Run.later_memWf (by simpa using hv)) hu

@[simp] theorem execMmaBs_nextWf {w : FWord} {x : Option XWord} {s : State} (hs : s.MemWf) : NextWf (execMmaBs w x s) := by
  unfold execMmaBs
  split
  · exact issueBadX_nextWf hs
  · exact issueF_nextWf hs fun _ _ hu => collective_memWf (fun _ hv => hv) (fun _ hv => Run.later_memWf (by simpa using hv)) hu

@[simp] theorem Run.stopQuads_mem (r : Run) (s : State) (q : Nat) (out : List (Reg × Word) × Flags) : (r.stopQuads s q out).mem = s.mem := rfl

@[simp] theorem execMmaSp_nextWf {w : FWord} {x : Option XWord} {s : State} (hs : s.MemWf) : NextWf (execMmaSp w x s) := by
  unfold execMmaSp
  split
  · exact issueBadX_nextWf hs
  · refine issueF_nextWf hs fun _ _ hu => collective_memWf (fun _ hv => hv) (fun v hv => ?_) hu
    dsimp only
    repeat' split
    all_goals simp [hv]

@[simp] theorem execBmc_nextWf {w : FWord} {s : State} (hs : s.MemWf) : NextWf (execBmc w s) :=
  issueF_nextWf hs fun _ _ hu => collective_memWf (fun _ hv => hv) (fun _ hv => Run.later_memWf hv) hu

@[simp] theorem execBmx_nextWf {w : FWord} {s : State} (hs : s.MemWf) : NextWf (execBmx w s) :=
  issueF_nextWf hs fun _ _ hu => collective_memWf (fun _ hv => hv) (fun _ hv => Run.later_memWf hv) hu

@[simp] theorem execKset_nextWf {w : FWord} {s : State} (hs : s.MemWf) : NextWf (execKset w s) := by
  refine issueF_nextWf hs fun _ _ hu => ?_
  split
  · exact collective_memWf (fun _ hv => hv) (fun _ hv => Run.later_memWf hv) hu
  · exact Run.later_memWf hu

@[simp] theorem execKtst_nextWf {w : FWord} {s : State} (hs : s.MemWf) : NextWf (execKtst w s) := issueF_nextWf hs fun _ _ hu => by simp [hu]

@[simp] theorem execMpart_nextWf {w : FWord} {s : State} (hs : s.MemWf) : NextWf (execMpart w s) := by
  refine issueF_nextWf hs fun _ _ hu => collective_memWf (fun _ hv => hv) (fun v hv => ?_) hu
  repeat' split
  all_goals simp [hv]

@[simp] theorem execSmerge_nextWf {w : FWord} {x : Option XWord} {s : State} (hs : s.MemWf) : NextWf (execSmerge w x s) := by
  unfold execSmerge
  split
  · exact issueBadX_nextWf hs
  · refine issueF_nextWf hs fun _ _ hu => collective_memWf (fun _ hv => hv) (fun v hv => ?_) hu
    split <;> simp [hv]

end Sys2Proof.Machine
end

section
/-! ## Engines: the copy engines -/

namespace Sys2Proof.Machine

open Sys2Proof

@[simp] theorem engWait_mem (s : State) (ctx : Nat) (x : Option XlReq) (va : Word) (acc : BitVec 2) : (engWait s ctx x va acc).1.mem = s.mem := by
  unfold engWait
  grind [State.tryXl_mem]

@[simp] theorem State.xferPut_memWf {s : State} {e : EngId} {bytes : List Byte} {ds : List Word} (hs : s.MemWf) : (s.xferPut e bytes ds).s.MemWf := by
  induction ds generalizing s with
  | nil => exact hs
  | cons d ds ih =>
    unfold State.xferPut
    split
    · exact ih (State.store_memWf hs)
    · exact ih hs
    · exact hs

@[simp] theorem State.countLost_mem (s : State) (bad : Option Nat) : (s.countLost bad).mem = s.mem := by
  unfold State.countLost
  split <;> simp

@[simp] theorem State.xferMove_memWf {s : State} {e : EngId} {mv : Word × List Word} (hs : s.MemWf) : (s.xferMove e mv).s.MemWf := by
  fun_cases State.xferMove <;> simp [hs]

@[simp] theorem State.xferMoves_memWf {s : State} {e : EngId} {ms : List (Word × List Word)} (hs : s.MemWf) : (s.xferMoves e ms).s.MemWf := by
  induction ms generalizing s with
  | nil => exact hs
  | cons m ms ih =>
    unfold State.xferMoves
    dsimp only
    split
    · exact State.xferMove_memWf hs
    · exact ih (State.xferMove_memWf hs)

@[simp] theorem State.cvCount_mem (s : State) (e : EngId) (sl : Slice) : (s.cvCount e sl).1.mem = s.mem := by
  unfold State.cvCount
  dsimp only
  repeat' split
  all_goals simp

@[simp] theorem State.cvTransfer_memWf {s : State} {e : EngId} {sl : Slice} {u : Nat} (hs : s.MemWf) : (s.cvTransfer e sl u).1.MemWf := by
  unfold State.cvTransfer
  dsimp only
  repeat' split
  all_goals simp [hs]

@[simp] theorem State.xfer_memWf {s : State} {e : EngId} {sl : Slice} {u : Nat} (hs : s.MemWf) : (s.xfer e sl u).1.MemWf := by
  unfold State.xfer
  dsimp only
  repeat' split
  all_goals simp [hs]

@[simp] theorem State.judgeCpw_memWf {s : State} {wid : Nat} (hs : s.MemWf) : (s.judgeCpw wid).MemWf := by
  unfold State.judgeCpw
  dsimp only
  repeat' split
  all_goals simp [hs]

@[simp] theorem State.judgeCpws_memWf {s : State} {cid : Nat} (hs : s.MemWf) : (s.judgeCpws cid).MemWf :=
  foldl_memWf (fun _ _ hu => State.judgeCpw_memWf hu) hs

@[simp] theorem State.engNotice_mem (s : State) (gid m : Nat) (counted reset : Bool) (lanes : Mask) (dl pc : Word) (iw : Word) :
    (s.engNotice gid m counted reset lanes dl pc iw).mem = s.mem := by
  unfold State.engNotice
  split <;> simp

@[simp] theorem State.endSlice_memWf {s : State} {k : Nat} {sl : Slice} {x : Word} (hs : s.MemWf) : (s.endSlice k sl x).MemWf := by
  simp [State.endSlice, hs]

@[simp] theorem State.count24_mem (s : State) (n : Nat) : (s.count24 n).2.mem = s.mem := by
  unfold State.count24
  split <;> simp

@[simp] theorem State.endCopy_memWf {s : State} {cid tag round : Nat} {code : BitVec 8} {abandoned : Bool} (hs : s.MemWf) :
    (s.endCopy cid tag round code abandoned).MemWf := by
  unfold State.endCopy
  dsimp only
  exact State.judgeCpws_memWf (foldl_memWf (fun _ _ hu => State.endSlice_memWf hu) (by simpa using hs))

@[simp] theorem State.checkCopy_memWf {s : State} {cid tag round : Nat} (hs : s.MemWf) : (s.checkCopy cid tag round).MemWf := by
  simp [State.checkCopy, hs]

@[simp] theorem State.startCopy_memWf {s : State} {cid tag round : Nat} (hs : s.MemWf) : (s.startCopy cid tag round).MemWf := by
  refine State.checkCopy_memWf ?_
  split
  · exact foldl_memWf (fun _ _ hu => by exact hu) hs
  · exact hs

@[simp] theorem State.refuseSlice_memWf {s : State} {wid : Nat} {w : Wait} {k : Nat} {sl : Slice} {x : Word} {counted : Bool} (hs : s.MemWf) :
    (s.refuseSlice wid w k sl x counted).MemWf := by simp [State.refuseSlice, hs]

@[simp] theorem State.trySlice_memWf {s : State} {wid : Nat} (hs : s.MemWf) : (s.trySlice wid).MemWf := by
  unfold State.trySlice
  dsimp only
  repeat' split
  all_goals grind [State.refuseSlice_memWf, State.outstand_mem, State.noteAt_mem, State.countOp_mem, State.fresh_mem, State.endWait_memWf,
    State.startCopy_memWf, State.updCrew_mem]

@[simp] theorem State.sliceExpire_memWf {s : State} {wid : Nat} (hs : s.MemWf) : (s.sliceExpire wid).MemWf := by
  unfold State.sliceExpire
  dsimp only
  repeat' split
  all_goals simp [hs]

@[simp] theorem offerCopy_memWf {r : Run} {s : State} {w : FWord} {q : CopyReq} (hs : s.MemWf) : (offerCopy r s w q).MemWf := by simp [offerCopy, hs]

@[simp] theorem execCp_nextWf {w : FWord} {s : State} (hs : s.MemWf) : NextWf (execCp w s) := issueF_nextWf hs fun _ _ hu => by simp [hu]

@[simp] theorem execCpm_nextWf {w : FWord} {s : State} (hs : s.MemWf) : NextWf (execCpm w s) := issueF_nextWf hs fun _ _ hu => by simp [hu]

@[simp] theorem execCpcv_nextWf {w : FWord} {s : State} (hs : s.MemWf) : NextWf (execCpcv w s) := issueF_nextWf hs fun _ _ hu => by simp [hu]

@[simp] theorem execCpw_nextWf {w : FWord} {s : State} (hs : s.MemWf) : NextWf (execCpw w s) := issueF_nextWf hs fun _ _ hu => by simp [hu]

@[simp] theorem execSliceAccept_nextWf {wait : Nat} {s : State} (hs : s.MemWf) : NextWf (execSliceAccept wait s) := by simp [execSliceAccept, hs]

@[simp] theorem execSliceWaitTimeout_nextWf {wait : Nat} {s : State} (hs : s.MemWf) : NextWf (execSliceWaitTimeout wait s) := by
  simp [execSliceWaitTimeout, hs]

@[simp] theorem execCpwTimeout_nextWf {wait : Nat} {s : State} (hs : s.MemWf) : NextWf (execCpwTimeout wait s) := by simp [execCpwTimeout, hs]

@[simp] theorem execGatheringExpiry_nextWf {cid tag : Nat} {s : State} (hs : s.MemWf) : NextWf (execGatheringExpiry cid tag s) := by
  have ht : ((s.tagWaits cid tag).foldl State.trySlice s).MemWf := foldl_memWf (fun _ _ hu => State.trySlice_memWf hu) hs
  unfold execGatheringExpiry
  dsimp only
  split
  · split <;> simp [ht]
  all_goals exact nextWf_next.2 ht

@[simp] theorem State.transferOne_memWf {s : State} {cid : Nat} {want : Option (Nat × Nat)} (hs : s.MemWf) : (s.transferOne cid want).MemWf := by
  unfold State.transferOne
  dsimp only
  split
  · exact hs
  split
  · exact hs
  next k sl _ _ u _ =>
    have hx : ∀ {e}, (s.xfer e sl u).1.MemWf := State.xfer_memWf hs
    split
    · exact State.checkCopy_memWf hx
    · exact State.checkCopy_memWf (foldl_memWf (fun _ _ hv => by exact hv) hx)
    · simpa only [State.MemWf, engWait_mem] using hx
    all_goals exact hs

@[simp] theorem State.transfers_memWf {s : State} {cid n : Nat} {ps : List (Nat × Nat)} (hs : s.MemWf) : (s.transfers cid n ps).MemWf := by
  induction n generalizing s ps with
  | zero => exact hs
  | succ n ih => exact ih (State.transferOne_memWf hs)

@[simp] theorem execTackleTransfer_nextWf {mast quad : Nat} {picks : List (Nat × Nat)} {s : State} (hs : s.MemWf) :
    NextWf (execTackleTransfer mast quad picks s) := by
  unfold execTackleTransfer
  dsimp only
  split
  · exact nextWf_next.2 hs
  · exact nextWf_next.2 (foldl_memWf (fun _ _ hu => State.transfers_memWf hu) hs)

end Sys2Proof.Machine
end

section
/-! ## Capstan: reductions -/

namespace Sys2Proof.Machine

open Sys2Proof

@[simp] theorem State.capFail_memWf {s : State} {wid : Nat} {w : Wait} {gid : Nat} {code : Word} (hs : s.MemWf) : (s.capFail wid w gid code).MemWf := by
  simp [State.capFail, hs]

@[simp] theorem State.tryCapr_memWf {s : State} {wid : Nat} (hs : s.MemWf) : (s.tryCapr wid).MemWf := by
  unfold State.tryCapr
  dsimp only
  repeat' split
  all_goals simp [hs]

@[simp] theorem State.caprExpire_memWf {s : State} {wid : Nat} (hs : s.MemWf) : (s.caprExpire wid).MemWf := by
  unfold State.caprExpire
  dsimp only
  repeat' split
  all_goals simp [hs]

@[simp] theorem execCapr_nextWf {w : FWord} {s : State} (hs : s.MemWf) : NextWf (execCapr w s) := by
  refine issueF_nextWf hs fun r u hu => ?_
  dsimp only
  split <;> simp [hu]

@[simp] theorem execCapstanAccept_nextWf {wait : Nat} {s : State} (hs : s.MemWf) : NextWf (execCapstanAccept wait s) := by
  simp [execCapstanAccept, hs]

@[simp] theorem execCaprTimeout_nextWf {wait : Nat} {s : State} (hs : s.MemWf) : NextWf (execCaprTimeout wait s) := by simp [execCaprTimeout, hs]

@[simp] theorem State.reduceSector_memWf {s : State} {id : EngId} {b : CapBlock} {k : Nat} (hs : s.MemWf) : (s.reduceSector id b k).s.MemWf := by
  unfold State.reduceSector
  dsimp only
  repeat' split
  all_goals simp [hs]

@[simp] theorem State.reduceAll_memWf {s : State} {id : EngId} {b : CapBlock} {ks : List Nat} (hs : s.MemWf) : (s.reduceAll id b ks).s.MemWf := by
  induction ks generalizing s with
  | nil => exact hs
  | cons k ks ih =>
    unfold State.reduceAll
    dsimp only
    split
    · exact State.reduceSector_memWf hs
    · exact ih (State.reduceSector_memWf hs)

@[simp] theorem State.engPut_memWf {s : State} {id : EngId} {va : Word} {x : Word} (hs : s.MemWf) : (s.engPut id va x).1.MemWf := by
  fun_cases State.engPut <;> simp [hs]

@[simp] theorem State.capDone_memWf {s : State} {m : Nat} {e : CapEntry} {code : BitVec 8} (hs : s.MemWf) : (s.capDone m e code).MemWf := by
  simp [State.capDone, hs]

@[simp] theorem State.capPut_mem (s : State) (m : Nat) (e : CapEntry) : (s.capPut m e).mem = s.mem := rfl

@[simp] theorem State.capHold_mem (s : State) (m : Nat) (e : CapEntry) (va : Word) (acc : BitVec 2) : (s.capHold m e va acc).mem = s.mem := by
  simp [State.capHold]

@[simp] theorem State.capFlag_memWf {s : State} {m : Nat} {e : CapEntry} {b : CapBlock} {code : BitVec 8} (hs : s.MemWf) :
    (s.capFlag m e b code).MemWf := by
  fun_cases State.capFlag <;> grind [State.capDone_memWf, State.engPut_memWf, State.capHold_mem, State.capPut_mem, State.countLost_mem]

@[simp] theorem State.capFinish_memWf {s : State} {m : Nat} {e : CapEntry} {b : CapBlock} {code : BitVec 8} {cnt : Nat} (hs : s.MemWf) :
    (s.capFinish m e b code cnt).MemWf := by
  fun_cases State.capFinish <;> grind [State.capDone_memWf, State.engPut_memWf, State.capHold_mem, State.capPut_mem, State.capFlag_memWf,
    State.countLost_mem]

@[simp] theorem execCapstanReduction_nextWf {mast : Nat} {s : State} (hs : s.MemWf) : NextWf (execCapstanReduction mast s) := by
  unfold execCapstanReduction
  grind [nextWf_next, State.capDone_memWf, State.capFlag_memWf, State.capFinish_memWf, State.reduceAll_memWf, State.capHold_mem, State.count24_mem]

@[simp] theorem State.capwEval_memWf {s : State} {wid : Nat} (hs : s.MemWf) : (s.capwEval wid).MemWf := by
  unfold State.capwEval
  dsimp only
  repeat' split
  all_goals simp [hs]

@[simp] theorem State.capwExpire_memWf {s : State} {wid : Nat} (hs : s.MemWf) : (s.capwExpire wid).MemWf := by
  unfold State.capwExpire
  dsimp only
  repeat' split
  all_goals simp [hs]

@[simp] theorem execCapw_nextWf {w : FWord} {s : State} (hs : s.MemWf) : NextWf (execCapw w s) := by
  refine issueF_nextWf hs fun r u hu => ?_
  dsimp only
  split <;> simp [hu]

@[simp] theorem execCapwWake_nextWf {wait : Nat} {s : State} (hs : s.MemWf) : NextWf (execCapwWake wait s) := by simp [execCapwWake, hs]

@[simp] theorem execCapwTimeout_nextWf {wait : Nat} {s : State} (hs : s.MemWf) : NextWf (execCapwTimeout wait s) := by simp [execCapwTimeout, hs]

end Sys2Proof.Machine
end

section
/-! ## Jib: offloaded calls -/

namespace Sys2Proof.Machine

open Sys2Proof

@[simp] theorem State.sendCall_mem (s : State) (r : Run) (dest : Operand) (park : Option Nat) (lane : Nat) (rec : Word) :
    (s.sendCall r dest park lane rec).mem = s.mem := by
  unfold State.sendCall
  split <;> simp

@[simp] theorem State.park_mem (s : State) (sid : Nat) (lanes : Mask) : (s.park sid lanes).mem = s.mem := rfl

@[simp] theorem bcallPath_memWf {r : Run} {s : State} {dest : Operand} {parks : Bool} {addr : Nat → Word} (hs : s.MemWf) :
    (bcallPath r s dest parks addr).MemWf := by
  unfold bcallPath
  dsimp only
  split
  · exact Run.trap_memWf hs
  · have hcalls : ∀ {u : State} {p}, u.MemWf → ((lanesOf r.act).foldl (fun s l => s.sendCall r dest p l (addr l)) u).MemWf :=
      foldl_memWf fun _ _ hv => by simpa using hv
    split
    · exact hcalls (by simp [hs])
    · exact Run.done_memWf (hcalls hs)

@[simp] theorem execBcallT_nextWf {w : FWord} {x : Option XWord} {s : State} (hs : s.MemWf) : NextWf (execBcallT w x s) :=
  issueMem_nextWf hs fun _ _ hu => by simp [hu]

@[simp] theorem execBcallN_nextWf {w : FWord} {x : Option XWord} {s : State} (hs : s.MemWf) : NextWf (execBcallN w x s) :=
  issueMem_nextWf hs fun _ _ hu => by simp [hu]

@[simp] theorem State.setCall_mem (s : State) (k : Nat) (c : JibCall) : (s.setCall k c).mem = s.mem := rfl

@[simp] theorem State.endCall_mem (s : State) (k : Nat) (c : JibCall) (code : BitVec 8) : (s.endCall k c code).mem = s.mem := rfl

@[simp] theorem State.callArrive_mem (s : State) (k : Nat) (c : JibCall) : (s.callArrive k c).mem = s.mem := by
  unfold State.callArrive
  dsimp only
  repeat' split
  all_goals simp

@[simp] theorem State.callCompute_mem (s : State) (k : Nat) (c : JibCall) (unit : Nat) : (s.callCompute k c unit).mem = s.mem := by
  unfold State.callCompute
  dsimp only
  repeat' split
  all_goals simp

@[simp] theorem execJibCall_nextWf {call : Nat} {s : State} (hs : s.MemWf) : NextWf (execJibCall call s) := by
  unfold execJibCall
  dsimp only
  repeat' split
  all_goals simp [hs]

@[simp] theorem State.unpark_memWf {s : State} {wid : Nat} {w : Wait} {lanes : Mask} {pc : Nat → Word} (hs : s.MemWf) :
    (s.unpark wid w lanes pc).MemWf := State.atSub_memWf (fun _ hu => State.retireAt_memWf hu) hs

@[simp] theorem State.judgeBwait_memWf {s : State} {wid : Nat} (hs : s.MemWf) : (s.judgeBwait wid).MemWf := by
  unfold State.judgeBwait
  repeat' split
  all_goals simp [hs]

@[simp] theorem State.judgeBwaits_memWf {s : State} {gid : Nat} (hs : s.MemWf) : (s.judgeBwaits gid).MemWf :=
  foldl_memWf (fun _ _ hu => State.judgeBwait_memWf hu) hs

@[simp] theorem State.putReply_memWf {s : State} {id : EngId} {es : List (Word × List Byte)} (hs : s.MemWf) : (s.putReply id es).1.MemWf := by
  induction es generalizing s with
  | nil => exact hs
  | cons e es ih =>
    unfold State.putReply
    split
    · exact hs
    · split
      · simpa using hs
      · exact ih (State.store_memWf hs)

@[simp] theorem State.callDone_memWf {s : State} {k : Nat} {c : JibCall} {code : BitVec 8} (hs : s.MemWf) : (s.callDone k c code).MemWf := by
  unfold State.callDone
  grind [State.updMast_mem, State.deliver_mem, State.setOutst_mem, State.unpark_memWf, State.judgeFences_memWf, State.judgeBwaits_memWf, State.ackOp_mem]

@[simp] theorem execJibReply_nextWf {call : Nat} {s : State} (hs : s.MemWf) : NextWf (execJibReply call s) := by
  unfold execJibReply
  grind [nextWf_next, State.callDone_memWf, State.tryXl_mem, State.setCall_mem, State.putReply_memWf]

@[simp] theorem execBcallParkExpiry_nextWf {wait : Nat} {s : State} (hs : s.MemWf) : NextWf (execBcallParkExpiry wait s) := by
  unfold execBcallParkExpiry
  repeat' split
  all_goals simp [hs]

@[simp] theorem execBwait_nextWf {w : FWord} {s : State} (hs : s.MemWf) : NextWf (execBwait w s) := by
  refine issueF_nextWf hs fun r u hu => ?_
  dsimp only
  repeat' split
  all_goals simp [hu]

@[simp] theorem execBwaitTimeout_nextWf {wait : Nat} {s : State} (hs : s.MemWf) : NextWf (execBwaitTimeout wait s) := by simp [execBwaitTimeout, hs]

end Sys2Proof.Machine
end

section
/-! ## Sync: barriers, fences and queues -/

namespace Sys2Proof.Machine

open Sys2Proof

@[simp] theorem State.putBar_mem (s : State) (r : BarRef) (x : Barrier) : (s.putBar r x).mem = s.mem := by
  unfold State.putBar
  split <;> simp

@[simp] theorem State.noteBar_mem (s : State) (r : BarRef) (wait : Nat) : (s.noteBar r wait).mem = s.mem := by
  fun_cases State.noteBar <;> simp [State.on]

@[simp] theorem State.judgeBar_mem (s : State) (r : BarRef) : (s.judgeBar r).mem = s.mem := by simp [State.judgeBar]

@[simp] theorem State.endBarrier_memWf {s : State} {wid : Nat} {w : Wait} {code : Nat} (hs : s.MemWf) : (s.endBarrier wid w code).MemWf := by
  unfold State.endBarrier
  dsimp only
  repeat' split
  all_goals simp [hs]

@[simp] theorem State.judgePart_memWf {s : State} {wid : Nat} (hs : s.MemWf) : (s.judgePart wid).MemWf := by fun_cases State.judgePart <;> simp [hs]

@[simp] theorem State.countedArrival_mem (s : State) (wid : Nat) (w : Wait) (b : Nat) (phase : BitVec 32) :
    (s.countedArrival wid w b phase).mem = s.mem := by
  unfold State.countedArrival
  split <;> simp

@[simp] theorem State.answerArrival_memWf {s : State} {wid : Nat} {phase : BitVec 32} {ok : Bool} (hs : s.MemWf) :
    (s.answerArrival wid phase ok).MemWf := by
  unfold State.answerArrival
  dsimp only
  repeat' split
  all_goals simp [hs]

@[simp] theorem execBarrierArrival_nextWf {msg : Nat} {s : State} (hs : s.MemWf) : NextWf (execBarrierArrival msg s) := by
  unfold execBarrierArrival
  repeat' split
  all_goals simp [hs]

@[simp] theorem execBarrierCompletionNotice_nextWf {msg : Nat} {s : State} (hs : s.MemWf) : NextWf (execBarrierCompletionNotice msg s) := by
  unfold execBarrierCompletionNotice
  dsimp only
  repeat' split
  case isFalse => exact nextWf_next.2 (foldl_memWf (fun _ _ hu => State.judgePart_memWf hu) hs)
  all_goals exact nextWf_next.2 hs

@[simp] theorem execBarrierWaitTimeout_nextWf {wait : Nat} {s : State} (hs : s.MemWf) : NextWf (execBarrierWaitTimeout wait s) := by
  simp [execBarrierWaitTimeout, hs]

@[simp] theorem execBarrierWithdrawal_nextWf {msg : Nat} {s : State} (hs : s.MemWf) : NextWf (execBarrierWithdrawal msg s) := by
  unfold execBarrierWithdrawal
  grind [nextWf_next, State.noteBar_mem, State.putBar_mem, State.endBarrier_memWf]

@[simp] theorem execBarrierExit_nextWf {msg : Nat} {s : State} (hs : s.MemWf) : NextWf (execBarrierExit msg s) := by
  unfold execBarrierExit
  repeat' split
  case isTrue => exact nextWf_next.2 (foldl_memWf (fun _ _ hu => by simpa using hu) hs)
  all_goals exact nextWf_next.2 hs

@[simp] theorem arrive_memWf {r : Run} {s : State} {ref : BarRef} {n : Option Nat} {mb : Bool} {dk : Option Word} {st : Operand} (hs : s.MemWf) :
    (arrive r s ref n mb dk st).MemWf := by simp [arrive, hs]

@[simp] theorem arriveWord_nextWf {s : State} {w : FWord} {kind bits : Nat} (hs : s.MemWf) : NextWf (arriveWord s w kind bits) :=
  issueF_nextWf hs fun _ _ hu => by simp [hu]

@[simp] theorem waitPhase_memWf {r : Run} {s : State} {ref : BarRef} {t : BitVec 32} {keep mb : Bool} {dk : Word} {st : Operand} (hs : s.MemWf) :
    (waitPhase r s ref t keep mb dk st).MemWf := by simp [waitPhase, hs]

@[simp] theorem phaseWord_nextWf {s : State} {w : FWord} {kind bits : Nat} (hs : s.MemWf) : NextWf (phaseWord s w kind bits) :=
  issueF_nextWf hs fun _ _ hu => by simp [hu]

@[simp] theorem execBarx_nextWf {w : FWord} {s : State} (hs : s.MemWf) : NextWf (execBarx w s) := issueF_nextWf hs fun _ _ hu => by simp [hu]

@[simp] theorem execMbar_nextWf {w : FWord} {s : State} (hs : s.MemWf) : NextWf (execMbar w s) := by
  refine issueF_nextWf hs fun r u hu => ?_
  dsimp only
  have hparts : ∀ {ps : List (Mask × BitVec 32)} {ref}, (ps.foldl (fun s e => waitPhase (r.only e.1) s ref e.2 false true (r.sval w.a) w.dest)
      (u.updGroup r.gid (fun g => g.dropArrived (w.lo.toNat % 8) r.act))).MemWf :=
    foldl_memWf (fun _ _ hv => waitPhase_memWf hv) hu
  repeat' split
  · exact Run.trap_memWf hu
  · exact arrive_memWf hu
  · exact hparts
  · exact Run.done_memWf hparts
  · exact arrive_memWf hparts

@[simp] theorem State.putEnds_memWf {s : State} {c : Crew} {q head tail : Nat} (hs : s.MemWf) : (s.putEnds c q head tail).MemWf := by
  simp [State.putEnds, hs]

@[simp] theorem State.addOut_mem (s : State) (gid q : Nat) (x : BitVec 16) : (s.addOut gid q x).mem = s.mem := rfl

@[simp] theorem State.tryPush_memWf {s : State} {cid : Nat} {c : Crew} {gid : Nat} {g : Group} {q : Nat} {entry : List Word} (hs : s.MemWf) :
    (s.tryPush cid c gid g q entry).MemWf := by
  unfold State.tryPush
  dsimp only
  repeat' split
  all_goals simp [hs]

@[simp] theorem State.tryPop_memWf {s : State} {c : Crew} {q : Nat} (hs : s.MemWf) : (s.tryPop c q).MemWf := by
  unfold State.tryPop
  dsimp only
  repeat' split
  all_goals simp [hs]

@[simp] theorem State.tryQueue_memWf {s : State} {r : Run} {k : WaitKind} (hs : s.MemWf) : (s.tryQueue r k).MemWf := by
  fun_cases State.tryQueue
  case case2 => exact State.tryPush_memWf hs
  case case3 => exact State.tryPop_memWf hs
  all_goals trivial

@[simp] theorem State.noteQueue_mem (s : State) (r : Run) (k : WaitKind) : (s.noteQueue r k).mem = s.mem := by
  unfold State.noteQueue
  split <;> simp

@[simp] theorem State.judgeQueue_memWf {s : State} {wid : Nat} {expire : Bool} (hs : s.MemWf) : (s.judgeQueue wid expire).MemWf := by
  unfold State.judgeQueue
  dsimp only
  split
  · exact hs
  · split
    · exact hs
    next _ w _ _ r _ =>
      have hq := State.tryQueue_memWf (r := r) (k := w.kind) hs
      split
      next heq =>
        rw [heq] at hq
        exact State.endWait_memWf (by simpa using hq)
      · split <;> simp [hs]

@[simp] theorem execQueueRetry_nextWf {wait : Nat} {s : State} (hs : s.MemWf) : NextWf (execQueueRetry wait s) := by
  unfold execQueueRetry
  split <;> simp [hs]

@[simp] theorem State.queueLate_memWf {s : State} {wid : Nat} (hs : s.MemWf) : (s.queueLate wid).MemWf := by fun_cases State.queueLate <;> simp [hs]

@[simp] theorem execQueueWaitTimeout_nextWf {wait : Nat} {s : State} (hs : s.MemWf) : NextWf (execQueueWaitTimeout wait s) := by
  unfold execQueueWaitTimeout
  split <;> simp [hs]

@[simp] theorem queueWord_nextWf {s : State} {w : FWord} {pop : Bool} (hs : s.MemWf) : NextWf (queueWord s w pop) :=
  issueF_nextWf hs fun _ _ hu => by simp [hu]

@[simp] theorem tryWord_nextWf {s : State} {w : FWord} {pop : Bool} (hs : s.MemWf) : NextWf (tryWord s w pop) := by
  refine issueF_nextWf hs fun r u hu => ?_
  have hq := State.tryQueue_memWf (r := r) (k := queueKind r w pop) hu
  dsimp only
  split
  next heq =>
    rw [heq] at hq
    exact Run.later_memWf (by simpa using hq)
  · exact Run.later_memWf hu

end Sys2Proof.Machine
end

section
/-! ## System: special registers, traps and images -/

namespace Sys2Proof.Machine

open Sys2Proof

@[simp] theorem execTrap_nextWf {w : FWord} {s : State} (hs : s.MemWf) : NextWf (execTrap w s) := issueF_nextWf hs fun _ _ hu => by simp [hu]

@[simp] theorem execTrapI_nextWf {w : IWord} {s : State} (hs : s.MemWf) : NextWf (execTrapI w s) := issueI_nextWf hs fun _ _ hu => by simp [hu]

theorem settled_memWf {r : Run} {s : State} {go : State → State} (hg : Keeps go) (hs : s.MemWf) : (settled r s go).MemWf := by
  fun_cases settled
  · exact hg _ hs
  · exact Run.waitFor_memWf hs

@[simp] theorem execTfence_nextWf {w : FWord} {s : State} (hs : s.MemWf) : NextWf (execTfence w s) :=
  issueF_nextWf hs fun _ _ hu => settled_memWf (fun _ hv => by dsimp only; split <;> simp [hv]) hu

@[simp] theorem Run.waitPage_memWf {r : Run} {s : State} {va : Word} {acc : BitVec 2} (hs : s.MemWf) : (r.waitPage s va acc).MemWf := by
  simp [Run.waitPage, hs]

@[simp] theorem Run.waitPath_memWf {r : Run} {s : State} {va : Word} {acc : BitVec 2} (hs : s.MemWf) : (r.waitPath s va acc).MemWf := by
  simp [Run.waitPath, hs]

theorem Run.withWords_memWf {r : Run} {s : State} {va : Word} {n : Nat} {go : List Word → State → State} (hg : ∀ ws, Keeps (go ws)) (hs : s.MemWf) :
    (r.withWords s va n go).MemWf := by
  fun_cases Run.withWords
  case case2 => exact hg _ _ (by simpa using hs)
  all_goals simp [hs]

@[simp] theorem State.leaveHold_mem (s : State) (tid : Nat) (t : Tie) (lanes : Mask) (pc : Nat → Word) : (s.leaveHold tid t lanes pc).mem = s.mem := by
  unfold State.leaveHold
  dsimp only
  repeat' split
  all_goals simp

@[simp] theorem State.freeHeld_mem (s : State) (gid : Nat) (f : Frame) : (s.freeHeld gid f).mem = s.mem :=
  foldl_mem (fun _ _ => by grind [State.leaveHold_mem]) _ _

@[simp] theorem State.armStep_mem (s : State) (sid : Nat) : (s.armStep sid).mem = s.mem := by
  unfold State.armStep
  repeat' split
  all_goals simp

@[simp] theorem Run.returnTo_memWf {r : Run} {s : State} {f : Frame} (hs : s.MemWf) : (r.returnTo s f).MemWf := by simp [Run.returnTo, hs]

@[simp] theorem Run.returnFrom_memWf {r : Run} {s : State} {f : Frame} (hs : s.MemWf) : (r.returnFrom s f).MemWf := by simp [Run.returnFrom, hs]

@[simp] theorem execTret_nextWf {w : FWord} {s : State} (hs : s.MemWf) : NextWf (execTret w s) := by
  refine issueF_nextWf hs fun _ _ hu => ?_
  split
  · exact Run.trap_memWf hu
  · exact Run.withWords_memWf (fun _ _ hv => Run.returnFrom_memWf hv) hu

@[simp] theorem readSpecial_nextWf {s : State} {w : FWord} {priv : Bool} (hs : s.MemWf) : NextWf (readSpecial s w priv) := by
  refine issueF_nextWf hs fun r u hu => ?_
  have hc : (if selOf w = 0x0B then u.clockRead r.sid r.act r.sg.gclk else (0, u)).2.MemWf := by
    split <;> simp [hu]
  revert hc
  generalize (if selOf w = 0x0B then u.clockRead r.sid r.act r.sg.gclk else (0, u)) = c
  intro hc
  dsimp only
  split
  · exact settled_memWf (fun _ hv => Run.later_memWf hv) hc
  split
  · exact Run.fixed_memWf hc
  · exact Run.later_memWf hc

@[simp] theorem writeSpecialWord_nextWf {s : State} {w : FWord} {priv : Bool} (hs : s.MemWf) : NextWf (writeSpecialWord s w priv) := by
  refine issueF_nextWf hs fun r u hu => ?_
  dsimp only
  repeat' split
  · exact Run.trap_memWf hu
  · exact settled_memWf (fun _ hv => Run.done_memWf hv) hu
  · exact Run.fixed_memWf hu

@[simp] theorem State.loadLseg_mem (s : State) (cid : Nat) (x : Word) : (s.loadLseg cid x).mem = s.mem := rfl

@[simp] theorem Run.askUnits_memWf {r : Run} {s : State} {asks : List (Nat × (Nat → MsgBody))} (hs : s.MemWf) : (r.askUnits s asks).MemWf :=
  foldl_memWf (fun _ _ hu => by exact hu) (Run.waitFor_memWf hs)

@[simp] theorem execSegldL_nextWf {w : FWord} {s : State} (hs : s.MemWf) : NextWf (execSegldL w s) := by
  refine issueF_nextWf hs fun r u hu => ?_
  dsimp only
  repeat' split
  all_goals simp [hu]

@[simp] theorem execSegldP_nextWf {w : FWord} {s : State} (hs : s.MemWf) : NextWf (execSegldP w s) := issueF_nextWf hs fun _ _ hu => by simp [hu]

@[simp] theorem State.walkOut_mem (s : State) (gid m : Nat) (va ent : Word) (out : Option (BitVec 8)) : (s.walkOut gid m va ent out).mem = s.mem :=
  rfl

@[simp] theorem execTlbf_nextWf {w : FWord} {s : State} (hs : s.MemWf) : NextWf (execTlbf w s) := issueF_nextWf hs fun _ _ hu => by simp [hu]

@[simp] theorem State.dropCode_mem (s : State) (f : Nat → CodeSector → Bool) : (s.dropCode f).mem = s.mem := rfl

@[simp] theorem State.dropOwnCode_mem (s : State) (f : CodeSector → Bool) : (s.dropOwnCode f).mem = s.mem := rfl

@[simp] theorem State.dropPage_mem (s : State) (ctx : Nat) (va : Word) : (s.dropPage ctx va).mem = s.mem := rfl

@[simp] theorem execTlbiVa_nextWf {w : FWord} {s : State} (hs : s.MemWf) : NextWf (execTlbiVa w s) := by
  refine issueF_nextWf hs fun r u hu => ?_
  have hd : ∀ {l : List (Nat × Word)}, (l.foldl (fun s e => s.dropPage r.g.ctx e.2) u).MemWf := foldl_memWf (fun _ _ hv => by simpa using hv) hu
  dsimp only
  split
  · exact Run.done_memWf hd
  · exact Run.askUnits_memWf hd

@[simp] theorem State.everyMast_mem (s : State) (f : Mast → Mast) : (s.everyMast f).mem = s.mem := rfl

@[simp] theorem execTlbiCtx_nextWf {w : FWord} {s : State} (hs : s.MemWf) : NextWf (execTlbiCtx w s) := issueF_nextWf hs fun _ _ hu => by simp [hu]

@[simp] theorem execTlbiAll_nextWf {w : FWord} {s : State} (hs : s.MemWf) : NextWf (execTlbiAll w s) := issueF_nextWf hs fun _ _ hu => by simp [hu]

@[simp] theorem State.serveUnit_memWf {s : State} {mid : Nat} {m : Msg} (hs : s.MemWf) : (s.serveUnit mid m).MemWf := by
  unfold State.serveUnit
  dsimp only
  repeat' split
  all_goals simp [hs]

@[simp] theorem dlset_memWf {r : Run} {s : State} {dest : Operand} {op b : Nat} (hs : s.MemWf) : (dlset r s dest op b).MemWf := by
  unfold dlset
  split <;> simp [hs]

@[simp] theorem execDlsetRel_nextWf {w : FWord} {s : State} (hs : s.MemWf) : NextWf (execDlsetRel w s) := issueF_nextWf hs fun _ _ hu => by simp [hu]

@[simp] theorem execDlsetAbs_nextWf {w : FWord} {s : State} (hs : s.MemWf) : NextWf (execDlsetAbs w s) := issueF_nextWf hs fun _ _ hu => by simp [hu]

@[simp] theorem execDlsetDef_nextWf {w : FWord} {s : State} (hs : s.MemWf) : NextWf (execDlsetDef w s) := issueF_nextWf hs fun _ _ hu => by simp [hu]

@[simp] theorem execDlsetI_nextWf {w : IWord} {s : State} (hs : s.MemWf) : NextWf (execDlsetI w s) := issueI_nextWf hs fun _ _ hu => by simp [hu]

@[simp] theorem execClkrd_nextWf {w : FWord} {s : State} (hs : s.MemWf) : NextWf (execClkrd w s) := issueF_nextWf hs fun _ _ hu => by simp [hu]

@[simp] theorem execHalt_nextWf {w : FWord} {s : State} (hs : s.MemWf) : NextWf (execHalt w s) := issueF_nextWf hs fun _ _ hu => by simp [hu]

@[simp] theorem execDstep_nextWf {w : FWord} {s : State} (hs : s.MemWf) : NextWf (execDstep w s) := by
  refine issueF_nextWf hs fun _ _ hu => ?_
  split
  · exact Run.trap_memWf hu
  · refine Run.withWords_memWf (fun _ _ hv => ?_) hu
    dsimp only
    split <;> simp [hv]

end Sys2Proof.Machine
end

section
/-! ## Migrate: continuations -/

namespace Sys2Proof.Machine

open Sys2Proof

@[simp] theorem State.takeIn_memWf {s : State} {i : Nat} {im : Image} {m n : Nat} (hs : s.MemWf) : (s.takeIn i im m n).MemWf := by
  unfold State.takeIn
  dsimp only
  repeat' split
  all_goals simp [hs]

@[simp] theorem State.mergeLanded_memWf {s : State} {m : Nat} (hs : s.MemWf) : (s.mergeLanded m).MemWf := by
  refine foldl_memWf (fun _ u hu => ?_) hs
  repeat' split
  all_goals simp [hu]

@[simp] theorem State.reserve_mem (s : State) (lid cix : Nat) (l : Launch) (m : Nat) (win : Option Nat) : (s.reserve lid cix l m win).mem = s.mem := by
  fun_cases State.reserve <;> simp

@[simp] theorem State.reserveFor_mem (s : State) (m : Nat) (e : Nat × Nat) : (s.reserveFor m e).mem = s.mem := by fun_cases State.reserveFor <;> simp

@[simp] theorem State.reserveHeads_mem (s : State) (m : Nat) : (s.reserveHeads m).mem = s.mem := foldl_mem (fun _ _ => State.reserveFor_mem ..) _ _

@[simp] theorem State.admitHead_memWf {s : State} {m q : Nat} (hs : s.MemWf) : (s.admitHead m q).MemWf := by fun_cases State.admitHead <;> simp [hs]

theorem execImageAdmission_nextWf {mast queue : Nat} {s : State} (hs : s.MemWf) : NextWf (execImageAdmission mast queue s) := by
  unfold execImageAdmission
  dsimp only
  repeat' split
  all_goals simp [hs]

@[simp] theorem State.releaseSource_mem (s : State) (i : Nat) (im : Image) : (s.releaseSource i im).mem = s.mem := rfl

@[simp] theorem execContinuationDeparture_nextWf {img : Nat} {s : State} (hs : s.MemWf) : NextWf (execContinuationDeparture img s) := by
  unfold execContinuationDeparture
  split <;> simp [hs]

@[simp] theorem State.arrive_mem (s0 : State) (i : Nat) (im : Image) : (s0.arrive i im).mem = s0.mem := by simp [State.arrive, State.on]

@[simp] theorem State.land_memWf {s : State} {i : Nat} {im : Image} {charge : Nat} (hs : s.MemWf) : (s.land i im charge).MemWf := by
  unfold State.land
  dsimp only
  repeat' split
  all_goals simp [hs]

@[simp] theorem execImageLanding_nextWf {img : Nat} {s : State} (hs : s.MemWf) : NextWf (execImageLanding img s) := by
  unfold execImageLanding
  repeat' split
  all_goals simp [hs]

@[simp] theorem execHoldTransfer_nextWf {mast : Nat} {s : State} (hs : s.MemWf) : NextWf (execHoldTransfer mast s) := by
  unfold execHoldTransfer
  dsimp only
  repeat' split
  all_goals simp [hs]

@[simp] theorem State.tieDone_memWf {s : State} {wid : Nat} {w : Wait} {meet : Word} {place : BitVec 32} (hs : s.MemWf) :
    (s.tieDone wid w meet place).MemWf := by simp [State.tieDone, hs]

@[simp] theorem execTieNotice_nextWf {msg : Nat} {s : State} (hs : s.MemWf) : NextWf (execTieNotice msg s) := by
  unfold execTieNotice
  repeat' split
  all_goals simp [hs]

@[simp] theorem State.wakeTies_mem (s : State) : s.wakeTies.mem = s.mem := foldl_mem (fun _ _ => State.redoWait_mem ..) _ _

@[simp] theorem State.tieExit_mem (s : State) (tid : Nat) (t : Tie) (lanes : Mask) : (s.tieExit tid t lanes).mem = s.mem := by simp [State.tieExit]

@[simp] theorem execExitNotice_nextWf {msg : Nat} {s : State} (hs : s.MemWf) : NextWf (execExitNotice msg s) := by
  unfold execExitNotice
  repeat' split
  case isTrue => exact nextWf_next.2 (foldl_memWf (fun _ _ hu => by split <;> simp [hu]) hs)
  all_goals exact nextWf_next.2 hs

@[simp] theorem execTieExpiry_nextWf {tie : Nat} {s : State} (hs : s.MemWf) : NextWf (execTieExpiry tie s) := by simp [execTieExpiry, hs]

@[simp] theorem execVariableLatencyWrite_nextWf {gid id : Nat} {s : State} (hs : s.MemWf) : NextWf (execVariableLatencyWrite gid id s) := by
  simp [execVariableLatencyWrite, hs]

@[simp] theorem State.stopEntry_mem (s : State) (wid : Nat) (w : Wait) (t : TrapReq) (frame : Nat) : (s.stopEntry wid w t frame).mem = s.mem := by
  unfold State.stopEntry
  split <;> simp

@[simp] theorem State.implicitExpire_memWf {s : State} {wid : Nat} {w : Wait} {bound : Nat} (hs : s.MemWf) : (s.implicitExpire wid w bound).MemWf := by
  unfold State.implicitExpire
  split <;> simp [hs]

@[simp] theorem execImplicitWaitExpiry_nextWf {wait : Nat} {s : State} (hs : s.MemWf) : NextWf (execImplicitWaitExpiry wait s) := by
  unfold execImplicitWaitExpiry
  repeat' split
  all_goals simp [hs]

@[simp] theorem State.fetchArrive_memWf {s : State} {wid : Nat} {w : Wait} {x : XlReq} (hs : s.MemWf) : (s.fetchArrive wid w x).MemWf := by
  unfold State.fetchArrive
  dsimp only
  repeat' split
  all_goals simp [hs]

@[simp] theorem execInstructionFetch_nextWf {wait : Nat} {s : State} (hs : s.MemWf) : NextWf (execInstructionFetch wait s) := by
  unfold execInstructionFetch
  repeat' split
  all_goals simp [hs]

@[simp] theorem State.beginFetch_memWf {s : State} {sid : Nat} {lanes : Mask} {pc va : Word} {iword : Word} (hs : s.MemWf) :
    (s.beginFetch sid lanes pc va iword).MemWf := by fun_cases State.beginFetch <;> simp [hs]

@[simp] theorem State.putSectors_memWf {s : State} {cells : List Nat} {ws : List Word} (hs : s.MemWf) : (s.putSectors cells ws).MemWf := by
  induction cells generalizing s ws with
  | nil => exact hs
  | cons p ps ih => exact ih (State.store_memWf hs)

@[simp] theorem State.saveImage_mem (s : State) (r : Run) : (s.saveImage r).2.mem = s.mem := by
  unfold State.saveImage
  dsimp only
  split <;> simp

@[simp] theorem Run.saved_memWf {r : Run} {s : State} (hs : s.MemWf) : (r.saved s).MemWf := by simp [Run.saved, hs]

@[simp] theorem execCtxsave_nextWf {w : FWord} {x : Option XWord} {s : State} (hs : s.MemWf) : NextWf (execCtxsave w x s) := by
  refine issueMem_nextWf hs fun r u hu => ?_
  dsimp only
  repeat' split
  all_goals simp [hu]

@[simp] theorem State.loadImage_memWf {s : State} {gid mast : Nat} {h : ImageHead} {ws : List Word} (hs : s.MemWf) : (s.loadImage gid mast h ws).MemWf := by
  simp [State.loadImage, hs]

@[simp] theorem execCtxload_nextWf {w : FWord} {x : Option XWord} {s : State} (hs : s.MemWf) : NextWf (execCtxload w x s) := by
  refine issueMem_nextWf hs fun _ _ hu => ?_
  dsimp only
  split
  · exact Run.trap_memWf hu
  · refine Run.withWords_memWf (fun _ _ hv => ?_) hu
    split
    · exact Run.later_memWf hv
    · refine Run.withWords_memWf (fun _ _ hw => ?_) hv
      split <;> simp [hw]

end Sys2Proof.Machine
end

section
/-! ## Launch: the command queues and the placement of crews -/

namespace Sys2Proof.Machine

open Sys2Proof

@[simp] theorem State.stopQueue_memWf {s : State} {k : Nat} {q : Queue} {no : BitVec 32} {w0 : Word} (hs : s.MemWf) : (s.stopQueue k q no w0).MemWf := by
  simp [State.stopQueue, hs]

@[simp] theorem State.startCmd_memWf {s : State} {k : Nat} {q : Queue} {p : QPhase} (hs : s.MemWf) : (s.startCmd k q p).MemWf := by
  simp [State.startCmd, hs]

@[simp] theorem execCmdNop_nextWf {queue : Nat} {s : State} (hs : s.MemWf) : NextWf (execCmdNop queue s) := by
  unfold execCmdNop
  split <;> simp [hs]

@[simp] theorem State.counterAt_mem (s : State) (ctx : Nat) (va : Word) (acc : BitVec 2) (x : Option XlReq) : (s.counterAt ctx va acc x).1.mem = s.mem := by
  unfold State.counterAt
  dsimp only
  repeat' split
  all_goals simp

@[simp] theorem State.judgeCmdWait_memWf {s : State} {k : Nat} (hs : s.MemWf) : (s.judgeCmdWait k).MemWf := by
  fun_cases State.judgeCmdWait <;> grind [State.counterAt_mem, State.putQueue_memWf, State.stopQueue_memWf]

@[simp] theorem execWait_nextWf {queue : Nat} {s : State} (hs : s.MemWf) : NextWf (execWait queue s) := by
  unfold execWait
  split <;> simp [hs]

@[simp] theorem execWaitReread_nextWf {queue : Nat} {s : State} (hs : s.MemWf) : NextWf (execWaitReread queue s) := by simp [execWaitReread, hs]

@[simp] theorem execStallRecord_nextWf {queue : Nat} {s : State} (hs : s.MemWf) : NextWf (execStallRecord queue s) := by
  unfold execStallRecord
  repeat' split
  all_goals simp [hs]

@[simp] theorem State.addAt_memWf {s : State} {ctx cell : Nat} {v : Word} (hs : s.MemWf) : (s.addAt ctx cell v).MemWf := by simp [State.addAt, hs]

@[simp] theorem State.judgeAdd_memWf {s : State} {k : Nat} (hs : s.MemWf) : (s.judgeAdd k).MemWf := by
  fun_cases State.judgeAdd <;> grind [State.counterAt_mem, State.putQueue_memWf, State.addAt_memWf, State.stopQueue_memWf]

@[simp] theorem execSignal_nextWf {queue : Nat} {s : State} (hs : s.MemWf) : NextWf (execSignal queue s) := by
  unfold execSignal
  split <;> simp [hs]

@[simp] theorem execLaunch_nextWf {queue : Nat} {s : State} (hs : s.MemWf) : NextWf (execLaunch queue s) := by
  unfold execLaunch
  dsimp only
  repeat' split
  all_goals simp [hs]

@[simp] theorem State.failLaunch_memWf {s : State} {lid : Nat} {l : Launch} (hs : s.MemWf) : (s.failLaunch lid l).MemWf := by
  unfold State.failLaunch
  dsimp only
  split <;> simp [hs]

@[simp] theorem State.failHomeless_memWf {s : State} (hs : s.MemWf) : s.failHomeless.MemWf := by
  refine foldl_memWf (fun _ u hu => ?_) hs
  repeat' split
  all_goals simp [hu]

@[simp] theorem State.admitCrew_memWf {s : State} {lid : Nat} (hs : s.MemWf) : (s.admitCrew lid).MemWf := by
  unfold State.admitCrew
  dsimp only
  repeat' split
  all_goals simp [hs]

@[simp] theorem State.admitCrews_memWf {s : State} {lid n : Nat} (hs : s.MemWf) : (s.admitCrews lid n).MemWf := by
  induction n generalizing s with
  | zero => exact hs
  | succ n ih => exact ih (State.admitCrew_memWf hs)

@[simp] theorem State.turn_memWf {s : State} {k lid n : Nat} (hs : s.MemWf) : (s.turn k lid n).MemWf := by
  induction n generalizing s with
  | zero => exact hs
  | succ n ih =>
    unfold State.turn
    dsimp only
    repeat' split
    case isFalse => exact ih (by simp [hs])
    all_goals simp [hs]

@[simp] theorem execCrewAdmission_nextWf {s : State} (hs : s.MemWf) : NextWf (execCrewAdmission s) := by
  unfold execCrewAdmission
  dsimp only
  repeat' split
  all_goals grind [nextWf_next, State.putQueue_memWf, State.turn_memWf]

@[simp] theorem State.giveStation_memWf {s : State} {m n : Nat} {ctx : Nat} (hs : s.MemWf) : (s.giveStation m n ctx).MemWf := by
  unfold State.giveStation
  dsimp only
  split
  · exact hs
  · exact (congrArg Memory.wf (State.updStn_mem ..)).trans (Memory.wf_filter hs)

@[simp] theorem State.beginGroup_mem (s : State) (l : Launch) (cid cix m n g : Nat) (anchor : Word) :
    (s.beginGroup l cid cix m n g anchor).mem = s.mem := rfl

@[simp] theorem State.placeCrew_memWf {s : State} {lid cix : Nat} {l : Launch} {m n : Nat} (hs : s.MemWf) : (s.placeCrew lid cix l m n).MemWf := by
  refine foldl_memWf (fun _ _ hu => by simpa using hu) ?_
  simp [hs]

theorem execCrewPlacement_nextWf {mast crew : Nat} {s : State} (hs : s.MemWf) : NextWf (execCrewPlacement mast crew s) := by
  unfold execCrewPlacement
  dsimp only
  repeat' split
  all_goals simp [hs]

@[simp] theorem execGangStart_nextWf {s : State} (hs : s.MemWf) : NextWf (execGangStart s) := by
  unfold execGangStart
  dsimp only
  repeat' split
  case isFalse => exact nextWf_next.2 (foldl_memWf (fun _ _ hu => State.placeCrew_memWf hu) hs)
  all_goals exact nextWf_next.2 hs

@[simp] theorem execGangAgeLimit_nextWf {s : State} (hs : s.MemWf) : NextWf (execGangAgeLimit s) := by
  unfold execGangAgeLimit
  split <;> simp [hs]

@[simp] theorem State.judgeCount_memWf {s : State} {lid : Nat} {l : Launch} (hs : s.MemWf) : (s.judgeCount lid l).MemWf := by
  fun_cases State.judgeCount <;> grind [State.counterAt_mem, State.addAt_memWf, State.updLaunch_mem, State.stopQueue_memWf]

@[simp] theorem execLaunchComplete_nextWf {launch : Nat} {s : State} (hs : s.MemWf) : NextWf (execLaunchComplete launch s) := by
  unfold execLaunchComplete
  split <;> simp [hs]

end Sys2Proof.Machine
end

section
/-! ## Walker: page walks -/

namespace Sys2Proof.Machine

open Sys2Proof

@[simp] theorem State.mapX_mem (s : State) (f : XlReq → XlReq) : (s.mapX f).mem = s.mem := rfl

@[simp] theorem State.accessAgain_memWf {s : State} {wid : Nat} {w : Wait} {x : XlReq} {t : ThreadAcc} (hs : s.MemWf) :
    (s.accessAgain wid w x t).MemWf := by
  unfold State.accessAgain
  split <;> simp [hs]

@[simp] theorem State.entryAgain_memWf {s : State} {wid : Nat} {w : Wait} {t : TrapReq} {f : Nat} {x : XlReq} (hs : s.MemWf) :
    (s.entryAgain wid w t f x).MemWf := by
  unfold State.entryAgain
  dsimp only
  repeat' split
  all_goals simp [hs]

@[simp] theorem State.waitAgain_memWf {s : State} {wid : Nat} (hs : s.MemWf) : (s.waitAgain wid).MemWf := by fun_cases State.waitAgain <;> simp [hs]

@[simp] theorem State.waitAgainAt_memWf {s : State} {wid : Nat} (hs : s.MemWf) : (s.waitAgainAt wid).MemWf := by
  unfold State.waitAgainAt
  split <;> simp [State.on, hs]

@[simp] theorem State.release_memWf {s : State} {hit : XlReq → Bool} {f : XlReq → XlReq} (hs : s.MemWf) : (s.release hit f).MemWf :=
  foldl_memWf (fun _ _ hu => State.waitAgainAt_memWf hu) (by simpa using hs)

@[simp] theorem execWalkStart_nextWf {mast : Nat} {s : State} (hs : s.MemWf) : NextWf (execWalkStart mast s) := by
  unfold execWalkStart
  dsimp only
  repeat' split
  all_goals simp [hs]

@[simp] theorem execWalkEnd_nextWf {mast : Nat} {s : State} (hs : s.MemWf) : NextWf (execWalkEnd mast s) := by
  unfold execWalkEnd
  repeat' split
  all_goals simp [hs]

@[simp] theorem State.dropFault_mem (s : State) (mast : Nat) (f : FaultEnt) : (s.dropFault mast f).mem = s.mem := by
  unfold State.dropFault
  split <;> simp

@[simp] theorem State.releaseEntry_memWf {s : State} {mast idx : Nat} {seq : BitVec 32} {act : Nat} {f : XlReq → XlReq} (hs : s.MemWf) :
    (s.releaseEntry mast idx seq act f).MemWf := by
  unfold State.releaseEntry
  split <;> simp [hs]

@[simp] theorem execRetry_nextWf {mast idx : Nat} {seq : BitVec 32} {s : State} (hs : s.MemWf) : NextWf (execRetry mast idx seq s) := by
  simp [execRetry, hs]

@[simp] theorem execFail_nextWf {mast idx : Nat} {seq : BitVec 32} {s : State} (hs : s.MemWf) : NextWf (execFail mast idx seq s) := by
  simp [execFail, hs]

end Sys2Proof.Machine
end

section
/-! ## Escalate: escalation -/

namespace Sys2Proof.Machine

open Sys2Proof

@[simp] theorem State.dropSlices_mem (s : State) : s.dropSlices.mem = s.mem := rfl

@[simp] theorem State.unhold_mem (s : State) (gid : Nat) (lanes : Mask) : (s.unhold gid lanes).mem = s.mem :=
  foldl_mem (fun _ _ => by split <;> simp) _ _

@[simp] theorem State.raiseEscalation_memWf {s : State} {gid : Nat} {g : Group} {lanes : Mask} {dl pc : Word} {len : Nat} {iw xw : Word}
    (hs : s.MemWf) : (s.raiseEscalation gid g lanes dl pc len iw xw).MemWf := by
  unfold State.raiseEscalation
  dsimp only
  split
  · simp [hs]
  · have hf : ∀ {l : List (Nat × Mask)} {t}, (l.foldl (fun s e => ((s.detach e.1 e.2).atSub e.1 (fun s => s.enterTrap e.1 e.2 t)).dropSlices)
        (s.unhold gid (lanes &&& ~~~g.ended))).MemWf :=
      foldl_memWf (fun _ _ hu => by
        simpa using State.atSub_memWf (fun _ hv => State.enterTrap_memWf hv) (by simpa using hu)) (by simpa using hs)
    split
    · exact hf
    · simpa using hf

@[simp] theorem State.setEsc_memWf {s : State} {ctx : Nat} {c : Ctx} {n : Nat} (hs : s.MemWf) : (s.setEsc ctx c n).MemWf := by simp [State.setEsc, hs]

@[simp] theorem State.applyInc_memWf {s : State} {ctx gid : Nat} {lanes : Mask} {dl pc : Word} {len : Nat} {iw xw : Word} (hs : s.MemWf) :
    (s.applyInc ctx gid lanes dl pc len iw xw).MemWf := by
  unfold State.applyInc
  split <;> simp [hs]

@[simp] theorem State.retryTrap_memWf {s : State} {gid : Nat} {g : Group} {lanes : Mask} {dl pc : Word} {len : Nat} {iw xw : Word} (hs : s.MemWf) :
    ∀ t ∈ s.retryTrap gid g lanes dl pc len iw xw, t.MemWf := by simp [State.retryTrap, hs]

@[simp] theorem execEscalationIncrement_nextWf {msg : Nat} {s : State} (hs : s.MemWf) : NextWf (execEscalationIncrement msg s) := by
  unfold execEscalationIncrement
  dsimp only
  repeat' split
  case h_1 => exact nextWf_next.2 (getD_memWf (State.retryTrap_memWf hs) hs)
  all_goals simp [hs]

@[simp] theorem execEscalationReset_nextWf {msg : Nat} {s : State} (hs : s.MemWf) : NextWf (execEscalationReset msg s) := by
  unfold execEscalationReset
  dsimp only
  repeat' split
  case h_1.isTrue => exact nextWf_next.2 (getD_memWf (by simp [hs]) (by simp [hs]))
  all_goals exact nextWf_next.2 hs

@[simp] theorem State.setCtxSt_memWf {s : State} {ctx : Nat} {st : CtxSt} (hs : s.MemWf) : (s.setCtxSt ctx st).MemWf := by
  unfold State.setCtxSt
  split <;> simp [hs]

@[simp] theorem State.failFaults_memWf {s : State} {ctx : Nat} (hs : s.MemWf) : (s.failFaults ctx).MemWf :=
  foldl_memWf (fun _ _ hu => State.release_memWf (by simpa using hu)) hs

@[simp] theorem State.endSub_memWf {s : State} {sid : Nat} {sg : SubGroup} (hs : s.MemWf) : (s.endSub sid sg).MemWf := by simp [State.endSub, hs]

@[simp] theorem State.endGuests_memWf {s : State} {ctx : Nat} {gs : List Nat} (hs : s.MemWf) : (s.endGuests ctx gs).MemWf :=
  foldl_memWf (fun _ _ hu => State.endLanes_memWf (by simpa using hu)) (foldl_memWf (fun _ _ hu => State.endSub_memWf hu) hs)

@[simp] theorem State.clearContext_memWf {s00 : State} {ctx : Nat} (hs00 : s00.MemWf) : (s00.clearContext ctx).MemWf :=
  foldl_memWf (fun _ _ hu => by simpa using hu) (State.endGuests_memWf hs00)

@[simp] theorem State.sweep_mem (s : State) : s.sweep.mem = s.mem := by simp [State.sweep]

@[simp] theorem State.stopQueues_memWf {s : State} {ctx : Nat} (hs : s.MemWf) : (s.stopQueues ctx).MemWf :=
  foldl_memWf (fun _ _ hu => State.putQueue_memWf hu) hs

@[simp] theorem State.resetCtx_memWf {s : State} {ctx : Nat} (hs : s.MemWf) : (s.resetCtx ctx).MemWf := by
  fun_cases State.resetCtx <;> grind [State.stopQueues_memWf, State.failFaults_memWf, State.clearContext_memWf, State.updCtx_mem,
    State.setCtxSt_memWf, State.post_mem]

@[simp] theorem State.forceReset_memWf {s : State} {ctx : Nat} (hs : s.MemWf) : (s.forceReset ctx).MemWf := by
  unfold State.forceReset
  split <;> simp [hs]

@[simp] theorem State.forceResets_memWf {s : State} {cs : List Nat} (hs : s.MemWf) : (s.forceResets cs).MemWf :=
  foldl_memWf (fun _ _ hu => State.forceReset_memWf hu) hs

@[simp] theorem State.complete_mem (s : State) (ctx tag : BitVec 16) (code : BitVec 8) : (s.complete ctx tag code).mem = s.mem := rfl

@[simp] theorem State.noteCmd_mem (s : State) (op : Nat) (c : HCmd) : (s.noteCmd op c).mem = s.mem := by simp [State.noteCmd]

theorem State.hostCmd_memWf {s : State} {op : Nat} {c : HCmd} {go : State → State × BitVec 8} (hg : ∀ u : State, u.MemWf → (go u).1.MemWf)
    (hs : s.MemWf) : (s.hostCmd op c go).MemWf := by
  fun_cases State.hostCmd
  · exact hs
  · simpa [*] using hg (s.noteCmd op c) (by simpa using hs)

end Sys2Proof.Machine
end

section
/-! ## Preempt: resets and preemption -/

namespace Sys2Proof.Machine

open Sys2Proof

@[simp] theorem State.takeBack_mem (s : State) (wid : Nat) (w : Wait) (gid : Nat) : (s.takeBack wid w gid).mem = s.mem := by
  unfold State.takeBack
  split <;> simp

@[simp] theorem State.stopContext_mem (s : State) (ctx : Nat) : (s.stopContext ctx).mem = s.mem := foldl_mem (fun _ _ => by split <;> simp) _ _

@[simp] theorem execPreempt_nextWf {c : HCmd} {s : State} (hs : s.MemWf) : NextWf (execPreempt c s) := by
  unfold execPreempt
  dsimp only
  repeat' split
  all_goals simp [hs]

@[simp] theorem State.leaveStations_mem (s : State) (ctx : Nat) (gs : List Nat) (crews : List (Nat × Crew)) (at' : Nat → Word) :
    (State.leaveStations s ctx gs crews at').mem = s.mem := rfl

@[simp] theorem execPreemptComplete_nextWf {ctx : Nat} {s : State} (hs : s.MemWf) : NextWf (execPreemptComplete ctx s) := by
  unfold execPreemptComplete
  dsimp only
  have hd : ∀ {l : List (Nat × Outst)}, (l.foldl (fun s e => s.deliver e.1 e.2.id) s).MemWf := foldl_memWf (fun _ _ hu => by simpa using hu) hs
  refine nextWf_next.2 ?_
  split
  · exact hs
  split
  · exact hs
  split
  · exact hs
  split
  · simp [hs]
  split
  · exact hs
  next s2 heq =>
    have h2 : State.MemWf _ := State.cpPut_memWf hd _ heq
    rw [State.MemWf, State.complete_mem]
    exact State.setCtxSt_memWf (by simp [show s2.mem.wf = true from h2])

@[simp] theorem execPdlExpiry_nextWf {ctx : Nat} {s : State} (hs : s.MemWf) : NextWf (execPdlExpiry ctx s) := by
  unfold execPdlExpiry
  split <;> simp [hs]

@[simp] theorem State.syncPart_memWf {s t v : State} (hv : v.MemWf) : (s.syncPart t v).MemWf := by
  refine foldl_memWf (fun _ _ hu => foldl_memWf (fun _ _ hw => ?_) (foldl_memWf (fun _ _ hw => ?_) hu)) hv
  · dsimp only
    repeat' split
    case h_1 => exact getD_memWf (State.cpPut_memWf hw) hw
    all_goals exact hw
  · dsimp only
    split
    · exact hw
    · exact getD_memWf (State.cpPut_memWf hw) hw

@[simp] theorem State.syncSaved_memWf {s t : State} (ht : t.MemWf) : (s.syncSaved t).MemWf :=
  foldl_memWf (fun _ _ hu => State.on_memWf (fun _ hv => State.syncPart_memWf hv) hu) ht

end Sys2Proof.Machine
end

section
/-! ## Restore: restoring a saved context -/

namespace Sys2Proof.Machine

open Sys2Proof

@[simp] theorem execRestore_nextWf {c : HCmd} {s : State} (hs : s.MemWf) : NextWf (execRestore c s) := by
  unfold execRestore
  dsimp only
  repeat' split
  all_goals simp [hs]

@[simp] theorem State.reserveAll_mem (s : State) (ps : List (Option Nat × Rec × Option Rec)) : (s.reserveAll ps).mem = s.mem :=
  foldl_mem (fun _ _ => by simp) _ _

@[simp] theorem State.bindCrew_memWf {s : State} {ctx ghost : Nat} {e : Option Nat × Rec × Option Rec} (hs : s.MemWf) : (s.bindCrew ctx ghost e).MemWf := by
  unfold State.bindCrew
  dsimp only
  refine foldl_memWf (fun _ _ hu => by simpa using hu) ?_
  repeat' split
  all_goals simp [hs, State.fresh]

@[simp] theorem State.loadRec_mem (s : State) (ctx ghost : Nat) (r : Rec) : (s.loadRec ctx ghost r).mem = s.mem := by
  unfold State.loadRec
  dsimp only
  repeat' split
  all_goals simp

@[simp] theorem State.knowGroup_mem (s : State) (ctx : Nat) (h : ImageHead) : (s.knowGroup ctx h).mem = s.mem := by
  unfold State.knowGroup
  dsimp only
  repeat' split
  all_goals simp

@[simp] theorem State.landRec_mem (s : State) (ctx : Nat) (bundle0 : Nat) (r : Rec) : (s.landRec ctx bundle0 r).mem = s.mem := by
  unfold State.landRec
  dsimp only
  split <;> simp

@[simp] theorem State.loadAll_memWf {s : State} {ctx : Nat} {rs : List Rec} (hs : s.MemWf) : (s.loadAll ctx rs).MemWf := by
  unfold State.loadAll
  dsimp only
  refine foldl_memWf (fun _ _ hu => by simpa using hu) (foldl_memWf (fun _ _ hu => by simpa using hu)
    (foldl_memWf (fun _ _ hu => by simpa using hu) (foldl_memWf (fun _ _ hu => ?_)
      (foldl_memWf (fun _ _ hu => by simpa using hu) (foldl_memWf (fun _ _ hu => State.bindCrew_memWf hu) ?_)))))
  · repeat' split
    all_goals simpa using hu
  · split
    · exact hs
    · simpa [State.fresh] using hs

@[simp] theorem execRestoreComplete_nextWf {ctx : Nat} {s : State} (hs : s.MemWf) : NextWf (execRestoreComplete ctx s) := by
  unfold execRestoreComplete
  repeat' split
  all_goals simp [hs]

@[simp] theorem State.resumeSub_memWf {s : State} {c : Ctx} {g : Group} {sid : Nat} {sg : SubGroup} (hs : s.MemWf) :
    ∀ t ∈ s.resumeSub c g sid sg, t.MemWf := by
  unfold State.resumeSub
  dsimp only
  split
  · rintro t ⟨⟩
    exact hs
  split
  · rintro t ⟨⟩
  · refine bind_memWf fun ws => ?_
    split
    · rintro t ⟨⟩
    · rintro t ⟨⟩
      exact State.atSub_memWf (fun _ hu => Run.returnTo_memWf hu) hs

@[simp] theorem execResume_nextWf {c : HCmd} {s : State} (hs : s.MemWf) : NextWf (execResume c s) := by
  refine nextWf_next.2 (State.hostCmd_memWf (fun u hu => ?_) hs)
  dsimp only
  split
  · split
    · exact hu
    · split
      next heq => exact foldl_bind_memWf (fun e v hv => State.resumeSub_memWf hv) (by rintro _ ⟨⟩; exact hu) _ heq
      next => exact hu
  · exact hu

@[simp] theorem execDebuggo_nextWf {c : HCmd} {s : State} (hs : s.MemWf) : NextWf (execDebuggo c s) := by
  refine nextWf_next.2 (State.hostCmd_memWf (fun u hu => ?_) hs)
  dsimp only
  split
  · refine foldl_memWf (fun _ _ hv => State.atSub_memWf (fun _ hw => State.holdReady_memWf hw) ?_) hu
    simpa using hv
  · exact hu

@[simp] theorem execDestroy_nextWf {c : HCmd} {s : State} (hs : s.MemWf) : NextWf (execDestroy c s) := by
  refine nextWf_next.2 (State.hostCmd_memWf (fun u hu => ?_) hs)
  dsimp only
  repeat' split
  all_goals simp [hu]

end Sys2Proof.Machine
end

section
/-! ## Repair: memory errors and repair -/

namespace Sys2Proof.Machine

open Sys2Proof

@[simp] theorem State.tagFrame_mem (s : State) (m frame : Nat) (tag : BitVec 16) : (s.tagFrame m frame tag).mem = s.mem := rfl

@[simp] theorem State.softHit_memWf {s : State} {m stn src : Nat} {correctable : Bool} {ctxs : List Nat} {crewDev : Option Nat} (hs : s.MemWf) :
    (s.softHit m stn src correctable ctxs crewDev).MemWf := by
  fun_cases State.softHit
  · simpa using hs
  · exact foldl_memWf (fun _ _ hu => State.on_memWf (fun _ hv => State.forceResets_memWf hv) hu) (by simpa using hs)

@[simp] theorem execSoftError_nextWf {site : SoftSite} {correctable : Bool} {s : State} (hs : s.MemWf) : NextWf (execSoftError site correctable s) := by
  unfold execSoftError
  repeat' split
  all_goals simp [hs]

@[simp] theorem execScrub_nextWf {mast sector : Nat} {s : State} (hs : s.MemWf) : NextWf (execScrub mast sector s) := by simp [execScrub, hs]

@[simp] theorem State.fenceStn_memWf {s : State} {m n : Nat} (hs : s.MemWf) : (s.fenceStn m n).MemWf := by simp [State.fenceStn, hs]

@[simp] theorem State.fenceMast_memWf {s : State} {m : Nat} (hs : s.MemWf) : (s.fenceMast m).MemWf := by
  unfold State.fenceMast
  split
  · exact hs
  · apply State.failHomeless_memWf
    rw [State.MemWf]
    dsimp only
    rw [foldl_mem (fun _ _ => State.updStn_mem ..), State.updMast_mem]
    exact State.forceResets_memWf hs

@[simp] theorem State.beginRepair_mem (s : State) (m op : Nat) (pa : BitVec 36) : (s.beginRepair m op pa).mem = s.mem := by simp [State.beginRepair]

@[simp] theorem execRow_nextWf {mast : Nat} {pa : BitVec 36} {s : State} (hs : s.MemWf) : NextWf (execRow mast pa s) := by simp [execRow, hs]

@[simp] theorem execBank_nextWf {mast : Nat} {pa : BitVec 36} {s : State} (hs : s.MemWf) : NextWf (execBank mast pa s) := by simp [execBank, hs]

@[simp] theorem execFenceStation_nextWf {mast stn : Nat} {s : State} (hs : s.MemWf) : NextWf (execFenceStation mast stn s) := by
  simp [execFenceStation, hs]

@[simp] theorem execFenceMast_nextWf {mast : Nat} {s : State} (hs : s.MemWf) : NextWf (execFenceMast mast s) := by simp [execFenceMast, hs]

@[simp] theorem State.askRepair_memWf {s : State} {m : Nat} {v : Word} (hs : s.MemWf) : (s.askRepair m v).MemWf := by
  unfold State.askRepair
  grind [State.updMast_mem, execRow_nextWf, execBank_nextWf, execFenceStation_nextWf, execFenceMast_nextWf, NextWf]

@[simp] theorem State.moveToSpare_mem (s : State) (m : Nat) (f : Nat → Bool) : (s.moveToSpare m f).mem = s.mem := by simp [State.moveToSpare]

@[simp] theorem execRepairComplete_nextWf {mast : Nat} {s : State} (hs : s.MemWf) : NextWf (execRepairComplete mast s) := by
  simp [execRepairComplete, hs]

@[simp] theorem State.segPut_memWf {s : State} {pctx : Nat} {c : Ctx} {gs : List (Word × Nat)} {off : Nat} {bytes : List Byte} (hs : s.MemWf) :
    (s.segPut pctx c gs off bytes).MemWf := by
  refine foldl_memWf (fun _ _ hu => ?_) hs
  split
  · exact State.store_memWf hu
  · exact hu

@[simp] theorem State.ckEnd_mem (s : State) (k : Ckpt) (code : BitVec 8) : (s.ckEnd k code).mem = s.mem := rfl

@[simp] theorem State.ckWrite_memWf {s : State} {k : Ckpt} {c : Ctx} {gs : List (Word × Nat)} (hs : s.MemWf) : (s.ckWrite k c gs).1.MemWf := by
  unfold State.ckWrite
  dsimp only
  split <;> simp [hs]

@[simp] theorem State.putUnit_memWf {s : State} {u : CkUnit} {bs : List Byte} (hs : s.MemWf) : (s.putUnit u bs).MemWf := by simp [State.putUnit, hs]

@[simp] theorem State.putUnits_memWf {s : State} {us : List CkUnit} {bs : List Byte} (hs : s.MemWf) : (s.putUnits us bs).MemWf := by
  induction us generalizing s bs with
  | nil => exact hs
  | cons u us ih => exact ih (State.putUnit_memWf hs)

@[simp] theorem State.ckLoad_memWf {s : State} {pctx : Nat} {c : Ctx} {gs : List (Word × Nat)} (hs : s.MemWf) : (s.ckLoad pctx c gs).1.MemWf := by
  fun_cases State.ckLoad <;> simp [hs]

@[simp] theorem State.ckStep_memWf {s : State} {k : Ckpt} (hs : s.MemWf) : (s.ckStep k).MemWf := by
  unfold State.ckStep
  dsimp only
  repeat' split
  all_goals simp [hs]

@[simp] theorem execCkptImageWrite_nextWf {s : State} (hs : s.MemWf) : NextWf (execCkptImageWrite s) := by
  refine nextWf_next.2 ?_
  cases s.ckpt with
  | none => exact hs
  | some k => exact State.ckStep_memWf hs

@[simp] theorem execCkpt_nextWf {c : HCmd} {s0 : State} (hs0 : s0.MemWf) : NextWf (execCkpt c s0) := by simp [execCkpt, hs0]

@[simp] theorem execCkload_nextWf {c : HCmd} {s0 : State} (hs0 : s0.MemWf) : NextWf (execCkload c s0) := by simp [execCkload, hs0]

@[simp] theorem State.updJrn_mem (s : State) (u : Nat) (f : Journal → Journal) : (s.updJrn u f).mem = s.mem := by simp [State.updJrn]

@[simp] theorem State.putJournal_mem (s : State) (u : Nat) (v : Word) : (s.putJournal u v).mem = s.mem := by simp [State.putJournal]

@[simp] theorem execJournalControlWrite_nextWf {off : Nat} {value : Word} {s : State} (hs : s.MemWf) : NextWf (execJournalControlWrite off value s) := by
  unfold execJournalControlWrite
  split <;> simp [hs]

@[simp] theorem execReplayDivergence_nextWf {s : State} (hs : s.MemWf) : NextWf (execReplayDivergence s) := by
  refine nextWf_next.2 ?_
  split
  · exact hs
  · rw [State.MemWf, State.post_mem]
    dsimp only
    rw [foldl_mem]
    · exact hs
    · intro u a
      split <;> simp

@[simp] theorem State.recordEntry_memWf {s : State} {u : Nat} {ws : List Word} (hs : s.MemWf) : (s.recordEntry u ws).MemWf := by
  simp [State.recordEntry, hs]

@[simp] theorem State.drain_memWf {s : State} (hs : s.MemWf) : ∀ t ∈ s.drain, t.MemWf := by
  unfold State.drain
  dsimp only
  split
  · rintro t ⟨⟩
  · rintro t ⟨⟩
    exact foldl_memWf (fun _ _ hu => by split <;> simp [hu]) hs

end Sys2Proof.Machine
end

section
/-! ## Bosun: power, reset and what they clear -/

namespace Sys2Proof.Machine

open Sys2Proof

@[simp] theorem State.setMasts_mem (s : State) (ms : SMap Mast) : (s.setMasts ms).mem = s.mem := rfl

@[simp] theorem State.setStns_mem (s : State) (ns : SMap Station) : (s.setStns ns).mem = s.mem := rfl

@[simp] theorem State.bare_memWf {s : State} {b : Bosun} (hs : s.MemWf) : (s.bare b).MemWf := by
  simp [State.bare, hs]

@[simp] theorem execPowerOn_nextWf {s : State} (hs : s.MemWf) : NextWf (execPowerOn s) := by simp [execPowerOn, hs]

@[simp] theorem State.hostStart_mem (s : State) : s.hostStart.mem = s.mem := by simp [State.hostStart]

@[simp] theorem State.wipe_memWf {s : State} {lo hi : Nat} (hs : s.MemWf) : (s.wipe lo hi).MemWf := by
  simp [State.wipe, hs]

@[simp] theorem execTierReady_nextWf {mast tier : Nat} {s : State} (hs : s.MemWf) : NextWf (execTierReady mast tier s) := by
  unfold execTierReady
  repeat' split
  all_goals simp [hs]

@[simp] theorem execTierReadyTimeout_nextWf {mast tier : Nat} {s : State} (hs : s.MemWf) : NextWf (execTierReadyTimeout mast tier s) := by
  simp [execTierReadyTimeout, hs]

@[simp] theorem State.powerOff_memWf {s : State} (hs : s.MemWf) : s.powerOff.MemWf := by simp [State.powerOff, hs]

@[simp] theorem execPowerDown_nextWf {s : State} (hs : s.MemWf) : NextWf (execPowerDown s) := by simp [execPowerDown, hs]

@[simp] theorem execClockScaling_nextWf {mast n : Nat} {s : State} (hs : s.MemWf) : NextWf (execClockScaling mast n s) := by
  simp [execClockScaling, hs]

@[simp] theorem State.updBosun_mem (s : State) (f : Bosun → Bosun) : (s.updBosun f).mem = s.mem := rfl

@[simp] theorem execThermalThrottle_nextWf {temp : BitVec 8} {s : State} (hs : s.MemWf) : NextWf (execThermalThrottle temp s) := by
  simp [execThermalThrottle, hs]

@[simp] theorem execThermalHold_nextWf {temp : BitVec 8} {s : State} (hs : s.MemWf) : NextWf (execThermalHold temp s) := by simp [execThermalHold, hs]

@[simp] theorem execThermalHoldRelease_nextWf {temp : BitVec 8} {s : State} (hs : s.MemWf) : NextWf (execThermalHoldRelease temp s) := by
  simp [execThermalHoldRelease, hs]

@[simp] theorem execThermalTrip_nextWf {temp : BitVec 8} {s : State} (hs : s.MemWf) : NextWf (execThermalTrip temp s) := by simp [execThermalTrip, hs]

@[simp] theorem State.bosunPut_mem (s : State) (off : Nat) (v : Word) : (s.bosunPut off v).mem = s.mem := by simp [State.bosunPut]

@[simp] theorem execAttest_nextWf {c : HCmd} {s : State} (hs : s.MemWf) : NextWf (execAttest c s) := by
  refine nextWf_next.2 (State.hostCmd_memWf (fun u hu => ?_) hs)
  dsimp only
  have hl : ∀ {ctx : Nat} {x : Ctx} {va : Nat → Word} {bs : Nat → List Byte} {l : List Nat} {v : State}, v.MemWf →
      (l.foldl (fun (s : State) i => s.cpBytes ctx x (va i) (bs i)) v).MemWf := foldl_memWf fun _ _ hv => State.cpBytes_memWf hv
  repeat' split
  all_goals simp [hu]
  exact hl (by simpa using hu)

end Sys2Proof.Machine
end

section
/-! ## Host: the host's commands, registers and memory requests -/

namespace Sys2Proof.Machine

open Sys2Proof

@[simp] theorem nextOr_memWf {s : State} {o : Host.Outcome State Fault Refusal} (hs : s.MemWf) (ho : NextWf o) : (nextOr s o).MemWf := by
  cases o with
  | next t => exact ho t rfl
  | fault _ => exact hs
  | refused _ => exact hs

@[simp] theorem execCtxreg_nextWf {c : HCmd} {s : State} (hs : s.MemWf) : NextWf (execCtxreg c s) := by
  refine nextWf_next.2 (State.hostCmd_memWf (fun u hu => ?_) hs)
  dsimp only
  repeat' split
  all_goals simp [hu]

@[simp] theorem execQreg_nextWf {c : HCmd} {s : State} (hs : s.MemWf) : NextWf (execQreg c s) := by
  refine nextWf_next.2 (State.hostCmd_memWf (fun u hu => ?_) hs)
  dsimp only
  repeat' split
  all_goals exact hu

@[simp] theorem execQrestart_nextWf {c : HCmd} {s : State} (hs : s.MemWf) : NextWf (execQrestart c s) := by
  refine nextWf_next.2 (State.hostCmd_memWf (fun u hu => ?_) hs)
  dsimp only
  repeat' split
  all_goals simp [hu]

@[simp] theorem execFtag_nextWf {c : HCmd} {s : State} (hs : s.MemWf) : NextWf (execFtag c s) := by
  refine nextWf_next.2 (State.hostCmd_memWf (fun u hu => ?_) hs)
  dsimp only
  split
  · exact hu
  · exact foldl_memWf (fun _ _ hv => by simpa using hv) hu

@[simp] theorem State.dropPosted_mem (s : State) (d : Nat) : (s.dropPosted d).mem = s.mem := foldl_mem (fun _ _ => by dsimp only; split <;> simp) _ _

@[simp] theorem State.dropElements_mem (s : State) (dev : Nat) : (s.dropElements dev).mem = s.mem := foldl_mem (fun _ _ => State.wakeQld_mem ..) _ _

@[simp] theorem State.dropEngines_memWf {s : State} {dev : Nat} (hs : s.MemWf) : (s.dropEngines dev).MemWf := by
  unfold State.dropEngines
  dsimp only
  refine foldl_memWf (fun _ _ hu => ?_) (foldl_memWf (fun _ _ hu => by simpa using hu) hs)
  split
  · exact State.checkCopy_memWf hu
  · exact hu

@[simp] theorem State.leave_memWf {s : State} {dev : Nat} (hs : s.MemWf) : (s.leave dev).MemWf := by
  simp [State.leave, hs]

@[simp] theorem execMember_nextWf {c : HCmd} {s : State} (hs : s.MemWf) : NextWf (execMember c s) := by
  refine nextWf_next.2 (State.hostCmd_memWf (fun u hu => ?_) hs)
  dsimp only
  repeat' split
  all_goals simp [hu]

@[simp] theorem execMembershipTimeout_nextWf {dev : Nat} {s : State} (hs : s.MemWf) : NextWf (execMembershipTimeout dev s) := by
  simp [execMembershipTimeout, hs]

@[simp] theorem execShroudPath_nextWf {dev : Nat} {s : State} (hs : s.MemWf) : NextWf (execShroudPath dev s) := by simp [execShroudPath, hs]

@[simp] theorem execShroudPortFailure_nextWf {port : Nat} {s : State} (hs : s.MemWf) : NextWf (execShroudPortFailure port s) := by
  simp [execShroudPortFailure, hs]

@[simp] theorem execMsg_nextWf {i : Nat} {b : MsgBody} {s : State} (hs : s.MemWf) : NextWf (execMsg i b s) := by
  cases b
  case segld | tlbi | done =>
    refine nextWf_next.2 ?_
    cases SMap.get? s.msgs i <;> simp [hs]
  all_goals simp [execMsg, hs]

@[simp] theorem State.takeSlots_memWf {s : State} {d src port cls n : Nat} (hs : s.MemWf) : (s.takeSlots d src port cls n).MemWf := by
  induction n generalizing s with
  | zero => exact hs
  | succ n ih =>
    unfold State.takeSlots
    dsimp only
    repeat' split
    case h_1 | h_1 => exact hs
    case h_2.isTrue => exact ih hs
    case h_2.isFalse => exact ih (nextOr_memWf hs (execImageLanding_nextWf hs))
    case h_2 => exact ih (nextOr_memWf hs (execMsg_nextWf hs))

@[simp] theorem execRiluaganFlit_nextWf {f : Flit} {s : State} (hs : s.MemWf) : NextWf (execRiluaganFlit f s) := by simp [execRiluaganFlit, hs]

@[simp] theorem State.updRegion_mem (s : State) (k : Nat) (f : Region → Region) : (s.updRegion k f).mem = s.mem := rfl

@[simp] theorem State.putMastReg_mem (s : State) (m off : Nat) (v : Word) : (s.putMastReg m off v).mem = s.mem := by
  unfold State.putMastReg
  split <;> simp

@[simp] theorem execRegisterWrite_nextWf {off : Nat} {value : Word} {s : State} (hs : s.MemWf) : NextWf (execRegisterWrite off value s) := by
  simp [execRegisterWrite, hs]

@[simp] theorem execDrvfeatWrite_nextWf {value : Word} {s : State} (hs : s.MemWf) : NextWf (execDrvfeatWrite value s) := by
  simp [execDrvfeatWrite, hs]

@[simp] theorem execDoorbell_nextWf {value : Word} {s : State} (hs : s.MemWf) : NextWf (execDoorbell value s) := by
  refine nextWf_next.2 ?_
  repeat' split
  all_goals exact hs

@[simp] theorem State.takeCmd_memWf {s : State} {ws : List Word} (hs : s.MemWf) : (s.takeCmd ws).MemWf := by
  unfold State.takeCmd
  dsimp only
  refine nextOr_memWf hs ?_
  split
  case h_14 => exact nextWf_next.2 (State.hostCmd_memWf (fun _ hu => hu) hs)
  all_goals simp [hs]

@[simp] theorem State.putReg_memWf {s : State} {off : Nat} {v : Word} {whole : Bool} (hs : s.MemWf) : (s.putReg off v whole).MemWf := by
  fun_cases State.putReg <;> simp [hs]

@[simp] theorem State.putRegs_memWf {s : State} {off : Nat} {data : List Byte} (hs : s.MemWf) : (s.putRegs off data).MemWf := by
  unfold State.putRegs
  dsimp only
  repeat' split
  case isTrue => exact State.takeCmd_memWf hs
  case isFalse => exact foldl_memWf (fun _ _ hu => State.putReg_memWf hu) hs
  all_goals exact hs

@[simp] theorem State.hostAt_mem (s : State) (ctx : Nat) (c : Ctx) (va : Word) (acc : BitVec 2) : (s.hostAt ctx c va acc).1.mem = s.mem := by
  fun_cases State.hostAt <;> grind [State.tryXl_mem]

@[simp] theorem State.hostPut_memWf {s : State} {ctx : Nat} {c : Ctx} {done : Nat} {l : List (Word × List Byte)} (hs : s.MemWf) :
    (s.hostPut ctx c done l).1.MemWf := by
  induction l generalizing s done with
  | nil => exact hs
  | cons e l ih =>
    unfold State.hostPut
    grind [State.hostAt_mem, State.checkRead_mem, State.store_memWf]

@[simp] theorem State.hostGet_memWf {s : State} {ctx : Nat} {c : Ctx} {l : List (Word × List Byte)} (hs : s.MemWf) :
    (s.hostGet ctx c l).1.MemWf := by
  induction l generalizing s with
  | nil => exact hs
  | cons e l ih =>
    unfold State.hostGet
    grind [State.hostAt_mem, State.checkRead_mem]

@[simp] theorem State.hostAtomic_memWf {s : State} {qp ctx : Nat} {c : Ctx} {va : Word} {p : Packet} {f : Word → Word} (hs : s.MemWf) :
    (s.hostAtomic qp ctx c va p f).1.MemWf := by
  fun_cases State.hostAtomic <;> grind [State.hostAt_mem, State.checkRead_mem, State.store_memWf, State.noteAtom_mem]

@[simp] theorem State.packet_memWf {s : State} {qp : Nat} {p : Packet} (hs : s.MemWf) : (s.packet qp p).1.MemWf := by
  unfold State.packet
  cases p with
  | write _ off data => grind [State.hostPut_memWf, State.putRegs_memWf]
  | read _ off n => grind [State.hostGet_memWf]
  | cas _ off cmp swap => grind [State.hostAtomic_memWf]
  | add _ off x => grind [State.hostAtomic_memWf]

@[simp] theorem State.updQp_mem (s : State) (k : Nat) (f : Qp → Qp) : (s.updQp k f).mem = s.mem := rfl

@[simp] theorem State.answer_mem (s : State) (o : HostOut) : (s.answer o).mem = s.mem := rfl

@[simp] theorem State.serveQp_memWf {s : State} {k n : Nat} (hs : s.MemWf) : (s.serveQp k n).MemWf := by
  induction n generalizing s with
  | zero => exact hs
  | succ n ih =>
    have hp : ∀ p, (s.packet k p).1.MemWf := fun _ => State.packet_memWf hs
    unfold State.serveQp
    grind [State.updQp_mem, State.answer_mem]

@[simp] theorem State.receive_memWf {s : State} {k : Nat} {p : Packet} (hs : s.MemWf) : (s.receive k p).MemWf := by simp [State.receive, hs]

@[simp] theorem execRdmaWrite_nextWf {qp key off : Nat} {data : List Byte} {s : State} (hs : s.MemWf) : NextWf (execRdmaWrite qp key off data s) := by
  simp [execRdmaWrite, hs]

@[simp] theorem execRdmaRead_nextWf {qp key off len : Nat} {s : State} (hs : s.MemWf) : NextWf (execRdmaRead qp key off len s) := by
  simp [execRdmaRead, hs]

@[simp] theorem execCompareAndSwap_nextWf {qp key off : Nat} {cmp swap : Word} {s : State} (hs : s.MemWf) :
    NextWf (execCompareAndSwap qp key off cmp swap s) := by simp [execCompareAndSwap, hs]

@[simp] theorem execFetchAndAdd_nextWf {qp key off : Nat} {add : Word} {s : State} (hs : s.MemWf) : NextWf (execFetchAndAdd qp key off add s) := by
  simp [execFetchAndAdd, hs]

@[simp] theorem execInvalidRequest_nextWf {qp : Nat} {s : State} (hs : s.MemWf) : NextWf (execInvalidRequest qp s) := by simp [execInvalidRequest, hs]

@[simp] theorem execCnp_nextWf {qp : Nat} {s : State} (hs : s.MemWf) : NextWf (execCnp qp s) := by simp [execCnp, hs]

@[simp] theorem execEcnCe_nextWf {qp : Nat} {s : State} (hs : s.MemWf) : NextWf (execEcnCe qp s) := by simp [execEcnCe, hs]

@[simp] theorem execQpAbandoned_nextWf {qp : Nat} {s : State} (hs : s.MemWf) : NextWf (execQpAbandoned qp s) := by simp [execQpAbandoned, hs]

@[simp] theorem execEventWrite_nextWf {s : State} (hs : s.MemWf) : NextWf (execEventWrite s) := by
  unfold execEventWrite
  split <;> simp [hs]

end Sys2Proof.Machine
end

section
/-! ## Dispatch: one instruction -/

namespace Sys2Proof.Machine

open Sys2Proof

/-- The words of one family share their lemma; every other constructor has one of its own. -/
@[simp] theorem exec_nextWf {i : Instr} {s : State} (hs : s.MemWf) : NextWf (exec i s) := by
  unfold exec
  cases i
  all_goals dsimp only
  case iadd | isub | imul | imad | imulh | idiv | irem | imin | imax | iabs | ineg | and | or | xor | not | andn | shl | shr | sar | cshf |
      popc | clz | ctz | brev | bfe | bfi | prmt | sel | mov =>
    exact intF_nextWf hs
  case iaddI | isubI | imulI | imulhI | idivI | iremI | iminI | imaxI | andI | orI | xorI | andnI | shlI | shrI | sarI | prmtI =>
    exact intI_nextWf hs
  case fadd | fsub | fmul | ffma | fmin | fmax | fabs | fneg | fsgn | fcmp | fclass | frnd | frcp | frsq | fsqrt | fexp2 | flog2 | fsin |
      fcos | dadd | dsub | dmul | dfma | dmin | dmax | dabs | dneg | dcmp | dclass | drnd =>
    exact floatF_nextWf hs
  case faddI | fsubI | fmulI | fminI | fmaxI | fcmpI | daddI | dsubI | dmulI | dminI | dmaxI | dcmpI =>
    exact floatI_nextWf hs
  case ldg | ldl | lds =>
    exact loadWord_nextWf hs
  case stg | stl | sts =>
    exact storeWord_nextWf hs
  case barc | gbara =>
    exact arriveWord_nextWf hs
  case barw | gbarw =>
    exact phaseWord_nextWf hs
  case qpush | qpop =>
    exact queueWord_nextWf hs
  case qtryPush | qtryPop =>
    exact tryWord_nextWf hs
  case movsRead | movspRead =>
    exact readSpecial_nextWf hs
  case movsWrite | movspWrite =>
    exact writeSpecialWord_nextWf hs
  case imageAdmission => exact execImageAdmission_nextWf hs
  case crewPlacement => exact execCrewPlacement_nextWf hs
  all_goals simp [hs]

end Sys2Proof.Machine
end

section
/-! ## Time: what may happen on its own -/

namespace Sys2Proof.Machine

open Sys2Proof

@[simp] theorem State.refTick_memWf {s : State} {m : Nat} (hs : s.MemWf) : (s.refTick m).MemWf := by
  unfold State.refTick
  dsimp only
  exact foldl_memWf (fun _ _ hu => nextOr_memWf hu (execGatheringExpiry_nextWf hu)) hs

@[simp] theorem State.deckTick_memWf {s : State} (hs : s.MemWf) : s.deckTick.MemWf := by
  unfold State.deckTick
  extract_lets sh away s1 stalls aged s2 s3
  have h1 : s1.MemWf := hs
  have h2 : s2.MemWf := foldl_memWf (fun _ _ hu => nextOr_memWf hu (execPdlExpiry_nextWf hu)) h1
  have h3 : s3.MemWf := foldl_memWf (fun _ _ hu => nextOr_memWf hu (execMembershipTimeout_nextWf hu)) h2
  clear_value s3
  exact h3

@[simp] theorem State.noteShared_mem (s t : State) (sid : Nat) (pc : Word) (set : Mask) : (s.noteShared t sid pc set).mem = t.mem := by
  fun_cases State.noteShared <;> simp

@[simp] theorem State.portTaken_mem (s t : State) (sid : Nat) (set : Mask) (w : Word) : (s.portTaken t sid set w).mem = t.mem := by
  fun_cases State.portTaken <;> simp

@[simp] theorem State.stnCycle_mem (s : State) (m : Nat) : (s.stnCycle m).mem = s.mem := by
  unfold State.stnCycle
  dsimp only
  rw [foldl_mem (fun _ _ => State.updStn_mem ..)]

@[simp] theorem State.stnTick_mem (s : State) (m : Nat) : (s.stnTick m).mem = s.mem := by
  unfold State.stnTick
  split <;> simp

@[simp] theorem State.syncSlots_mem (s : State) : s.syncSlots.mem = s.mem := foldl_mem (fun _ _ => by simp) _ _

theorem happen_keeps {f : State → Host.Outcome State Fault Refusal} (hf : ∀ s : State, s.MemWf → NextWf (f s)) : Keeps (happen f) :=
  fun s hs => nextOr_memWf hs (hf s hs)

theorem keepAll_happen {f : State → Host.Outcome State Fault Refusal} (hf : ∀ s : State, s.MemWf → NextWf (f s)) : KeepAll [happen f] :=
  keepAll_singleton.2 (happen_keeps hf)

theorem State.bootTrials_keep {s : State} : KeepAll s.bootTrials := by
  have ht : ∀ {m k}, KeepAll [happen (execTierReady m k)] := keepAll_happen fun _ hu => execTierReady_nextWf hu
  refine keepAll_append.2 ⟨?_, keepAll_flatMap fun m => ?_⟩
  · split
    · exact keepAll_happen fun _ hu => execPowerOn_nextWf hu
    · exact keepAll_nil
  · dsimp only
    repeat' split
    case isFalse => exact keepAll_nil
    all_goals exact ht

@[simp] theorem State.lookAgain_memWf {s : State} {wid : Nat} (hs : s.MemWf) : (s.lookAgain wid).MemWf := by
  unfold State.lookAgain
  split
  · exact hs
  split
  · exact State.judgeFence_memWf hs
  · cases SMap.get? s.subs _ <;> simp [hs]
  all_goals simp [hs]

theorem waitTrials_keep {i : Nat} {k : WaitKind} : KeepAll (waitTrials i k) := by
  have hl : KeepAll [fun s => s.lookAgain i] := keepAll_singleton.2 fun _ hu => State.lookAgain_memWf hu
  unfold waitTrials
  split
  case h_1 => exact keepAll_happen fun _ hu => execInstructionFetch_nextWf hu
  case h_2 => exact keepAll_happen fun _ hu => execLdwWake_nextWf hu
  case h_3 | h_4 => exact keepAll_happen fun _ hu => execQueueRetry_nextWf hu
  case h_5 => exact keepAll_happen fun _ hu => execSliceAccept_nextWf hu
  case h_6 => exact keepAll_happen fun _ hu => execCapstanAccept_nextWf hu
  case h_7 => exact keepAll_happen fun _ hu => execCapwWake_nextWf hu
  case h_8 | h_9 | h_10 | h_11 | h_12 => exact hl
  all_goals exact keepAll_nil

/-- One list of what may happen per kind of thing that waits. -/
theorem State.trials_keep {s : State} : KeepAll s.trials := by
  unfold State.trials
  extract_lets qps outs msgs waits streams images masts calls copies cmds places admits ends saves repairs ckpts
  have hqps : KeepAll qps := keepAll_flatMap fun _ => by
    split
    · exact keepAll_nil
    · exact keepAll_singleton.2 fun _ hu => State.serveQp_memWf hu
  have houts : KeepAll outs := keepAll_flatMap fun _ => keepAll_map fun _ => happen_keeps fun _ hu => execVariableLatencyWrite_nextWf hu
  have hmsgs : KeepAll msgs := keepAll_map fun _ => happen_keeps fun _ hu => execMsg_nextWf hu
  have hwaits : KeepAll waits := keepAll_flatMap fun _ => waitTrials_keep
  have hstreams : KeepAll streams := keepAll_flatMap fun _ => keepAll_flatMap fun _ => keepAll_cons.2
    ⟨happen_keeps fun _ hu => execStreamElementArrival_nextWf hu, keepAll_happen fun _ hu => execStreamFetch_nextWf hu⟩
  have himages : KeepAll images := keepAll_map fun e => by
    split
    · exact happen_keeps fun _ hu => execContinuationDeparture_nextWf hu
    · exact happen_keeps fun _ hu => execImageLanding_nextWf hu
    · exact happen_keeps fun _ hu => execImageLanding_nextWf hu
    · exact happen_keeps fun _ hu => execImageAdmission_nextWf hu
  have hmasts : KeepAll masts := keepAll_flatMap fun m => by
    simp only [keepAll_cons]
    exact ⟨happen_keeps fun _ hu => execHoldTransfer_nextWf hu, happen_keeps fun _ hu => execWalkEnd_nextWf hu,
      happen_keeps fun _ hu => execWalkStart_nextWf hu, happen_keeps fun _ hu => execCapstanReduction_nextWf hu, keepAll_nil⟩
  have hcalls : KeepAll calls := keepAll_flatMap fun _ => keepAll_cons.2
    ⟨happen_keeps fun _ hu => execJibCall_nextWf hu, keepAll_happen fun _ hu => execJibReply_nextWf hu⟩
  have hcopies : KeepAll copies := keepAll_ite keepAll_nil
    (keepAll_flatMap fun _ => keepAll_map fun _ => happen_keeps fun _ hu => execTackleTransfer_nextWf hu)
  have hcmds : KeepAll cmds := keepAll_flatMap fun _ => by
    simp only [keepAll_cons]
    exact ⟨happen_keeps fun _ hu => execCmdNop_nextWf hu, happen_keeps fun _ hu => execSignal_nextWf hu,
      happen_keeps fun _ hu => execWait_nextWf hu, happen_keeps fun _ hu => execLaunch_nextWf hu,
      happen_keeps fun _ hu => execWaitReread_nextWf hu, keepAll_nil⟩
  have hplaces : KeepAll places := keepAll_flatMap fun _ => keepAll_map fun _ => happen_keeps fun _ hu => execCrewPlacement_nextWf hu
  have hadmits : KeepAll admits := keepAll_ite keepAll_nil (keepAll_cons.2
    ⟨happen_keeps fun _ hu => execGangStart_nextWf hu, keepAll_happen fun _ hu => execCrewAdmission_nextWf hu⟩)
  have hends : KeepAll ends := keepAll_map fun _ => happen_keeps fun _ hu => execLaunchComplete_nextWf hu
  have hsaves : KeepAll saves := keepAll_flatMap fun _ => by
    split
    · exact keepAll_happen fun _ hu => execPreemptComplete_nextWf hu
    · exact keepAll_happen fun _ hu => execRestoreComplete_nextWf hu
    all_goals exact keepAll_nil
  have hrepairs : KeepAll repairs := keepAll_flatMap fun _ => keepAll_ite
    (keepAll_happen fun _ hu => execRepairComplete_nextWf hu) keepAll_nil
  have hckpts : KeepAll ckpts := keepAll_ite (keepAll_happen fun _ hu => execCkptImageWrite_nextWf hu) keepAll_nil
  have hevents : KeepAll [happen execEventWrite] := keepAll_happen fun _ hu => execEventWrite_nextWf hu
  clear_value qps outs msgs waits streams images masts calls copies cmds places admits ends saves repairs ckpts
  simp only [keepAll_append, State.bootTrials_keep, and_self, *]

@[simp] theorem State.tickOwn_memWf {s : State} (hs : s.MemWf) : s.tickOwn.MemWf := by
  refine State.deckTick_memWf (foldl_memWf (fun _ _ hu => ?_) hs)
  exact State.refTick_memWf (by simpa using hu)

@[simp] theorem State.tickAll_memWf {s : State} (hs : s.MemWf) : s.tickAll.MemWf :=
  foldl_memWf (fun _ _ hu => State.on_memWf (fun _ hv => State.tickOwn_memWf hv) hu) hs

@[simp] theorem State.setClock_mem (s : State) (sid : Nat) (clk : Word) : (s.setClock sid clk).mem = s.mem := rfl

theorem State.forcedExpiries_memWf {s : State} (hs : s.MemWf) : ∀ e ∈ s.forcedExpiries, e.2.MemWf := by
  intro e he
  obtain ⟨w, -, he⟩ := List.mem_filterMap.1 he
  obtain ⟨sg, -, he⟩ := Option.bind_eq_some_iff.1 he
  dsimp only at he
  split at he
  · obtain ⟨i, -, rfl⟩ := Option.map_eq_some_iff.1 he
    simpa using hs
  · cases he

@[simp] theorem State.keepClocks_mem (t s : State) (sid : Nat) : (t.keepClocks s sid).mem = t.mem := rfl

theorem State.clockChoices_memWf {s : State} {sid : Nat} (hs : s.MemWf) : ∀ u ∈ s.clockChoices sid, u.MemWf := by
  unfold State.clockChoices
  split
  · simp [hs]
  · simp [hs]

end Sys2Proof.Machine
end

section
/-! ## Step: one step -/

namespace Sys2Proof.Machine

open Sys2Proof

@[simp] theorem issueTurn_nextWf {s : State} {sid lane : Nat} {quads : Option Nat} (hs : s.MemWf) : NextWf (issueTurn s sid lane quads) := by
  unfold issueTurn
  split
  · simpa using hs
  split
  · simp [hs]
  dsimp only
  split
  · split
    next t ht => simpa using exec_nextWf (by simpa using hs) t ht
    next => exact exec_nextWf (by simpa using hs)
  · simpa using hs

theorem outcomeOn_nextWf {s : State} {d : Nat} {f : State → Host.Outcome State Fault Refusal} (hf : ∀ s : State, s.MemWf → NextWf (f s)) (hs : s.MemWf) :
    NextWf (outcomeOn s d f) := by
  unfold outcomeOn
  split
  · exact hf s hs
  · have ho := hf (s.enter d) (by simpa using hs)
    split
    next t heq => simpa using ho t heq
    next => exact ho

@[simp] theorem eventOn_nextWf {s : State} {d : Nat} {i : Instr} (hs : s.MemWf) : NextWf (eventOn s d i) := by
  unfold eventOn
  split
  · exact nextWf_next.2 hs
  · exact outcomeOn_nextWf (fun _ hu => exec_nextWf (by simpa using hu)) hs

@[simp] theorem State.attach_mem (s : State) : s.attach.mem = s.mem := rfl

theorem runTurn_nextWf {s : State} {turn : Turn} (hs : s.MemWf) : NextWf (runTurn s turn) := by
  unfold runTurn
  split
  case h_1 | h_2 => exact outcomeOn_nextWf (fun _ hu => issueTurn_nextWf hu) hs
  case h_3 | h_4 => exact eventOn_nextWf hs
  case h_5 => exact nextWf_next.2 (State.on_memWf (fun _ hu => State.lookAgain_memWf hu) hs)
  case h_6 =>
    split
    · exact outcomeOn_nextWf (fun _ hu => execMsg_nextWf hu) hs
    · exact nextWf_next.2 hs
  case h_7 =>
    rw [nextWf_next]
    split
    · exact State.on_memWf (fun _ hu => State.refTick_memWf hu) hs
    · exact hs
  case h_8 =>
    rw [nextWf_next]
    split
    · exact State.on_memWf (fun _ hu => by simpa using hu) hs
    · exact hs
  case h_9 => exact nextWf_next.2 (State.deckTick_memWf hs)
  case h_10 => exact nextWf_next.2 (by simpa using hs)
  case h_11 => exact nextWf_next.2 hs

theorem State.drainAll_memWf {s : State} (hs : s.MemWf) : ∀ t ∈ s.drainAll, t.MemWf := by
  refine foldl_bind_memWf (o := some s) (f := fun s d => (s.enter d).drain.map (fun t => t.enter s.dev)) (fun d u hu t ht => ?_)
    (fun _ h => Option.some.inj h ▸ hs)
  obtain ⟨v, hv, rfl⟩ := Option.map_eq_some_iff.1 ht
  simpa using State.drain_memWf (by simpa using hu) v hv

theorem settleTurn_memWf {s t : State} (ht : t.MemWf) : ∀ u ∈ settleTurn s t, u.MemWf :=
  State.drainAll_memWf (by simp [ht])

/-- The first trial that settles in another state is taken: all of them must keep the form. -/
theorem firstChange_memWf {s : State} (hs : s.MemWf) {fs : List (State → State)} (hf : KeepAll fs) : (firstChange s fs).MemWf := by
  induction fs with
  | nil => exact hs
  | cons f fs ih =>
    obtain ⟨hf, hfs⟩ := keepAll_cons.1 hf
    unfold firstChange
    split
    next t ht =>
      split
      · exact ih hfs
      · exact settleTurn_memWf (hf s hs) t ht
    · exact ih hfs

theorem issueTrials_keep {s : State} (hs : s.MemWf) : KeepAll (issueTrials s) := by
  intro f hf
  obtain ⟨p, -, hf⟩ := List.mem_flatMap.1 hf
  split at hf
  · obtain ⟨u, hu, rfl⟩ := List.mem_map.1 hf
    intro v _
    simpa using nextOr_memWf hs (issueTurn_nextWf (State.clockChoices_memWf hs u hu))
  · obtain rfl := List.mem_singleton.1 hf
    exact fun v hv => nextOr_memWf hv (issueTurn_nextWf hv)

theorem ownTrials_keep {s : State} (hs : s.MemWf) : KeepAll (ownTrials s) := by
  refine keepAll_append.2 ⟨keepAll_append.2 ⟨fun f hf => ?_, State.trials_keep⟩, issueTrials_keep hs⟩
  obtain ⟨e, he, rfl⟩ := List.mem_map.1 hf
  exact fun u hu => nextOr_memWf hu (exec_nextWf (State.forcedExpiries_memWf hs e he))

theorem idleTurn_memWf {s : State} (hs : s.MemWf) : (idleTurn s).MemWf := by
  refine firstChange_memWf hs (keepAll_append.2 ⟨keepAll_flatMap fun d f hf => ?_, keepAll_singleton.2 fun _ hu => State.tickAll_memWf hu⟩)
  obtain ⟨g, hg, rfl⟩ := List.mem_map.1 hf
  exact fun u hu => State.on_memWf (ownTrials_keep (by simpa using hs) g hg) hu

/-- A step runs the next turn and settles, or looks for a change when the agenda is empty; each keeps memory canonical. -/
theorem step_nextWf {s : State} (hs : s.MemWf) : NextWf (step s) := by
  unfold step
  split
  · exact nextWf_next.2 (idleTurn_memWf hs)
  next turn rest _ =>
    have h0 : ({ s with agenda := rest } : State).MemWf := hs
    dsimp only
    split
    next t ht => exact nextWf_next.2 (getD_memWf (settleTurn_memWf (runTurn_nextWf h0 t ht)) h0)
    next => exact runTurn_nextWf h0

end Sys2Proof.Machine
end

section
/-! ## The obligations -/

namespace Sys2Proof

open Machine Safety

/-- Settles O45: after reset no byte is listed. -/
theorem resetInv : Obligations.ResetInv := rfl

/-- Settles O46, by `step_nextWf`: whatever the agenda's next turn or, with an empty agenda, the next change is, it keeps the form of memory. -/
theorem stepKeepsMemory : Obligations.StepKeepsMemory := by
  intro s t hs ht
  exact step_nextWf hs t ht

end Sys2Proof
end

section
/-! # Steps, words that are skipped or held, and placement (O41, O42, O56)

## Steps: what a turn answers -/

namespace Sys2Proof.Machine

open Sys2Proof Sys2Proof.Safety

/-- What an action answers on a device is its answer there, with the device in place put back. -/
theorem outcomeOn_next {s t : State} {d : Nat} {f : State → Host.Outcome State Fault Refusal} (h : f (entered s d) = .next t) :
    outcomeOn s d f = .next (returned s d t) := by
  unfold entered at h
  unfold outcomeOn returned
  split
  next hd => rwa [if_pos hd] at h
  next hd => rw [if_neg hd] at h; rw [h]

/-- A happening has its effect on its device; a program word that is named as one has none. -/
theorem eventOn_next {s t : State} {d : Nat} {i : Instr} (h : exec i { entered s d with issuing := none } = .next t) :
    eventOn s d i = .next (if (encode i).isSome then s else returned s d t) := by
  unfold eventOn
  split
  · rfl
  · exact outcomeOn_next h

/-- The turn of an issue set whose word and next word are in the station's store and whose port picks it. -/
theorem issueTurn_next {s t : State} {sid lane : Nat} {quads : Option Nat} {sg : SubGroup} {g : Group} {set : Mask} {pc w : Word} {next : Option Word}
    (hset : s.issueSet sid lane = some (sg, g, set, pc)) (hfetch : s.fetchWords sg g pc = .words w next) (hpick : s.isPicked sid lane = true)
    (hexec : exec (decode w next) { s with
      issuing := some { sid := sid, lanes := set, pc := pc, iword := w, xword := ((takenX w next).map xToWord).getD 0, quads := quads } } = .next t) :
    issueTurn s sid lane quads = .next (s.noteShared (s.portTaken t sid set w) sid pc set) := by
  simp only [issueTurn, hset, hfetch, hpick, if_true, hexec]

/-- A step takes the turn that is next and settles what it leaves. -/
theorem step_of_runTurn {s t : State} {turn : Turn} {rest : List Turn} (ha : s.agenda = turn :: rest)
    (ht : runTurn { s with agenda := rest } turn = .next t) :
    step s = .next ((settleTurn { s with agenda := rest } t).getD { s with agenda := rest }) := by
  simp only [step, ha, ht]

end Sys2Proof.Machine
end

section
/-! ## Words that are skipped or held: the wait on the scoreboard -/

namespace Sys2Proof.Machine

open Sys2Proof Sys2Proof.Safety

@[simp] theorem State.countWait_subs (s : State) (sid : Nat) (lanes : Mask) : (s.countWait sid lanes).subs = s.subs := by
  unfold State.countWait
  split <;> rfl

@[simp] theorem State.countWait_nextId (s : State) (sid : Nat) (lanes : Mask) : (s.countWait sid lanes).nextId = s.nextId := by
  unfold State.countWait
  split <;> rfl

theorem State.beginWait_subs (s : State) (w : Wait) : (s.beginWait w).subs = SMap.upd s.subs w.sid (fun sg => sg.setSt w.lanes .waiting) := by
  simp [State.beginWait]

/-- A wait takes the next identifier. -/
theorem State.beginWait_get? (s : State) (w : Wait) : SMap.get? (s.beginWait w).waits s.nextId = some w := by
  simp [State.beginWait]

theorem SubGroup.setSt_reg (sg : SubGroup) (m : Mask) (st : LaneSt) (x : Reg) : (sg.setSt m st).reg x = sg.reg x := by
  cases x <;> rfl

theorem SubGroup.setSt_get? (sg : SubGroup) (m : Mask) (st : LaneSt) (l : Nat) :
    SMap.get? (sg.setSt m st).lanes l = (SMap.get? sg.lanes l).map (fun y => if m.getLsbD l then { y with st := st } else y) := by
  rw [← SMap.get?_map sg.lanes (fun l y => if m.getLsbD l then { y with st := st } else y)]
  congr 1
  exact List.map_congr_left fun e _ => by split <;> simp [*]

/-- Where the whole issue set waits, nothing stands by. -/
theorem Run.waitFor_set (r : Run) (s : State) (k : WaitKind) (dk : Option Word) (bound : Option Nat) (st : Operand) :
    r.waitFor s r.set k dk bound st = s.beginWait (r.waitRec r.set k dk bound st) := by
  simp [Run.waitFor]

/-- An issue set that waits: its lanes are waiting, its registers and all of memory are unchanged, and its wait is recorded. -/
theorem Run.waitFor_set_spec {s : State} {r : Run} (hsub : SMap.get? s.subs r.sid = some r.sg) (k : WaitKind) (dk : Option Word) (bound : Option Nat)
    (st : Operand) :
    ∃ u, SMap.get? (r.waitFor s r.set k dk bound st).subs r.sid = some u ∧ Stopped { r with act := r.set } u .waiting ∧
      (∀ y, u.reg y = r.sg.reg y) ∧ (r.waitFor s r.set k dk bound st).mem = s.mem ∧
      SMap.get? (r.waitFor s r.set k dk bound st).waits s.nextId = some (r.waitRec r.set k dk bound st) := by
  rw [Run.waitFor_set]
  refine ⟨r.sg.setSt r.set .waiting, ?_, r.sg.setSt_get? r.set .waiting, r.sg.setSt_reg r.set .waiting, s.beginWait_mem _, s.beginWait_get? _⟩
  rw [State.beginWait_subs]
  exact (congrArg (SMap.get? · r.sid) (SMap.upd_some _ _ _ _ hsub)).trans (SMap.get?_put_same ..)

/-- The wait of an issue set on the scoreboard. -/
def Run.boardWait (r : Run) (s : State) (ids : List Nat) : State := r.waitFor s r.set (.scoreboard ids) none (some r.sg.bound) .zero

/-- A word whose guard is outstanding waits for it. -/
theorem issueWord_guardHeld {s : State} {h : Hd} {g : Sig} {r : Run} {info : Run → Nat → Word} {body : Body} (hr : run s h = some r)
    (hback : r.set &&& r.sg.laneMask (fun l => l.refuse.isSome) = 0)
    (hloose : g.join = true ∨ r.set &&& r.sg.laneMask (fun l => l.rel.isSome) = 0) (hheld : s.heldBy r (guardRegs h r) [] ≠ []) :
    issueWord s h.gneg h.guard h.stall h.len g info body = .next { r.boardWait s (s.heldBy r (guardRegs h r) []) with issuing := none } := by
  have hloose' : ¬ ((decide (r.set &&& r.sg.laneMask (fun l => l.rel.isSome) ≠ 0) && !g.join) = true) := by
    rcases hloose with hl | hl <;> simp [hl]
  rw [issueWord_run hr]
  dsimp only
  rw [if_neg (not_not.2 hback), if_neg hloose', if_pos hheld, Run.boardWait]

/-- A word that passes its checks and is held by an outstanding result waits for it. -/
theorem issueWord_operandHeld {s : State} {h : Hd} {g : Sig} {r : Run} {info : Run → Nat → Word} {body : Body} (hr : run s h = some r)
    (hc : reaches s h g r = true) (ha : r.act ≠ 0) (hj : g.judge r.sg r.g = none) (hheld : s.heldBy r (readRegs g r) (writeRegs g r) ≠ []) :
    issueWord s h.gneg h.guard h.stall h.len g info body =
      .next { r.boardWait s (s.heldBy r (readRegs g r) (writeRegs g r)) with issuing := none } := by
  rw [issueWord_reached hr hc, if_neg ha, hj]
  dsimp only
  rw [if_pos hheld, Run.boardWait]

/-- The two ways in which outstanding results hold a word end in one wait. -/
theorem exec_held {s : State} {i : Instr} {h : Hd} {g : Sig} {r : Run} {ids : List Nat} (hf : form s i = some (h, g)) (hr : run s h = some r)
    (hback : r.set &&& r.sg.laneMask (fun l => l.refuse.isSome) = 0)
    (hloose : g.join = true ∨ r.set &&& r.sg.laneMask (fun l => l.rel.isSome) = 0)
    (hheld : (ids ≠ [] ∧ ids = s.heldBy r (guardRegs h r) []) ∨
      (ids ≠ [] ∧ ids = s.heldBy r (readRegs g r) (writeRegs g r) ∧ s.heldBy r (guardRegs h r) [] = [] ∧ r.act ≠ 0 ∧ g.judge r.sg r.g = none)) :
    exec i s = .next { r.boardWait s ids with issuing := none } := by
  obtain ⟨info, body, he⟩ := exec_form hf
  rw [he]
  rcases hheld with ⟨hne, rfl⟩ | ⟨hne, rfl, hguard, hact, hjudge⟩
  · exact issueWord_guardHeld hr hback hloose hne
  · exact issueWord_operandHeld hr (reaches_iff.2 ⟨hback, hloose, hguard⟩) hact hjudge hne

/-- A word with no active lane is retired. -/
theorem exec_idle {s : State} {i : Instr} {h : Hd} {g : Sig} {r : Run} (hf : form s i = some (h, g)) (hr : run s h = some r)
    (hc : reaches s h g r = true) (ha : r.act = 0) : exec i s = .next { r.done s with issuing := none } := by
  obtain ⟨info, body, he⟩ := exec_form hf
  rw [he, issueWord_idle hr hc ha]

end Sys2Proof.Machine
end

section
/-! ## Placement: what journals, queues and reservations leave as it was -/

namespace Sys2Proof.Machine

open Sys2Proof

/-- A journal entry changes the journal only. -/
theorem State.note_eq (s : State) (u typ ctx : Nat) (w1 w2 w3 : Word) : ∃ j, s.note u typ ctx w1 w2 w3 = { s with journal := j } := by
  unfold State.note
  split
  · exact ⟨s.journal, rfl⟩
  · exact ⟨_, rfl⟩

/-- The Command Processor's writes change memory and its errors only. -/
theorem State.cpBytes_eq (s : State) (ctx : Nat) (c : Ctx) (va : Word) (bs : List Byte) :
    ∃ mem bad soft, s.cpBytes ctx c va bs = { s with mem := mem, bad := bad, soft := soft } := by
  unfold State.cpBytes
  split
  · exact ⟨_, _, _, rfl⟩
  · exact ⟨s.mem, s.bad, s.soft, rfl⟩

theorem State.syncQueue_eq (s : State) (q : Queue) : ∃ mem bad soft, s.syncQueue q = { s with mem := mem, bad := bad, soft := soft } := by
  unfold State.syncQueue
  split
  · exact ⟨s.mem, s.bad, s.soft, rfl⟩
  next c _ =>
    dsimp only
    obtain ⟨_, _, _, h1⟩ := s.cpBytes_eq q.ctx c (q.desc + 0x0C) (leBytes 4 q.head.toNat)
    rw [h1]
    generalize leBytes 8 _ = state
    generalize leBytes 8 _ = dc
    obtain ⟨_, _, _, h2⟩ := State.cpBytes_eq { s with mem := _, bad := _, soft := _ } q.ctx c (q.desc + 0x18) state
    rw [h2]
    exact State.cpBytes_eq _ q.ctx c (q.desc + 0x20) dc

/-- A change of a queue changes that queue, and memory where its descriptor lies. -/
theorem State.putQueue_eq (s : State) (k : Nat) (q : Queue) :
    ∃ mem bad soft, s.putQueue k q = { s with queues := SMap.put s.queues k q, mem := mem, bad := bad, soft := soft } :=
  State.syncQueue_eq { s with queues := SMap.put s.queues k q } q

/-- A station after a change of one. -/
theorem State.updStn_stn (s : State) (m n a b : Nat) (f : Station → Station) :
    (s.updStn m n f).stn a b = if m * 64 + n = a * 64 + b then f (s.stn a b) else s.stn a b := by
  unfold State.stn
  rw [State.updStn_stns, SMap.get?_put]
  split
  next h => simp [State.stn, h]
  next => rfl

/-- Only reservations of stations have changed: every station holds the crew that it held. -/
def OnlyReserves (s t : State) : Prop := ∃ stns, t = { s with stns := stns } ∧ ∀ m k, (t.stn m k).crew = (s.stn m k).crew

theorem OnlyReserves.refl (s : State) : OnlyReserves s s := ⟨s.stns, rfl, fun _ _ => rfl⟩

theorem OnlyReserves.trans {s t u : State} (h : OnlyReserves s t) (h' : OnlyReserves t u) : OnlyReserves s u := by
  obtain ⟨x, rfl, hx⟩ := h
  obtain ⟨y, rfl, hy⟩ := h'
  exact ⟨y, rfl, fun m k => (hy m k).trans (hx m k)⟩

theorem OnlyReserves.mem {s t : State} (h : OnlyReserves s t) : t.mem = s.mem := by
  obtain ⟨_, rfl, -⟩ := h
  rfl

theorem OnlyReserves.groups {s t : State} (h : OnlyReserves s t) : t.groups = s.groups := by
  obtain ⟨_, rfl, -⟩ := h
  rfl

theorem OnlyReserves.nextId {s t : State} (h : OnlyReserves s t) : t.nextId = s.nextId := by
  obtain ⟨_, rfl, -⟩ := h
  rfl

theorem OnlyReserves.crew {s t : State} (h : OnlyReserves s t) (m k : Nat) : (t.stn m k).crew = (s.stn m k).crew := by
  obtain ⟨_, -, h⟩ := h
  exact h m k

theorem onlyReserves_updStn (s : State) (m n : Nat) (resv : Option (Nat × Nat × Nat)) :
    OnlyReserves s (s.updStn m n (fun st => { st with resv := resv })) := by
  refine ⟨_, rfl, fun a b => ?_⟩
  rw [State.updStn_stn]
  split <;> rfl

theorem State.reserve_onlyReserves (s : State) (lid cix : Nat) (l : Launch) (m : Nat) (win : Option Nat) : OnlyReserves s (s.reserve lid cix l m win) := by
  unfold State.reserve
  split
  · exact .refl s
  · dsimp only
    split
    · exact onlyReserves_updStn s ..
    · exact .refl s

theorem State.reserveFor_onlyReserves (s : State) (m : Nat) (e : Nat × Nat) : OnlyReserves s (s.reserveFor m e) := by
  unfold State.reserveFor
  split
  · exact .refl s
  · split
    · exact .refl s
    · split
      · split
        · exact s.reserve_onlyReserves ..
        · exact .refl s
      · exact .refl s

theorem State.reserveHeads_onlyReserves (s : State) (m : Nat) : OnlyReserves s (s.reserveHeads m) :=
  List.foldlRecOn _ _ (OnlyReserves.refl s) fun u hu e _ => hu.trans (u.reserveFor_onlyReserves m e)

end Sys2Proof.Machine
end

section
/-! ## Placement: admission (R272, R273) -/

namespace Sys2Proof.Machine

open Sys2Proof

/-- The class that is served is the highest with a queue to serve. -/
theorem findSome_class {s : State} {cls : Nat} {e : Nat × Queue × Nat × Launch} (hcls : cls < 4) (habove : ∀ c < 4, cls < c → s.nextQueue c = none)
    (he : s.nextQueue cls = some e) : [3, 2, 1, 0].findSome? (fun c => (s.nextQueue c).map (fun e => (c, e))) = some (cls, e) := by
  interval_cases cls <;> simp [he, habove]

/-- One turn of the deficit round-robin: the queue's turn, the pointer of its class, and the queue's own record. -/
theorem execCrewAdmission_serves {s : State} {cls k lid : Nat} {q : Queue} {l : Launch} (hcls : cls < 4) (hhold : s.bosun.hold = false)
    (habove : ∀ c < 4, cls < c → s.nextQueue c = none) (hnext : s.nextQueue cls = some (k, q, lid, l)) :
    let u := (s.putQueue k { q with dc := q.dc + ((q.quant * 4096 : Nat) : Int) }).turn k lid (l.crews - l.admitted)
    let v : State := { u with ptrs := RMap.set u.ptrs cls (BitVec.ofNat 32 (k + 1)) }
    execCrewAdmission s = .next v ∨ ∃ q', execCrewAdmission s = .next (v.putQueue k q') := by
  unfold execCrewAdmission
  simp only [hhold, findSome_class hcls habove hnext, Bool.false_eq_true, if_false]
  split
  · split
    · exact .inl rfl
    · exact .inr ⟨_, rfl⟩
  · exact .inl rfl

theorem crewAdmission_serves {s : State} {cls k lid : Nat} {q : Queue} {l : Launch} (hcls : cls < 4) (hhold : s.bosun.hold = false)
    (habove : ∀ c < 4, cls < c → s.nextQueue c = none) (hnext : s.nextQueue cls = some (k, q, lid, l)) :
    let u := (s.putQueue k { q with dc := q.dc + ((q.quant * 4096 : Nat) : Int) }).turn k lid (l.crews - l.admitted)
    ∃ t, exec .crewAdmission s = .next t ∧ RMap.get t.ptrs cls = BitVec.ofNat 32 (k + 1) ∧ t.launches = u.launches ∧ t.masts = u.masts ∧
      t.groups = u.groups := by
  rcases execCrewAdmission_serves hcls hhold habove hnext with h | ⟨q', h⟩
  · exact ⟨_, h, RMap.get_set_same .., rfl, rfl, rfl⟩
  · obtain ⟨_, _, _, hq⟩ := State.putQueue_eq _ k q'
    exact ⟨_, h, by rw [hq]; exact RMap.get_set_same .., by rw [hq], by rw [hq], by rw [hq]⟩

/-- A queue whose deficit is used up admits nothing. -/
theorem State.turn_spent {s : State} {k lid n : Nat} {q : Queue} (hq : SMap.get? s.queues k = some q) (hdc : q.dc ≤ 0) :
    s.turn k lid (n + 1) = s := by
  simp only [State.turn, hq, hdc, if_true]
  split <;> rfl

/-- While its deficit lasts, a queue admits a crew, at ADV. -/
theorem State.turn_admits {s : State} {k lid n : Nat} {q : Queue} {l : Launch} (hq : SMap.get? s.queues k = some q)
    (hl : s.eligible q = some (lid, l)) (hdc : 0 < q.dc) (hgang : l.gang = 0) :
    s.turn k lid (n + 1) = State.turn ((s.admitCrew lid).putQueue k { q with dc := q.dc - ((q.adv * 4096 : Nat) : Int) }) k lid n := by
  rw [State.turn]
  simp only [hq, hl, not_le.2 hdc, hgang, ne_eq, not_true_eq_false, if_false]

/-- A crew of no gang whose anchor has a home joins that mast's placement order. -/
theorem State.admitCrew_single {s : State} {lid m : Nat} {l : Launch} {c : Ctx} {win : Option Nat} (hl : SMap.get? s.launches lid = some l)
    (hgang : l.gang = 0) (hmore : l.admitted < l.crews) (hc : SMap.get? s.ctxs l.ctx = some c)
    (hat : s.anchorAt c (l.anchors.getD l.admitted 0) = some (m, win)) :
    ∃ j, s.admitCrew lid = ({ s with
      journal := j
      nextId := s.nextId + 1
      launches := SMap.put s.launches lid { l with admitted := l.admitted + 1, order := if l.order = 0 then s.nextId else l.order } }).updMast m
        (fun t => { t with order := t.order ++ [(lid, l.admitted)] }) := by
  obtain ⟨j, hj⟩ := s.note_eq deckUnit 2 l.ctx (l.headNo.setWidth 64) (BitVec.ofNat 64 l.admitted) (BitVec.allOnes 64)
  refine ⟨j, ?_⟩
  simp only [State.admitCrew, hl, not_le.2 hmore, hc, Option.bind_some, hat, hgang, hj, State.fresh, State.updLaunch, SMap.upd_some _ _ _ _ hl, if_true,
    if_false]

theorem admitCrew_spec {s : State} {lid m : Nat} {l : Launch} {c : Ctx} {win : Option Nat} (hl : SMap.get? s.launches lid = some l)
    (hgang : l.gang = 0) (hmore : l.admitted < l.crews) (hc : SMap.get? s.ctxs l.ctx = some c)
    (hat : s.anchorAt c (l.anchors.getD l.admitted 0) = some (m, win)) :
    SMap.get? (s.admitCrew lid).launches lid =
      some { l with admitted := l.admitted + 1, order := if l.order = 0 then s.nextId else l.order } ∧
    ((s.admitCrew lid).mast m).order = (s.mast m).order ++ [(lid, l.admitted)] ∧ (s.admitCrew lid).mem = s.mem ∧
    (s.admitCrew lid).groups = s.groups := by
  obtain ⟨j, hj⟩ := State.admitCrew_single hl hgang hmore hc hat
  rw [hj]
  refine ⟨SMap.get?_put_same .., ?_, rfl, rfl⟩
  rw [State.updMast_mast, if_pos rfl]
  rfl

end Sys2Proof.Machine
end

section
/-! ## Placement: a crew at its station (R41, R270, R275 to R277) -/

namespace Sys2Proof.Machine

open Sys2Proof

/-- A crew gives up its reservation, if it has one. -/
def State.unreserve (s : State) (m : Nat) (own : Option Nat) : State :=
  match own with
  | some k => s.updStn m k (fun st => { st with resv := none })
  | none => s

theorem State.unreserve_onlyReserves (s : State) (m : Nat) (own : Option Nat) : OnlyReserves s (s.unreserve m own) := by
  cases own with
  | some k => exact onlyReserves_updStn s m k none
  | none => exact .refl s

theorem State.unreserve_resv (s : State) (m k : Nat) : ((s.unreserve m (some k)).stn m k).resv = none := by
  rw [State.unreserve, State.updStn_stn, if_pos rfl]

/-- A crew whose turn it is, and that some station can take, is placed at the roomiest of them. -/
theorem exec_crewPlacement_places {s s1 : State} {m i lid cix n : Nat} {l : Launch} {c : Ctx} {win : Option Nat} (hs1 : s.reserveHeads m = s1)
    (hturn : (s1.mast m).order[i]? = some (lid, cix)) (hl : SMap.get? s1.launches lid = some l) (hc : SMap.get? s1.ctxs l.ctx = some c)
    (hrun : c.st = .running) (hhold : s1.bosun.hold = false) (hfree : s1.gangBlocks lid l = false)
    (hat : s1.anchorAt c (l.anchors.getD cix 0) = some (m, win)) (hgang : l.gang = 0)
    (hroom : s1.roomiest m ((s1.candidates l m win).filter (fun n =>
      s1.takesCrew lid cix l m n && (decide (s1.headCrew m = some (lid, cix)) || (s1.stn m n).resv.isNone))) = some n) :
    exec (.crewPlacement m i) s = .next ((s1.unreserve m (s1.reservedFor lid cix m)).placeCrew lid cix l m n) := by
  show execCrewPlacement m i s = _
  unfold execCrewPlacement
  simp only [hs1, hturn, hl, hc, hrun, hhold, hfree, hat, hgang, hroom, ne_eq, not_true_eq_false, decide_false, Bool.or_false, Bool.false_eq_true,
    if_false]
  rfl

/-- Of the entries that are kept, those read as before. -/
theorem RMap.get_keep {b : Nat} (m : RMap b) (f : Nat → Bool) (k : Nat) : RMap.get (RMap.keep m f) k = if f k then RMap.get m k else 0 := by
  rw [RMap.get, RMap.keep, SMap.get?_filter_key]
  split <;> rfl

/-- A change of owner zeroes a station's local space, and nothing else of memory (R277). -/
theorem State.giveStation_mem (s : State) (m n ctx : Nat) (h : (s.stn m n).tag ≠ BitVec.ofNat 16 ctx) (a : Nat) :
    RMap.get (n := 8) (s.giveStation m n ctx).mem a =
      if localCell m n 0 ≤ a ∧ a < localCell m n 0 + 0x140000 then 0 else RMap.get (n := 8) s.mem a := by
  unfold State.giveStation
  rw [if_neg h]
  refine (RMap.get_keep s.mem (fun c => !(decide (localCell m n 0 ≤ c) && decide (c < localCell m n 0 + 0x140000))) a).trans ?_
  by_cases ha : localCell m n 0 ≤ a ∧ a < localCell m n 0 + 0x140000
  · simp [ha]
  · rw [if_neg ha, if_pos (by simp; omega)]

theorem State.giveStation_same {s : State} {m n ctx : Nat} (h : (s.stn m n).tag = BitVec.ofNat 16 ctx) : s.giveStation m n ctx = s := if_pos h

theorem State.giveStation_tag (s : State) (m n ctx : Nat) : ((s.giveStation m n ctx).stn m n).tag = BitVec.ofNat 16 ctx := by
  unfold State.giveStation
  split
  next h => exact h
  next => rw [State.updStn_stn, if_pos rfl]

@[simp] theorem State.giveStation_nextId (s : State) (m n ctx : Nat) : (s.giveStation m n ctx).nextId = s.nextId := by
  unfold State.giveStation
  split <;> rfl

/-- The state in which a station is ready for a crew: its placement is noted, and the station's local space is the context's. -/
def State.readied (s : State) (cix : Nat) (l : Launch) (m n : Nat) : State :=
  (s.note deckUnit 2 l.ctx (l.headNo.setWidth 64) (BitVec.ofNat 64 cix) (BitVec.ofNat 64 (m % 16 * 64 + n))).giveStation m n l.ctx

theorem State.readied_eq (s : State) (cix : Nat) (l : Launch) (m n : Nat) :
    ∃ j, s.readied cix l m n = ({ s with journal := j } : State).giveStation m n l.ctx := by
  obtain ⟨j, hj⟩ := s.note_eq deckUnit 2 l.ctx (l.headNo.setWidth 64) (BitVec.ofNat 64 cix) (BitVec.ofNat 64 (m % 16 * 64 + n))
  exact ⟨j, by rw [State.readied, hj]⟩

theorem State.readied_nextId (s : State) (cix : Nat) (l : Launch) (m n : Nat) : (s.readied cix l m n).nextId = s.nextId := by
  obtain ⟨j, hj⟩ := s.readied_eq cix l m n
  simp [hj]

theorem State.readied_mem (s : State) (cix : Nat) (l : Launch) (m n : Nat) :
    if (s.stn m n).tag = BitVec.ofNat 16 l.ctx then (s.readied cix l m n).mem = s.mem
    else ∀ a, RMap.get (n := 8) (s.readied cix l m n).mem a =
      if localCell m n 0 ≤ a ∧ a < localCell m n 0 + 0x140000 then 0 else RMap.get (n := 8) s.mem a := by
  obtain ⟨j, hj⟩ := s.readied_eq cix l m n
  rw [hj]
  split
  next h => rw [State.giveStation_same (s := { s with journal := j }) h]
  next h => exact State.giveStation_mem { s with journal := j } m n l.ctx h

/-- The record of a crew as it is bound to its station (R275). -/
def Launch.newCrew (l : Launch) (lid cix m n now : Nat) : Crew :=
  { lid := lid, cix := cix, mast := m, stn := n, anchor := l.anchors.getD cix 0, lseg := l.lseg, bars := [], tags := [], pushers := [], groups := [],
    rsv := l.rsv, weight := l.weight, placedAt := now, saved := none }

/-- The state in which a crew is bound to its station and none of its groups has begun. -/
def State.seatCrew (s : State) (lid cix : Nat) (l : Launch) (m n : Nat) : State :=
  let s1 := s.readied cix l m n
  let s2 : State := { s1 with nextId := s.nextId + 1, crews := SMap.put s1.crews s.nextId (l.newCrew lid cix m n (s.stn m n).cycles) }
  let s3 := s2.updStn m n (fun st => { st with crew := some s.nextId, resv := none })
  let s4 := s3.updMast m (fun t => { t with order := t.order.filter (fun e => decide (e ≠ (lid, cix))) })
  s4.updLaunch lid (fun l => { l with placed := l.placed + 1 })

theorem State.seatCrew_stn (s : State) (lid cix : Nat) (l : Launch) (m n : Nat) :
    ((s.seatCrew lid cix l m n).stn m n).crew = some s.nextId ∧ ((s.seatCrew lid cix l m n).stn m n).tag = BitVec.ofNat 16 l.ctx := by
  have h : (s.seatCrew lid cix l m n).stn m n = { (s.readied cix l m n).stn m n with crew := some s.nextId, resv := none } := by
    simp only [State.seatCrew, State.stn, State.updLaunch_stns, State.updMast_stns, State.updStn_stns, SMap.get?_put_same, Option.getD_some]
  rw [h]
  exact ⟨rfl, State.giveStation_tag ..⟩

theorem State.seatCrew_mem (s : State) (lid cix : Nat) (l : Launch) (m n : Nat) : (s.seatCrew lid cix l m n).mem = (s.readied cix l m n).mem := by
  simp only [State.seatCrew, State.updLaunch_mem, State.updMast_mem, State.updStn_mem]

theorem State.seatCrew_crew (s : State) (lid cix : Nat) (l : Launch) (m n : Nat) :
    SMap.get? (s.seatCrew lid cix l m n).crews s.nextId = some (l.newCrew lid cix m n (s.stn m n).cycles) := SMap.get?_put_same ..

/-- The first groups of a crew begin, in order. -/
def State.beginGroups (s : State) (l : Launch) (cid cix m n : Nat) (anchor : Word) (k : Nat) : State :=
  (List.range k).foldl (fun s g => s.beginGroup l cid cix m n g anchor) s

/-- Placement binds the crew, and then begins its groups. -/
theorem State.placeCrew_eq (s : State) (lid cix : Nat) (l : Launch) (m n : Nat) :
    s.placeCrew lid cix l m n = (s.seatCrew lid cix l m n).beginGroups l s.nextId cix m n (l.anchors.getD cix 0) l.groups := by
  unfold State.placeCrew
  dsimp only [State.fresh]
  rw [show (State.giveStation _ m n l.ctx).nextId = s.nextId from s.readied_nextId cix l m n]
  rfl

/-- The sub-group of a group as it begins (R41, R270). -/
def Launch.newSub (l : Launch) (gid cix m n g now : Nat) (anchor : Word) : SubGroup :=
  SubGroup.launch gid m n l.width l.entry now [l.param, anchor] ((if l.dit then 2 else 0) + (if l.chk then 1 else 0)) l.dldef
    (BitVec.ofNat 64 (cix * l.groups + g))
    (BitVec.ofNat 64 (l.pseg.toNat / 2 ^ 21 * 2 ^ 21 + min (fieldOf l.pseg 0 21 + g * fieldOf l.pseg 32 21) 0x1FFFE0))

/-- A group takes two identifiers, its own and its sub-group's, and joins its crew. -/
theorem State.beginGroup_eq (s : State) (l : Launch) (cid cix m n g : Nat) (anchor : Word) :
    s.beginGroup l cid cix m n g anchor = { s with
      nextId := s.nextId + 2
      groups := SMap.put s.groups s.nextId (Group.launch l.ctx (some cid) g l.width l.wins)
      subs := SMap.put s.subs (s.nextId + 1) (l.newSub s.nextId cix m n g (s.stn m n).cycles anchor)
      crews := SMap.upd s.crews cid (fun c => { c with groups := c.groups ++ [s.nextId] }) } := rfl

section
variable (s : State) (l : Launch) (cid cix m n : Nat) (anchor : Word)

theorem State.beginGroups_succ (k : Nat) :
    s.beginGroups l cid cix m n anchor (k + 1) = (s.beginGroups l cid cix m n anchor k).beginGroup l cid cix m n k anchor := by
  simp [State.beginGroups, List.range_succ]

theorem State.beginGroups_mem (k : Nat) : (s.beginGroups l cid cix m n anchor k).mem = s.mem :=
  foldl_mem (f := fun s g => s.beginGroup l cid cix m n g anchor) (fun _ _ => rfl) _ s

theorem State.beginGroups_stns (k : Nat) : (s.beginGroups l cid cix m n anchor k).stns = s.stns :=
  foldl_keeps (fun (s : State) g => s.beginGroup l cid cix m n g anchor) State.stns (fun _ _ => rfl) _ s

theorem State.beginGroups_stn (k a b : Nat) : (s.beginGroups l cid cix m n anchor k).stn a b = s.stn a b := by
  simp only [State.stn, State.beginGroups_stns]

theorem State.beginGroups_nextId (k : Nat) : (s.beginGroups l cid cix m n anchor k).nextId = s.nextId + 2 * k := by
  induction k with
  | zero => rfl
  | succ k ih => simp only [State.beginGroups_succ, State.beginGroup_eq, ih]; omega

/-- A crew gains groups, and nothing else of it changes. -/
theorem State.beginGroups_crew {cr : Crew} (hcr : SMap.get? s.crews cid = some cr) (k : Nat) :
    ∃ gs, SMap.get? (s.beginGroups l cid cix m n anchor k).crews cid = some { cr with groups := gs } := by
  induction k with
  | zero => exact ⟨cr.groups, hcr⟩
  | succ k ih =>
    obtain ⟨gs, hgs⟩ := ih
    simp only [State.beginGroups_succ, State.beginGroup_eq, SMap.upd_some _ _ _ _ hgs, SMap.get?_put_same]
    exact ⟨_, rfl⟩

/-- Groups that begin later leave those that have begun. -/
theorem State.beginGroups_group {g k : Nat} (hg : g < k) :
    SMap.get? (s.beginGroups l cid cix m n anchor k).groups (s.nextId + 2 * g) = some (Group.launch l.ctx (some cid) g l.width l.wins) := by
  induction k with
  | zero => exact absurd hg (Nat.not_lt_zero g)
  | succ k ih =>
    simp only [State.beginGroups_succ, State.beginGroup_eq, State.beginGroups_nextId]
    rcases Nat.lt_succ_iff_lt_or_eq.1 hg with h | rfl
    · rw [SMap.get?_put_ne _ _ (by omega), ih h]
    · exact SMap.get?_put_same ..

theorem State.beginGroups_sub {g k : Nat} (hg : g < k) :
    SMap.get? (s.beginGroups l cid cix m n anchor k).subs (s.nextId + 2 * g + 1) =
      some (l.newSub (s.nextId + 2 * g) cix m n g (s.stn m n).cycles anchor) := by
  induction k with
  | zero => exact absurd hg (Nat.not_lt_zero g)
  | succ k ih =>
    simp only [State.beginGroups_succ, State.beginGroup_eq, State.beginGroups_nextId, State.beginGroups_stn]
    rcases Nat.lt_succ_iff_lt_or_eq.1 hg with h | rfl
    · rw [SMap.get?_put_ne _ _ (by omega), ih h]
    · exact SMap.get?_put_same ..

end

section
variable (s : State) (lid cix : Nat) (l : Launch) (m n : Nat)

theorem State.placeCrew_stn : ((s.placeCrew lid cix l m n).stn m n).crew = some s.nextId ∧
    ((s.placeCrew lid cix l m n).stn m n).tag = BitVec.ofNat 16 l.ctx := by
  rw [State.placeCrew_eq, State.beginGroups_stn]
  exact s.seatCrew_stn lid cix l m n

theorem State.placeCrew_crew : ∃ gs, SMap.get? (s.placeCrew lid cix l m n).crews s.nextId =
    some { l.newCrew lid cix m n (s.stn m n).cycles with groups := gs } := by
  rw [State.placeCrew_eq]
  exact State.beginGroups_crew _ l s.nextId cix m n _ (s.seatCrew_crew lid cix l m n) l.groups

theorem State.placeCrew_mem : (s.placeCrew lid cix l m n).mem = (s.readied cix l m n).mem := by
  rw [State.placeCrew_eq, State.beginGroups_mem, State.seatCrew_mem]

theorem State.placeCrew_group {g : Nat} (hg : g < l.groups) :
    SMap.get? (s.placeCrew lid cix l m n).groups (s.nextId + 1 + 2 * g) = some (Group.launch l.ctx (some s.nextId) g l.width l.wins) := by
  rw [State.placeCrew_eq]
  exact State.beginGroups_group (s.seatCrew lid cix l m n) l s.nextId cix m n _ hg

theorem State.placeCrew_sub {g : Nat} (hg : g < l.groups) :
    ∃ now, SMap.get? (s.placeCrew lid cix l m n).subs (s.nextId + 1 + 2 * g + 1) =
      some (l.newSub (s.nextId + 1 + 2 * g) cix m n g now (l.anchors.getD cix 0)) := by
  rw [State.placeCrew_eq]
  exact ⟨_, State.beginGroups_sub (s.seatCrew lid cix l m n) l s.nextId cix m n _ hg⟩

end

/-- A table in which each of some keys has the same record. -/
theorem SMap.get?_map_const {α : Type} (ks : List Nat) (x : α) (k : Nat) :
    SMap.get? (ks.map (fun j => (j, x))) k = if k ∈ ks then some x else none := by
  induction ks with
  | nil => rfl
  | cons j ks ih =>
    rw [List.map_cons, SMap.get?_cons, ih]
    by_cases h : j = k
    · simp [h]
    · simp [h, Ne.symm h]

section
variable (l : Launch) (gid cix m n g now : Nat) (anchor : Word)

/-- s0 and s1 hold PARAM and the anchor, every other scalar register 0. -/
theorem Launch.newSub_s (i : Nat) :
    (l.newSub gid cix m n g now anchor).reg (.s i) = if i = 0 then l.param else if i = 1 then anchor else 0 := by
  show RMap.get (RMap.set (RMap.set [] 0 l.param) 1 anchor) i = _
  rw [RMap.get_set, RMap.get_set]
  rcases i with _ | _ | i
  · rfl
  · rfl
  · rw [if_neg (by omega), if_neg (by omega), if_neg (by omega), if_neg (by omega)]
    rfl

/-- Every deadline register holds DLDEF. -/
theorem Launch.newSub_d {i : Nat} (hi : i < 4) : (l.newSub gid cix m n g now anchor).reg (.d i) = l.dldef := by
  show RMap.get (RMap.set (RMap.set (RMap.set (RMap.set [] 0 l.dldef) 1 l.dldef) 2 l.dldef) 3 l.dldef) i = _
  interval_cases i <;> simp [RMap.get_set]

theorem Launch.newSub_v (lane i : Nat) : (l.newSub gid cix m n g now anchor).reg (.v lane i) = 0 := rfl

/-- The lanes of a new group stand ready at its entry, with no meeting address. -/
theorem Launch.newSub_lane (lane : Nat) :
    (SMap.get? (l.newSub gid cix m n g now anchor).lanes lane).map (fun x => (x.pc, x.st, x.meet)) =
      if lane < l.width then some (l.entry, .ready, 0) else none := by
  unfold Launch.newSub SubGroup.launch
  rw [SMap.get?_map_const]
  by_cases h : lane < l.width <;> simp [h]

end

end Sys2Proof.Machine
end

section
/-! ## Placement: gangs (R278, R279) -/

namespace Sys2Proof.Machine

open Sys2Proof

/-- A gang each of whose crews has a station that can take it starts. -/
theorem exec_gangStart_starts {s : State} {lid : Nat} {l : Launch} (hgang : s.pendingGang = some lid) (hl : SMap.get? s.launches lid = some l)
    (hhold : s.bosun.hold = false) (hrun : s.crewRuns lid = true) (hall : (s.gangPlaces lid l).length = l.crews)
    (htake : ∀ e ∈ s.gangPlaces lid l, s.takesCrew lid e.2.2 l e.1 e.2.1 = true) :
    exec .gangStart s = .next (((s.gangPlaces lid l).foldl (fun s e => s.placeCrew lid e.2.2 l e.1 e.2.1) s).updLaunch lid
      (fun l => { l with gangAge := none, gangHeld := false })) := by
  have hnone : (s.gangPlaces lid l).any (fun e => !s.takesCrew lid e.2.2 l e.1 e.2.1) = false := by
    simpa [List.any_eq_false] using htake
  show execGangStart s = _
  simp [execGangStart, hgang, hl, hhold, hrun, hall, hnone]

/-- A gang at its age limit holds later crews back. -/
theorem exec_gangAgeLimit_holds {s : State} {lid : Nat} {l : Launch} {a : Word} (hgang : s.pendingGang = some lid)
    (hl : SMap.get? s.launches lid = some l) (hage : l.gangAge = some a) (hold : 65536 ≤ a.toNat) :
    exec .gangAgeLimit s = .next { s with launches := SMap.put s.launches lid { l with gangHeld := true } } := by
  show execGangAgeLimit s = _
  simp only [execGangAgeLimit, hgang, State.updLaunch, SMap.upd_some _ _ _ _ hl, hage, gangLimit, ge_iff_le, hold, if_true]

end Sys2Proof.Machine
end

section
/-! ## The obligations on steps, issue and placement -/

namespace Sys2Proof

open Machine Safety

/-- Settles O41: a turn answers what its word or its happening does on the device where it runs (`issueTurn_next`, `eventOn_next`), and the step
settles that. -/
theorem stepRunsDecoded : Obligations.StepRunsDecoded := by
  refine ⟨fun s t sid lane turn quads rest sg g set pc w next => ?_, fun s t i d turn rest => ?_⟩
  · intro s0 d s1 x ha hturn hset hfetch hpick hexec
    refine step_of_runTurn ha ?_
    rcases hturn with ⟨rfl, rfl⟩ | ⟨q, rfl, rfl⟩
    · exact outcomeOn_next (f := fun s => issueTurn s sid lane none) (issueTurn_next hset hfetch hpick hexec)
    · exact outcomeOn_next (f := fun s => issueTurn s sid lane (s.quadStop sid q)) (issueTurn_next hset hfetch hpick hexec)
  · intro s0 ha hturn hexec
    refine step_of_runTurn ha ?_
    rcases hturn with ⟨rfl, rfl⟩ | rfl
    · exact eventOn_next hexec
    · exact eventOn_next hexec

/-- Settles O42: a word with no active lane is retired, which moves its lanes only (`Run.done_quiet`); a held word begins a wait of its whole issue
set (`Run.waitFor_set_spec`). -/
theorem wordsSkippedOrHeld : Obligations.WordsSkippedOrHeld := by
  constructor
  · intro s i h g r hf hr hc ha hq
    obtain ⟨u, hdone, hmoved, hkept, hregs, hflags, hseed⟩ := Run.done_quiet hr hq
    exact ⟨_, u, exec_idle hf hr hc ha, by rw [hdone, OnlySub], hmoved, hkept, hregs, by simpa using hflags, hseed⟩
  · intro s i h g r ids hf hr hback hloose hheld
    obtain ⟨u, hu⟩ := Run.waitFor_set_spec (run_sub hr) (.scoreboard ids) none (some r.sg.bound) .zero
    exact ⟨_, u, exec_held hf hr hback hloose hheld, hu⟩

/-- Settles O56: each clause is a lemma about the function that admits, places or starts; a placed crew's groups are followed from the group's own
start (`State.beginGroup_eq`) past those that begin after it. -/
theorem placement : Obligations.Placement := by
  refine ⟨?_, ?_, ?_, ?_, ?_, ?_, ?_⟩
  · intro s cls k lid q l u hcls hhold habove hnext
    exact crewAdmission_serves hcls hhold habove hnext
  · intro s k lid n q l hq hl
    exact ⟨State.turn_spent hq, State.turn_admits hq hl⟩
  · intro s lid m l c win t hl hgang hmore hc hat
    exact admitCrew_spec hl hgang hmore hc hat
  · intro s m i lid cix n l c win s1 head hturn hl hc hrun hhold hfree hat hgang hroom
    have honly := (s.reserveHeads_onlyReserves m).trans (s1.unreserve_onlyReserves m (s1.reservedFor lid cix m))
    refine ⟨_, exec_crewPlacement_places rfl hturn hl hc hrun hhold hfree hat hgang hroom, honly.mem, honly.groups, honly.nextId,
      fun k => ⟨fun hk => ?_, honly.crew m k⟩⟩
    show ((s1.unreserve m (s1.reservedFor lid cix m)).stn m k).resv = none
    rw [hk, State.unreserve_resv]
  · intro s lid cix m n g l t sid hg _
    obtain ⟨hcrew, htag⟩ := s.placeCrew_stn lid cix l m n
    obtain ⟨gs, hgs⟩ := s.placeCrew_crew lid cix l m n
    obtain ⟨now, hsub⟩ := s.placeCrew_sub lid cix l m n hg
    have hmem := s.readied_mem cix l m n
    rw [← s.placeCrew_mem lid cix l m n] at hmem
    have hgid : sid - 1 = s.nextId + 1 + 2 * g := by omega
    have hsid : s.nextId + 1 + 2 * g + 1 = sid := by omega
    rw [hsid] at hsub
    rw [hgid]
    have hs : ∀ i, (l.newSub (s.nextId + 1 + 2 * g) cix m n g now (l.anchors.getD cix 0)).reg (.s i) =
      if i = 0 then l.param else if i = 1 then l.anchors.getD cix 0 else 0 := fun i => Launch.newSub_s ..
    refine ⟨hcrew, htag, ⟨_, hgs, rfl, rfl, rfl, rfl, rfl, rfl, rfl, rfl⟩, hmem, _, _, s.placeCrew_group lid cix l m n hg, rfl, rfl, rfl, rfl, rfl,
      hsub, rfl, rfl, rfl, rfl, hs 0, hs 1, rfl, ?_, ?_, ?_, ?_⟩
    · exact fun i hi => Launch.newSub_d _ _ _ _ _ _ _ _ hi
    · exact fun i h2 _ => (hs i).trans (by rw [if_neg (by omega), if_neg (by omega)])
    · exact fun lane i _ _ => Launch.newSub_v ..
    · exact fun lane => Launch.newSub_lane ..
  · intro s lid l hgang hl hhold hrun hall htake
    exact exec_gangStart_starts hgang hl hhold hrun hall htake
  · intro s lid l a hgang hl hage hold
    exact exec_gangAgeLimit_holds hgang hl hage hold

end Sys2Proof
end

section
/-! # Decoding and encoding (O38 to O40)

Each layout (R59 to R63) is read back from the word that it was written in, and written back as the word that it was read from. Over these
facts about fields, encoding then decoding goes by the constructors of an instruction, and decoding then encoding by the class of the word
and the block of its opcode. -/

namespace Sys2Proof

/-! ## Fields of an appended word -/

theorem extractLsb'_bitAppend_high {v w s l : Nat} (x : BitVec v) (y : BitVec w) (h : w ≤ s) :
    (x.append y).extractLsb' s l = x.extractLsb' (s - w) l := BitVec.extractLsb'_append_eq_of_le h

theorem extractLsb'_bitAppend_low {v w s l : Nat} (x : BitVec v) (y : BitVec w) (h : s + l ≤ w) :
    (x.append y).extractLsb' s l = y.extractLsb' s l := BitVec.extractLsb'_append_eq_of_add_le h

theorem getLsbD_bitAppend {v w i : Nat} (x : BitVec v) (y : BitVec w) :
    (x.append y).getLsbD i = if i < w then y.getLsbD i else x.getLsbD (i - w) := BitVec.getLsbD_append

theorem bitAppend_extractLsb' {n s₁ s₂ l₁ l₂ : Nat} (x : BitVec n) (h : s₂ = s₁ + l₁) :
    (x.extractLsb' s₂ l₂).append (x.extractLsb' s₁ l₁) = x.extractLsb' s₁ (l₂ + l₁) :=
  BitVec.extractLsb'_append_extractLsb'_eq_extractLsb' h

theorem ofBool_getLsbD {n : Nat} (x : BitVec n) (i : Nat) : BitVec.ofBool (x.getLsbD i) = x.extractLsb' i 1 := by
  ext j hj
  obtain rfl : j = 0 := by omega
  simp

/-! ## Operand codes, half operations and the layouts (R59 to R63, R65) -/

theorem Operand.ofCode_code {o : Operand} (h : o.wf = true) : Operand.ofCode o.code = o := by
  cases o with
  | v n => revert n; decide
  | s n => revert n; decide
  | p n => revert n; decide
  | k n => revert n; decide
  | q n => revert n; decide
  | d n => revert n; decide
  | zero => rfl
  | rsv n => revert n; decide

theorem Operand.code_ofCode (c : BitVec 7) : (Operand.ofCode c).code = c := by revert c; decide

theorem Operand.wf_ofCode (c : BitVec 7) : (Operand.ofCode c).wf = true := by revert c; decide

theorem HalfOp.ofCode_code {o : HalfOp} (h : o.wf = true) : HalfOp.ofCode o.code = o := by
  cases o with
  | rsv n => revert n; decide
  | _ => rfl

theorem HalfOp.code_ofCode (c : BitVec 5) : (HalfOp.ofCode c).code = c := by revert c; decide

theorem HalfOp.wf_ofCode (c : BitVec 5) : (HalfOp.ofCode c).wf = true := by revert c; decide

theorem Half.toBits_eq (h : Half) : h.toBits = (((h.hop.code.append h.guard).append h.dest.code).append h.a.code).append h.b.code := rfl

theorem Half.ofBits_toBits {h : Half} (hw : h.wf = true) : Half.ofBits h.toBits = h := by
  simp only [Half.wf, Bool.and_eq_true] at hw
  obtain ⟨⟨⟨ho, hd⟩, ha⟩, hb⟩ := hw
  simp [-BitVec.append_eq, Half.ofBits, Half.toBits_eq, extractLsb'_bitAppend_high, extractLsb'_bitAppend_low, HalfOp.ofCode_code ho,
    Operand.ofCode_code, *]

theorem Half.toBits_ofBits (b : BitVec 29) : (Half.ofBits b).toBits = b := by
  simp only [Half.ofBits, Half.toBits_eq, HalfOp.code_ofCode, Operand.code_ofCode, bitAppend_extractLsb']
  exact BitVec.extractLsb'_eq_self

theorem FWord.toWord_eq (op : BitVec 10) (f : FWord) : f.toWord op =
    (((((((((BitVec.append 0#2 op).append (BitVec.ofBool f.gneg)).append f.guard).append f.stall).append f.dest.code).append f.a.code).append
      f.b.code).append f.c.code).append f.hi).append f.lo := rfl

theorem FWord.wordOpcode_toWord (op : BitVec 10) (f : FWord) : wordOpcode (f.toWord op) = op := by
  simp [-BitVec.append_eq, wordOpcode, FWord.toWord_eq, extractLsb'_bitAppend_high, extractLsb'_bitAppend_low]

theorem FWord.addressBit_toWord (op : BitVec 10) (f : FWord) : (f.toWord op).getLsbD 7 = f.lo.getLsbD 7 := by
  rw [FWord.toWord_eq, getLsbD_bitAppend, if_pos (by decide)]

theorem FWord.gneg_toWord (op : BitVec 10) (f : FWord) : (f.toWord op).getLsbD 51 = f.gneg := by
  simp [-BitVec.append_eq, -BitVec.getLsbD_eq_getElem, FWord.toWord_eq, getLsbD_bitAppend]

theorem FWord.ofWord_toWord {f : FWord} (op : BitVec 10) (hw : f.wf = true) : FWord.ofWord (f.toWord op) = f := by
  simp only [FWord.wf, Bool.and_eq_true] at hw
  obtain ⟨⟨⟨hd, ha⟩, hb⟩, hc⟩ := hw
  simp only [FWord.ofWord, FWord.gneg_toWord]
  simp [-BitVec.append_eq, FWord.toWord_eq, extractLsb'_bitAppend_high, extractLsb'_bitAppend_low, Operand.ofCode_code, *]

theorem FWord.toWord_ofWord {w : Word} (h : wordClass w = 0) : (FWord.ofWord w).toWord (wordOpcode w) = w := by
  have h : 0#2 = w.extractLsb' 62 2 := h.symm
  simp only [FWord.ofWord, FWord.toWord_eq, Operand.code_ofCode, ofBool_getLsbD, h, wordOpcode, bitAppend_extractLsb']
  exact BitVec.extractLsb'_eq_self

theorem FWord.wf_ofWord (w : Word) : (FWord.ofWord w).wf = true := by simp [FWord.wf, FWord.ofWord, Operand.wf_ofCode]

theorem IWord.toWord_eq (op : BitVec 10) (i : IWord) : i.toWord op =
    ((((((BitVec.append 2#2 op).append (BitVec.ofBool i.gneg)).append i.guard).append i.stall).append i.dest.code).append i.a.code).append i.imm := rfl

theorem IWord.wordOpcode_toWord (op : BitVec 10) (i : IWord) : wordOpcode (i.toWord op) = op := by
  simp [-BitVec.append_eq, wordOpcode, IWord.toWord_eq, extractLsb'_bitAppend_high, extractLsb'_bitAppend_low]

theorem IWord.gneg_toWord (op : BitVec 10) (i : IWord) : (i.toWord op).getLsbD 51 = i.gneg := by
  simp [-BitVec.append_eq, -BitVec.getLsbD_eq_getElem, IWord.toWord_eq, getLsbD_bitAppend]

theorem IWord.ofWord_toWord {i : IWord} (op : BitVec 10) (hw : i.wf = true) : IWord.ofWord (i.toWord op) i.x = i := by
  simp only [IWord.wf, Bool.and_eq_true] at hw
  obtain ⟨hd, ha⟩ := hw
  simp only [IWord.ofWord, IWord.gneg_toWord]
  simp [-BitVec.append_eq, IWord.toWord_eq, extractLsb'_bitAppend_high, extractLsb'_bitAppend_low, Operand.ofCode_code, *]

theorem IWord.toWord_ofWord {w : Word} (x : Option XWord) (h : wordClass w = 2) : (IWord.ofWord w x).toWord (wordOpcode w) = w := by
  have h : 2#2 = w.extractLsb' 62 2 := h.symm
  simp only [IWord.ofWord, IWord.toWord_eq, Operand.code_ofCode, ofBool_getLsbD, h, wordOpcode, bitAppend_extractLsb']
  exact BitVec.extractLsb'_eq_self

theorem IWord.wf_ofWord (w : Word) (x : Option XWord) : (IWord.ofWord w x).wf = true := by simp [IWord.wf, IWord.ofWord, Operand.wf_ofCode]

theorem PWord.toWord_eq (p : PWord) : p.toWord = ((BitVec.append 1#2 p.stall).append p.ha.toBits).append p.hb.toBits := rfl

theorem PWord.wordClass_toWord (p : PWord) : wordClass p.toWord = 1 := by
  simp [-BitVec.append_eq, wordClass, PWord.toWord_eq, extractLsb'_bitAppend_high]

theorem PWord.ofWord_toWord {p : PWord} (ha : p.ha.wf = true) (hb : p.hb.wf = true) : PWord.ofWord p.toWord = p := by
  simp [-BitVec.append_eq, PWord.ofWord, PWord.toWord_eq, extractLsb'_bitAppend_high, extractLsb'_bitAppend_low,
    Half.ofBits_toBits ha, Half.ofBits_toBits hb]

theorem PWord.toWord_ofWord {w : Word} (h : wordClass w = 1) : (PWord.ofWord w).toWord = w := by
  have h : 1#2 = w.extractLsb' 62 2 := h.symm
  simp only [PWord.ofWord, PWord.toWord_eq, Half.toBits_ofBits, h, bitAppend_extractLsb']
  exact BitVec.extractLsb'_eq_self

theorem Half.wf_ofBits (b : BitVec 29) : (Half.ofBits b).wf = true := by simp [Half.wf, Half.ofBits, HalfOp.wf_ofCode, Operand.wf_ofCode]

theorem xPayload_xToWord (x : Option XWord) : xPayload (x.map xToWord) = x := by
  cases x with
  | none => rfl
  | some x =>
    have hc := Laws.XWords.class_x x
    simp only [xPayload, Option.map_some, hc]
    exact congrArg some BitVec.extractLsb'_append_eq_right

/-! ## Which opcodes have a form (R76, R77) -/

theorem decodeIntF_isSome (op : Nat) (f : FWord) : (decodeIntF op f).isSome = decide (op ≤ 0x021) := by
  unfold decodeIntF
  split
  case h_35 => grind
  all_goals rfl

theorem decodeFloatF_isSome (op : Nat) (f : FWord) : (decodeFloatF op f).isSome = decide (0x040 ≤ op ∧ op ≤ 0x05D) := by
  unfold decodeFloatF
  split
  case h_31 => grind
  all_goals rfl

theorem decodeConvF_isSome (op : Nat) (f : FWord) : (decodeConvF op f).isSome = decide (0x080 ≤ op ∧ op ≤ 0x087) := by
  unfold decodeConvF
  split
  case h_9 => grind
  all_goals rfl

theorem decodeGroupF_isSome (op : Nat) (f : FWord) : (decodeGroupF op f).isSome = decide (0x0C0 ≤ op ∧ op ≤ 0x0C8) := by
  unfold decodeGroupF
  split
  case h_10 => grind
  all_goals rfl

theorem decodeControlF_isSome (op : Nat) (f : FWord) (x : Option XWord) :
    (decodeControlF op f x).isSome = decide (op = 0x101 ∨ 0x103 ≤ op ∧ op ≤ 0x10A) := by
  unfold decodeControlF
  split
  case h_10 => grind
  all_goals rfl

theorem decodeMemoryF_isSome (op : Nat) (f : FWord) (x : Option XWord) : (decodeMemoryF op f x).isSome = decide (0x140 ≤ op ∧ op ≤ 0x152) := by
  unfold decodeMemoryF
  split
  case h_20 => grind
  all_goals rfl

theorem decodeMatrixF_isSome (op : Nat) (f : FWord) (x : Option XWord) : (decodeMatrixF op f x).isSome = decide (0x180 ≤ op ∧ op ≤ 0x188) := by
  unfold decodeMatrixF
  split
  case h_10 => grind
  all_goals rfl

theorem decodeEngineF_isSome (op : Nat) (f : FWord) (x : Option XWord) : (decodeEngineF op f x).isSome = decide (0x1C0 ≤ op ∧ op ≤ 0x1C7) := by
  unfold decodeEngineF
  split
  case h_9 => grind
  all_goals rfl

theorem decodeSyncF_isSome (op : Nat) (f : FWord) : (decodeSyncF op f).isSome = decide (0x200 ≤ op ∧ op ≤ 0x208) := by
  unfold decodeSyncF
  split
  case h_10 => grind
  all_goals rfl

theorem decodeSystemF_isSome (op : Nat) (f : FWord) (x : Option XWord) : (decodeSystemF op f x).isSome = decide (0x240 ≤ op ∧ op ≤ 0x24D) := by
  unfold decodeSystemF
  split
  case h_15 => grind
  all_goals rfl

theorem decodeF_isSome (op : Nat) (f : FWord) (x : Option XWord) : (decodeF op f x).isSome = hasF op := by
  rw [Bool.eq_iff_iff]
  unfold decodeF hasF
  split_ifs <;> simp only [decodeIntF_isSome, decodeFloatF_isSome, decodeConvF_isSome, decodeGroupF_isSome, decodeControlF_isSome,
    decodeMemoryF_isSome, decodeMatrixF_isSome, decodeEngineF_isSome, decodeSyncF_isSome, decodeSystemF_isSome,
    Option.isSome_none, Bool.false_eq_true, false_iff, Bool.or_eq_true, Bool.and_eq_true, decide_eq_true_eq] <;> omega

theorem decodeI_isSome (op : Nat) (i : IWord) : (decodeI op i).isSome = hasI op := by
  rw [Bool.eq_iff_iff]
  unfold decodeI hasI
  split
  case h_35 => grind
  all_goals exact ⟨fun _ => rfl, fun _ => rfl⟩

/-! ## X words (R61, R115) -/

/-- Whether an F head with this opcode and these fields stands with this X word (R61, R115). -/
def takesX (op : Nat) (f : FWord) (x : Option XWord) : Bool :=
  match xNeed op with
  | .never => x.isNone
  | .required => true
  | .byAddressByte => x.isNone || f.lo.getLsbD 7

theorem takesX_eq_none {op : Nat} {f : FWord} {x : Option XWord} (hn : xNeed op = .never) (h : takesX op f x = true) : x = none := by
  simpa [takesX, hn] using h

theorem takenX_toWord {op : BitVec 10} {f : FWord} {x : Option XWord} (h : takesX op.toNat f x = true) : takenX (f.toWord op) (x.map xToWord) = x := by
  have hc : wordClass (f.toWord op) = 0 := Laws.XWords.class_f op f
  rw [takenX, if_pos hc, FWord.wordOpcode_toWord, FWord.addressBit_toWord, xPayload_xToWord]
  cases hn : xNeed op.toNat with
  | never => exact (takesX_eq_none hn h).symm
  | required => rfl
  | byAddressByte =>
    have hb : x = none ∨ f.lo.getLsbD 7 = true := by simpa [takesX, hn] using h
    obtain rfl | hb := hb
    · exact ite_self none
    · exact if_pos hb

theorem takesX_takenX {w : Word} (h : wordClass w = 0) (n : Option Word) : takesX (wordOpcode w).toNat (FWord.ofWord w) (takenX w n) = true := by
  have hb : (FWord.ofWord w).lo.getLsbD 7 = w.getLsbD 7 := by simp [FWord.ofWord, BitVec.getLsbD_extractLsb', -BitVec.getLsbD_eq_getElem]
  rw [takesX, takenX, if_pos h, hb]
  cases xNeed (wordOpcode w).toNat with
  | never => rfl
  | required => rfl
  | byAddressByte => cases w.getLsbD 7 <;> simp

theorem xNeed_never {op : Nat} (h : hasF op = false ∨ op < 0x100 ∨ 0x200 ≤ op ∧ op < 0x240) : xNeed op = .never := by
  simp only [hasF, Bool.or_eq_false_iff, Bool.and_eq_false_iff, decide_eq_false_iff_not] at h
  have hr : xRequired op = false := by
    simp only [xRequired, Bool.or_eq_false_iff, Bool.and_eq_false_iff, decide_eq_false_iff_not]; omega
  have hb : xByByte op = false := by
    simp only [xByByte, Bool.or_eq_false_iff, Bool.and_eq_false_iff, decide_eq_false_iff_not]; omega
  simp [xNeed, hr, hb]

/-! ## What an opcode decodes to encodes to that opcode -/

/-- A well-formed instruction whose words are this F head and this X word. -/
def Instr.standsIn (i : Instr) (op : Nat) (f : FWord) (x : Option XWord) : Prop :=
  i.wf = true ∧ encode i = some (f.toWord (BitVec.ofNat 10 op), x.map xToWord)

theorem decodeIntF_standsIn {op : Nat} {f : FWord} {i : Instr} (hf : f.wf = true) (h : decodeIntF op f = some i) : i.standsIn op f none := by
  unfold decodeIntF at h
  split at h <;> cases h <;> exact ⟨hf, rfl⟩

theorem decodeFloatF_standsIn {op : Nat} {f : FWord} {i : Instr} (hf : f.wf = true) (h : decodeFloatF op f = some i) : i.standsIn op f none := by
  unfold decodeFloatF at h
  split at h <;> cases h <;> exact ⟨hf, rfl⟩

theorem decodeConvF_standsIn {op : Nat} {f : FWord} {i : Instr} (hf : f.wf = true) (h : decodeConvF op f = some i) : i.standsIn op f none := by
  unfold decodeConvF at h
  split at h <;> cases h <;> exact ⟨hf, rfl⟩

theorem decodeGroupF_standsIn {op : Nat} {f : FWord} {i : Instr} (hf : f.wf = true) (h : decodeGroupF op f = some i) : i.standsIn op f none := by
  unfold decodeGroupF at h
  split at h <;> cases h <;> exact ⟨hf, rfl⟩

theorem decodeSyncF_standsIn {op : Nat} {f : FWord} {i : Instr} (hf : f.wf = true) (h : decodeSyncF op f = some i) : i.standsIn op f none := by
  unfold decodeSyncF at h
  split at h
  -- QTRY, whose push and pop share an opcode
  case h_9 =>
    cases h
    split_ifs with hb
    · exact ⟨Bool.and_eq_true_iff.mpr ⟨hf, hb⟩, rfl⟩
    · exact ⟨Bool.and_eq_true_iff.mpr ⟨hf, by simpa using hb⟩, rfl⟩
  all_goals cases h
  all_goals exact ⟨hf, rfl⟩

theorem decodeMatrixF_standsIn {op : Nat} {f : FWord} {x : Option XWord} {i : Instr} (hf : f.wf = true) (hx : takesX op f x = true)
    (h : decodeMatrixF op f x = some i) : i.standsIn op f x := by
  unfold decodeMatrixF at h
  split at h <;> cases h
  -- MMA.BS, MMA.SP and SMERGE require an X word
  case h_2 | h_3 | h_9 => exact ⟨hf, rfl⟩
  all_goals obtain rfl := takesX_eq_none rfl hx; exact ⟨hf, rfl⟩

theorem decodeControlF_standsIn {op : Nat} {f : FWord} {x : Option XWord} {i : Instr} (hf : f.wf = true) (hx : takesX op f x = true)
    (h : decodeControlF op f x = some i) : i.standsIn op f x := by
  unfold decodeControlF at h
  split at h <;> cases h
  -- TIE and LOOPQ require an X word
  case h_4 | h_8 => exact ⟨hf, rfl⟩
  all_goals obtain rfl := takesX_eq_none rfl hx; exact ⟨hf, rfl⟩

theorem wfX_of_takesX {op : Nat} {f : FWord} {x : Option XWord} (hn : xNeed op = .byAddressByte) (hf : f.wf = true) (hx : takesX op f x = true) :
    f.wfX x = true := by
  simpa [takesX, hn, FWord.wfX, hf] using hx

theorem decodeMemoryF_standsIn {op : Nat} {f : FWord} {x : Option XWord} {i : Instr} (hf : f.wf = true) (hx : takesX op f x = true)
    (h : decodeMemoryF op f x = some i) : i.standsIn op f x := by
  unfold decodeMemoryF at h
  split at h <;> cases h
  -- LDW, ATOM and ATOMCAS require an X word
  case h_7 | h_9 | h_10 => exact ⟨hf, rfl⟩
  -- MIGR, whose forms share an opcode
  case h_13 =>
    have hw := wfX_of_takesX rfl hf hx
    split_ifs with hz
    · exact ⟨Bool.and_eq_true_iff.mpr ⟨hw, decide_eq_true hz⟩, rfl⟩
    · exact ⟨Bool.and_eq_true_iff.mpr ⟨hw, decide_eq_true hz⟩, rfl⟩
  -- the stream and fence words take none
  case h_14 | h_15 | h_16 | h_17 | h_18 | h_19 => obtain rfl := takesX_eq_none rfl hx; exact ⟨hf, rfl⟩
  all_goals exact ⟨wfX_of_takesX rfl hf hx, rfl⟩

theorem decodeEngineF_standsIn {op : Nat} {f : FWord} {x : Option XWord} {i : Instr} (hf : f.wf = true) (hx : takesX op f x = true)
    (h : decodeEngineF op f x = some i) : i.standsIn op f x := by
  unfold decodeEngineF at h
  split at h <;> cases h
  -- BCALL, whose forms share an opcode
  case h_7 =>
    have hw := wfX_of_takesX rfl hf hx
    split_ifs with hz
    · exact ⟨Bool.and_eq_true_iff.mpr ⟨hw, decide_eq_true hz⟩, rfl⟩
    · exact ⟨Bool.and_eq_true_iff.mpr ⟨hw, decide_eq_true hz⟩, rfl⟩
  all_goals obtain rfl := takesX_eq_none rfl hx; exact ⟨hf, rfl⟩

theorem decodeSystemF_standsIn {op : Nat} {f : FWord} {x : Option XWord} {i : Instr} (hf : f.wf = true) (hx : takesX op f x = true)
    (h : decodeSystemF op f x = some i) : i.standsIn op f x := by
  unfold decodeSystemF at h
  split at h <;> cases h
  -- CTXSAVE and CTXLOAD
  case h_13 | h_14 => exact ⟨wfX_of_takesX rfl hf hx, rfl⟩
  all_goals obtain rfl := takesX_eq_none rfl hx
  -- MOVS, MOVSP and SEGLD, by one bit
  case h_4 | h_5 | h_6 =>
    split_ifs with hb
    · exact ⟨Bool.and_eq_true_iff.mpr ⟨hf, hb⟩, rfl⟩
    · exact ⟨Bool.and_eq_true_iff.mpr ⟨hf, by simpa using hb⟩, rfl⟩
  -- TLBI and DLSET, by two bits
  case h_8 | h_9 =>
    split_ifs with h1 h2
    · exact ⟨Bool.and_eq_true_iff.mpr ⟨hf, decide_eq_true h1⟩, rfl⟩
    · exact ⟨Bool.and_eq_true_iff.mpr ⟨hf, decide_eq_true h2⟩, rfl⟩
    · exact ⟨Bool.and_eq_true_iff.mpr ⟨Bool.and_eq_true_iff.mpr ⟨hf, decide_eq_true h1⟩, decide_eq_true h2⟩, rfl⟩
  all_goals exact ⟨hf, rfl⟩

theorem decodeF_standsIn {op : Nat} {f : FWord} {x : Option XWord} {i : Instr} (hf : f.wf = true) (hx : takesX op f x = true)
    (h : decodeF op f x = some i) : i.standsIn op f x := by
  have hnone : op < 0x100 ∨ 0x200 ≤ op ∧ op < 0x240 → x = none := fun hop => takesX_eq_none (xNeed_never (.inr hop)) hx
  unfold decodeF at h
  split_ifs at h
  · obtain rfl := hnone (by omega); exact decodeIntF_standsIn hf h
  · obtain rfl := hnone (by omega); exact decodeFloatF_standsIn hf h
  · obtain rfl := hnone (by omega); exact decodeConvF_standsIn hf h
  · obtain rfl := hnone (by omega); exact decodeGroupF_standsIn hf h
  · exact decodeControlF_standsIn hf hx h
  · exact decodeMemoryF_standsIn hf hx h
  · exact decodeMatrixF_standsIn hf hx h
  · exact decodeEngineF_standsIn hf hx h
  · obtain rfl := hnone (by omega); exact decodeSyncF_standsIn hf h
  · exact decodeSystemF_standsIn hf hx h

theorem decodeI_wf_encode {op : Nat} {w : IWord} {i : Instr} (hw : w.wf = true) (h : decodeI op w = some i) :
    i.wf = true ∧ encode i = some (w.toWord (BitVec.ofNat 10 op), w.x.map xToWord) := by
  unfold decodeI at h
  split at h <;> cases h <;> exact ⟨hw, rfl⟩

/-! ## Decoding the words of an instruction -/

theorem decode_fWord {op : BitVec 10} {f : FWord} {x : Option XWord} {i : Instr} (hf : f.wf = true) (hx : takesX op.toNat f x = true)
    (h : decodeF op.toNat f x = some i) : decode (f.toWord op) (x.map xToWord) = i := by
  have hc : wordClass (f.toWord op) = 0 := Laws.XWords.class_f op f
  rw [decode, if_pos hc, FWord.wordOpcode_toWord, FWord.ofWord_toWord op hf, takenX_toWord hx, h, Option.getD_some]

theorem decode_iWord {op : BitVec 10} {w : IWord} {i : Instr} (hw : w.wf = true) (h : decodeI op.toNat w = some i) :
    decode (w.toWord op) (w.x.map xToWord) = i := by
  have hc : wordClass (w.toWord op) = 2 := Laws.XWords.class_i op w
  have hx : takenX (w.toWord op) (w.x.map xToWord) = w.x := by rw [takenX, if_neg (by rw [hc]; decide), if_pos hc, xPayload_xToWord]
  rw [decode, if_neg (by rw [hc]; decide), if_neg (by rw [hc]; decide), if_pos hc, IWord.wordOpcode_toWord, hx, IWord.ofWord_toWord op hw, h,
    Option.getD_some]

theorem decode_pWord {p : PWord} (ha : p.ha.wf = true) (hb : p.hb.wf = true) (n : Option Word) : decode p.toWord n = .pairedWord p := by
  have hc := PWord.wordClass_toWord p
  rw [decode, if_neg (by rw [hc]; decide), if_pos hc, PWord.ofWord_toWord ha hb]

theorem takenX_none (w : Word) : takenX w none = none := by
  unfold takenX
  split_ifs
  · cases xNeed (wordOpcode w).toNat <;> simp [xPayload]
  · cases xNeed (wordOpcode w).toNat <;> rfl
  · rfl
  · rfl

theorem reservedWord_eq (w : Word) (x : Option XWord) : reservedWord w x =
    if wordClass w = 0 then !hasF (wordOpcode w).toNat && x.isNone
    else if wordClass w = 2 then !hasI (wordOpcode w).toNat
    else decide (wordClass w = 3) && x.isNone := rfl

theorem decode_reserved {w : Word} {x : Option XWord} (h : reservedWord w x = true) :
    decode w (x.map xToWord) = .reservedEncoding w x := by
  rw [reservedWord_eq] at h
  split_ifs at h with h0 h2
  · simp only [Bool.and_eq_true, Bool.not_eq_true', Option.isNone_iff_eq_none] at h
    obtain ⟨hop, rfl⟩ := h
    have hd : decodeF (wordOpcode w).toNat (.ofWord w) none = none := by
      rw [← Option.isNone_iff_eq_none, ← Option.not_isSome, decodeF_isSome, hop]; rfl
    rw [decode, if_pos h0, Option.map_none, takenX_none, hd, Option.getD_none]
  · have hx : takenX w (x.map xToWord) = x := by rw [takenX, if_neg h0, if_pos h2, xPayload_xToWord]
    have hd : decodeI (wordOpcode w).toNat (.ofWord w x) = none := by
      rw [← Option.isNone_iff_eq_none, ← Option.not_isSome, decodeI_isSome]; exact h
    rw [decode, if_neg h0, if_neg (by rw [h2]; decide), if_pos h2, hx, hd, Option.getD_none]
  · simp only [Bool.and_eq_true, decide_eq_true_eq, Option.isNone_iff_eq_none] at h
    obtain ⟨h3, rfl⟩ := h
    rw [decode, if_neg h0, if_neg (by rw [h3]; decide), if_neg h2]

theorem decode_encode {i : Instr} {w : Word} {y : Option Word} (hw : i.wf = true) (h : encode i = some (w, y)) : decode w y = i := by
  cases i with
  | iadd f | isub f | imul f | imad f | imulh f | idiv f | irem f | imin f | imax f | iabs f | ineg f | and f | or f | xor f | not f | andn f
  | btab f | shl f | shr f | sar f | cshf f | popc f | clz f | ctz f | brev f | bfe f | bfi f | prmt f | lea f | icmp f | ptab f | isel f | sel f
  | mov f | fadd f | fsub f | fmul f | ffma f | fmin f | fmax f | fabs f | fneg f | fsgn f | fcmp f | fclass f | frnd f | frcp f | frsq f | fsqrt f
  | fexp2 f | flog2 f | fsin f | fcos f | dadd f | dsub f | dmul f | dfma f | dmin f | dmax f | dabs f | dneg f | dcmp f | dclass f | drnd f | cvt f
  | cvtf f | pack f | unpack f | qscale f | dqscale f | fldexp f | ffrexp f | xlane f | vote f | ballot f | scan f | segscan f | redux f | matchM f
  | elect f | active f | brx f | calli f | ret f | join f | exit f | yield f | nop f | qcfg f | qidx f | qld f | qclose f | fence f | fenceX f
  | mma f | bmc f | bmx f | kset f | ktst f | mpart f | cp f | cpm f | cpcv f | cpw f | capr f | capw f | bwait f | barc f | barw f | barx f | mbar f
  | gbara f | gbarw f | qpush f | qpop f | trap f | tfence f | tret f | tlbf f | clkrd f | halt f | dstep f =>
    cases h; exact decode_fWord (x := none) hw rfl rfl
  | iaddI w | isubI w | imulI w | imulhI w | idivI w | iremI w | iminI w | imaxI w | andI w | orI w | xorI w | andnI w | shlI w | shrI w | sarI w
  | prmtI w | icmpI w | movI w | faddI w | fsubI w | fmulI w | fminI w | fmaxI w | fcmpI w | daddI w | dsubI w | dmulI w | dminI w | dmaxI w
  | dcmpI w | bra w | call w | trapI w | dlsetI w =>
    cases h; exact decode_iWord hw rfl
  | tie f x | loopq f x | ldw f x | atom f x | atomcas f x | mmaBs f x | mmaSp f x | smerge f x =>
    cases h; exact decode_fWord hw rfl rfl
  | ldg f x | stg f x | ldl f x | stl f x | lds f x | sts f x | post f x | red f x | home f x | ctxsave f x | ctxload f x =>
    cases h
    obtain ⟨hf, hx⟩ := Bool.and_eq_true_iff.mp hw
    exact decode_fWord hf hx rfl
  | migrG f x | bcallT f x =>
    cases h
    obtain ⟨hwx, hz⟩ := Bool.and_eq_true_iff.mp hw
    obtain ⟨hf, hx⟩ := Bool.and_eq_true_iff.mp hwx
    exact decode_fWord hf hx (congrArg some (if_neg (of_decide_eq_true hz)))
  | migrL f x | bcallN f x =>
    cases h
    obtain ⟨hwx, hz⟩ := Bool.and_eq_true_iff.mp hw
    obtain ⟨hf, hx⟩ := Bool.and_eq_true_iff.mp hwx
    exact decode_fWord hf hx (congrArg some (if_pos (of_decide_eq_true hz)))
  | qtryPush f | movsRead f | movspRead f | segldL f =>
    cases h
    obtain ⟨hf, hb⟩ := Bool.and_eq_true_iff.mp hw
    exact decode_fWord (x := none) hf rfl (congrArg some (if_neg (by simpa using hb)))
  | qtryPop f | movsWrite f | movspWrite f | segldP f =>
    cases h
    obtain ⟨hf, hb⟩ := Bool.and_eq_true_iff.mp hw
    exact decode_fWord (x := none) hf rfl (congrArg some (if_pos hb))
  | tlbiVa f | dlsetRel f =>
    cases h
    obtain ⟨hf1, h2⟩ := Bool.and_eq_true_iff.mp hw
    obtain ⟨hf, h1⟩ := Bool.and_eq_true_iff.mp hf1
    exact decode_fWord (x := none) hf rfl (congrArg some ((if_neg (of_decide_eq_true h1)).trans (if_neg (of_decide_eq_true h2))))
  | tlbiCtx f | dlsetAbs f =>
    cases h
    obtain ⟨hf, h1⟩ := Bool.and_eq_true_iff.mp hw
    exact decode_fWord (x := none) hf rfl (congrArg some (if_pos (of_decide_eq_true h1)))
  | tlbiAll f | dlsetDef f =>
    cases h
    obtain ⟨hf, h2⟩ := Bool.and_eq_true_iff.mp hw
    have h2 := of_decide_eq_true h2
    exact decode_fWord (x := none) hf rfl (congrArg some ((if_neg (by rw [h2]; decide)).trans (if_pos h2)))
  | pairedWord p =>
    cases h
    obtain ⟨ha, hb⟩ := Bool.and_eq_true_iff.mp hw
    exact decode_pWord ha hb none
  | reservedEncoding w x => cases h; exact decode_reserved hw
  | _ => cases h

/-! ## Encoding what a word decodes to, by the class of the word (R58) -/

theorem decode_fClass {w : Word} (hc : wordClass w = 0) (n : Option Word) :
    (decode w n).wf = true ∧ encode (decode w n) = some (w, (takenX w n).map xToWord) := by
  rw [decode, if_pos hc]
  cases hd : decodeF (wordOpcode w).toNat (.ofWord w) (takenX w n) with
  | some i =>
    obtain ⟨hwf, henc⟩ := decodeF_standsIn (FWord.wf_ofWord w) (takesX_takenX hc n) hd
    rw [BitVec.ofNat_toNat, BitVec.setWidth_eq, FWord.toWord_ofWord hc] at henc
    exact ⟨hwf, henc⟩
  | none =>
    have hop : hasF (wordOpcode w).toNat = false := by rw [← decodeF_isSome _ (.ofWord w) (takenX w n), hd]; rfl
    have hx : takenX w n = none := takesX_eq_none (xNeed_never (.inl hop)) (takesX_takenX hc n)
    refine ⟨?_, rfl⟩
    show reservedWord w (takenX w n) = true
    rw [hx, reservedWord_eq, if_pos hc, hop]; rfl

theorem decode_iClass {w : Word} (hc : wordClass w = 2) (n : Option Word) :
    (decode w n).wf = true ∧ encode (decode w n) = some (w, (takenX w n).map xToWord) := by
  have h0 : wordClass w ≠ 0 := by rw [hc]; decide
  rw [decode, if_neg h0, if_neg (by rw [hc]; decide), if_pos hc]
  cases hd : decodeI (wordOpcode w).toNat (.ofWord w (takenX w n)) with
  | some i =>
    obtain ⟨hwf, henc⟩ := decodeI_wf_encode (IWord.wf_ofWord w (takenX w n)) hd
    rw [BitVec.ofNat_toNat, BitVec.setWidth_eq, IWord.toWord_ofWord _ hc] at henc
    exact ⟨hwf, henc⟩
  | none =>
    have hop : hasI (wordOpcode w).toNat = false := by rw [← decodeI_isSome _ (.ofWord w (takenX w n)), hd]; rfl
    refine ⟨?_, rfl⟩
    show reservedWord w (takenX w n) = true
    rw [reservedWord_eq, if_neg h0, if_pos hc, hop]; rfl

theorem decode_pClass {w : Word} (hc : wordClass w = 1) (n : Option Word) :
    (decode w n).wf = true ∧ encode (decode w n) = some (w, (takenX w n).map xToWord) := by
  have h0 : wordClass w ≠ 0 := by rw [hc]; decide
  have hx : takenX w n = none := by rw [takenX, if_neg h0, if_neg (by rw [hc]; decide)]
  rw [decode, if_neg h0, if_pos hc, hx]
  refine ⟨Bool.and_eq_true_iff.mpr ⟨Half.wf_ofBits _, Half.wf_ofBits _⟩, ?_⟩
  rw [encode, PWord.toWord_ofWord hc]; rfl

theorem decode_xClass {w : Word} (hc : wordClass w = 3) (n : Option Word) :
    (decode w n).wf = true ∧ encode (decode w n) = some (w, (takenX w n).map xToWord) := by
  have h0 : wordClass w ≠ 0 := by rw [hc]; decide
  have h2 : wordClass w ≠ 2 := by rw [hc]; decide
  have hx : takenX w n = none := by rw [takenX, if_neg h0, if_neg h2]
  rw [decode, if_neg h0, if_neg (by rw [hc]; decide), if_neg h2, hx]
  refine ⟨?_, rfl⟩
  show reservedWord w none = true
  rw [reservedWord_eq, if_neg h0, if_neg h2, Bool.and_eq_true, decide_eq_true_eq]
  exact ⟨hc, rfl⟩

/-- Settles O39, by the constructors of the instruction (`decode_encode`). -/
theorem encodeDecode : Obligations.EncodeDecode := fun _ _ _ hw h => decode_encode hw h

/-- Settles O40, by the class of the word. -/
theorem decodeEncode : Obligations.DecodeEncode := by
  intro w n
  have hclass : wordClass w = 0 ∨ wordClass w = 1 ∨ wordClass w = 2 ∨ wordClass w = 3 := by
    generalize wordClass w = c; revert c; decide
  obtain hc | hc | hc | hc := hclass
  · exact decode_fClass hc n
  · exact decode_pClass hc n
  · exact decode_iClass hc n
  · exact decode_xClass hc n

/-- Settles O38: each word is one closed fact about the decoder. -/
theorem decodeListedWords : Obligations.DecodeListedWords := by
  refine ⟨?_, ?_, ?_, ?_, ?_, ?_⟩
  all_goals decide

end Sys2Proof
end

section
/-! # What traps before a word takes effect (O43) -/

namespace Sys2Proof.Machine

open Sys2Proof Sys2Proof.Safety

theorem exec_back {s : State} {i : Instr} {h : Hd} {g : Sig} {r : Run} (hf : form s i = some (h, g)) (hr : run s h = some r)
    (hback : r.set &&& r.sg.laneMask (fun l => l.refuse.isSome) ≠ 0) :
    ∃ info, exec i s = .next { r.trapOf s (r.set &&& r.sg.laneMask (fun l => l.refuse.isSome)) 8
      (((SMap.get? r.sg.lanes (lowest (r.set &&& r.sg.laneMask (fun l => l.refuse.isSome)))).bind (fun l => l.refuse)).getD 0) info
      (r.set &&& r.sg.laneMask (fun l => l.refuse.isSome)) false with issuing := none } := by
  obtain ⟨info, body, he⟩ := exec_form hf
  rw [he, issueWord_run hr]
  dsimp only
  rw [if_pos hback]
  exact ⟨_, rfl⟩

theorem exec_loose {s : State} {i : Instr} {h : Hd} {g : Sig} {r : Run} (hf : form s i = some (h, g)) (hr : run s h = some r)
    (hback : r.set &&& r.sg.laneMask (fun l => l.refuse.isSome) = 0) (hloose : r.set &&& r.sg.laneMask (fun l => l.rel.isSome) ≠ 0)
    (hj : g.join = false) :
    exec i s = .next { r.trapOf s (r.set &&& r.sg.laneMask (fun l => l.rel.isSome)) 1 1 0
      (r.set &&& r.sg.laneMask (fun l => l.rel.isSome)) false with issuing := none } := by
  obtain ⟨info, body, he⟩ := exec_form hf
  rw [he, issueWord_run hr]
  dsimp only
  rw [if_neg (not_not.2 hback), if_pos (by rw [hj, decide_eq_true hloose]; rfl)]

theorem exec_fails {s : State} {i : Instr} {h : Hd} {g : Sig} {r : Run} {f : Fail} (hf : form s i = some (h, g)) (hr : run s h = some r)
    (hc : reaches s h g r = true) (ha : r.act ≠ 0) (hj : g.judge r.sg r.g = some f) :
    exec i s = .next { r.trap s f.cause f.detail 0 r.act with issuing := none } := by
  obtain ⟨info, body, he⟩ := exec_form hf
  rw [he, issueWord_fails hr hc ha hj]

theorem exec_short {s : State} {i : Instr} {h : Hd} {g : Sig} {r : Run} (hf : form s i = some (h, g)) (hr : run s h = some r)
    (hc : reaches s h g r = true) (ha : r.act ≠ 0) (hj : g.judge r.sg r.g = none) (hheld : s.heldBy r (readRegs g r) (writeRegs g r) = [])
    (hchk : r.sg.chk = true) (hshort : shortLanes h g r ≠ 0) :
    exec i s = .next { r.trap s 5 0 0 (shortLanes h g r) with issuing := none } := by
  obtain ⟨info, body, he⟩ := exec_form hf
  rw [he, issueWord_reached hr hc, if_neg ha, hj]
  dsimp only
  rw [if_neg (not_not.2 hheld), if_pos (by rw [hchk, decide_eq_true hshort]; rfl)]

/-! ## Words whose X word is missing, and X words that stand first (R61, R74) -/

theorem issueBadX_issuer {s : State} {e : Issue × SubGroup × Group} (h : issuer s = some e) (detail : BitVec 8) :
    issueBadX s detail = .next { s.enterTrap e.1.sid e.1.lanes
      { cause := 1, detail := detail, info := 0, fmask := e.1.lanes, next := false, tpc := e.1.pc, len := 8, iword := e.1.iword, xword := 0 }
      with issuing := none } := by
  unfold issuer at h
  split at h
  · cases h
  next is his =>
    split at h
    · cases h
    · split at h
      · cases h
      · cases h; rw [issueBadX, his]

theorem issueMem_bad {s : State} {w : FWord} {x : Option XWord} {needX : Bool} {g : Sig} {body : Body}
    (h : ((needX || xBit w) && x.isNone) = true) : issueMem s w x needX g body = issueBadX s 6 := if_pos h

theorem detail_fWord (op : BitVec 10) (f : FWord) : (if wordClass (f.toWord op) = 3 then (5 : BitVec 8) else 6) = 6 :=
  if_neg (by rw [Laws.XWords.class_f]; decide)

theorem fieldOf_wordClass {w : Word} : fieldOf w 62 2 = 3 ↔ wordClass w = 3 := by
  rw [← BitVec.toNat_inj, wordClass, BitVec.extractLsb'_toNat, Nat.shiftRight_eq_div_pow]; rfl

theorem formed_of_ite {b : Bool} {α : Type} {x : α} (h : (if b = true then none else some x) = none) : b = true := by
  cases b
  · cases h
  · rfl

/-- A word with no head and legality of its own traps its issue set: a head without its X word, or an X word. -/
theorem exec_of_form_none {s : State} {i : Instr} {w : Word} {y : Option Word} (he : encode i = some (w, y)) (hf : form s i = none)
    (hp : ∀ p, i ≠ .pairedWord p) : exec i s = issueBadX s (if wordClass w = 3 then 5 else 6) := by
  cases i with
  | pairedWord p => exact absurd rfl (hp p)
  | reservedEncoding w x =>
    cases he
    have h3 : fieldOf w 62 2 = 3 := by
      by_contra h3
      rw [form, if_neg h3] at hf; cases hf
    rw [if_pos (fieldOf_wordClass.mp h3)]
    exact if_pos h3
  | tie f x | loopq f x | mmaBs f x | mmaSp f x | smerge f x =>
    cases he; rw [detail_fWord]
    cases x with
    | none => rfl
    | some x => cases hf
  | ldw f x | atom f x | atomcas f x =>
    cases he; rw [detail_fWord]
    exact issueMem_bad (formed_of_ite hf)
  | ldg f x | stg f x | ldl f x | stl f x | lds f x | sts f x | post f x | red f x | home f x | migrG f x | migrL f x | bcallT f x | bcallN f x
  | ctxsave f x | ctxload f x =>
    cases he; rw [detail_fWord]
    exact issueMem_bad (needX := false) (formed_of_ite hf)
  | iadd f | isub f | imul f | imad f | imulh f | idiv f | irem f | imin f | imax f | iabs f | ineg f | and f | or f | xor f | not f | andn f
  | btab f | shl f | shr f | sar f | cshf f | popc f | clz f | ctz f | brev f | bfe f | bfi f | prmt f | lea f | icmp f | ptab f | isel f | sel f
  | mov f | fadd f | fsub f | fmul f | ffma f | fmin f | fmax f | fabs f | fneg f | fsgn f | fcmp f | fclass f | frnd f | frcp f | frsq f | fsqrt f
  | fexp2 f | flog2 f | fsin f | fcos f | dadd f | dsub f | dmul f | dfma f | dmin f | dmax f | dabs f | dneg f | dcmp f | dclass f | drnd f | cvt f
  | cvtf f | pack f | unpack f | qscale f | dqscale f | fldexp f | ffrexp f | xlane f | vote f | ballot f | scan f | segscan f | redux f | matchM f
  | elect f | active f | brx f | calli f | ret f | join f | exit f | yield f | nop f | qcfg f | qidx f | qld f | qclose f | fence f | fenceX f
  | mma f | bmc f | bmx f | kset f | ktst f | mpart f | cp f | cpm f | cpcv f | cpw f | capr f | capw f | bwait f | barc f | barw f | barx f | mbar f
  | gbara f | gbarw f | qpush f | qpop f | trap f | tfence f | tret f | tlbf f | clkrd f | halt f | dstep f
  | qtryPush f | qtryPop f | movsRead f | movsWrite f | movspRead f | movspWrite f | segldL f | segldP f | tlbiVa f | tlbiCtx f | tlbiAll f
  | dlsetRel f | dlsetAbs f | dlsetDef f => cases hf
  | iaddI w | isubI w | imulI w | imulhI w | idivI w | iremI w | iminI w | imaxI w | andI w | orI w | xorI w | andnI w | shlI w | shrI w | sarI w
  | prmtI w | icmpI w | movI w | faddI w | fsubI w | fmulI w | fminI w | fmaxI w | fcmpI w | daddI w | dsubI w | dmulI w | dminI w | dmaxI w
  | dcmpI w | bra w | call w | trapI w | dlsetI w => cases hf
  | _ => cases he

theorem form_reservedEncoding_sig {s : State} {w : Word} {x : Option XWord} {h : Hd} {g : Sig}
    (hf : form s (.reservedEncoding w x) = some (h, g)) : g = noWordSig := by
  simp only [form] at hf
  split at hf
  · cases hf
  · cases hf; rfl

end Sys2Proof.Machine
end

section
/-! ## The obligation on what traps before a word takes effect -/

namespace Sys2Proof

open Machine Safety

/-- Settles O43: each clause is one outcome of the issue of a word (`issueWord_run`), or of a word that has no head and legality of its
own (`exec_of_form_none`). -/
theorem issueTraps : Obligations.IssueTraps := by
  refine ⟨?_, ?_, ?_⟩
  · intro s i h g r back loose hf hr
    exact ⟨exec_back hf hr, exec_loose hf hr, fun f => exec_fails hf hr, exec_short hf hr⟩
  · intro s i w x e hi he hf hp
    rw [exec_of_form_none he hf hp, issueBadX_issuer hi]
  · intro s w x h g r hf hr hc ha
    have hj : g.judge r.sg r.g = some ⟨3, 1, 1⟩ := by rw [form_reservedEncoding_sig hf]; rfl
    rw [exec_fails hf hr hc ha hj]

end Sys2Proof
end

section
/-! # Branches, NOP, TFENCE, YIELD and P words (O4, O11)

A word of these completes in two parts: it writes its own sub-group, and its lanes retire at their PCs. What a quiet retirement leaves is
`State.retireAt_quiet`; here it is stated for whatever the word wrote before it. -/

namespace Sys2Proof.Machine

open Sys2Proof Sys2Proof.Safety

theorem OnlySub.of_updSub {s t : State} {sid : Nat} {sg v : SubGroup} {f : SubGroup → SubGroup} (hsub : SMap.get? s.subs sid = some sg)
    (h : OnlySub (s.updSub sid f) t sid v) : OnlySub s t sid v := by
  rw [OnlySub, State.updSub_of_get? f hsub] at h
  rw [OnlySub, h]
  simp

theorem RegsAfter.trans {a b c : SubGroup} {ws ws' : List (Reg × Word)} (h : RegsAfter a b ws) (h' : RegsAfter b c ws') :
    RegsAfter a c (ws ++ ws') := by
  intro x hx
  rw [h' x hx, after, after, List.reverse_append, List.find?_append]
  cases ws'.reverse.find? (fun w => decide (w.1 = x)) with
  | some w => rfl
  | none => exact h x hx

theorem RegsAfter.of_reg_eq {a b : SubGroup} (h : ∀ x, b.reg x = a.reg x) : RegsAfter a b [] := fun x _ => h x

/-- What a word has written to its own sub-group before its lanes retire: registers and flags, the lanes standing where they stood. -/
structure Written (a b : SubGroup) (ws : List (Reg × Word)) (fl : Flags) : Prop where
  lanes  : b.lanes = a.lanes
  kept   : Kept a b
  regs   : RegsAfter a b ws
  aflags : b.aflags = a.aflags ||| (fl &&& 0x3F)
  seed   : b.seed = a.seed

theorem Written.refl (a : SubGroup) : Written a a [] 0 := ⟨rfl, Kept.refl a, fun _ _ => rfl, by simp, rfl⟩

theorem Written.settle (a : SubGroup) (m : Mask) : Written a (a.settle m) [] 0 :=
  ⟨rfl, Kept.refl a, RegsAfter.of_reg_eq fun x => by cases x <;> rfl, by simp [SubGroup.settle], rfl⟩

/-- A WORD COMPLETES: after what it wrote, a quiet retirement at some PCs leaves the word completed at them. -/
theorem State.retireAt_completed {s : State} {r : Run} {u : SubGroup} {pc : Nat → Word} {ws : List (Reg × Word)} {fl : Flags} (tpc iw xw : Word)
    (hu : SMap.get? s.subs r.sid = some u) (hw : Written r.sg u ws fl) (hnow : r.now = (s.stn r.sg.mast r.sg.stn).cycles)
    (hq : quiet r pc = true) :
    ∃ v, OnlySub s { s.retireAt r.sid r.set r.stall r.len pc tpc iw xw with issuing := none } r.sid v ∧ Completed r v pc ws fl := by
  obtain ⟨hlanes, hkept, hregs, hflags, hseed⟩ := hw
  have hplace : (s.stn u.mast u.stn).cycles = r.now := by
    obtain ⟨_, hmast, hstn, _⟩ := hkept
    rw [hmast, hstn, hnow]
  refine ⟨({ u with lanes := lanesAfter r pc } : SubGroup).prune r.now, ?_, moved_lanesAfter r pc _ rfl, hkept, ?_, hflags, hseed⟩
  · rw [State.retireAt_quiet tpc iw xw hu hlanes hplace hq, OnlySub]
  · intro x hx
    rw [SubGroup.prune_reg, SubGroup.withLanes_reg]
    exact hregs x hx

/-- The same of a word that retires at the address after it. -/
theorem Run.done_completed {s : State} {r : Run} {u : SubGroup} {ws : List (Reg × Word)} {fl : Flags} (hu : SMap.get? s.subs r.sid = some u)
    (hw : Written r.sg u ws fl) (hnow : r.now = (s.stn r.sg.mast r.sg.stn).cycles) (hq : quiet r (nextPc r) = true) :
    ∃ v, OnlySub s { r.done s with issuing := none } r.sid v ∧ Completed r v (nextPc r) ws fl := by
  rw [retire_eq hu hw.lanes]
  exact State.retireAt_completed _ _ _ hu hw hnow hq

/-- A WORD THAT ISSUES has the effect of its body, and its run is that of the issue set. -/
theorem exec_issued {s : State} {i : Instr} {h : Hd} {g : Sig} {r : Run} {info : Run → Nat → Word} {body : Body} (hi : issues s i = some r)
    (hf : form s i = some (h, g)) (he : exec i s = issueWord s h.gneg h.guard h.stall h.len g info body) :
    exec i s = .next { body r s with issuing := none } ∧ run s h = some r := by
  obtain ⟨h', g', hf', hr, hp⟩ := issues_eq hi
  obtain ⟨rfl, rfl⟩ : h = h' ∧ g = g' := by simpa [hf] using hf'
  exact ⟨he.trans (issueWord_passes hr hp), hr⟩

theorem exec_issuedF {s : State} {i : Instr} {w : FWord} {x : Option XWord} {g : Sig} {r : Run} {body : Body} (hi : issues s i = some r)
    (hf : form s i = some (hdX w x, g)) (he : exec i s = issueF s w x g body) :
    exec i s = .next { body r s with issuing := none } ∧ run s (hdX w x) = some r :=
  exec_issued (info := fun r _ => r.pc) hi hf he

theorem exec_issuedI {s : State} {i : Instr} {w : IWord} {g : Sig} {r : Run} {body : Body} (hi : issues s i = some r)
    (hf : form s i = some (hdI w, g)) (he : exec i s = issueI s w g body) :
    exec i s = .next { body r s with issuing := none } ∧ run s (hdI w) = some r :=
  exec_issued (info := fun r _ => r.pc) hi hf he

/-! ## Targets (R60, R104, R113) -/

theorem signedField_toNat {n : Nat} (x : BitVec n) (h : 0 < n) : signedField x.toNat n = x.toInt := by
  obtain ⟨m, rfl⟩ : ∃ m, n = m + 1 := ⟨n - 1, by omega⟩
  rw [signedField, BitVec.toInt_eq_toNat_cond, Nat.add_sub_cancel, Nat.pow_succ]
  have : x.toNat ≥ 2 ^ m ↔ ¬ 2 * x.toNat < 2 ^ m * 2 := by omega
  split_ifs with hs hc hc
  · omega
  · rw [Int.natCast_mul, Int.natCast_pow, Int.pow_succ]; rfl
  · rfl
  · omega

theorem iTarget_eq (w : IWord) (pc : Word) : iTarget w pc = pc + BitVec.ofInt 64 (8 * wordCount w) := by
  unfold iTarget relTarget wordCount
  cases hx : w.x with
  | none => simp only [signedField_toNat w.imm (by decide)]
  | some x =>
    have hl : iLiteral w = (x.extractLsb' 0 34 ++ w.imm : BitVec 64).toNat := by
      rw [iLiteral, hx, BitVec.toNat_append, ← Nat.shiftLeft_add_eq_or_of_lt w.imm.isLt, Nat.shiftLeft_eq, BitVec.extractLsb'_toNat,
        Nat.shiftRight_eq_div_pow]
      rfl
    rw [hl, signedField_toNat _ (by decide)]

theorem tieMeet_eq (pc : Word) (x : XWord) : tieMeet pc x = pc + BitVec.ofInt 64 (8 * (x.extractLsb' 0 30).toInt) := by
  have hf : fieldOf x 0 30 = (x.extractLsb' 0 30).toNat := by
    rw [BitVec.extractLsb'_toNat, Nat.shiftRight_eq_div_pow]; rfl
  rw [tieMeet, relTarget, hf, signedField_toNat _ (by decide)]

theorem branchReg_good {r : Run} {s : State} {o : Operand} (h : goodTargets r o = true) : branchReg r s o = r.branch s (regTarget r o) := by
  have hgood : ∀ l ∈ lanesOf r.act, (regTarget r o l).toNat % 8 = 0 ∧ ((regTarget r o l).getLsbD 63 = false ∨ r.sg.sv = true) := by
    simpa only [goodTargets, List.all_eq_true, Bool.and_eq_true, decide_eq_true_eq, Bool.or_eq_true, Bool.not_eq_true'] using h
  have hodd : maskOf ((lanesOf r.act).filter (fun l => decide ((regTarget r o l).toNat % 8 ≠ 0))) = 0 := by
    rw [List.filter_eq_nil_iff.mpr fun l hl => by simp [(hgood l hl).1]]; rfl
  have hhigh : maskOf ((lanesOf r.act).filter (fun l => (regTarget r o l).getLsbD 63 && !r.sg.sv)) = 0 := by
    rw [List.filter_eq_nil_iff.mpr fun l hl => by obtain h63 | hsv := (hgood l hl).2 <;> simp_all]; rfl
  exact (if_neg (not_not.2 hodd)).trans (if_neg (not_not.2 hhigh))

/-! ## Each word's effect -/

theorem Run.branch_completed {s : State} {h : Hd} {r : Run} {target : Nat → Word} (hr : run s h = some r)
    (hq : quiet r (branchPc r target) = true) :
    ∃ v, OnlySub s { r.branch s target with issuing := none } r.sid v ∧ Completed r v (branchPc r target) [] 0 :=
  State.retireAt_completed _ _ _ (run_sub hr) (Written.refl r.sg) (run_now hr) hq

theorem Run.done_completed_bare {s : State} {h : Hd} {r : Run} (hr : run s h = some r) (hq : quiet r (nextPc r) = true) :
    ∃ v, OnlySub s { r.done s with issuing := none } r.sid v ∧ Completed r v (nextPc r) [] 0 :=
  Run.done_completed (run_sub hr) (Written.refl r.sg) (run_now hr) hq


theorem exec_nop {s : State} {w : FWord} {r : Run} (hi : issues s (.nop w) = some r) (hq : quiet r (nextPc r) = true) :
    ∃ t u, exec (.nop w) s = .next t ∧ OnlySub s t r.sid u ∧ Completed r u (nextPc r) [] 0 := by
  obtain ⟨hexec, hr⟩ := exec_issuedF (w := w) (x := none) (g := bareSig w) (body := fun r s => r.done s) hi rfl rfl
  exact ⟨_, _, hexec, (Run.done_completed_bare hr hq).choose_spec⟩

theorem exec_bra {s : State} {w : IWord} {r : Run} (hi : issues s (.bra w) = some r)
    (hq : quiet r (branchPc r (fun _ => r.pc + BitVec.ofInt 64 (8 * wordCount w))) = true) :
    ∃ t u, exec (.bra w) s = .next t ∧ OnlySub s t r.sid u ∧ Completed r u (branchPc r (fun _ => r.pc + BitVec.ofInt 64 (8 * wordCount w))) [] 0 := by
  obtain ⟨hexec, hr⟩ := exec_issuedI (w := w) (g := braSig w) (body := fun r s => r.branch s (fun _ => iTarget w r.pc)) hi rfl rfl
  rw [iTarget_eq] at hexec
  exact ⟨_, _, hexec, (Run.branch_completed hr hq).choose_spec⟩

/-- The effect of BRX and of RET, which are one (R105). -/
theorem branchReg_completed {s : State} {h : Hd} {r : Run} {o : Operand} (hr : run s h = some r) (hgood : goodTargets r o = true)
    (hq : quiet r (branchPc r (regTarget r o)) = true) :
    ∃ v, OnlySub s { branchReg r s o with issuing := none } r.sid v ∧ Completed r v (branchPc r (regTarget r o)) [] 0 := by
  rw [branchReg_good hgood]
  exact Run.branch_completed hr hq

theorem exec_tfence {s : State} {w : FWord} {r : Run} (hi : issues s (.tfence w) = some r) (hout : r.g.outst = [])
    (hflags : r.sg.aflags &&& r.sg.atrap &&& 0x3F = 0) (hq : quiet r (nextPc r) = true) :
    ∃ t u, exec (.tfence w) s = .next t ∧ OnlySub s t r.sid u ∧ Completed r u (nextPc r) [] 0 := by
  obtain ⟨hexec, hr⟩ := exec_issuedF (w := w) (x := none) (g := bareSig w) (body := fun r s => settled r s (fun s =>
    if r.sg.trapFlags &&& 0x3F = 0 then r.done s else r.trapOf s r.act 0x0E 0 ((r.sg.trapFlags &&& 0x3F).setWidth 64) r.act true)) hi rfl rfl
  have hids : r.g.outst.map (fun o => o.id) = [] := by rw [hout]; rfl
  have hbody : settled r s (fun s => if r.sg.trapFlags &&& 0x3F = 0 then r.done s
      else r.trapOf s r.act 0x0E 0 ((r.sg.trapFlags &&& 0x3F).setWidth 64) r.act true) = r.done (s.settlePoint r) :=
    (if_pos hids).trans (if_pos hflags)
  rw [hbody] at hexec
  have hsub := run_sub hr
  have hsettled : SMap.get? (s.settlePoint r).subs r.sid = some (r.sg.settle r.set) := by
    rw [State.settlePoint, State.updSub_of_get? _ hsub, SMap.get?_put_same]
  have hnow := run_now hr
  obtain ⟨v, hv, hc⟩ := Run.done_completed hsettled (Written.settle r.sg r.set) hnow hq
  exact ⟨_, v, hexec, OnlySub.of_updSub hsub hv, hc⟩

theorem exec_loopq {s : State} {w : FWord} {x : XWord} {r : Run} {q : Stream} (hi : issues s (.loopq w (some x)) = some r)
    (hs : streamOf r.g w.a = some q) {pc : Nat → Word}
    (hpc : pc = if q.e.getLsbD (w.lo.toNat % 4) = w.lo.getLsbD 2 then branchPc r (fun _ => r.pc + BitVec.ofInt 64 (8 * (x.extractLsb' 0 30).toInt))
      else nextPc r) (hq : quiet r pc = true) :
    ∃ t u, exec (.loopq w (some x)) s = .next t ∧ OnlySub s t r.sid u ∧ Completed r u pc [] 0 := by
  obtain ⟨hexec, hr⟩ := exec_issuedF (w := w) (x := some x) (g := loopqSig w x) (body := fun r s =>
    if (match streamOf r.g w.a with | some q => q.e.getLsbD (w.lo.toNat % 4) | none => false) = w.lo.getLsbD 2
    then r.branch s (fun _ => tieMeet r.pc x) else r.done s) hi rfl rfl
  simp only [hs, tieMeet_eq] at hexec
  split at hpc
  next he =>
    subst hpc
    rw [if_pos he] at hexec
    exact ⟨_, _, hexec, (Run.branch_completed hr hq).choose_spec⟩
  next he =>
    subst hpc
    rw [if_neg he] at hexec
    exact ⟨_, _, hexec, (Run.done_completed_bare hr hq).choose_spec⟩

theorem exec_branch {s : State} {i : Instr} {r : Run} {pc : Nat → Word} (hi : issues s i = some r) (hb : branchForm r i = some pc)
    (hq : quiet r pc = true) : ∃ t u, exec i s = .next t ∧ OnlySub s t r.sid u ∧ Completed r u pc [] 0 := by
  cases i with
  | nop w => cases hb; exact exec_nop hi hq
  | tfence w =>
    obtain ⟨⟨hout, hflags⟩, hpc⟩ := Option.ite_none_right_eq_some.mp hb
    cases hpc
    exact exec_tfence hi hout hflags hq
  | bra w => cases hb; exact exec_bra hi hq
  | brx w =>
    obtain ⟨hgood, hpc⟩ := Option.ite_none_right_eq_some.mp hb
    cases hpc
    obtain ⟨hexec, hr⟩ := exec_issuedF (w := w) (x := none) (g := brxSig w) (body := fun r s => branchReg r s w.a) hi rfl rfl
    exact ⟨_, _, hexec, (branchReg_completed hr hgood hq).choose_spec⟩
  | ret w =>
    obtain ⟨hgood, hpc⟩ := Option.ite_none_right_eq_some.mp hb
    cases hpc
    obtain ⟨hexec, hr⟩ := exec_issuedF (w := w) (x := none) (g := brxSig w) (body := fun r s => branchReg r s w.a) hi rfl rfl
    exact ⟨_, _, hexec, (branchReg_completed hr hgood hq).choose_spec⟩
  | loopq w x =>
    cases x with
    | none => cases hb
    | some x =>
      obtain ⟨q, hs, hpc⟩ := Option.map_eq_some_iff.mp hb
      exact exec_loopq hi hs hpc.symm hq
  | _ => cases hb

/-! ## YIELD (R112, R212) -/

theorem SubGroup.mapLanes_get? (sg : SubGroup) (m : Mask) (f : Lane → Lane) (l : Nat) :
    SMap.get? (sg.mapLanes m f).lanes l = (SMap.get? sg.lanes l).map (fun y => if m.getLsbD l then f y else y) := by
  rw [← SMap.get?_map sg.lanes (fun l y => if m.getLsbD l then f y else y)]
  congr 1
  exact List.map_congr_left fun e _ => by split <;> simp [*]

theorem SubGroup.mapLanes_reg (sg : SubGroup) (m : Mask) (f : Lane → Lane) (x : Reg) : (sg.mapLanes m f).reg x = sg.reg x := by
  cases x <;> rfl

theorem exec_yield {s : State} {w : FWord} {r : Run} (hi : issues s (.yield w) = some r) (hq : quiet r (nextPc r) = true) :
    ∃ t u, exec (.yield w) s = .next t ∧ OnlySub s t r.sid u ∧ Kept r.sg u ∧ RegsAfter r.sg u [] ∧ u.aflags = r.sg.aflags ∧ u.seed = r.sg.seed ∧
      ∀ l, SMap.get? u.lanes l = (SMap.get? r.sg.lanes l).map (fun x =>
        if r.set.getLsbD l then { laneAfter r (nextPc r l) x with since := r.now + 1, yield := true } else x) := by
  obtain ⟨hexec, hr⟩ := exec_issuedF (w := w) (x := none) (g := bareSig w) (body := fun r s =>
    (r.done s).updSub r.sid (fun sg => sg.mapLanes r.set (fun l => { l with since := r.now + 1, starve := 0, yield := true }))) hi rfl rfl
  obtain ⟨u, hdone, hmoved, hkept, hregs, hflags, hseed⟩ := Run.done_quiet hr hq
  refine ⟨_, u.mapLanes r.set (fun l => { l with since := r.now + 1, starve := 0, yield := true }), hexec, ?_, hkept, ?_, hflags, hseed, ?_⟩
  · rw [hdone, State.updSub_of_get? _ (SMap.get?_put_same ..), OnlySub]
    simp
  · intro x hx
    rw [SubGroup.mapLanes_reg]
    exact hregs x hx
  · intro l
    rw [SubGroup.mapLanes_get?, hmoved l, Option.map_map]
    congr 1
    funext x
    dsimp only [Function.comp]
    split <;> rfl

/-! ## P words (R62 to R64, R74) -/

theorem flagsOf_append (a b : List Flags) : flagsOf (a ++ b) = flagsOf a ||| flagsOf b := by
  have hfold : ∀ (l : List Flags) (x : Flags), l.foldl (fun a f => a ||| f) x = x ||| l.foldl (fun a f => a ||| f) 0 := by
    intro l
    induction l with
    | nil => intro x; simp
    | cons y l ih => intro x; rw [List.foldl_cons, List.foldl_cons, ih (x ||| y), ih (0 ||| y), show (0 ||| y : Flags) = y from BitVec.zero_or, BitVec.or_assoc]
  rw [flagsOf, List.foldl_append, hfold b]
  rfl

/-- A write of 32 bits at most names a register of the machine. -/
theorem dstWrites_narrow_ok (o : Operand) (l x : Nat) : ∀ w ∈ dstWrites o false l x, RegOk w.1 := by
  cases o with
  | v n | s n | p n | k n | d n => have := n.isLt; simp [dstWrites, RegOk]; omega
  | q n | zero | rsv n => simp [dstWrites]

theorem halfResults_ok (r : Run) (h : Half) : ∀ w ∈ halfResults r h, RegOk w.1 := by
  intro w hw
  obtain ⟨o, _, hw⟩ := List.mem_flatMap.mp hw
  exact dstWrites_narrow_ok _ _ _ w hw

/-- Fixed-latency writes, as the word has written them. -/
theorem Written.foldl_writeFixed (a : SubGroup) (now lat : Nat) (ls : List Nat) {ws : List (Reg × Word)} (hws : ∀ w ∈ ws, RegOk w.1) :
    Written a (ws.foldl (fun sg w => sg.writeFixed now lat ls w.1 w.2) a) ws 0 where
  lanes := foldl_keeps _ SubGroup.lanes (fun s a => SubGroup.writeFixed_lanes s _ _ _ _ _) ws a
  kept := SubGroup.foldl_writeFixed_kept a now lat ls ws hws
  regs := fun x hx => SubGroup.foldl_writeFixed_reg a now lat ls ws x hws hx
  aflags := by rw [foldl_keeps _ SubGroup.aflags (fun s a => SubGroup.writeFixed_aflags s _ _ _ _ _) ws a]; simp
  seed := SubGroup.foldl_writeFixed_seed a now lat ls ws hws

theorem Written.trans {a b c : SubGroup} {ws ws' : List (Reg × Word)} {fl fl' : Flags} (h : Written a b ws fl) (h' : Written b c ws' fl') :
    Written a c (ws ++ ws') (fl ||| fl') where
  lanes := h'.lanes.trans h.lanes
  kept := Kept.trans h.kept h'.kept
  regs := RegsAfter.trans h.regs h'.regs
  aflags := by
    rw [h'.aflags, h.aflags]
    exact BitVec.eq_of_getLsbD_eq fun i _ => by simp only [BitVec.getLsbD_or, BitVec.getLsbD_and, Bool.and_or_distrib_right, Bool.or_assoc]
  seed := h'.seed.trans h.seed

theorem Written.raise (a : SubGroup) (fl : Flags) : Written a (a.raise fl) [] fl :=
  ⟨rfl, Kept.refl a, RegsAfter.of_reg_eq (SubGroup.raise_reg a fl), rfl, rfl⟩

/-- What the two halves of a P word leave in their sub-group: half A's writes, then half B's, then the flags of both. -/
def pairSub (r : Run) (w : PWord) : SubGroup :=
  (((halfResults r w.hb).foldl (fun sg x => sg.writeFixed r.now (halfLat w.hb.hop) (lanesOf r.set) x.1 x.2)
    ((halfResults r w.ha).foldl (fun sg x => sg.writeFixed r.now (halfLat w.ha.hop) (lanesOf r.set) x.1 x.2) r.sg))).raise
      (halfFlags r w.ha ||| halfFlags r w.hb)

theorem pairSub_written (r : Run) (w : PWord) :
    Written r.sg (pairSub r w) (halfResults r w.ha ++ halfResults r w.hb) (halfFlags r w.ha ||| halfFlags r w.hb) := by
  have hab := (Written.foldl_writeFixed r.sg r.now (halfLat w.ha.hop) (lanesOf r.set) (halfResults_ok r w.ha)).trans
    (Written.foldl_writeFixed _ r.now (halfLat w.hb.hop) (lanesOf r.set) (halfResults_ok r w.hb))
  simpa [pairSub] using hab.trans (Written.raise _ (halfFlags r w.ha ||| halfFlags r w.hb))

/-- Two halves of which neither fails its checks, within the limit of bank reads, fail nothing. -/
theorem firstFail_halves {ma mb : Mask} {ja jb : Option Fail} {deep : Bool} {f : Fail} (ha : ma = 0 ∨ ja = none) (hb : mb = 0 ∨ jb = none)
    (ho : deep = false) :
    firstFail (firstFail (if ma = 0 then none else ja) (if mb = 0 then none else jb)) (if deep then some f else none) = none := by
  have hnone {m : Mask} {j : Option Fail} (h : m = 0 ∨ j = none) : (if m = 0 then none else j) = none := by
    rcases h with rfl | rfl <;> simp
  rw [hnone ha, hnone hb, ho]
  rfl

theorem exec_pair {s : State} {w : PWord} {r : Run} (hi : pairIssues s w = some r) :
    exec (.pairedWord w) s = .next { r.done (s.updSub r.sid (fun _ => pairSub r w)) with issuing := none } ∧
      SMap.get? s.subs r.sid = some r.sg ∧ r.now = (s.stn r.sg.mast r.sg.stn).cycles := by
  obtain ⟨hrun, hpass⟩ := Option.filter_eq_some_iff.mp hi
  obtain ⟨r0, hr0, rfl⟩ := Option.map_eq_some_iff.mp hrun
  obtain ⟨is, sg, g, h1, h2, h3, rfl⟩ := run_eq hr0
  simp only [Bool.and_eq_true, decide_eq_true_eq, Bool.or_eq_true, Bool.not_eq_true', Option.isNone_iff_eq_none] at hpass
  obtain ⟨⟨⟨⟨⟨⟨⟨⟨hback, hloose⟩, hguard⟩, hact⟩, hja⟩, hjb⟩, hbank⟩, hheld⟩, hshort⟩ := hpass
  refine ⟨?_, h2, rfl⟩
  show execPairedWord w s = _
  unfold execPairedWord
  simp only [h1, h2, h3]
  refine (if_neg (not_not.2 hback)).trans ?_
  refine (if_neg (not_not.2 hloose)).trans ?_
  refine (if_neg (not_not.2 hguard)).trans ?_
  refine (if_neg hact).trans ?_
  have hfail := firstFail_halves (f := ⟨14, 1, 7⟩) hja hjb hbank
  simp only [halfMask] at hfail
  simp only [hfail]
  refine (if_neg (not_not.2 hheld)).trans ?_
  refine (if_neg (ne_true_of_eq_false hshort)).trans ?_
  simp only [State.updSub_of_get? _ h2, List.map_append, flagsOf_append]
  rfl

/-- A P word completes with the writes of half A, then of half B. -/
theorem exec_pair_completed {s : State} {w : PWord} {r : Run} (hi : pairIssues s w = some r) (hq : quiet r (nextPc r) = true) :
    ∃ t u, exec (.pairedWord w) s = .next t ∧ OnlySub s t r.sid u ∧
      Completed r u (nextPc r) (halfResults r w.ha ++ halfResults r w.hb) (halfFlags r w.ha ||| halfFlags r w.hb) := by
  obtain ⟨hexec, hsub, hnow⟩ := exec_pair hi
  have hu : SMap.get? (s.updSub r.sid (fun _ => pairSub r w)).subs r.sid = some (pairSub r w) := by
    rw [State.updSub_of_get? _ hsub, SMap.get?_put_same]
  have hnow : r.now = ((s.updSub r.sid (fun _ => pairSub r w)).stn r.sg.mast r.sg.stn).cycles := hnow
  obtain ⟨v, hv, hc⟩ := Run.done_completed hu (pairSub_written r w) hnow hq
  exact ⟨_, v, hexec, OnlySub.of_updSub hsub hv, hc⟩

end Sys2Proof.Machine
end

section
namespace Sys2Proof
open Machine Safety

/-- Settles O11: a branch retires at its target in its active lanes and at the next word in the others; NOP and TFENCE at the next
word; YIELD likewise, marked and with no cycle waited. -/
theorem branchWords : Obligations.BranchWords :=
  ⟨fun _ _ _ _ hi hb hq => exec_branch hi hb hq, fun _ _ _ hi hq => exec_yield hi hq⟩

/-- Settles O4: the writes of a P word are half A's results, then half B's, each read in the registers as they stood at issue. -/
theorem pairedWord : Obligations.PairedWord := fun _ _ _ hi hq => exec_pair_completed hi hq

end Sys2Proof
end

section
/-! # Words of memory and the trap frame: a word stored reads back, a frame written stands at its places, the handler is entered in it -/

namespace Sys2Proof.Machine

open Sys2Proof Sys2Proof.Safety

/-! ## Words in memory -/

@[simp] theorem leBytes_length (n x : Nat) : (leBytes n x).length = n := by
  induction n generalizing x with
  | zero => rfl
  | succ n ih => rw [leBytes, List.length_cons, ih]

theorem leNat_leBytes (n x : Nat) : leNat (leBytes n x) = x % 256 ^ n := by
  induction n generalizing x with
  | zero => simp [leBytes, leNat, Nat.mod_one]
  | succ n ih =>
    rw [leBytes, leNat, ih, BitVec.toNat_ofNat, Nat.pow_succ' (m := 256), Nat.mod_mul (x := x)]

theorem State.bytes_store_same (s : State) (c : Nat) (bs : List Byte) : (s.store c bs).bytes c bs.length = bs := by
  refine List.ext_getElem (by simp [State.bytes]) fun i h _ => ?_
  have hi : i < bs.length := by simpa [State.bytes] using h
  simp [State.bytes, writeMem_get, hi]

/-- A word stored reads back. -/
theorem State.word_store_same (s : State) (c : Nat) (w : Word) : (s.store c (leBytes 8 w.toNat)).word c = w := by
  have h := s.bytes_store_same c (leBytes 8 w.toNat)
  rw [leBytes_length] at h
  rw [State.word, h, leNat_leBytes, Nat.mod_eq_of_lt (show w.toNat < 256 ^ 8 from w.isLt), BitVec.ofNat_toNat, BitVec.setWidth_eq]

/-- A word of memory is made of its eight bytes. -/
theorem State.word_congr {s t : State} {c : Nat} (h : ∀ a, c ≤ a → a < c + 8 → RMap.get (n := 8) t.mem a = RMap.get (n := 8) s.mem a) :
    t.word c = s.word c := by
  have hb : t.bytes c 8 = s.bytes c 8 := List.map_congr_left fun i hi => h _ (by omega) (by have := List.mem_range.mp hi; omega)
  rw [State.word, hb, State.word]

/-! ## The frame -/

/-- What a trap frame's words are written to: the place of each word of a list (R196). -/
def FrameCells (s : State) (ctx : Nat) (c : Ctx) (va : Word) (n : Nat) (cells : Nat → Nat) : Prop :=
  ∀ i < n, s.frameAt ctx c (va + BitVec.ofNat 64 (8 * i)) = .cell (cells i)

theorem FrameCells.head {s : State} {ctx : Nat} {c : Ctx} {va : Word} {n : Nat} {cells : Nat → Nat} (h : FrameCells s ctx c va (n + 1) cells) :
    s.frameAt ctx c va = .cell (cells 0) := by
  simpa using h 0 (Nat.succ_pos n)

/-- A store moves no place of a frame. -/
theorem FrameCells.tail_store {s : State} {ctx : Nat} {c : Ctx} {va : Word} {n : Nat} {cells : Nat → Nat} (k : Nat) (bs : List Byte)
    (h : FrameCells s ctx c va (n + 1) cells) : FrameCells (s.store k bs) ctx c (va + 8) n (fun i => cells (i + 1)) := by
  intro i hi
  have hva : va + 8 + BitVec.ofNat 64 (8 * i) = va + BitVec.ofNat 64 (8 * (i + 1)) := by
    rw [BitVec.add_assoc, Nat.mul_succ, Nat.add_comm (8 * i), BitVec.ofNat_add]
    rfl
  rw [hva]
  exact h (i + 1) (Nat.succ_lt_succ hi)

theorem State.putFrame_cons {s : State} {ctx : Nat} {c : Ctx} {va : Word} {p : Nat} (w : Word) (ws : List Word) (h : s.frameAt ctx c va = .cell p) :
    s.putFrame ctx c va (w :: ws) = (s.store p (leBytes 8 w.toNat)).putFrame ctx c (va + 8) ws := by
  rw [State.putFrame, h]

theorem State.putFrame_subs (s : State) (ctx : Nat) (c : Ctx) (va : Word) (ws : List Word) : (s.putFrame ctx c va ws).subs = s.subs := by
  induction ws generalizing s va with
  | nil => rfl
  | cons w ws ih => rw [State.putFrame, ih]; split <;> rfl

theorem State.putFrame_groups (s : State) (ctx : Nat) (c : Ctx) (va : Word) (ws : List Word) : (s.putFrame ctx c va ws).groups = s.groups := by
  induction ws generalizing s va with
  | nil => rfl
  | cons w ws ih => rw [State.putFrame, ih]; split <;> rfl

/-- Writing a frame changes no byte outside its words. -/
theorem State.putFrame_other {s : State} {ctx : Nat} {c : Ctx} {va : Word} {ws : List Word} {cells : Nat → Nat}
    (h : FrameCells s ctx c va ws.length cells) {a : Nat} (ha : ∀ i < ws.length, a < cells i ∨ cells i + 8 ≤ a) :
    RMap.get (n := 8) (s.putFrame ctx c va ws).mem a = RMap.get (n := 8) s.mem a := by
  induction ws generalizing s va cells with
  | nil => rfl
  | cons w ws ih =>
    rw [State.putFrame_cons w ws h.head, ih (h.tail_store _ _) fun i hi => ha (i + 1) (Nat.succ_lt_succ hi),
      State.store_other _ _ _ _ (by simpa using ha 0 (Nat.succ_pos _))]

/-- Each word of a frame whose words lie apart stands at its place. -/
theorem State.putFrame_word {s : State} {ctx : Nat} {c : Ctx} {va : Word} {ws : List Word} {cells : Nat → Nat}
    (h : FrameCells s ctx c va ws.length cells)
    (hd : ∀ i < ws.length, ∀ j < ws.length, i ≠ j → cells i + 8 ≤ cells j ∨ cells j + 8 ≤ cells i) {i : Nat} (hi : i < ws.length) :
    (s.putFrame ctx c va ws).word (cells i) = ws.getD i 0 := by
  induction ws generalizing s va cells i with
  | nil => exact absurd hi (Nat.not_lt_zero i)
  | cons w ws ih =>
    rw [State.putFrame_cons w ws h.head]
    cases i with
    | zero =>
      have hother := State.word_congr (c := cells 0) fun a h1 h2 =>
        State.putFrame_other (ws := ws) (h.tail_store (cells 0) (leBytes 8 w.toNat)) (a := a) fun i hi => by
          have := hd 0 (Nat.succ_pos _) (i + 1) (Nat.succ_lt_succ hi) (Nat.succ_ne_zero i).symm
          omega
      rw [hother, State.word_store_same, List.getD_cons_zero]
    | succ i =>
      rw [List.getD_cons_succ]
      exact ih (h.tail_store _ _) (fun j hj k hk hjk => hd _ (Nat.succ_lt_succ hj) _ (Nat.succ_lt_succ hk) (by omega)) (Nat.lt_of_succ_lt_succ hi)

theorem frameWords_length (sg : SubGroup) (lanes : Mask) (held : List (Mask × Word)) (t : TrapReq) : (frameWords sg lanes held t).length = 80 := by
  simp [frameWords]

/-! ## Entering the handler -/

/-- The lanes of a trap as the handler finds them (R196, R70). -/
def handlerSub (sg : SubGroup) (lanes : Mask) (va tvec : Word) (at' : Nat) : SubGroup :=
  let u := { sg with tframe := va, depth := sg.depth + 1 }
  { ((u.mapLanes lanes (fun l => { l with pc := tvec, st := .ready, step := false, rel := none, refuse := none,
                                          readyAt := max l.readyAt at' })).settle lanes) with ctl := u.ctl ||| 4 }

theorem State.enterFrame_eq {s : State} {sid : Nat} {lanes : Mask} {sg : SubGroup} {g : Group} {c : Ctx} {va : Word} {f : Nat} {q : TrapReq}
    (hs : SMap.get? s.subs sid = some sg) (hg : SMap.get? s.groups sg.gid = some g) (hv : c.tvec ≠ 0) :
    s.enterFrame sid lanes sg g c va f q =
      { s.putFrame g.ctx c va (frameWords sg lanes (s.heldAt sg.gid sg.mast sg.stn) q) with
        subs := SMap.put s.subs sid (handlerSub sg lanes va c.tvec ((s.stn sg.mast sg.stn).cycles + max (stallField q.iword) 1))
        groups := SMap.put s.groups sg.gid { g with frames := SMap.put g.frames f lanes } } := by
  unfold State.enterFrame
  simp only [if_neg hv, State.updSub, State.updGroup, State.putFrame_subs, State.putFrame_groups, SMap.upd_some _ _ _ _ hs,
    SMap.upd_some _ _ _ _ hg, SMap.upd_some _ _ _ _ (SMap.get?_put_same s.subs sid _), SMap.put_put]
  rfl

theorem State.enterHandler_eq {s : State} {sid : Nat} {lanes : Mask} {sg : SubGroup} {g : Group} {c : Ctx} {cr : Crew} {va : Word} {f : Nat}
    {q : TrapReq} {p p' : Nat} (hs : SMap.get? s.subs sid = some sg) (hg : SMap.get? s.groups sg.gid = some g)
    (hc : SMap.get? s.ctxs g.ctx = some c) (hcr : s.crewOf g = some cr) (hva : s.frameOf g cr f = some va) (hf : g.freeFrame = some f)
    (hfirst : s.frameAt g.ctx c va = .cell p) (hlast : s.frameAt g.ctx c (va + 0x278) = .cell p') :
    s.enterHandler sid lanes q = s.enterFrame sid lanes sg g c va f q := by
  have hw : g.walker = false := by
    unfold State.crewOf at hcr
    cases h : g.cid with
    | none => rw [h] at hcr; exact absurd hcr (by simp)
    | some k => rw [Group.walker, h]; rfl
  unfold State.enterHandler
  simp only [hs, hg, hc, hcr, hva, hf, hw, Bool.false_eq_true, if_false, Option.bind_some, Option.map_some, hfirst, hlast]

/-- Where no ready lane stands at its meeting address, none is held (R31). -/
theorem State.holdReadyBy_of_none {trap : TrapWay} {s : State} {sid : Nat} {sg : SubGroup} (hs : SMap.get? s.subs sid = some sg)
    (h : ∀ e ∈ sg.lanes, ¬(e.2.st = .ready ∧ e.2.rel = none ∧ e.2.refuse = none ∧ e.2.meet ≠ 0 ∧ e.2.pc = e.2.meet)) :
    State.holdReadyBy trap s sid = s := by
  unfold State.holdReadyBy
  simp only [hs]
  rw [List.filter_eq_nil_iff.mpr]
  · rfl
  · intro e he
    simpa [and_assoc] using h e he

/-- A trap whose frame has its places and whose vector is no lane's meeting address enters the handler, and holds no lane. -/
theorem State.enterTrap_eq {s : State} {sid : Nat} {lanes : Mask} {q : TrapReq} {sg : SubGroup} {g : Group} {c : Ctx} {cr : Crew} {va : Word} {f : Nat}
    {cells : Nat → Nat} (hs : SMap.get? s.subs sid = some sg) (hg : SMap.get? s.groups sg.gid = some g)
    (hc : SMap.get? s.ctxs g.ctx = some c) (hcr : s.crewOf g = some cr) (hva : s.frameOf g cr f = some va) (hf : g.freeFrame = some f)
    (hv : c.tvec ≠ 0) (hcells : FrameCells s g.ctx c va 80 cells)
    (hmeet : ∀ e ∈ sg.lanes, if lanes.getLsbD e.1 then e.2.meet = 0 ∨ e.2.meet ≠ c.tvec
      else ¬(e.2.st = .ready ∧ e.2.rel = none ∧ e.2.refuse = none ∧ e.2.meet ≠ 0 ∧ e.2.pc = e.2.meet)) :
    s.enterTrap sid lanes q = s.enterFrame sid lanes sg g c va f q := by
  have hlast : s.frameAt g.ctx c (va + 0x278) = .cell (cells 79) := hcells 79 (by decide)
  show State.holdReadyBy _ (s.enterHandler sid lanes q) sid = _
  rw [State.enterHandler_eq hs hg hc hcr hva hf hcells.head hlast]
  refine State.holdReadyBy_of_none (sg := handlerSub sg lanes va c.tvec _) (by rw [State.enterFrame_eq hs hg hv, SMap.get?_put_same]) ?_
  intro e he
  obtain ⟨d, hd, rfl⟩ := List.mem_map.mp (show e ∈ List.map _ sg.lanes from he)
  have hm := hmeet d hd
  split at hm <;> rename_i hl
  · rw [if_pos hl]
    rintro ⟨-, -, -, hne, heq⟩
    exact hm.elim hne fun h => h heq.symm
  · rw [if_neg hl]
    exact hm

theorem handlerSub_get? (sg : SubGroup) (lanes : Mask) (va tvec : Word) (at' l : Nat) :
    SMap.get? (handlerSub sg lanes va tvec at').lanes l = (SMap.get? sg.lanes l).map (fun x =>
      if lanes.getLsbD l then { x with pc := tvec, st := .ready, step := false, rel := none, refuse := none, readyAt := max x.readyAt at' } else x) :=
  SubGroup.mapLanes_get? { sg with tframe := va, depth := sg.depth + 1 } lanes
    (fun x => { x with pc := tvec, st := .ready, step := false, rel := none, refuse := none, readyAt := max x.readyAt at' }) l

theorem handlerSub_kept (sg : SubGroup) (lanes : Mask) (va tvec : Word) (at' : Nat) :
    Kept { sg with tframe := va, depth := sg.depth + 1, ctl := sg.ctl ||| 4 } (handlerSub sg lanes va tvec at') := by
  simp [Kept, handlerSub, SubGroup.settle, SubGroup.mapLanes]

theorem handlerSub_regs (sg : SubGroup) (lanes : Mask) (va tvec : Word) (at' : Nat) : RegsAfter sg (handlerSub sg lanes va tvec at') [] :=
  fun x hx => by
  cases x with
  | x n => exact hx.elim
  | _ => rfl

end Sys2Proof.Machine
end

section
namespace Sys2Proof
open Machine Safety

/-- Settles O35: the trap enters the handler in its frame and holds no lane; the frame's words stand at their places. -/
theorem trapEntry : Obligations.TrapEntry := by
  refine ⟨?_, ?_⟩
  · intro s sid lanes q sg g c cr va f cells t hs hg hc hcr hva hf hv hcells hd hmeet
    have ht : t = _ := (State.enterTrap_eq hs hg hc hcr hva hf hv hcells hmeet).trans (State.enterFrame_eq hs hg hv)
    have hlen := frameWords_length sg lanes (s.heldAt sg.gid sg.mast sg.stn) q
    refine ⟨_, _, by rw [ht]; exact SMap.get?_put_same _ _ _, ?_, handlerSub_get? sg lanes va c.tvec _, handlerSub_kept ..,
      handlerSub_regs sg lanes va c.tvec _, rfl, rfl, by rw [ht]; exact SMap.get?_put_same _ _ _, rfl, SMap.get?_put_same _ _ _, ?_⟩
    · intro i hi
      rw [ht]
      exact State.putFrame_word (by rwa [hlen]) (by rwa [hlen]) (by rwa [hlen])
    · intro a ha
      rw [ht]
      exact State.putFrame_other (by rwa [hlen]) (by rwa [hlen])
  · intro s g c cr f slots hc hm hslots
    have hown : s.own cr.mast = true := decide_eq_true hm
    simp [State.frameOf, hm, hc, hslots, hown]

end Sys2Proof
end

section
/-! # A late result outside the register file (O48)

An outstanding result is any list of registers. One that names register 64 of a lane, as the upper half of a pair from v63 does, is written
where register 0 of the next lane stands. -/

namespace Sys2Proof.Machine

open Sys2Proof Sys2Proof.Safety

/-- A sub-group that is the only copy on its device holds each lane once. -/
theorem lanesOnce_of_single {s : State} {k : Nat} {sg : SubGroup} (h : s.subs = [(k, sg)]) : LanesOnce s := by
  simp [LanesOnce, h]

/-- A result for register 64 of lane 0, which no lane has. -/
def spillResult : Outst := { id := 3, lane := 0, path := 3, writes := [(.v 0 64, some 7)] }
def spillGroup : Group := { Group.launch 1 none 0 2 8 with outst := [spillResult] }
def spillSub : SubGroup := SubGroup.launch 1 0 0 2 0x1000 0 [] 0 65536 0 0
/-- Two lanes, of which lane 0 has that result outstanding. -/
def spillState : State := { State.reset with groups := [(1, spillGroup)], subs := [(2, spillSub)] }

/-- The delivery writes register 0 of lane 1. -/
theorem spillState_delivered : (SMap.get? (spillState.deliver 1 3).subs 2).map (fun u => u.reg (.v 1 0)) = some 7 := by decide +kernel

/-- The registers that the result names leave register 0 of lane 1 as it was. -/
theorem spillSub_after : after spillSub ([(Reg.v 0 64, (7 : Word))].filter (fun x => takesResult spillState 1 spillResult.lane 2 x.1)) (.v 1 0) = 0 := by
  decide +kernel

end Sys2Proof.Machine
end

section
namespace Sys2Proof
open Machine Safety

/-- Refutes O48: nothing bounds the registers that an outstanding result names, and one for register 64 of lane 0 changes register 0 of
lane 1, which the statement leaves as it was. -/
theorem not_waitWakes : ¬ Obligations.WaitWakes := by
  rintro ⟨-, -, -, -, hlate⟩
  obtain ⟨t, u, _, hexec, -, hu, hregs, -⟩ := hlate spillState 1 2 spillGroup spillResult [(.v 0 64, 7)] spillSub rfl rfl rfl
    (by decide +kernel) (by decide +kernel) (lanesOnce_of_single rfl) rfl
  have hdelivered : Host.Outcome.next (spillState.deliver 1 3) = Host.Outcome.next t := hexec
  obtain rfl : spillState.deliver 1 3 = t := by simpa using hdelivered
  have hseven : u.reg (.v 1 0) = 7 := by simpa [hu] using spillState_delivered
  have hzero : u.reg (.v 1 0) = 0 := (hregs (.v 1 0) (by decide : 0 < 64)).trans spillSub_after
  exact absurd (hseven.symm.trans hzero) (by decide)

end Sys2Proof
end

section
/-! # Computing, converting and combining words (O1 to O3) -/

namespace Sys2Proof.Machine

open Sys2Proof Sys2Proof.Safety

/-- A word that issues has passed the checks of R75. -/
theorem issues_judged {s : State} {i : Instr} {h : Hd} {g : Sig} {r : Run} (hi : issues s i = some r) (hf : form s i = some (h, g)) :
    g.judge r.sg r.g = none := by
  obtain ⟨h', g', hf', -, hp⟩ := issues_eq hi
  obtain ⟨rfl, rfl⟩ : h = h' ∧ g = g' := by simpa [hf] using hf'
  obtain ⟨-, -, hj, -⟩ := passes_iff.mp hp
  exact hj

/-- The position of a destination that a word which issues writes is accepted and aligned. -/
theorem issues_pos {s : State} {i : Instr} {h : Hd} {g : Sig} {r : Run} (hi : issues s i = some r) (hf : form s i = some (h, g)) {p : Pos}
    (hp : p ∈ g.pos) : p.refused r.g = false ∧ p.misaligned = false := by
  obtain ⟨href, hmis, -, -⟩ := judge_none_pos (issues_judged hi hf) p hp
  exact ⟨href, hmis⟩

/-- Writes of some lanes' results to a destination that passed the checks name registers of the machine. -/
theorem flatMap_ok {α : Type} {xs : List α} {f : α → List (Reg × Word)} (h : ∀ x ∈ xs, ∀ w ∈ f x, RegOk w.1) : ∀ w ∈ xs.flatMap f, RegOk w.1 := by
  intro w hw
  obtain ⟨x, hx, hwx⟩ := List.mem_flatMap.mp hw
  exact h x hx w hwx

/-- Fixed-latency writes, with flags raised, are written. -/
theorem Written.fixed (a : SubGroup) (now lat : Nat) (ls : List Nat) {ws : List (Reg × Word)} (fl : Flags) (hws : ∀ w ∈ ws, RegOk w.1) :
    Written a ((ws.foldl (fun sg w => sg.writeFixed now lat ls w.1 w.2) a).raise fl) ws fl where
  lanes := foldl_keeps _ SubGroup.lanes (fun s w => SubGroup.writeFixed_lanes s _ _ _ _ _) ws a
  kept := SubGroup.foldl_writeFixed_kept a now lat ls ws hws
  regs := fun x hx => by rw [SubGroup.raise_reg, SubGroup.foldl_writeFixed_reg a now lat ls ws x hws hx]
  aflags := by
    rw [SubGroup.raise, foldl_keeps _ SubGroup.aflags (fun s w => SubGroup.writeFixed_aflags s _ _ _ _ _) ws a]
  seed := SubGroup.foldl_writeFixed_seed a now lat ls ws hws

/-- A word of fixed latency completes with its writes and its flags. -/
theorem Run.fixed_completed {s : State} {r : Run} {lat : Nat} {ws : List (Reg × Word)} {fl : Flags} (hsub : SMap.get? s.subs r.sid = some r.sg)
    (hnow : r.now = (s.stn r.sg.mast r.sg.stn).cycles) (hq : quiet r (nextPc r) = true) (hws : ∀ w ∈ ws, RegOk w.1) :
    ∃ v, OnlySub s { r.fixed s lat ws fl with issuing := none } r.sid v ∧ Completed r v (nextPc r) ws fl := by
  obtain ⟨v, hv, hc⟩ := Run.done_completed (s := s.updSub r.sid (fun sg => (ws.foldl (fun sg w => sg.writeFixed r.now lat (lanesOf r.set) w.1 w.2) sg).raise fl))
    (by rw [State.updSub_of_get? _ hsub, SMap.get?_put_same]) (Written.fixed r.sg r.now lat (lanesOf r.set) fl hws) hnow hq
  exact ⟨v, OnlySub.of_updSub hsub hv, hc⟩

theorem resultWrites_ok {s : State} {i : Instr} {h : Hd} {sh : Shape} {r : Run} (hi : issues s i = some r) (hf : form s i = some (h, sh.fullSig))
    (f : List Nat → Nat × Flags) : ∀ w ∈ resultWrites sh f r, RegOk w.1 := by
  obtain ⟨href, hmis⟩ := issues_pos hi hf (p := (Pos.dst sh.dest sh.dacc).wide sh.dwide) (by simp [Shape.fullSig])
  exact flatMap_ok fun e _ => dstWrites_ok _ _ href hmis

/-- A computing word of fixed latency completes. -/
theorem exec_alu_fixed {s : State} {i : Instr} {h : Hd} {sh : Shape} {f : List Nat → Nat × Flags} {n : Nat} {r : Run}
    (ha : aluForm i = some (h, sh, f)) (hn : sh.latency = some n) (hi : issues s i = some r) (hq : quiet r (nextPc r) = true) :
    ∃ t u, exec i s = .next t ∧ OnlySub s t r.sid u ∧ Completed r u (nextPc r) (resultWrites sh f r) (resultFlags sh f r) := by
  obtain ⟨he, hf⟩ := exec_alu (s := s) ha
  obtain ⟨hexec, hr⟩ := exec_issued (info := fun r _ => r.pc) (body := sh.body f) hi hf he
  have hbody : sh.body f r s = r.fixed s n (resultWrites sh f r) (resultFlags sh f r) := by
    rw [Shape.body, hn]; rfl
  rw [hbody] at hexec
  exact ⟨_, _, hexec, (Run.fixed_completed (run_sub hr) (run_now hr) hq (resultWrites_ok hi hf f)).choose_spec⟩

/-- A computing word of variable latency sends its results out. -/
theorem exec_alu_later {s : State} {i : Instr} {h : Hd} {sh : Shape} {f : List Nat → Nat × Flags} {r : Run}
    (ha : aluForm i = some (h, sh, f)) (hn : sh.latency = none) (hi : issues s i = some r) (hq : quiet r (nextPc r) = true) :
    ∃ t u, exec i s = .next t ∧ SentOut s t r u (resultWrites sh f r) ∧ Completed r u (nextPc r) [] (resultFlags sh f r) := by
  obtain ⟨he, hf⟩ := exec_alu (s := s) ha
  obtain ⟨hexec, hr⟩ := exec_issued (info := fun r _ => r.pc) (body := sh.body f) hi hf he
  have hbody : sh.body f r s = r.later s (resultWrites sh f r) (resultFlags sh f r) := by
    rw [Shape.body, hn]; rfl
  rw [hbody] at hexec
  obtain ⟨u, hsent, hdone⟩ := Run.later_quiet (resultWrites sh f r) (resultFlags sh f r) hr hq
  exact ⟨_, u, hexec, hsent, hdone⟩

/-! ## Conversions -/

/-- The writes of a vector run that passed the checks name registers of the machine. -/
theorem runWrites_ok {o : Operand} {n : Nat} {g : Group} (l x : Nat) (h : ((Pos.dst o Acc.vOnly).runOf n 1).refused g = false) :
    ∀ w ∈ runWrites o l n x, RegOk w.1 := by
  cases o with
  | v a =>
    have hrun : a.toNat + n ≤ 64 := by simpa [Pos.refused, Pos.runOf, Pos.dst, Acc.takes, Acc.vOnly, Nat.mod_one] using h
    intro w hw
    obtain ⟨i, hi, rfl⟩ := List.mem_map.mp hw
    have := List.mem_range.mp hi
    show a.toNat + i < 64
    omega
  | _ => simp [Pos.refused, Pos.runOf, Pos.dst, Acc.takes, Acc.vOnly, Acc.none] at h

/-- The legality of a conversion. -/
def convSig : Instr → Sig
  | .cvt w => cvtSig w
  | .cvtf w => cvtfSig w
  | .pack w => packSig w
  | .unpack w => unpackSig w
  | .qscale w => qscaleSig w
  | .dqscale w => dqscaleSig w
  | _ => noWordSig

theorem exec_conv {s : State} {i : Instr} {w : FWord} {f : Run → Nat → List (Reg × Word) × Flags} {lanes : Run → List Nat}
    (hc : convForm i = some (w, f, lanes)) :
    form s i = some (hdX w none, convSig i) ∧ ∃ lat, exec i s = convWord s w (CMods.ofNat (fMods w)) (convSig i) lat f lanes := by
  cases i <;> simp only [convForm, Option.some.injEq, Prod.mk.injEq, reduceCtorEq] at hc <;> obtain ⟨rfl, rfl, rfl⟩ := hc <;>
    exact ⟨rfl, _, rfl⟩

/-- What a conversion writes in a lane names registers of the machine. -/
theorem convForm_ok {s : State} {i : Instr} {w : FWord} {f : Run → Nat → List (Reg × Word) × Flags} {lanes : Run → List Nat} {r : Run}
    (hc : convForm i = some (w, f, lanes)) (hi : issues s i = some r) (l : Nat) : ∀ x ∈ (f r l).1, RegOk x.1 := by
  have hpos := fun p hp => issues_pos hi (exec_conv (s := s) hc).1 (p := p) hp
  cases i <;> simp only [convForm, Option.some.injEq, Prod.mk.injEq, reduceCtorEq] at hc <;> obtain ⟨rfl, rfl, rfl⟩ := hc
  case cvt w =>
    obtain ⟨href, hmis⟩ := hpos _ (List.mem_cons_of_mem _ (List.mem_cons_self ..))
    exact dstWrites_ok l _ href hmis
  case cvtf w =>
    obtain ⟨href, hmis⟩ := hpos _ (List.mem_cons_of_mem _ (List.mem_cons_of_mem _ (List.mem_cons_self ..)))
    exact dstWrites_ok (g := r.g) (a := Acc.vs) l _ href hmis
  case pack w =>
    obtain ⟨href, hmis⟩ := hpos _ (List.mem_cons_of_mem _ (List.mem_cons_self ..))
    by_cases hd : (CMods.ofNat (fMods w)).op = 1
    · simp only [hd, decide_true, if_true] at href
      simpa only [packLane, hd, decide_true, if_true] using runWrites_ok l _ href
    · simp only [hd, decide_false, Bool.false_eq_true, if_false] at href hmis
      simpa only [packLane, hd, decide_false, Bool.false_eq_true, if_false] using dstWrites_ok (wide := false) l _ href hmis
  case unpack w =>
    obtain ⟨href, -⟩ := hpos _ (List.mem_cons_of_mem _ (List.mem_cons_self ..))
    by_cases hd : (CMods.ofNat (fMods w)).op = 1
    · simp only [hd, decide_true, if_true] at href
      simpa only [unpackLane, hd, decide_true, if_true] using runWrites_ok l _ href
    · simp only [hd, decide_false, Bool.false_eq_true, if_false] at href
      simpa only [unpackLane, hd, decide_false, Bool.false_eq_true, if_false] using runWrites_ok l _ href
  case qscale w =>
    obtain ⟨href, -⟩ := hpos _ (List.mem_cons_of_mem _ (List.mem_cons_self ..))
    exact runWrites_ok l _ href
  case dqscale w =>
    obtain ⟨href, -⟩ := hpos _ (List.mem_cons_of_mem _ (List.mem_cons_of_mem _ (List.mem_cons_self ..)))
    exact runWrites_ok l _ href

/-- What the registers hold after some writes depends on what they held before. -/
theorem RegsAfter.of_same {a a' b : SubGroup} {ws : List (Reg × Word)} (h : RegsAfter a' b ws) (hreg : ∀ x, RegOk x → a'.reg x = a.reg x) :
    RegsAfter a b ws := by
  intro x hx
  rw [h x hx, after, after, hreg x hx]

theorem SubGroup.withSeed_reg (sg : SubGroup) (y : Word) (x : Reg) (hx : RegOk x) : ({ sg with seed := y } : SubGroup).reg x = sg.reg x := by
  cases x with
  | x n => exact hx.elim
  | _ => rfl

/-- A conversion completes with each lane's writes, and %seed counts on under .SR (R49). -/
theorem exec_conv_completed {s : State} {i : Instr} {w : FWord} {f : Run → Nat → List (Reg × Word) × Flags} {lanes : Run → List Nat} {r : Run}
    (hc : convForm i = some (w, f, lanes)) (hi : issues s i = some r) (hq : quiet r (nextPc r) = true) :
    ∃ t u, exec i s = .next t ∧ OnlySub s t r.sid u ∧ Moved r u (nextPc r) ∧ Kept r.sg u ∧
      RegsAfter r.sg u ((lanes r).flatMap (fun l => (f r l).1)) ∧
      u.aflags = r.sg.aflags ||| (flagsOf ((lanes r).map (fun l => (f r l).2)) &&& 0x3F) ∧
      u.seed = if (CMods.ofNat (fMods w)).rnd = 4 then r.sg.seed + 1 else r.sg.seed := by
  obtain ⟨hf, lat, he⟩ := exec_conv (s := s) hc
  obtain ⟨hexec, hr⟩ := exec_issuedF hi hf he
  have hsub := run_sub hr
  have hnow := run_now hr
  have hws : ∀ x ∈ (lanes r).flatMap (fun l => (f r l).1), RegOk x.1 := flatMap_ok fun l _ => convForm_ok hc hi l
  simp only [List.flatMap_map, List.map_map] at hexec
  split_ifs at hexec ⊢ with hrnd
  · have hseed := Run.fixed_completed (s := s.updSub r.sid (fun sg => { sg with seed := sg.seed + 1 }))
      (r := { r with sg := { r.sg with seed := r.sg.seed + 1 } }) (lat := lat) (fl := flagsOf ((lanes r).map (fun l => (f r l).2)))
      (by rw [State.updSub_of_get? _ hsub, SMap.get?_put_same]) hnow hq hws
    obtain ⟨v, hv, hmoved, hkept, hregs, hflags, hs⟩ := hseed
    exact ⟨_, v, hexec, OnlySub.of_updSub hsub hv, hmoved, hkept, RegsAfter.of_same hregs (SubGroup.withSeed_reg r.sg _), hflags, hs⟩
  · exact ⟨_, _, hexec, (Run.fixed_completed hsub hnow hq hws).choose_spec⟩

/-! ## Words that combine lanes -/

/-- The writes of a value common to all participants. -/
theorem commonWrites_ok {o : Operand} {a : Acc} {wide : Bool} {r : Run} (x sx : Nat) (h1 : ((Pos.dst o a).wide wide).refused r.g = false)
    (h2 : ((Pos.dst o a).wide wide).misaligned = false) : ∀ w ∈ commonWrites r o wide x sx, RegOk w.1 := by
  unfold commonWrites
  split
  · exact dstWrites_ok _ _ h1 h2
  · exact flatMap_ok fun l _ => dstWrites_ok l x h1 h2

/-- The legality of a word that combines lanes. -/
def combineSig : Instr → Sig
  | .xlane w => xlaneSig w
  | .vote w => voteSig w
  | .ballot w => ballotSig w
  | .active w => activeSig w
  | .elect w => electSig w
  | .matchM w => matchSig w
  | .scan w => scanWordSig w
  | .segscan w => segscanSig w
  | .redux w => reduxSig w
  | _ => noWordSig

theorem exec_combine {s : State} {i : Instr} {out : Run → List (Reg × Word) × Flags} (hg : groupForm i = some out) :
    ∃ w lat, form s i = some (hdX w none, combineSig i) ∧
      exec i s = issueF s w none (combineSig i) (fun r s => r.fixed s lat (out r).1 (out r).2) := by
  cases i <;> simp only [groupForm, Option.some.injEq, reduceCtorEq] at hg <;> subst hg <;> exact ⟨_, _, rfl, rfl⟩

/-- What a word that combines lanes writes names registers of the machine: its destination is the first of its positions. -/
theorem groupForm_ok {i : Instr} {out : Run → List (Reg × Word) × Flags} {r : Run} (hg : groupForm i = some out)
    (hpos : ∀ p ∈ (combineSig i).pos, p.refused r.g = false ∧ p.misaligned = false) : ∀ x ∈ (out r).1, RegOk x.1 := by
  cases i <;> simp only [groupForm, Option.some.injEq, reduceCtorEq] at hg <;> subst hg <;>
    obtain ⟨href, hmis⟩ := hpos _ (List.mem_cons_self ..)
  case xlane w => exact flatMap_ok fun l _ => dstWrites_ok l _ href hmis
  case vote w => exact commonWrites_ok (wide := false) _ _ href hmis
  case ballot w => exact commonWrites_ok _ _ href hmis
  case active w => exact commonWrites_ok _ _ href hmis
  case elect w => exact flatMap_ok fun l _ => dstWrites_ok (wide := false) l _ href hmis
  case matchM w => exact flatMap_ok fun l _ => dstWrites_ok l _ href hmis
  case scan w => exact flatMap_ok fun o _ => dstWrites_ok o.1 _ href hmis
  case segscan w => exact flatMap_ok fun o _ => dstWrites_ok o.1 _ href hmis
  case redux w => exact commonWrites_ok _ _ href hmis

theorem exec_group_completed {s : State} {i : Instr} {out : Run → List (Reg × Word) × Flags} {r : Run} (hg : groupForm i = some out)
    (hi : issues s i = some r) (hq : quiet r (nextPc r) = true) :
    ∃ t u, exec i s = .next t ∧ OnlySub s t r.sid u ∧ Completed r u (nextPc r) (out r).1 (out r).2 := by
  obtain ⟨w, lat, hf, he⟩ := exec_combine (s := s) hg
  obtain ⟨hexec, hr⟩ := exec_issuedF hi hf he
  have hws := groupForm_ok hg fun p hp => issues_pos hi hf hp
  exact ⟨_, _, hexec, (Run.fixed_completed (run_sub hr) (run_now hr) hq hws).choose_spec⟩

end Sys2Proof.Machine
end

section
namespace Sys2Proof
open Machine Safety

/-- Settles O1: a computing word of fixed latency writes its results and raises its flags; one of variable latency sends its results out. -/
theorem computingWords : Obligations.ComputingWords :=
  ⟨fun _ _ _ _ _ _ _ ha hn hi hq => exec_alu_fixed ha hn hi hq, fun _ _ _ _ _ _ ha hn hi hq => exec_alu_later ha hn hi hq⟩

/-- Settles O2: a conversion writes what each lane converts, and draws one %seed for the word under .SR. -/
theorem conversionWords : Obligations.ConversionWords := fun _ _ _ _ _ _ hc hi hq => exec_conv_completed hc hi hq

/-- Settles O3: each word that combines lanes is one of fixed latency whose writes are its operation's. -/
theorem groupWords : Obligations.GroupWords := fun _ _ _ _ hg hi hq => exec_group_completed hg hi hq

end Sys2Proof
end

section
/-! # Calls, tie points and exits (O12 to O14) -/

namespace Sys2Proof.Machine

open Sys2Proof Sys2Proof.Safety

/-- Writes to a vector register, a scalar register or nowhere are never discarded. -/
theorem sentWrites_dstWrites {o : Operand} {wide : Bool} {g : Group} {p : Pos} (hp : p.acc = Acc.vsz) (ho : p.o = o) (h : p.refused g = false)
    (l x : Nat) : ∀ w ∈ dstWrites o wide l x, (match w.1 with | .p _ 0 | .k 0 => false | _ => true) = true := by
  intro w hw
  cases o with
  | v n => cases wide <;> simp [dstWrites] at hw <;> aesop
  | s n => simp [dstWrites] at hw; simp [hw]
  | zero | q _ | rsv _ => simp [dstWrites] at hw
  | p n | k n | d n => simp [Pos.refused, hp, ho, Acc.takes, Acc.vsz, Acc.none] at h

/-- The register writes of a link. -/
def linkOut (r : Run) (dest : Operand) (link : Nat) : List (Reg × Word) :=
  if isS dest then dstWrites dest true 0 link else (lanesOf r.act).flatMap (fun l => dstWrites dest true l link)

theorem linkWrites_eq (r : Run) (dest : Operand) (x : Word) :
    linkWrites dest (lanesOf r.act) x = (linkOut r dest x.toNat).map (fun w => (w.1, some w.2)) := rfl

theorem sentWrites_linkOut {r : Run} {dest : Operand} (link : Nat) (h : ((Pos.dst dest Acc.vsz).wide true).refused r.g = false) :
    sentWrites (linkOut r dest link) = linkOut r dest link := by
  have hd := fun l => sentWrites_dstWrites (wide := true) rfl rfl h l link
  refine List.filter_eq_self.mpr fun w hw => ?_
  unfold linkOut at hw
  split_ifs at hw
  · exact hd 0 w hw
  · obtain ⟨l, -, hl⟩ := List.mem_flatMap.mp hw
    exact hd l w hl

/-- A call sends its link out and its lanes go to their targets. -/
theorem Run.link_branch_completed {s : State} {h : Hd} {r : Run} {dest : Operand} {x : Word} {target : Nat → Word} (hr : run s h = some r)
    (hd : ((Pos.dst dest Acc.vsz).wide true).refused r.g = false) (hq : quiet r (branchPc r target) = true) :
    ∃ u, Completed r u (branchPc r target) [] 0 ∧
      SentOut s { r.branch (r.link s dest r.act x) target with issuing := none } r u (linkOut r dest x.toNat) := by
  unfold SentOut Run.link
  rw [sentWrites_linkOut _ hd, linkWrites_eq]
  by_cases hw : linkOut r dest x.toNat = []
  · obtain ⟨v, honly, hdone⟩ := Run.branch_completed hr hq
    exact ⟨v, hdone, by simpa [hw] using honly⟩
  · have hne : ((linkOut r dest x.toNat).map (fun w => (w.1, some w.2))).isEmpty = false := by simpa using hw
    obtain ⟨v, honly, hdone⟩ := State.retireAt_completed (s := (s.outstand r.gid (lowest r.act) r.set ((linkOut r dest x.toNat).map (fun w => (w.1, some w.2)))).2)
      (r := r) r.pc r.iw r.xw (show SMap.get? s.subs r.sid = some r.sg from run_sub hr) (Written.refl r.sg)
      (show r.now = (s.stn r.sg.mast r.sg.stn).cycles from run_now hr) hq
    refine ⟨v, hdone, ?_⟩
    rw [if_neg hw]
    simp only [hne]
    exact honly

theorem exec_call {s : State} {w : IWord} {r : Run} (hi : issues s (.call w) = some r)
    (hq : quiet r (branchPc r (fun _ => r.pc + BitVec.ofInt 64 (8 * wordCount w))) = true) :
    ∃ t u, exec (.call w) s = .next t ∧ Completed r u (branchPc r (fun _ => r.pc + BitVec.ofInt 64 (8 * wordCount w))) [] 0 ∧
      SentOut s t r u (linkOut r w.dest (r.pc + BitVec.ofNat 64 r.len).toNat) := by
  obtain ⟨hexec, hr⟩ := exec_issuedI (w := w) (g := callSig w)
    (body := fun r s => r.branch (r.link s w.dest r.act (r.pc + BitVec.ofNat 64 r.len)) (fun _ => iTarget w r.pc)) hi rfl rfl
  obtain ⟨href, -⟩ := issues_pos hi (h := hdI w) (g := callSig w) rfl (List.mem_cons_self ..)
  rw [iTarget_eq] at hexec
  obtain ⟨u, hdone, hsent⟩ := Run.link_branch_completed hr href hq
  exact ⟨_, u, hexec, hdone, hsent⟩

/-- The mask of the lanes that meet a condition is empty where every lane fails it. -/
theorem maskOf_filter_eq_zero {ls : List Nat} {p : Nat → Bool} (h : ∀ l ∈ ls, p l = false) : maskOf (ls.filter p) = 0 := by
  rw [List.filter_eq_nil_iff.mpr fun l hl => by simp [h l hl]]
  rfl

/-- What a target is in lanes that are not active does not matter. -/
theorem branchPc_ite (r : Run) (f g : Nat → Word) : branchPc r (fun l => if r.act.getLsbD l then f l else g l) = branchPc r f := by
  funext l
  by_cases hl : r.act.getLsbD l <;> simp [branchPc, hl]

theorem exec_calli {s : State} {w : FWord} {r : Run} (hi : issues s (.calli w) = some r)
    (hgood : ∀ l ∈ lanesOf r.act, (r.val true w.a l < 2 ^ 63 ∨ r.sg.sv = true) ∧ r.val true w.a l % 8 + 1 ≤ r.g.wins)
    (hq : quiet r (branchPc r (fun l => BitVec.ofNat 64 (r.val true w.a l / 8 * 8))) = true) :
    ∃ t u, exec (.calli w) s = .next t ∧ Completed r u (branchPc r (fun l => BitVec.ofNat 64 (r.val true w.a l / 8 * 8))) [] 0 ∧
      SentOut s t r u (linkOut r w.dest (r.pc + 8).toNat) := by
  have he : exec (.calli w) s = execCalli w s := rfl
  unfold execCalli at he
  obtain ⟨hexec, hr⟩ := exec_issuedF hi rfl he
  obtain ⟨href, -⟩ := issues_pos hi (h := hdX w none) (g := calliSig w) rfl (List.mem_cons_self ..)
  have hhigh : maskOf ((lanesOf r.act).filter (fun l => decide (r.val true w.a l ≥ 2 ^ 63) && !r.sg.sv)) = 0 :=
    maskOf_filter_eq_zero fun l hl => by
      obtain hlow | hsv := (hgood l hl).1
      · rw [decide_eq_false (not_le.mpr hlow), Bool.false_and]
      · rw [hsv, Bool.not_true, Bool.and_false]
  have hfat : maskOf ((lanesOf r.act).filter (fun l => decide (r.val true w.a l % 8 + 1 > r.g.wins))) = 0 :=
    maskOf_filter_eq_zero fun l hl => decide_eq_false (not_lt.mpr (hgood l hl).2)
  have htarget : (fun l => if (r.act &&& ~~~(0 : Mask)).getLsbD l then BitVec.ofNat 64 (r.val true w.a l / 8 * 8) else r.pc + 8) =
      fun l => if r.act.getLsbD l then BitVec.ofNat 64 (r.val true w.a l / 8 * 8) else r.pc + 8 := by
    rw [show r.act &&& ~~~(0 : Mask) = r.act from BitVec.and_allOnes]
  obtain ⟨u, hdone, hsent⟩ := Run.link_branch_completed (dest := w.dest) (x := r.pc + 8)
    (target := fun l => if r.act.getLsbD l then BitVec.ofNat 64 (r.val true w.a l / 8 * 8) else r.pc + 8) hr href (by rwa [branchPc_ite])
  rw [branchPc_ite] at hdone
  refine ⟨_, u, hexec, hdone, ?_⟩
  simpa only [hhigh, hfat, htarget, ne_eq, not_true_eq_false, if_false, if_true] using hsent

/-- What a call does, by the form of its target, return address and destination. -/
theorem exec_linkForm {s : State} {i : Instr} {r : Run} {pc : Nat → Word} {dest : Operand} {link : Nat} (hi : issues s i = some r)
    (hl : linkForm r i = some (pc, dest, link)) (hq : quiet r pc = true) :
    ∃ t u, exec i s = .next t ∧ Completed r u pc [] 0 ∧ SentOut s t r u (linkOut r dest link) := by
  cases i <;> simp only [linkForm, reduceCtorEq] at hl
  case call w =>
    simp only [Option.some.injEq, Prod.mk.injEq] at hl
    obtain ⟨rfl, rfl, rfl⟩ := hl
    exact exec_call hi hq
  case calli w =>
    split_ifs at hl with hgood
    simp only [Option.some.injEq, Prod.mk.injEq] at hl
    obtain ⟨rfl, rfl, rfl⟩ := hl
    exact exec_calli hi (by simpa only [List.all_eq_true, Bool.and_eq_true, Bool.or_eq_true, decide_eq_true_eq] using hgood) hq

/-! ## Tie points -/

@[simp] theorem State.tieMember_subs (s : State) (gid m n : Nat) (meet : Word) (lanes : Mask) : (s.tieMember gid m n meet lanes).subs = s.subs := by
  unfold State.tieMember
  split <;> rfl

@[simp] theorem State.tieMember_stn (s : State) (gid m n : Nat) (meet : Word) (lanes : Mask) : (s.tieMember gid m n meet lanes).stn = s.stn := by
  unfold State.tieMember
  split <;> rfl

theorem tiedSub_get? (sg : SubGroup) (lanes : Mask) (meet : Word) (place : BitVec 32) (live : BitVec 8) (l : Nat) :
    SMap.get? (tiedSub sg lanes meet place live).lanes l = (SMap.get? sg.lanes l).map (fun y => if lanes.getLsbD l then { y with meet := meet } else y) :=
  SubGroup.mapLanes_get? sg lanes (fun y => { y with meet := meet }) l

/-- A TIE changes no lane's PC. -/
theorem nextPc_tiedSub (r : Run) (lanes : Mask) (meet : Word) (place : BitVec 32) (live : BitVec 8) :
    nextPc { r with sg := tiedSub r.sg lanes meet place live } = nextPc r := by
  funext l
  rw [nextPc, nextPc, tiedSub_get?, Option.map_map]
  congr 3
  funext y
  simp only [Function.comp_apply]
  split <;> rfl

/-- A TIE that becomes a member of its record completes. -/
theorem Run.tie_completed {s : State} {h : Hd} {r : Run} {meet : Word} {place : BitVec 32} {live : BitVec 8} (hr : run s h = some r)
    (hq : quiet { r with sg := tiedSub r.sg r.act meet place live } (nextPc r) = true) :
    ∃ u, Completed { r with sg := tiedSub r.sg r.act meet place live } u (nextPc r) [] 0 ∧
      ({ r.done ((s.tieMember r.gid r.sg.mast r.sg.stn meet r.act).setTie r.sid r.act meet place live) with issuing := none } : State) =
        { s.tieMember r.gid r.sg.mast r.sg.stn meet r.act with subs := SMap.put s.subs r.sid u, issuing := none } := by
  have hsub : SMap.get? (s.tieMember r.gid r.sg.mast r.sg.stn meet r.act).subs r.sid = some r.sg := by
    rw [State.tieMember_subs]
    exact run_sub hr
  rw [← nextPc_tiedSub r r.act meet place live] at hq ⊢
  obtain ⟨u, honly, hdone⟩ := Run.done_completed (r := { r with sg := tiedSub r.sg r.act meet place live })
    (s := (s.tieMember r.gid r.sg.mast r.sg.stn meet r.act).setTie r.sid r.act meet place live)
    (by rw [State.setTie, State.updSub_of_get? _ hsub, SMap.get?_put_same]; rfl) (Written.refl _)
    (show r.now = ((s.tieMember r.gid r.sg.mast r.sg.stn meet r.act).stn r.sg.mast r.sg.stn).cycles by
      rw [State.tieMember_stn]
      exact run_now hr) hq
  refine ⟨u, hdone, (OnlySub.of_updSub hsub honly).trans ?_⟩
  rw [State.tieMember_subs]

theorem exec_tie_own {s : State} {w : FWord} {x : XWord} {r : Run} {meet : Word} (hm : tieMeet r.pc x = meet)
    (hi : issues s (.tie w (some x)) = some r) (hne : meet ≠ 0)
    (hown : w.lo.getLsbD 0 = false ∨ s.crewPlace r.g = s.placeAt r.sg.mast r.sg.stn) (hroom : s.tieRoom r.gid r.sg.mast r.sg.stn meet = true)
    (hq : quiet { r with sg := tiedSub r.sg r.act meet (s.placeAt r.sg.mast r.sg.stn) w.hi } (nextPc r) = true) :
    ∃ t u, exec (.tie w (some x)) s = .next t ∧
      Completed { r with sg := tiedSub r.sg r.act meet (s.placeAt r.sg.mast r.sg.stn) w.hi } u (nextPc r) [] 0 ∧
      t = { s.tieMember r.gid r.sg.mast r.sg.stn meet r.act with subs := SMap.put s.subs r.sid u, issuing := none } := by
  have he : exec (.tie w (some x)) s = execTie w (some x) s := rfl
  unfold execTie at he
  obtain ⟨hexec, hr⟩ := exec_issuedF hi rfl he
  have hplace : (if w.lo.getLsbD 0 then s.crewPlace r.g else s.placeAt r.sg.mast r.sg.stn) = s.placeAt r.sg.mast r.sg.stn := by
    split_ifs with hcrew
    · exact hown.resolve_left (by simp [hcrew])
    · rfl
  simp only [hm, hne, hplace, hroom, if_true, if_false] at hexec
  obtain ⟨u, hdone, heq⟩ := Run.tie_completed (place := s.placeAt r.sg.mast r.sg.stn) (live := w.hi) hr hq
  exact ⟨_, u, hexec, hdone, heq⟩

/-- The record of a meeting address at a station (R229). -/
def tieAt (gid m n : Nat) (meet : Word) (e : Nat × Tie) : Bool :=
  decide (e.2.gid = gid) && decide (e.2.mast = m) && decide (e.2.stn = n) && decide (e.2.m = meet)

/-- An entry of a table without two entries of one key is the record at its key. -/
theorem SMap.get?_of_mem {α : Type} {m : SMap α} {k : Nat} {x : α} (hn : (m.map (fun e => e.1)).Nodup) (h : (k, x) ∈ m) : SMap.get? m k = some x := by
  induction m with
  | nil => simp at h
  | cons e m ih =>
    rw [List.map_cons, List.nodup_cons] at hn
    rw [SMap.get?_cons]
    obtain rfl | h := List.mem_cons.mp h
    · simp
    · rw [if_neg fun hk : e.1 = k => hn.1 (List.mem_map.mpr ⟨_, h, hk.symm⟩)]
      exact ih hn.2 h

theorem State.tieMember_of_some {s : State} {gid m n : Nat} {meet : Word} {lanes : Mask} {i : Nat} {tie : Tie} (h : s.ties.find? (tieAt gid m n meet) = some (i, tie)) :
    s.tieMember gid m n meet lanes = { s with ties := SMap.upd s.ties i (fun t => { t with member := t.member ||| lanes }) } := by
  unfold State.tieMember
  change (match s.ties.find? (tieAt gid m n meet) with | some (i, _) => _ | none => _) = _
  rw [h]

theorem State.tieMember_of_none {s : State} {gid m n : Nat} {meet : Word} {lanes : Mask} (h : s.ties.find? (tieAt gid m n meet) = none) :
    (s.tieMember gid m n meet lanes).ties = SMap.put s.ties s.nextId
      { gid := gid, mast := m, stn := n, m := meet, isOpen := true, opened := false, dl := 0, member := lanes, held := 0, sid := none } := by
  unfold State.tieMember
  change ((match s.ties.find? (tieAt gid m n meet) with | some (i, _) => _ | none => _ : State)).ties = _
  rw [h]
  rfl

end Sys2Proof.Machine
end

section
/-! # A lane that no mask names (O14)

The lanes of a sub-group are a table by number. A mask names the lanes 0 to 63, and what EXIT leaves is told by a mask: a lane of a number
of 64 or more leaves too. -/

namespace Sys2Proof.Machine

open Sys2Proof Sys2Proof.Safety

def exitWord : Instr := .exit { gneg := false, guard := 0, stall := 0, dest := .zero, a := .zero, b := .zero, c := .zero, hi := 0, lo := 0 }
def strayLaunch : SubGroup := SubGroup.launch 1 0 0 3 0x1000 0 [] 0 65536 0 0
/-- Two lanes of the group, and one of number 64. -/
def straySub : SubGroup := { strayLaunch with lanes := strayLaunch.lanes.map (fun e => (if e.1 = 2 then 64 else e.1, e.2)) }
/-- Lane 0 issues an EXIT. -/
def strayState : State :=
  { State.reset with
    groups := [(1, Group.launch 1 none 0 2 8)]
    subs := [(2, straySub)]
    issuing := (encode exitWord).map (fun e => { sid := 2, lanes := 1, pc := 0x1000, iword := e.1, xword := e.2.getD 0, quads := none }) }

theorem strayState_issues : (issues strayState exitWord).any (fun r => decide (r.act = 1 ∧ r.set = 1 ∧ r.sid = 2) && (SMap.get? r.sg.lanes 64).isSome) = true := by
  decide +kernel

theorem strayState_ended :
    (SMap.get? (strayState.endLanes 2 1).subs 2).any (fun u => (SMap.get? u.lanes 64).isNone) = true := by
  decide +kernel

end Sys2Proof.Machine
end

section
namespace Sys2Proof
open Machine Safety

/-- Settles O12: a call sends its link out and then branches. -/
theorem callWords : Obligations.CallWords := fun _ _ _ _ _ _ hi hl hq => exec_linkForm hi hl hq

/-- Settles O13: a TIE joins its station's record of the meeting address, or makes one, and completes. -/
theorem tieWord : Obligations.TieWord := by
  constructor
  · intro s w x r meet here r' hi hne hown hroom hq
    exact exec_tie_own (tieMeet_eq r.pc x) hi hne hown hroom hq
  · intro s gid m n meet lanes at'
    show (match s.ties.find? (tieAt gid m n meet) with | some (i, tie) => _ | none => _)
    cases hf : s.ties.find? (tieAt gid m n meet) with
    | some e =>
      obtain ⟨i, tie⟩ := e
      refine ⟨State.tieMember_of_some hf, fun hn => ?_⟩
      rw [State.tieMember_of_some hf]
      exact (congrArg (SMap.get? · i) (SMap.upd_some _ _ _ _ (SMap.get?_of_mem hn (List.mem_of_find?_eq_some hf)))).trans (SMap.get?_put_same ..)
    | none =>
      refine ⟨?_, fun j hj => ?_⟩
      · rw [State.tieMember_of_none hf, SMap.get?_put_same]
      · rw [State.tieMember_of_none hf, SMap.get?_put_ne _ _ (Ne.symm hj)]

/-- Refutes O14: a lane of number 64, which no mask names, leaves the sub-group with the lanes that end. -/
theorem not_exitWord : ¬ Obligations.ExitWord := by
  intro h
  obtain ⟨r, hi, hr⟩ := (Option.any_eq_true _ _).mp strayState_issues
  obtain ⟨u, hu, hnone⟩ := (Option.any_eq_true _ _).mp strayState_ended
  obtain ⟨⟨hact, hset, hsid⟩, hsome⟩ : (r.act = 1 ∧ r.set = 1 ∧ r.sid = 2) ∧ (SMap.get? r.sg.lanes 64).isSome = true := by simpa using hr
  obtain ⟨t, -, rfl, hlanes, -⟩ := h strayState _ r hi (hact.trans hset.symm)
  rw [hsid, hset] at hlanes
  have hkept : SMap.get? u.lanes 64 = SMap.get? r.sg.lanes 64 := hlanes u hu 64
  rw [← hkept, Option.isNone_iff_eq_none.mp hnone] at hsome
  exact absurd hsome (by decide)

end Sys2Proof
end

section
/-! # Words that settle tie points or calls (O17) -/

namespace Sys2Proof.Machine

open Sys2Proof Sys2Proof.Safety

/-- A quiet issue set has no debug step to take. -/
theorem quiet_unstepped {r : Run} {u : SubGroup} {pc : Nat → Word} (hl : u.lanes = r.sg.lanes) (hq : quiet r pc = true) :
    r.set &&& u.laneMask (fun l => l.step) = 0 := by
  rw [mask_and_eq_zero_iff]
  intro i hset hstep
  obtain ⟨_, x, hm, hx⟩ := (getLsbD_laneMask _ _ _).mp hstep
  have hlane := quiet_lane hq (hl ▸ hm)
  rw [if_pos hset] at hlane
  exact absurd (hx.symm.trans hlane.1) (by decide)

/-- A quiet issue set completes a word at its PCs, and nothing else changes. -/
theorem State.advance_quiet {s : State} {r : Run} {u : SubGroup} {pc : Nat → Word} (tpc iw xw : Word) (hu : SMap.get? s.subs r.sid = some u)
    (hl : u.lanes = r.sg.lanes) (hn : (s.stn u.mast u.stn).cycles = r.now) (hq : quiet r pc = true) :
    s.advance r.sid r.set r.stall r.len pc tpc iw xw =
      { s with subs := SMap.put s.subs r.sid (({ u with lanes := lanesAfter r pc } : SubGroup).prune r.now) } := by
  unfold State.advance
  simp only [hu, hn, quiet_unstepped hl hq, if_true]
  rw [State.updSub_of_get? _ hu]
  congr 4
  rw [hl]
  refine List.map_congr_left fun e _ => ?_
  split_ifs <;> rfl

/-- After a quiet completion no lane is at its tie point (R31). -/
theorem State.holdReady_lanesAfter {s : State} {r : Run} {v : SubGroup} {pc : Nat → Word} (hv : SMap.get? s.subs r.sid = some v)
    (hl : v.lanes = lanesAfter r pc) (hq : quiet r pc = true) : s.holdReady r.sid = s := by
  refine State.holdReadyBy_of_none hv fun e he => ?_
  rw [hl] at he
  obtain ⟨⟨l, x⟩, hx, rfl⟩ := List.mem_map.mp he
  have hlane := quiet_lane hq hx
  rintro ⟨hst, hrel, hrefuse, hmeet, hpc⟩
  by_cases hs : r.set.getLsbD l = true
  · simp only [hs, if_true, laneAfter] at hlane hmeet hpc
    exact hlane.2.elim hmeet fun h => h hpc
  · simp only [hs] at hlane hst hrel hrefuse hmeet hpc
    exact hlane ⟨hst, hrel, hrefuse, hmeet, hpc⟩

/-- An escalation notice is one message. -/
theorem State.escalate_eq (s : State) (sid : Nat) (g : Group) (counted reset : Bool) (lanes : Mask) (dl tpc : Word) (len : Nat) (iw xw : Word) :
    ∃ ms n, s.escalate sid g counted reset lanes dl tpc len iw xw = { s with msgs := ms, nextId := n } := by
  unfold State.escalate
  split
  · exact ⟨s.msgs, s.nextId, rfl⟩
  split
  · exact ⟨s.msgs, s.nextId, rfl⟩
  split
  · exact ⟨_, _, rfl⟩
  split
  · exact ⟨_, _, rfl⟩
  · exact ⟨s.msgs, s.nextId, rfl⟩

/-- A WORD OF R252 COMPLETES: after what it wrote, its issue set completes and its escalation notice goes out. -/
theorem State.finish_completed {s : State} {r : Run} {u : SubGroup} {ws : List (Reg × Word)} {fl : Flags} (g : Group) (lanes : Mask) (counted reset : Bool)
    (dl iw xw : Word) (hu : SMap.get? s.subs r.sid = some u) (hw : Written r.sg u ws fl) (hnow : r.now = (s.stn r.sg.mast r.sg.stn).cycles)
    (hq : quiet r (nextPc r) = true) :
    ∃ v ms n, s.finish r.sid g r.set lanes r.stall r.len counted reset dl iw xw = { s with subs := SMap.put s.subs r.sid v, msgs := ms, nextId := n } ∧
      Completed r v (nextPc r) ws fl := by
  obtain ⟨hlanes, hkept, hregs, hflags, hseed⟩ := hw
  have hplace : (s.stn u.mast u.stn).cycles = r.now := by
    obtain ⟨_, hmast, hstn, _⟩ := hkept
    rw [hmast, hstn, hnow]
  have hpc : (fun l => ((SMap.get? u.lanes l).map (fun x => x.pc)).getD 0 + BitVec.ofNat 64 r.len) = nextPc r := by
    rw [hlanes]
    rfl
  unfold State.finish
  simp only [hu, hpc]
  rw [State.advance_quiet _ _ _ hu hlanes hplace hq]
  obtain ⟨ms, n, hesc⟩ := State.escalate_eq ({ s with subs := SMap.put s.subs r.sid (({ u with lanes := lanesAfter r (nextPc r) } : SubGroup).prune r.now) })
    r.sid g counted reset lanes dl (((SMap.get? u.lanes (lowest lanes)).map (fun x => x.pc)).getD 0) r.len iw xw
  rw [hesc, State.holdReady_lanesAfter (SMap.get?_put_same ..) rfl hq]
  refine ⟨_, ms, n, rfl, moved_lanesAfter _ _ _ rfl, hkept, fun x hx => ?_, hflags, hseed⟩
  rw [SubGroup.prune_reg, SubGroup.withLanes_reg]
  exact hregs x hx

/-- A status that goes out as a result of variable latency to a scalar register, or nowhere. -/
def sentStatus (s : State) (r : Run) (dest : Operand) (code : Nat) : State :=
  if isS dest then (s.outstand r.gid r.low r.set ((dstWrites dest true 0 code).map (fun w => (w.1, some w.2)))).2 else s

@[simp] theorem sentStatus_subs (s : State) (r : Run) (dest : Operand) (code : Nat) : (sentStatus s r dest code).subs = s.subs := by
  unfold sentStatus
  split <;> rfl

@[simp] theorem sentStatus_stns (s : State) (r : Run) (dest : Operand) (code : Nat) : (sentStatus s r dest code).stns = s.stns := by
  unfold sentStatus
  split <;> rfl

@[simp] theorem sentStatus_mem (s : State) (r : Run) (dest : Operand) (code : Nat) : (sentStatus s r dest code).mem = s.mem := by
  unfold sentStatus
  split <;> rfl

theorem sentStatus_group {s : State} {r : Run} (dest : Operand) (code : Nat) (hg : SMap.get? s.groups r.gid = some r.g) :
    SMap.get? (sentStatus s r dest code).groups r.gid = some (if isS dest then
      withOutst r.g s.nextId r.low r.set ((dstWrites dest true 0 code).map (fun w => (w.1, some w.2))) else r.g) := by
  unfold sentStatus
  split
  · exact (congrArg (SMap.get? · r.gid) (SMap.upd_some _ _ _ _ hg)).trans (SMap.get?_put_same ..)
  · exact hg

/-- A note for a journal changes no record of a station, a group or a sub-group. -/
theorem State.noteAt_keeps (s : State) (m typ ctx : Nat) (w1 w2 w3 : Word) :
    (s.noteAt m typ ctx w1 w2 w3).subs = s.subs ∧ (s.noteAt m typ ctx w1 w2 w3).groups = s.groups ∧ (s.noteAt m typ ctx w1 w2 w3).stns = s.stns := by
  obtain ⟨j, hj⟩ := State.note_eq (s.enter (m / 16)) (m % 16) typ ctx w1 w2 w3
  simp [State.noteAt, State.on, hj]

theorem State.noteLanes_keeps (s : State) (typ sid : Nat) (lanes : Mask) (x : Word) :
    (s.noteLanes typ sid lanes x).subs = s.subs ∧ (s.noteLanes typ sid lanes x).groups = s.groups ∧ (s.noteLanes typ sid lanes x).stns = s.stns := by
  unfold State.noteLanes
  split
  · split
    · exact State.noteAt_keeps ..
    · exact ⟨rfl, rfl, rfl⟩
  · exact ⟨rfl, rfl, rfl⟩

/-- A word that settles and whose status goes out completes: its sub-group has changed as it says, and its notice has gone out. -/
theorem settled_completed {s s1 : State} {r : Run} {dest : Operand} {code : Nat} (counted reset : Bool) (dl iw xw : Word)
    (hsub : SMap.get? s.subs r.sid = some r.sg) (hg : SMap.get? s.groups r.gid = some r.g) (hnow : r.now = (s.stn r.sg.mast r.sg.stn).cycles)
    (hs1 : s1.subs = (sentStatus s r dest code).subs ∧ s1.groups = (sentStatus s r dest code).groups ∧ s1.stns = (sentStatus s r dest code).stns)
    (hmem : s1.mem = s.mem) (hq : quiet r (nextPc r) = true) :
    ∃ t u, ({ s1.finish r.sid r.g r.set r.act r.stall r.len counted reset dl iw xw with issuing := none } : State) = t ∧
      SMap.get? t.subs r.sid = some u ∧ Completed r u (nextPc r) [] 0 ∧ t.mem = s.mem ∧
      SMap.get? t.groups r.gid = some (if isS dest then
        withOutst r.g s.nextId r.low r.set ((dstWrites dest true 0 code).map (fun w => (w.1, some w.2))) else r.g) := by
  obtain ⟨hsubs, hgroups, hstns⟩ := hs1
  rw [sentStatus_subs] at hsubs
  rw [sentStatus_stns] at hstns
  obtain ⟨v, ms, n, hfin, hdone⟩ := State.finish_completed (s := s1) r.g r.act counted reset dl iw xw (by rw [hsubs]; exact hsub) (Written.refl r.sg)
    (by rw [hnow, State.stn, State.stn, hstns]) hq
  refine ⟨_, v, rfl, ?_⟩
  rw [hfin]
  refine ⟨SMap.get?_put_same .., hdone, hmem, ?_⟩
  rw [show SMap.get? s1.groups r.gid = _ from congrArg (SMap.get? · r.gid) hgroups]
  exact sentStatus_group dest code hg

/-- The sub-group of lanes that a tie point released, back at the enclosing one (R109). -/
def joinedSub (s : State) (r : Run) (w : FWord) : SubGroup :=
  { r.sg with
    lanes := r.sg.lanes.map (fun e => if r.act.getLsbD e.1 then (e.1, { e.2 with meet := BitVec.ofNat 64 (r.val true w.c e.1) }) else e)
    rejoin := if decide (w.c = .zero) then noRejoin else if w.b = .zero then s.crewPlace r.g else (r.sval w.b).setWidth 32
    rlive := if decide (w.c = .zero) then r.sg.rlive else 0xFF }

/-- JOIN changes no lane's PC. -/
theorem nextPc_joinedSub (s : State) (r : Run) (w : FWord) : nextPc { r with sg := joinedSub s r w } = nextPc r := by
  funext l
  have hl : SMap.get? (joinedSub s r w).lanes l =
      (SMap.get? r.sg.lanes l).map (fun y => if r.act.getLsbD l then { y with meet := BitVec.ofNat 64 (r.val true w.c l) } else y) := by
    rw [← SMap.get?_map r.sg.lanes (fun l y => if r.act.getLsbD l then { y with meet := BitVec.ofNat 64 (r.val true w.c l) } else y)]
    refine congrArg (SMap.get? · l) (List.map_congr_left fun e _ => ?_)
    split <;> rfl
  rw [nextPc, nextPc, hl, Option.map_map]
  congr 3
  funext y
  simp only [Function.comp_apply]
  split <;> rfl

theorem updSub_joinedSub {s : State} {r : Run} (w : FWord) (hsub : SMap.get? s.subs r.sid = some r.sg) :
    s.updSub r.sid (fun sg => { sg with
      lanes := sg.lanes.map (fun e => if r.act.getLsbD e.1 then (e.1, { e.2 with meet := BitVec.ofNat 64 (r.val true w.c e.1) }) else e)
      rejoin := if decide (w.c = .zero) then noRejoin else if w.b = .zero then s.crewPlace r.g else (r.sval w.b).setWidth 32
      rlive := if decide (w.c = .zero) then sg.rlive else 0xFF }) = { s with subs := SMap.put s.subs r.sid (joinedSub s r w) } :=
  State.updSub_of_get? _ hsub

/-- The state in which a JOIN that settles finishes: its sub-group is back at the enclosing tie point, its status has gone out, and a
status DRAINED is noted (R338). -/
def joinSettled (s : State) (r : Run) (w : FWord) (code : BitVec 8) : State :=
  let t := sentStatus { s with subs := SMap.put s.subs r.sid (joinedSub s r w) } r w.dest (code.toNat % 16)
  if code = 0x83 || code = 3 then t.noteLanes 3 r.sid r.act (BitVec.ofNat 64 (code.toNat % 16)) else t

theorem joinSettled_keeps (s : State) (r : Run) (w : FWord) (code : BitVec 8) :
    let t := sentStatus { s with subs := SMap.put s.subs r.sid (joinedSub s r w) } r w.dest (code.toNat % 16)
    (joinSettled s r w code).subs = t.subs ∧ (joinSettled s r w code).groups = t.groups ∧ (joinSettled s r w code).stns = t.stns := by
  unfold joinSettled
  split
  · exact State.noteLanes_keeps ..
  · exact ⟨rfl, rfl, rfl⟩

@[simp] theorem joinSettled_mem (s : State) (r : Run) (w : FWord) (code : BitVec 8) : (joinSettled s r w code).mem = s.mem := by
  unfold joinSettled
  split <;> simp

theorem exec_join_released {s : State} {w : FWord} {r : Run} {code : BitVec 8} {dl : Word} (hi : issues s (.join w) = some r)
    (hrel : (SMap.get? r.sg.lanes r.low).bind (fun l => l.rel) = some (code, dl))
    (hq : quiet { r with sg := joinedSub s r w } (nextPc r) = true) :
    ∃ t u, exec (.join w) s = .next t ∧ SMap.get? t.subs r.sid = some u ∧ Completed { r with sg := joinedSub s r w } u (nextPc r) [] 0 ∧ t.mem = s.mem ∧
      SMap.get? t.groups r.gid = some (if isS w.dest then
        withOutst r.g s.nextId r.low r.set ((dstWrites w.dest true 0 (code.toNat % 16)).map (fun w => (w.1, some w.2))) else r.g) := by
  have he : exec (.join w) s = execJoin w s := rfl
  unfold execJoin at he
  obtain ⟨hexec, hr⟩ := exec_issuedF hi rfl he
  have hfin : exec (.join w) s = .next { (joinSettled s r w code).finish r.sid r.g r.set r.act r.stall r.len (decide (code = 3)) (decide (code = 0)) dl r.iw r.xw with
      issuing := none } := by
    refine hexec.trans (congrArg (fun t : State => Host.Outcome.next { t with issuing := none }) ?_)
    rw [joinSettled, ← updSub_joinedSub w (run_sub hr)]
    simp only [hrel]
    rfl
  rw [← nextPc_joinedSub s r w] at hq ⊢
  obtain ⟨t, u, ht, hrest⟩ := settled_completed (s := { s with subs := SMap.put s.subs r.sid (joinedSub s r w) }) (r := { r with sg := joinedSub s r w })
    (decide (code = 3)) (decide (code = 0)) dl r.iw r.xw (SMap.get?_put_same ..) (show SMap.get? s.groups r.gid = some r.g from run_group hr)
    (show r.now = (s.stn r.sg.mast r.sg.stn).cycles from run_now hr) (joinSettled_keeps s r w code) (joinSettled_mem s r w code) hq
  exact ⟨t, u, hfin.trans (congrArg _ ht), hrest⟩

/-- No lane of the word has a call left that BWAIT waits for (R183). -/
def callsSettled (s : State) (r : Run) : Bool :=
  (lanesOf r.act).all (fun l => s.calls.all (fun e => !(decide (e.2.gid = r.gid) && e.2.wait2 && decide (e.2.lane = l))))

theorem exec_bwait_settled {s : State} {w : FWord} {r : Run} (hi : issues s (.bwait w) = some r) (hcalls : callsSettled s r = true)
    (hq : quiet r (nextPc r) = true) :
    ∃ t u, exec (.bwait w) s = .next t ∧ SMap.get? t.subs r.sid = some u ∧ Completed r u (nextPc r) [] 0 ∧ t.mem = s.mem ∧
      SMap.get? t.groups r.gid = some (if isS w.dest then
        withOutst r.g s.nextId r.low r.set ((dstWrites w.dest true 0 0).map (fun w => (w.1, some w.2))) else r.g) := by
  have he : exec (.bwait w) s = execBwait w s := rfl
  unfold execBwait at he
  obtain ⟨hexec, hr⟩ := exec_issuedF hi rfl he
  have hmine : maskOf ((lanesOf r.act).filter (fun l => s.calls.any (fun e => decide (e.2.gid = r.gid) && e.2.wait2 && decide (e.2.lane = l)))) = 0 :=
    maskOf_filter_eq_zero fun l hl => by
      rw [List.any_eq_false]
      intro e hmem
      simpa only [Bool.not_eq_true', Bool.not_eq_true] using List.all_eq_true.mp (List.all_eq_true.mp hcalls l hl) e hmem
  have hout : (if isS w.dest then s.outstand r.gid (lowest r.act) r.set ((dstWrites w.dest true 0 0).map (fun e => (e.1, some 0))) else (0, s)).2 =
      sentStatus s r w.dest 0 := by
    unfold sentStatus
    cases w.dest <;> rfl
  simp only [hmine, hout, if_true] at hexec
  obtain ⟨t, u, ht, hrest⟩ := settled_completed (dest := w.dest) (code := 0) false true (r.sval w.a) r.iw r.xw (run_sub hr) (run_group hr) (run_now hr)
    ⟨rfl, rfl, rfl⟩ (sentStatus_mem s r w.dest 0) hq
  exact ⟨t, u, hexec.trans (congrArg _ ht), hrest⟩

/-- What a word that settles does, by the form of its sub-group and status. -/
theorem exec_settleForm {s : State} {i : Instr} {r : Run} {g1 : SubGroup} {code : Nat} {dest : Operand} (hi : issues s i = some r)
    (hf : settleForm s r i = some (g1, code, dest)) (hq : quiet { r with sg := g1 } (nextPc r) = true) :
    ∃ t u, exec i s = .next t ∧ SMap.get? t.subs r.sid = some u ∧ Completed { r with sg := g1 } u (nextPc r) [] 0 ∧ t.mem = s.mem ∧
      SMap.get? t.groups r.gid = some (if isS dest then
        withOutst r.g s.nextId r.low r.set ((dstWrites dest true 0 code).map (fun w => (w.1, some w.2))) else r.g) := by
  cases i <;> simp only [settleForm, reduceCtorEq] at hf
  case bwait w =>
    split_ifs at hf with hcalls
    simp only [Option.some.injEq, Prod.mk.injEq] at hf
    obtain ⟨rfl, rfl, rfl⟩ := hf
    exact exec_bwait_settled hi hcalls hq
  case join w =>
    split at hf
    · exact absurd hf (by simp)
    · split at hf
      · exact absurd hf (by simp)
      · simp only [Option.some.injEq, Prod.mk.injEq] at hf
        obtain ⟨rfl, rfl, rfl⟩ := hf
        exact exec_join_released hi ‹_› hq

end Sys2Proof.Machine
end

section
namespace Sys2Proof
open Machine Safety

/-- Settles O17: what settles is recorded in the sub-group, the status goes out, and the word completes. -/
theorem settlingWords : Obligations.SettlingWords := fun _ _ _ _ _ _ hi hf hq => exec_settleForm hi hf hq

end Sys2Proof
end

section
/-! # The stream load (O26) -/

namespace Sys2Proof.Machine

open Sys2Proof Sys2Proof.Safety

/-- What each active lane of a QLD is fed. -/
def feedOf (r : Run) (q : Stream) : List (Nat × Option StreamEl) :=
  ((lanesOf r.act).zip (List.range (lanesOf r.act).length)).map (fun e => (e.1, fed q (lanesOf r.act).length e.2))

/-- The loops that have come to their end after a delivery of k elements (R113). -/
def loopEnds (q : Stream) (k : Nat) : BitVec 3 :=
  BitVec.ofNat 3 ((if (q.pos + k) % q.n0 = 0 then 1 else 0) + (if (q.pos + k) % (q.n0 * q.n1) = 0 then 2 else 0) + (if q.pos + k = q.total then 4 else 0))

/-- A stream after a delivery of k elements. -/
def movedOn (q : Stream) (k : Nat) : Stream :=
  if k = 0 then q else { q with pos := q.pos + k, e := loopEnds q k, got := q.got.filter (fun x => decide (x.i ≥ q.pos + k)) }

theorem threeBits (a b c : Prop) [Decidable a] [Decidable b] [Decidable c] :
    let x := BitVec.ofNat 3 ((if a then 1 else 0) + (if b then 2 else 0) + (if c then 4 else 0))
    (x.getLsbD 0 = true ↔ a) ∧ (x.getLsbD 1 = true ↔ b) ∧ (x.getLsbD 2 = true ↔ c) := by
  by_cases ha : a <;> by_cases hb : b <;> by_cases hc : c <;> simp [ha, hb, hc]

theorem movedOn_delivered (q : Stream) (k : Nat) : Delivered q (movedOn q k) k := by
  unfold Delivered movedOn
  split
  · rfl
  · exact ⟨rfl, threeBits _ _ _⟩

/-- No lane of a feed without traps traps. -/
theorem feedOf_untrapped {r : Run} {q : Stream}
    (h : ∀ j < q.take (lanesOf r.act).length, ∀ x, fed q (lanesOf r.act).length j = some x → x.trap = none) :
    (feedOf r q).filterMap (fun e => e.2.bind (fun x => x.trap.map (fun t => (t, x.va)))) = [] := by
  rw [List.filterMap_eq_nil_iff]
  intro e he
  obtain ⟨⟨l, j⟩, -, rfl⟩ := List.mem_map.mp he
  show (fed q (lanesOf r.act).length j).bind _ = none
  cases hx : fed q (lanesOf r.act).length j with
  | none => rfl
  | some x =>
    have hj : j < q.take (lanesOf r.act).length := by
      by_contra hge
      simp [fed, hge] at hx
    simp [h j hj x hx]

theorem feedWrites_eq (r : Run) (w : FWord) (q : Stream) :
    (feedOf r q).flatMap (fun f => match f.2 with
      | some x => fillWrites w.dest (szOf w) f.1 x.val.toNat ++ dstWrites w.b false f.1 1
      | none => fillWrites w.dest (szOf w) f.1 0 ++ dstWrites w.b false f.1 0) = feedWrites r w q := by
  rw [feedOf, List.flatMap_map]
  rfl

/-- Streams of the issuing group move on without a change of stations or sub-groups, and its results go out. -/
theorem Run.later_afterGroup {s : State} {h : Hd} {r : Run} (f : Group → Group) (ws : List (Reg × Word)) (fl : BitVec 8) (hr : run s h = some r)
    (hq : quiet r (nextPc r) = true) :
    ∃ u, SentOut (s.updGroup r.gid f) { r.later (s.updGroup r.gid f) ws fl with issuing := none } r u ws ∧ Completed r u (nextPc r) [] fl :=
  Run.later_from (s := s.updGroup r.gid f) (g := f r.g) ws fl (show SMap.get? s.subs r.sid = some r.sg from run_sub hr)
    (by rw [State.updGroup_of_get? _ (run_group hr), SMap.get?_put_same])
    (show r.now = (s.stn r.sg.mast r.sg.stn).cycles from run_now hr) hq

theorem exec_qld_arrived {s : State} {w : FWord} {r : Run} {q : Stream} (hi : issues s (.qld w) = some r) (hstream : streamOf r.g w.a = some q)
    (harr : q.arrived (lanesOf r.act).length = true)
    (hfed : ∀ j < q.take (lanesOf r.act).length, ∀ x, fed q (lanesOf r.act).length j = some x → x.trap = none)
    (hq : quiet r (nextPc r) = true) :
    ∃ t u, exec (.qld w) s = .next t ∧ Completed r u (nextPc r) [] 0 ∧
      SentOut (s.updGroup r.gid (fun g => { g with streams := SMap.put g.streams (qNum w.a) (movedOn q (q.take (lanesOf r.act).length)) })) t r u (feedWrites r w q) := by
  have he : exec (.qld w) s = execQld w s := rfl
  unfold execQld at he
  obtain ⟨hexec, hr⟩ := exec_issuedF hi rfl he
  obtain ⟨u, hsent, hdone⟩ := Run.later_afterGroup (fun g => { g with streams := SMap.put g.streams (qNum w.a) (movedOn q (q.take (lanesOf r.act).length)) })
    (feedWrites r w q) 0 hr hq
  refine ⟨_, u, hexec.trans (congrArg (fun t : State => Host.Outcome.next { t with issuing := none }) ?_), hdone, hsent⟩
  have htrap := feedOf_untrapped hfed
  rw [← feedWrites_eq]
  unfold feedOf fed at htrap ⊢
  simp only [hstream, harr, htrap, Bool.not_true, Bool.false_eq_true, if_false, List.head?_nil]
  rfl

end Sys2Proof.Machine
end

section
namespace Sys2Proof
open Machine Safety

/-- Settles O26: elements that have arrived are fed to the lanes, the stream moves on, and the word completes. -/
theorem streamLoad : Obligations.StreamLoad := by
  intro s w r q n hi hstream harr hfed hq
  obtain ⟨t, u, hexec, hdone, hsent⟩ := exec_qld_arrived hi hstream harr hfed hq
  exact ⟨t, u, _, hexec, hdone, movedOn_delivered q _, hsent⟩

end Sys2Proof
end

section
/-! # Words that send out results (O15) -/

namespace Sys2Proof.Machine

open Sys2Proof Sys2Proof.Safety

/-! ## Changes that leave sub-groups and stations alone -/

/-- A change that leaves every sub-group and station as it was, and every group there. -/
def Stands (s t : State) : Prop :=
  t.subs = s.subs ∧ t.stns = s.stns ∧ ∀ gid, (SMap.get? t.groups gid).isSome = (SMap.get? s.groups gid).isSome

theorem Stands.of_eq {s t : State} (hsubs : t.subs = s.subs) (hstns : t.stns = s.stns) (hgroups : t.groups = s.groups) : Stands s t :=
  ⟨hsubs, hstns, fun gid => by rw [hgroups]⟩

theorem Stands.refl (s : State) : Stands s s := Stands.of_eq rfl rfl rfl

theorem Stands.trans {s t u : State} (h1 : Stands s t) (h2 : Stands t u) : Stands s u := by
  obtain ⟨hsubs, hstns, hgroups⟩ := h1
  obtain ⟨hsubs', hstns', hgroups'⟩ := h2
  exact ⟨hsubs'.trans hsubs, hstns'.trans hstns, fun gid => (hgroups' gid).trans (hgroups gid)⟩

theorem State.updGroup_stands (s : State) (gid : Nat) (f : Group → Group) : Stands s (s.updGroup gid f) := by
  refine ⟨rfl, rfl, fun k => ?_⟩
  show (SMap.get? (SMap.upd s.groups gid f) k).isSome = _
  unfold SMap.upd
  split
  · rename_i g hg
    rw [SMap.get?_put]
    split_ifs with h
    · simp [← h, hg]
    · rfl
  · rfl

/-- A change that a device makes to what it holds alone. -/
theorem State.on_stands (s : State) (d : Nat) {f : State → State} (hf : ∀ u, Stands u (f u)) : Stands s (s.on d f) := by
  obtain ⟨hsubs, hstns, hgroups⟩ := hf (s.enter d)
  refine ⟨?_, ?_, fun gid => ?_⟩
  · rw [State.on, State.enter_subs, hsubs, State.enter_subs]
  · rw [State.on, State.enter_stns, hstns, State.enter_stns]
  · rw [State.on, State.enter_groups, hgroups, State.enter_groups]

theorem State.noteAt_stands (s : State) (m typ ctx : Nat) (w1 w2 w3 : Word) : Stands s (s.noteAt m typ ctx w1 w2 w3) := by
  obtain ⟨hsubs, hgroups, hstns⟩ := State.noteAt_keeps s m typ ctx w1 w2 w3
  exact Stands.of_eq hsubs hstns hgroups

theorem State.noteLanes_stands (s : State) (typ sid : Nat) (lanes : Mask) (x : Word) : Stands s (s.noteLanes typ sid lanes x) := by
  obtain ⟨hsubs, hgroups, hstns⟩ := State.noteLanes_keeps s typ sid lanes x
  exact Stands.of_eq hsubs hstns hgroups

theorem State.countWait_stands (s : State) (sid : Nat) (lanes : Mask) : Stands s (s.countWait sid lanes) := by
  unfold State.countWait
  split
  · exact State.updGroup_stands ..
  · exact Stands.refl s

theorem State.clockRead_stands (s : State) (sid : Nat) (lanes : Mask) (x : Word) : Stands s (s.clockRead sid lanes x).2 :=
  (State.countWait_stands s sid lanes).trans (State.noteLanes_stands ..)

theorem State.errorEvent_stands (s : State) (m : Nat) : Stands s (s.errorEvent m) :=
  State.on_stands s _ fun _ => Stands.of_eq rfl rfl rfl

theorem State.countUe_stands (s : State) (cell : Nat) : Stands s (s.countUe cell) := by
  unfold State.countUe State.countUeAt
  dsimp only
  split
  · exact Stands.of_eq rfl rfl rfl
  · exact State.errorEvent_stands (s.updMast _ _) _

theorem State.countCe_stands (s : State) (m : Nat) : Stands s (s.countCe m) := by
  unfold State.countCe
  dsimp only
  split
  · exact State.errorEvent_stands (s.updMast _ _) _
  · exact Stands.of_eq rfl rfl rfl

theorem State.countRow_stands (s : State) (cell : Nat) : Stands s (s.countRow cell) := by
  unfold State.countRow
  dsimp only
  split
  · exact Stands.refl s
  · exact Stands.of_eq rfl rfl rfl

theorem State.checkRead_stands (s : State) (sectors : List Nat) : Stands s (s.checkRead sectors) := by
  unfold State.checkRead
  induction sectors generalizing s with
  | nil => exact Stands.refl s
  | cons c cs ih =>
    rw [List.foldl_cons]
    refine Stands.trans ?_ (ih _)
    split
    · exact State.countUe_stands s c
    split
    · exact (State.countCe_stands s _).trans (State.countRow_stands ..)
    · exact Stands.refl s

/-! ## Queue operations (R194) -/

theorem State.tryPush_stands {s t : State} {cid : Nat} {c : Crew} {gid : Nat} {g : Group} {q : Nat} {entry : List Word} {code : Nat} {got : List Word}
    (h : s.tryPush cid c gid g q entry = .done t code got) : Stands s t := by
  unfold State.tryPush at h
  dsimp only at h
  split at h
  · cases h
    exact State.countUe_stands ..
  split at h
  · cases h
    exact Stands.refl s
  split at h
  · cases h
    exact State.updGroup_stands (State.updCrew _ _ _) _ _
  · cases h

theorem State.tryPop_stands {s t : State} {c : Crew} {q : Nat} {code : Nat} {got : List Word} (h : s.tryPop c q = .done t code got) : Stands s t := by
  unfold State.tryPop at h
  dsimp only at h
  split at h
  · cases h
    exact State.countUe_stands ..
  split at h
  · cases h
    exact Stands.refl s
  split at h
  · cases h
  split at h
  · cases h
    exact State.countUe_stands ..
  · cases h
    refine (State.checkRead_stands s [sectorOf (localCell c.mast c.stn ((s.qdesc c q).entry (s.qdesc c q).head))]).trans ?_
    split
    · exact State.updGroup_stands (State.putEnds _ _ _ _ _) _ _
    · exact Stands.of_eq rfl rfl rfl

theorem State.tryQueue_stands {s t : State} {r : Run} {k : WaitKind} {code : Nat} {got : List Word} (h : s.tryQueue r k = .done t code got) : Stands s t := by
  unfold State.tryQueue at h
  split at h
  · split at h
    · cases h
    split at h
    · exact State.tryPush_stands h
    · exact State.tryPop_stands h
    · cases h
  · cases h

theorem State.noteQueue_stands (s : State) (r : Run) (k : WaitKind) : Stands s (s.noteQueue r k) := by
  unfold State.noteQueue
  split
  · exact State.noteAt_stands ..
  · exact State.noteAt_stands ..
  · exact Stands.refl s

/-! ## Results that go out -/

/-- The state with a word's results outstanding. -/
def sent (s : State) (r : Run) (ws : List (Reg × Word)) : State :=
  if (sentWrites ws).isEmpty then s else (s.outstand r.gid r.low r.set ((sentWrites ws).map (fun w => (w.1, some w.2)))).2

/-- A WORD THAT HAS WRITTEN WHAT IT WRITES AT ONCE sends its results out and completes. -/
theorem Run.sent_completed {s : State} {r : Run} {u : SubGroup} {now : List (Reg × Word)} {fl : Flags} (ws : List (Reg × Word))
    (hu : SMap.get? s.subs r.sid = some u) (hw : Written r.sg u now fl) (hnow : r.now = (s.stn r.sg.mast r.sg.stn).cycles)
    (hq : quiet r (nextPc r) = true) :
    ∃ v, SentOut s { r.done (sent s r ws) with issuing := none } r v ws ∧ Completed r v (nextPc r) now fl := by
  unfold SentOut sent
  by_cases hws : sentWrites ws = []
  · obtain ⟨v, honly, hdone⟩ := Run.done_completed hu hw hnow hq
    exact ⟨v, by simpa [hws] using honly, hdone⟩
  · have hne : (sentWrites ws).isEmpty = false := by simpa using hws
    obtain ⟨v, honly, hdone⟩ := Run.done_completed (s := (s.outstand r.gid r.low r.set ((sentWrites ws).map (fun w => (w.1, some w.2)))).2) hu hw hnow hq
    refine ⟨v, ?_, hdone⟩
    rw [if_neg hws]
    simp only [hne]
    exact honly

/-- What a word did to its own sub-group before its results went out does not show in what it changes. -/
theorem SentOut.of_updSub {s t : State} {r : Run} {u v : SubGroup} {f : SubGroup → SubGroup} {ws : List (Reg × Word)}
    (hu : SMap.get? s.subs r.sid = some u) (h : SentOut (s.updSub r.sid f) t r v ws) : SentOut s t r v ws := by
  unfold SentOut at h ⊢
  rw [State.updSub_of_get? _ hu] at h
  split_ifs at h ⊢ with hws
  · simpa [OnlySub, SMap.put_put] using h
  · simpa [SMap.put_put] using h

/-- The same of a word that does something to other records first. -/
theorem Run.later_stands {s s1 : State} {h : Hd} {r : Run} (ws : List (Reg × Word)) (hr : run s h = some r) (hs : Stands s s1)
    (hq : quiet r (nextPc r) = true) :
    ∃ u, SentOut s1 { r.later s1 ws 0 with issuing := none } r u ws ∧ Completed r u (nextPc r) [] 0 := by
  obtain ⟨hsubs, hstns, hgroups⟩ := hs
  obtain ⟨g, hg⟩ := Option.isSome_iff_exists.mp ((hgroups r.gid).trans (Option.isSome_iff_exists.mpr ⟨_, run_group hr⟩))
  exact Run.later_from ws 0 (by rw [hsubs]; exact run_sub hr) hg (by rw [State.stn, hstns]; exact run_now hr) hq

/-! ## Each word -/

theorem sentWrites_statusWrites (o : Operand) (x : Nat) : sentWrites (statusWrites o x) = statusWrites o x := by
  cases o <;> rfl

theorem sent_statusWrites (s : State) (r : Run) (o : Operand) (x : Nat) : sent s r (statusWrites o x) = sentStatus s r o x := by
  unfold sent sentStatus
  rw [sentWrites_statusWrites]
  cases o <;> rfl

theorem exec_join_unreleased {s : State} {w : FWord} {r : Run} (hi : issues s (.join w) = some r)
    (hrel : (SMap.get? r.sg.lanes r.low).bind (fun l => l.rel) = none) (hq : quiet r (nextPc r) = true) :
    ∃ t u, exec (.join w) s = .next t ∧ SentOut s t r u (statusWrites w.dest 0) ∧ Completed r u (nextPc r) [] 0 := by
  have he : exec (.join w) s = execJoin w s := rfl
  unfold execJoin at he
  obtain ⟨hexec, hr⟩ := exec_issuedF hi rfl he
  obtain ⟨u, hsent, hdone⟩ := Run.sent_completed (statusWrites w.dest 0) (run_sub hr) (Written.refl r.sg) (run_now hr) hq
  refine ⟨_, u, hexec.trans (congrArg (fun t : State => Host.Outcome.next { t with issuing := none }) ?_), hsent, hdone⟩
  simp only [hrel, sent_statusWrites]
  rfl

theorem exec_home_completed {s : State} {w : FWord} {x : Option XWord} {r : Run} (hi : issues s (.home w x) = some r) (hq : quiet r (nextPc r) = true) :
    ∃ t u, exec (.home w x) s = .next t ∧
      SentOut s t r u ((r.workLanes w.dest).flatMap (fun l => dstWrites w.dest false l (s.homeWord r (memAddr w x r l)))) ∧ Completed r u (nextPc r) [] 0 := by
  have hx : (xBit w && x.isNone) = false := by
    obtain ⟨h, g, hf, -⟩ := issues_eq hi
    cases hx : xBit w && x.isNone with
    | false => rfl
    | true => exact absurd hf (by rw [form, if_pos hx]; exact nofun)
  have hf : form s (.home w x) = some (hdX w x, homeSig w x) := by simp [form, hx]
  have he : exec (.home w x) s = execHome w x s := rfl
  unfold execHome issueMem at he
  simp only [Bool.false_or, hx, Bool.false_eq_true, if_false] at he
  obtain ⟨hexec, hr⟩ := exec_issued hi hf he
  obtain ⟨u, h⟩ := Run.later_stands _ hr (Stands.refl s) hq
  exact ⟨_, u, hexec, h⟩

/-- A word whose whole effect is results that go out. -/
theorem exec_later {s s1 : State} {i : Instr} {w : FWord} {g : Sig} {r : Run} {ws : List (Reg × Word)} {body : Body} (hi : issues s i = some r)
    (hf : form s i = some (hdX w none, g)) (he : exec i s = issueF s w none g body) (hb : body r s = r.later s1 ws 0) (hs : Stands s s1)
    (hq : quiet r (nextPc r) = true) :
    ∃ t u, exec i s = .next t ∧ SentOut s1 t r u ws ∧ Completed r u (nextPc r) [] 0 := by
  obtain ⟨hexec, hr⟩ := exec_issuedF hi hf he
  rw [hb] at hexec
  obtain ⟨u, h⟩ := Run.later_stands ws hr hs hq
  exact ⟨_, u, hexec, h⟩

/-- A settling point and no flags leave the sub-group as it was, but for what its lanes still see of old values. -/
theorem Written.settle_raise (a : SubGroup) (m : Mask) : Written a ((a.settle m).raise 0) [] 0 :=
  ⟨rfl, Kept.refl a, RegsAfter.of_reg_eq fun x => by cases x <;> rfl, rfl, rfl⟩

/-- A read of %aflags is a settling point, and the flags go out (R57, R201). -/
theorem exec_readFlags {s : State} {i : Instr} {w : FWord} {priv : Bool} {r : Run} (hi : issues s i = some r)
    (hf : form s i = some (hdX w none, movsReadSig w priv)) (he : exec i s = readSpecial s w priv) (hsel : selOf w = 0x0F) (hout : r.g.outst = [])
    (hq : quiet r (nextPc r) = true) :
    ∃ t u, exec i s = .next t ∧ SentOut s t r u (specialWrites s r w 0) ∧ Completed r u (nextPc r) [] 0 := by
  unfold readSpecial at he
  obtain ⟨hexec, hr⟩ := exec_issuedF hi hf he
  have hsub := run_sub hr
  have hraise : r.later (s.settlePoint r) (specialWrites s r w 0) 0 = r.done (sent (s.updSub r.sid (fun sg => (sg.settle r.set).raise 0)) r (specialWrites s r w 0)) := by
    unfold Run.later State.settlePoint
    rw [State.updSub_of_get? _ hsub, State.updSub_of_get? _ (SMap.get?_put_same ..), State.updSub_of_get? _ hsub, SMap.put_put]
    rfl
  obtain ⟨v, hsent, hdone⟩ := Run.sent_completed (s := s.updSub r.sid (fun sg => (sg.settle r.set).raise 0)) (r := r) (u := (r.sg.settle r.set).raise 0)
    (specialWrites s r w 0) (by rw [State.updSub_of_get? _ hsub, SMap.get?_put_same]) (Written.settle_raise r.sg r.set)
    (show r.now = (s.stn r.sg.mast r.sg.stn).cycles from run_now hr) hq
  refine ⟨_, v, hexec.trans (congrArg (fun t : State => Host.Outcome.next { t with issuing := none }) ?_), SentOut.of_updSub hsub hsent, hdone⟩
  rw [← hraise]
  simp only [hsel, settled, hout, List.map_nil, if_true, specialWrites]
  rfl

theorem exec_readSpecial_later {s s1 : State} {i : Instr} {w : FWord} {priv : Bool} {r : Run} {ws : List (Reg × Word)} (hi : issues s i = some r)
    (hf : form s i = some (hdX w none, movsReadSig w priv)) (he : exec i s = readSpecial s w priv)
    (hl : laterForm s r (.movsRead w) = some (s1, ws)) (hq : quiet r (nextPc r) = true) :
    ∃ t u, exec i s = .next t ∧ SentOut s1 t r u ws ∧ Completed r u (nextPc r) [] 0 := by
  simp only [laterForm] at hl
  split_ifs at hl with hflags hout hs hclk
  · simp only [Option.some.injEq, Prod.mk.injEq] at hl
    obtain ⟨rfl, rfl⟩ := hl
    exact exec_readFlags hi hf he hflags hout hq
  · simp only [Option.some.injEq, Prod.mk.injEq] at hl
    obtain ⟨rfl, rfl⟩ := hl
    refine exec_later hi hf he ?_ (State.clockRead_stands ..) hq
    simp only [hclk, hs, if_true, specialWrites]
    rfl
  · simp only [Option.some.injEq, Prod.mk.injEq] at hl
    obtain ⟨rfl, rfl⟩ := hl
    refine exec_later hi hf he ?_ (Stands.refl s) hq
    simp only [hclk, hflags, hs, if_false, specialWrites]
    rfl

/-- What QTRY sends out, in the state after its one try (R194). -/
def tryForm (s : State) (r : Run) (w : FWord) (pop : Bool) : Option (State × List (Reg × Word)) :=
  match s.tryQueue r (queueKind r w pop) with
  | .done t code got => some (t.noteQueue r (queueKind r w pop), popWrites (queueKind r w pop) got ++ dstWrites w.dest true 0 code)
  | .wait => some (s, dstWrites w.dest true 0 4)

theorem exec_try {s s1 : State} {i : Instr} {w : FWord} {pop : Bool} {r : Run} {ws : List (Reg × Word)} (hi : issues s i = some r)
    (hf : form s i = some (hdX w none, queueSig w [w.a] [] pop 15)) (he : exec i s = tryWord s w pop) (hl : tryForm s r w pop = some (s1, ws))
    (hq : quiet r (nextPc r) = true) :
    ∃ t u, exec i s = .next t ∧ SentOut s1 t r u ws ∧ Completed r u (nextPc r) [] 0 := by
  unfold tryForm at hl
  cases htry : s.tryQueue r (queueKind r w pop) with
  | done t code got =>
    simp only [htry, Option.some.injEq, Prod.mk.injEq] at hl
    obtain ⟨rfl, rfl⟩ := hl
    refine exec_later hi hf he ?_ ((State.tryQueue_stands htry).trans (State.noteQueue_stands ..)) hq
    simp only [htry]
  | wait =>
    simp only [htry, Option.some.injEq, Prod.mk.injEq] at hl
    obtain ⟨rfl, rfl⟩ := hl
    refine exec_later hi hf he ?_ (Stands.refl s) hq
    simp only [htry]

theorem exec_kset_single {s : State} {w : FWord} {r : Run} (hi : issues s (.kset w) = some r) (hform : w.lo.toNat % 8 ≠ 3) (hq : quiet r (nextPc r) = true) :
    ∃ t u, exec (.kset w) s = .next t ∧ SentOut s t r u (ksetOut (ksetPos s w) w r) ∧ Completed r u (nextPc r) [] 0 := by
  have he : exec (.kset w) s = execKset w s := rfl
  unfold execKset at he
  exact exec_later hi rfl he (if_neg hform) (Stands.refl s) hq

theorem exec_ktst_completed {s : State} {w : FWord} {r : Run} (hi : issues s (.ktst w) = some r) (hq : quiet r (nextPc r) = true) :
    ∃ t u, exec (.ktst w) s = .next t ∧ SentOut s t r u (ktstOut w r) ∧ Completed r u (nextPc r) [] 0 := by
  have he : exec (.ktst w) s = execKtst w s := rfl
  unfold execKtst at he
  exact exec_later hi rfl he rfl (Stands.refl s) hq

/-- BARW and GBARW refuse a token whose code is not 0 (R189). -/
theorem exec_phase_refused {s : State} {i : Instr} {w : FWord} {kind bits : Nat} {r : Run} (hi : issues s i = some r)
    (hf : form s i = some (hdX w none, phaseSig w bits)) (he : exec i s = phaseWord s w kind bits) (htok : fieldOf (r.sval w.b) 0 8 ≠ 0)
    (hq : quiet r (nextPc r) = true) :
    ∃ t u, exec i s = .next t ∧ SentOut s t r u (dstWrites w.dest true 0 7) ∧ Completed r u (nextPc r) [] 0 := by
  unfold phaseWord at he
  exact exec_later hi hf he (if_pos htok) (Stands.refl s) hq

theorem exec_barx_refused {s : State} {w : FWord} {r : Run} (hi : issues s (.barx w) = some r) (htok : fieldOf (r.sval w.b) 0 8 ≠ 0)
    (hq : quiet r (nextPc r) = true) :
    ∃ t u, exec (.barx w) s = .next t ∧ SentOut s t r u (dstWrites w.dest true 0 7) ∧ Completed r u (nextPc r) [] 0 := by
  have he : exec (.barx w) s = execBarx w s := rfl
  unfold execBarx at he
  exact exec_later hi rfl he (if_pos htok) (Stands.refl s) hq

/-- What a word that sends its results out does, by the form of the state and the writes. -/
theorem exec_laterForm {s s1 : State} {i : Instr} {r : Run} {ws : List (Reg × Word)} (hi : issues s i = some r)
    (hl : laterForm s r i = some (s1, ws)) (hq : quiet r (nextPc r) = true) :
    ∃ t u, exec i s = .next t ∧ SentOut s1 t r u ws ∧ Completed r u (nextPc r) [] 0 := by
  cases i
  case movsRead w => exact exec_readSpecial_later hi rfl rfl hl hq
  case movspRead w => exact exec_readSpecial_later hi rfl rfl hl hq
  all_goals simp only [laterForm, reduceCtorEq] at hl
  case join w =>
    split_ifs at hl with hrel
    simp only [Option.some.injEq, Prod.mk.injEq] at hl
    obtain ⟨rfl, rfl⟩ := hl
    exact exec_join_unreleased hi (Option.isNone_iff_eq_none.mp hrel) hq
  case home w x =>
    simp only [Option.some.injEq, Prod.mk.injEq] at hl
    obtain ⟨rfl, rfl⟩ := hl
    exact exec_home_completed hi hq
  case kset w =>
    split_ifs at hl with hcollective
    simp only [Option.some.injEq, Prod.mk.injEq] at hl
    obtain ⟨rfl, rfl⟩ := hl
    exact exec_kset_single hi hcollective hq
  case ktst w =>
    simp only [Option.some.injEq, Prod.mk.injEq] at hl
    obtain ⟨rfl, rfl⟩ := hl
    exact exec_ktst_completed hi hq
  case qtryPush w => exact exec_try (pop := false) hi rfl rfl hl hq
  case qtryPop w => exact exec_try (pop := true) hi rfl rfl hl hq
  case barw w =>
    split_ifs at hl with htok
    simp only [Option.some.injEq, Prod.mk.injEq] at hl
    obtain ⟨rfl, rfl⟩ := hl
    exact exec_phase_refused hi rfl rfl htok hq
  case gbarw w =>
    split_ifs at hl with htok
    simp only [Option.some.injEq, Prod.mk.injEq] at hl
    obtain ⟨rfl, rfl⟩ := hl
    exact exec_phase_refused hi rfl rfl htok hq
  case barx w =>
    split_ifs at hl with htok
    simp only [Option.some.injEq, Prod.mk.injEq] at hl
    obtain ⟨rfl, rfl⟩ := hl
    exact exec_barx_refused hi htok hq

end Sys2Proof.Machine
end

section
namespace Sys2Proof
open Machine Safety

/-- Settles O15: each word's one change beside its results leaves its sub-group alone, and the results go out. -/
theorem laterWords : Obligations.LaterWords := fun _ _ _ _ _ hi hl hq => exec_laterForm hi hl hq

end Sys2Proof
end

section
/-! # Integer arithmetic and division (O5, O7)

The model computes on patterns as numbers, with the values T as integers. These lemmas say what each operation is on words of the width of its
format, whatever that width is. -/

namespace Sys2Proof.Machine

open Sys2Proof Sys2Proof.Safety

/-- The value T of a word at a format (R87). -/
def intVal (t : IFmt) (x : BitVec t.w) : Int := if t.signed then x.toInt else (x.toNat : Int)

/-- The word nearest to a value (R87). -/
def clampVal (t : IFmt) (z : Int) : Nat :=
  if t.signed then (BitVec.ofInt t.w (max (-(2 ^ (t.w - 1))) (min (2 ^ (t.w - 1) - 1) z))).toNat else (max 0 (min (2 ^ t.w - 1) z)).toNat

theorem IFmt.w_pos (c : Nat) : 0 < (IFmt.ofCode c).w := by
  unfold IFmt.ofCode
  dsimp only
  split <;> decide

theorem two_pow_pred {n : Nat} (h : 0 < n) : 2 * 2 ^ (n - 1) = 2 ^ n := by rw [← Nat.pow_succ', Nat.succ_eq_add_one, Nat.sub_add_cancel h]

theorem tVal_toNat {t : IFmt} (ht : 0 < t.w) (x : BitVec t.w) : tVal t x.toNat = intVal t x := by
  have hp := two_pow_pred ht
  unfold tVal intVal
  cases t.signed with
  | false => rfl
  | true =>
    rw [BitVec.toInt_eq_toNat_cond]
    by_cases h : x.toNat ≥ 2 ^ (t.w - 1)
    · have h2 : ¬ 2 * x.toNat < 2 ^ t.w := by omega
      simp [h, h2]
    · have h2 : 2 * x.toNat < 2 ^ t.w := by omega
      simp [h, h2]

/-- Its value modulo the width is the word itself. -/
theorem ofInt_intVal (t : IFmt) (x : BitVec t.w) : BitVec.ofInt t.w (intVal t x) = x := by
  unfold intVal
  split <;> simp

theorem wrapTo_eq (n : Nat) (z : Int) : wrapTo n z = (BitVec.ofInt n z).toNat := by
  rw [wrapTo, BitVec.toNat_ofInt, Int.natCast_pow]
  rfl

/-- A value below the width's count of patterns stands for itself. -/
theorem toNat_ofInt_of_lt {n : Nat} {z : Int} (h0 : 0 ≤ z) (h : z < 2 ^ n) : (BitVec.ofInt n z).toNat = z.toNat := by
  rw [← wrapTo_eq, wrapTo, Int.emod_eq_of_lt h0 h]

theorem limit_eq {lo hi z : Int} (h : lo ≤ hi) : (if z < lo then lo else if z > hi then hi else z) = max lo (min hi z) := by
  split_ifs <;> omega

theorem clampTo_eq (t : IFmt) (z : Int) : clampTo t z = clampVal t z := by
  have hhalf : (0 : Int) < 2 ^ (t.w - 1) := by positivity
  have hfull : (0 : Int) < 2 ^ t.w := by positivity
  unfold clampTo clampVal
  cases t.signed with
  | true =>
    simp only [if_true]
    rw [limit_eq (by omega), wrapTo_eq]
  | false =>
    simp only [Bool.false_eq_true, if_false]
    rw [limit_eq (by omega), wrapTo_eq, toNat_ofInt_of_lt (by omega) (by omega)]

theorem fitTo_eq (t : IFmt) (sat : Bool) (z : Int) : fitTo t sat z = if sat then clampVal t z else (BitVec.ofInt t.w z).toNat := by
  unfold fitTo
  rw [clampTo_eq, wrapTo_eq]

/-- A signed value within the range of its format is clamped to its own word. -/
theorem clampVal_of_mem {t : IFmt} {z : Int} (hs : t.signed = true) (hlo : -(2 ^ (t.w - 1)) ≤ z) (hhi : z ≤ 2 ^ (t.w - 1) - 1) :
    clampVal t z = (BitVec.ofInt t.w z).toNat := by
  rw [clampVal, if_pos hs, min_eq_right hhi, max_eq_right hlo]

/-- The first value above the range of a signed format is clamped to the maximum. -/
theorem clampVal_half {t : IFmt} (hs : t.signed = true) : clampVal t (2 ^ (t.w - 1)) = (BitVec.intMax t.w).toNat := by
  have hhalf : (0 : Int) < 2 ^ (t.w - 1) := by positivity
  rw [clampVal, if_pos hs, min_eq_left (by omega), max_eq_right (by omega), ← BitVec.toInt_intMax, BitVec.ofInt_toInt]

section
variable {t : IFmt} (ht : 0 < t.w) (sat : Bool) (op : Nat) (a b c : BitVec t.w)
include ht

theorem opAdd_eq : opAdd t sat op [a.toNat, b.toNat] = if sat then clampVal t (intVal t a + intVal t b) else (a + b).toNat := by
  simp only [opAdd, tVal_toNat ht, fitTo_eq, BitVec.ofInt_add, ofInt_intVal]

theorem opSub_eq : opSub t sat op [a.toNat, b.toNat] = if sat then clampVal t (intVal t a - intVal t b) else (a - b).toNat := by
  simp only [opSub, tVal_toNat ht, fitTo_eq, Int.sub_eq_add_neg, BitVec.ofInt_add, BitVec.ofInt_neg, ofInt_intVal, BitVec.sub_eq_add_neg]

theorem opMul_eq : opMul t sat op [a.toNat, b.toNat] = if sat then clampVal t (intVal t a * intVal t b) else (a * b).toNat := by
  simp only [opMul, tVal_toNat ht, fitTo_eq, BitVec.ofInt_mul, ofInt_intVal]

theorem opMad_eq : opMad t sat op [a.toNat, b.toNat, c.toNat] =
    if sat then clampVal t (intVal t a * intVal t b + intVal t c) else (a * b + c).toNat := by
  simp only [opMad, tVal_toNat ht, fitTo_eq, BitVec.ofInt_mul, BitVec.ofInt_add, ofInt_intVal]

theorem opMin_eq : opMin t sat op [a.toNat, b.toNat] = if intVal t b < intVal t a then b.toNat else a.toNat := by
  simp only [opMin, tVal_toNat ht]

theorem opMax_eq : opMax t sat op [a.toNat, b.toNat] = if intVal t a < intVal t b then b.toNat else a.toNat := by
  simp only [opMax, tVal_toNat ht]

end

/-! ## The high half of a product -/

/-- A word at twice its width, with the same value. -/
def wider (t : IFmt) (x : BitVec t.w) : BitVec (2 * t.w) := if t.signed then x.signExtend (2 * t.w) else x.setWidth (2 * t.w)

theorem wider_eq (t : IFmt) (x : BitVec t.w) : wider t x = BitVec.ofInt (2 * t.w) (intVal t x) := by
  unfold wider intVal
  split
  · rfl
  · exact (BitVec.ofNat_toNat ..).symm

/-- The upper digit of a value modulo a square. -/
theorem emod_sq_ediv {N : Int} (hN : 0 < N) (z : Int) : z % (N * N) / N = z / N % N := by
  have hz : z % (N * N) = z - N * (N * (z / (N * N))) := by rw [Int.emod_def]; ring
  rw [hz, Int.sub_mul_ediv_left _ _ hN.ne', Int.emod_def, Int.ediv_ediv_of_nonneg hN.le]

theorem opMulh_eq {t : IFmt} (ht : 0 < t.w) (sat : Bool) (op : Nat) (a b : BitVec t.w) :
    opMulh t sat op [a.toNat, b.toNat] = (((wider t a * wider t b) >>> t.w).setWidth t.w).toNat := by
  have hsq : ((2 ^ (2 * t.w) : Nat) : Int) = 2 ^ t.w * 2 ^ t.w := by push_cast; ring
  have hpos : (0 : Int) < 2 ^ t.w := by positivity
  rw [wider_eq, wider_eq, ← BitVec.ofInt_mul, BitVec.toNat_setWidth, BitVec.toNat_ushiftRight, BitVec.toNat_ofInt, hsq, Nat.shiftRight_eq_div_pow]
  simp only [opMulh, tVal_toNat ht, wrapTo]
  rw [← emod_sq_ediv hpos]
  have hnn : 0 ≤ intVal t a * intVal t b % (2 ^ t.w * 2 ^ t.w) := Int.emod_nonneg _ (by positivity)
  obtain ⟨k, hk⟩ := Int.eq_ofNat_of_zero_le hnn
  have hlt : k < 2 ^ t.w * 2 ^ t.w := by
    have := Int.emod_lt_of_pos (intVal t a * intVal t b) (show (0 : Int) < 2 ^ t.w * 2 ^ t.w by positivity)
    rw [hk] at this
    exact_mod_cast this
  rw [hk]
  have hdiv : ((k : Int) / 2 ^ t.w) = ((k / 2 ^ t.w : Nat) : Int) := by push_cast; rfl
  rw [hdiv, Int.toNat_natCast, Int.toNat_natCast, Nat.mod_eq_of_lt (Nat.div_lt_of_lt_mul hlt)]

/-! ## Absolute value and negation -/

theorem neg_intVal_le {t : IFmt} (hs : t.signed = true) (ht : 0 < t.w) {a : BitVec t.w} (h : a ≠ BitVec.intMin t.w) : -(intVal t a) ≤ 2 ^ (t.w - 1) - 1 := by
  have hge := BitVec.le_toInt a
  have hne : a.toInt ≠ -2 ^ (t.w - 1) := fun h' => h (BitVec.toInt_inj.mp (h'.trans (BitVec.toInt_intMin_of_pos ht).symm))
  simp only [intVal, hs, if_true]
  omega

theorem opNeg_eq {t : IFmt} (ht : 0 < t.w) (hs : t.signed = true) (sat : Bool) (op : Nat) (a : BitVec t.w) :
    opNeg t sat op [a.toNat] = if sat = true ∧ a = BitVec.intMin t.w then (BitVec.intMax t.w).toNat else (-a).toNat := by
  have hlt : intVal t a < 2 ^ (t.w - 1) := by simpa only [intVal, hs, if_true] using BitVec.toInt_lt
  have hwrap : (BitVec.ofInt t.w (-(intVal t a))).toNat = (-a).toNat := by rw [BitVec.ofInt_neg, ofInt_intVal]
  simp only [opNeg, tVal_toNat ht, fitTo_eq]
  by_cases hmin : a = BitVec.intMin t.w
  · have hval : -(intVal t a) = 2 ^ (t.w - 1) := by simp only [intVal, hs, if_true, hmin, BitVec.toInt_intMin_of_pos ht, neg_neg]
    cases sat with
    | true => rw [if_pos rfl, if_pos ⟨rfl, hmin⟩, hval, clampVal_half hs]
    | false => rw [if_neg (by decide), if_neg (by simp), hwrap]
  · rw [clampVal_of_mem hs (by omega) (neg_intVal_le hs ht hmin), hwrap]
    simp [hmin]

theorem natAbs_intVal {t : IFmt} (hs : t.signed = true) (a : BitVec t.w) : ((intVal t a).natAbs : Int) = if a.msb then -(intVal t a) else intVal t a := by
  have hneg : a.msb = true ↔ a.toInt < 0 := by rw [BitVec.msb_eq_toInt]; simp
  simp only [intVal, hs, if_true]
  split_ifs with h
  · have := hneg.mp h
    omega
  · have : ¬ a.toInt < 0 := fun h' => h (hneg.mpr h')
    omega

theorem opAbs_eq {t : IFmt} (ht : 0 < t.w) (hs : t.signed = true) (sat : Bool) (op : Nat) (a : BitVec t.w) :
    opAbs t sat op [a.toNat] =
      if sat = true ∧ a = BitVec.intMin t.w then (BitVec.intMax t.w).toNat else (if a.msb then -a else a).toNat := by
  have hbounds : -(2 ^ (t.w - 1)) ≤ intVal t a ∧ intVal t a < 2 ^ (t.w - 1) := by
    simpa only [intVal, hs, if_true] using ⟨BitVec.le_toInt a, BitVec.toInt_lt⟩
  simp only [opAbs, tVal_toNat ht, natAbs_intVal hs]
  by_cases hmsb : a.msb = true
  · simpa only [hmsb, if_true, opNeg, tVal_toNat ht] using opNeg_eq ht hs sat op a
  · have hmin : a ≠ BitVec.intMin t.w := by
      rintro rfl
      exact hmsb (by simp [BitVec.msb_intMin, ht])
    simp only [hmsb, hmin, Bool.false_eq_true, and_false, if_false, fitTo_eq]
    rw [clampVal_of_mem hs hbounds.1 (by omega), ofInt_intVal, ite_self]

/-! ## The scaled sum -/

theorem leaSum_eq {t : IFmt} (hw : t.w = 32) (x : BitVec 64) (y : BitVec 32) (k : Nat) :
    wrapTo 64 ((x.toNat : Int) + tVal t y.toNat * 2 ^ k) = (x + ((if t.signed then y.signExtend 64 else y.setWidth 64) <<< k)).toNat := by
  obtain ⟨w, signed, b⟩ := t
  obtain rfl : w = 32 := hw
  have hval : tVal { w := 32, signed := signed, b := b } y.toNat = if signed then y.toInt else (y.toNat : Int) :=
    tVal_toNat (t := { w := 32, signed := signed, b := b }) (show 0 < 32 by decide) y
  have hext : (if signed then y.signExtend 64 else y.setWidth 64) = BitVec.ofInt 64 (if signed then y.toInt else (y.toNat : Int)) := by
    cases signed with
    | true => rfl
    | false => exact (BitVec.ofNat_toNat ..).symm
  have hpow : BitVec.ofInt 64 (2 ^ k) = BitVec.twoPow 64 k := by
    apply BitVec.eq_of_toNat_eq
    rw [BitVec.toNat_twoPow, show (2 ^ k : Int) = ((2 ^ k : Nat) : Int) by push_cast; rfl, BitVec.ofInt_natCast, BitVec.toNat_ofNat]
  rw [hval, wrapTo_eq, BitVec.ofInt_add, BitVec.ofInt_mul, hpow, hext, BitVec.shiftLeft_eq_mul_twoPow, BitVec.ofInt_natCast, BitVec.ofNat_toNat]
  rfl

/-! ## Division (R89) -/

theorem intVal_eq_zero {t : IFmt} {b : BitVec t.w} : intVal t b = 0 ↔ b = 0 := by
  constructor
  · intro h
    rw [← ofInt_intVal t b, h]
    rfl
  · rintro rfl
    unfold intVal
    split <;> simp

/-- A value within the range of its format is the value of its word. -/
theorem intVal_ofInt {t : IFmt} (ht : 0 < t.w) {z : Int} (hs : t.signed = true → -2 ^ (t.w - 1) ≤ z ∧ z < 2 ^ (t.w - 1))
    (hu : t.signed = false → 0 ≤ z ∧ z < 2 ^ t.w) : intVal t (BitVec.ofInt t.w z) = z := by
  unfold intVal
  split
  next hsigned =>
    obtain ⟨hlo, hhi⟩ := hs hsigned
    exact BitVec.toInt_ofInt_eq_self ht hlo hhi
  next hns =>
    obtain ⟨hlo, hhi⟩ := hu (Bool.eq_false_iff.mpr hns)
    rw [toNat_ofInt_of_lt hlo hhi, Int.toNat_of_nonneg hlo]

theorem divOverflow_iff {t : IFmt} (ht : 0 < t.w) (a b : BitVec t.w) :
    divOverflow t a.toNat b.toNat = true ↔ t.signed = true ∧ a = BitVec.intMin t.w ∧ b = BitVec.allOnes t.w := by
  simp only [divOverflow, Bool.and_eq_true, decide_eq_true_eq, ← BitVec.toNat_inj, BitVec.toNat_intMin_of_pos ht, BitVec.toNat_allOnes, and_assoc]

theorem opDiv_eq {t : IFmt} (ht : 0 < t.w) (sat : Bool) (op : Nat) (a b : BitVec t.w) :
    opDiv t sat op [a.toNat, b.toNat] = (if b = 0 then BitVec.allOnes t.w else
      if t.signed = true ∧ a = BitVec.intMin t.w ∧ b = BitVec.allOnes t.w then a else BitVec.ofInt t.w ((intVal t a).tdiv (intVal t b))).toNat := by
  have hzero : b.toNat = 0 ↔ b = 0 := by rw [← BitVec.toNat_inj]; rfl
  simp only [opDiv, hzero, divOverflow_iff ht, tVal_toNat ht, wrapTo_eq]
  split_ifs
  · rw [BitVec.toNat_allOnes]
  · rfl
  · rfl

theorem opRem_eq {t : IFmt} (ht : 0 < t.w) (sat : Bool) (op : Nat) (a b : BitVec t.w) :
    opRem t sat op [a.toNat, b.toNat] = (if b = 0 then a else
      if t.signed = true ∧ a = BitVec.intMin t.w ∧ b = BitVec.allOnes t.w then 0 else BitVec.ofInt t.w ((intVal t a).tmod (intVal t b))).toNat := by
  have hzero : b.toNat = 0 ↔ b = 0 := by rw [← BitVec.toNat_inj]; rfl
  simp only [opRem, hzero, divOverflow_iff ht, tVal_toNat ht, wrapTo_eq]
  split_ifs <;> rfl

/-- The truncated quotient of two values of a format is one of its values, but for the minimum by -1. -/
theorem intVal_tdiv {t : IFmt} (ht : 0 < t.w) {a b : BitVec t.w} (hb : b ≠ 0)
    (hover : ¬ (t.signed = true ∧ a = BitVec.intMin t.w ∧ b = BitVec.allOnes t.w)) :
    intVal t (BitVec.ofInt t.w ((intVal t a).tdiv (intVal t b))) = (intVal t a).tdiv (intVal t b) := by
  have hne : intVal t b ≠ 0 := mt intVal_eq_zero.mp hb
  refine intVal_ofInt ht (fun hs => ?_) (fun hu => ?_)
  · have hbounds : -2 ^ (t.w - 1) ≤ intVal t a ∧ intVal t a < 2 ^ (t.w - 1) := by
      simpa only [intVal, hs, if_true] using ⟨BitVec.le_toInt a, BitVec.toInt_lt⟩
    have hle := Int.natAbs_tdiv_le_natAbs (intVal t a) (intVal t b)
    obtain hmin | hmin := eq_or_ne a (BitVec.intMin t.w)
    · have hones : b ≠ BitVec.allOnes t.w := fun h => hover ⟨hs, hmin, h⟩
      have hneg : intVal t b ≠ -1 := fun h => hones (by
        rw [← ofInt_intVal t b, h, BitVec.ofInt_neg, ← BitVec.neg_one_eq_allOnes]
        rfl)
      obtain hone | hone := eq_or_ne (intVal t b) 1
      · rwa [hone, Int.tdiv_one]
      · have htwo : 2 ≤ (intVal t b).natAbs := by omega
        have habs : ((intVal t a).tdiv (intVal t b)).natAbs * 2 ≤ (intVal t a).natAbs := by
          rw [Int.natAbs_tdiv]
          exact (Nat.mul_le_mul_left _ htwo).trans (Nat.div_mul_le_self _ _)
        omega
    · have hlow := neg_intVal_le hs ht hmin
      omega
  · have ha : 0 ≤ intVal t a ∧ intVal t a < 2 ^ t.w := by
      simp only [intVal, hu, Bool.false_eq_true, if_false]
      exact ⟨Int.natCast_nonneg _, by exact_mod_cast a.isLt⟩
    have hb0 : 0 ≤ intVal t b := by
      simp only [intVal, hu, Bool.false_eq_true, if_false]
      exact Int.natCast_nonneg _
    exact ⟨Int.tdiv_nonneg ha.1 hb0, (Int.tdiv_le_self _ ha.1).trans_lt ha.2⟩

/-- The remainder of two values of a format is one of its values. -/
theorem intVal_tmod {t : IFmt} (ht : 0 < t.w) {a b : BitVec t.w} (hb : b ≠ 0) :
    intVal t (BitVec.ofInt t.w ((intVal t a).tmod (intVal t b))) = (intVal t a).tmod (intVal t b) := by
  have hne : intVal t b ≠ 0 := mt intVal_eq_zero.mp hb
  have habs : ((intVal t a).tmod (intVal t b)).natAbs < (intVal t b).natAbs := by
    rw [Int.natAbs_tmod]
    exact Nat.mod_lt _ (by omega)
  refine intVal_ofInt ht (fun hs => ?_) (fun hu => ?_)
  · have hbounds : -2 ^ (t.w - 1) ≤ intVal t b ∧ intVal t b < 2 ^ (t.w - 1) := by
      simpa only [intVal, hs, if_true] using ⟨BitVec.le_toInt b, BitVec.toInt_lt⟩
    omega
  · have ha : 0 ≤ intVal t a := by
      simp only [intVal, hu, Bool.false_eq_true, if_false]
      exact Int.natCast_nonneg _
    have hb' : 0 ≤ intVal t b ∧ intVal t b < 2 ^ t.w := by
      simp only [intVal, hu, Bool.false_eq_true, if_false]
      exact ⟨Int.natCast_nonneg _, by exact_mod_cast b.isLt⟩
    have := Int.tmod_nonneg (intVal t b) ha
    omega

/-- A remainder that is not 0 has the sign of the dividend. -/
theorem tmod_pos_iff (a b : Int) : a.tmod b = 0 ∨ (0 < a.tmod b ↔ 0 < a) := by
  obtain h | h := le_or_gt 0 a
  · have := Int.tmod_nonneg b h
    rcases this.eq_or_lt with h0 | hpos
    · exact Or.inl h0.symm
    · refine Or.inr ⟨fun _ => lt_of_le_of_ne h ?_, fun _ => hpos⟩
      rintro rfl
      simp at hpos
  · have hneg : a.tmod b ≤ 0 := by
      have := Int.tmod_nonneg b (show 0 ≤ -a by omega)
      rw [Int.neg_tmod] at this
      omega
    exact Or.inr ⟨fun h' => absurd h' (by omega), fun h' => absurd h' (by omega)⟩

end Sys2Proof.Machine
end

section
namespace Sys2Proof
open Machine Safety

/-- Settles O5: each word is its operation at the width of its format, wrapped or clamped. -/
theorem integerArithmetic : Obligations.IntegerArithmetic := by
  intro w v u t n a b c T clamp wider' _ _
  have ht : 0 < t.w := IFmt.w_pos u.fmt
  have value {x y : Nat} (h : x = y) : some (x, (0 : Flags)) = some (y, 0) := congrArg (fun z => some (z, 0)) h
  refine ⟨fun add sub mul mulh mn mx hforms => ?_, ?_⟩
  · have hwords : (∀ xs, computes add xs = some (opAdd t u.sat u.op xs, 0)) ∧ (∀ xs, computes sub xs = some (opSub t u.sat u.op xs, 0)) ∧
        (∀ xs, computes mul xs = some (opMul t u.sat u.op xs, 0)) ∧ (∀ xs, computes mulh xs = some (opMulh t u.sat u.op xs, 0)) ∧
        (∀ xs, computes mn xs = some (opMin t u.sat u.op xs, 0)) ∧ (∀ xs, computes mx xs = some (opMax t u.sat u.op xs, 0)) := by
      obtain ⟨rfl, rfl, rfl, rfl, rfl, rfl, rfl⟩ | ⟨rfl, rfl, rfl, rfl, rfl, rfl, rfl⟩ := hforms
      · exact ⟨fun _ => rfl, fun _ => rfl, fun _ => rfl, fun _ => rfl, fun _ => rfl, fun _ => rfl⟩
      · exact ⟨fun _ => rfl, fun _ => rfl, fun _ => rfl, fun _ => rfl, fun _ => rfl, fun _ => rfl⟩
    obtain ⟨hadd, hsub, hmul, hmulh, hmn, hmx⟩ := hwords
    rw [hadd, hsub, hmul, hmulh, hmn, hmx]
    exact ⟨value (opAdd_eq ht ..), value (opSub_eq ht ..), value (opMul_eq ht ..), value (opMulh_eq ht ..), value (opMin_eq ht ..), value (opMax_eq ht ..)⟩
  · rintro rfl
    refine ⟨value (opMad_eq ht ..), fun hfmt => ?_, fun x y hfmt _ => ?_⟩
    · have hs : t.signed = true := by
        rcases List.mem_pair.mp hfmt with h | h <;> exact congrArg (fun c => (IFmt.ofCode c).signed) h
      exact ⟨value (opAbs_eq ht hs ..), value (opNeg_eq ht hs ..)⟩
    · obtain h | h := hfmt
      · have ht4 : IFmt.ofCode (Mods.ofNat (fMods w)).fmt = IFmt.ofCode 4 := congrArg _ h
        rw [if_pos h]
        exact value ((congrArg (fun t => wrapTo 64 ((x.toNat : Int) + tVal t y.toNat * 2 ^ (Mods.ofNat (fMods w)).op)) ht4).trans (leaSum_eq rfl x y _))
      · have ht5 : IFmt.ofCode (Mods.ofNat (fMods w)).fmt = IFmt.ofCode 5 := congrArg _ h
        rw [if_neg (by omega)]
        exact value ((congrArg (fun t => wrapTo 64 ((x.toNat : Int) + tVal t y.toNat * 2 ^ (Mods.ofNat (fMods w)).op)) ht5).trans (leaSum_eq rfl x y _))

/-- Settles O7: quotient and remainder are those of truncated division, and the two cases apart are those of R89. -/
theorem integerDivision : Obligations.IntegerDivision := by
  intro w v u div rem hforms _ t n a b T
  have ht : 0 < t.w := IFmt.w_pos u.fmt
  have hwords : (∀ xs, computes div xs = some (opDiv t u.sat u.op xs, 0)) ∧ (∀ xs, computes rem xs = some (opRem t u.sat u.op xs, 0)) := by
    obtain ⟨rfl, rfl, rfl⟩ | ⟨rfl, rfl, rfl⟩ := hforms
    · exact ⟨fun _ => rfl, fun _ => rfl⟩
    · exact ⟨fun _ => rfl, fun _ => rfl⟩
  obtain ⟨hdiv, hrem⟩ := hwords
  refine ⟨_, _, (hdiv _).trans (congrArg (fun z => some (z, 0)) (opDiv_eq ht ..)), (hrem _).trans (congrArg (fun z => some (z, 0)) (opRem_eq ht ..)), ?_⟩
  by_cases hb : b = 0
  · rw [if_pos hb, if_pos hb, if_pos hb]
    exact ⟨rfl, rfl⟩
  rw [if_neg hb, if_neg hb, if_neg hb]
  by_cases hover : t.signed = true ∧ a = BitVec.intMin n ∧ b = BitVec.allOnes n
  · rw [if_pos hover, if_pos hover, if_pos hover]
    exact ⟨rfl, rfl⟩
  rw [if_neg hover, if_neg hover, if_neg hover]
  show intVal t a = intVal t (BitVec.ofInt t.w ((intVal t a).tdiv (intVal t b))) * intVal t b + intVal t (BitVec.ofInt t.w ((intVal t a).tmod (intVal t b))) ∧
    (intVal t (BitVec.ofInt t.w ((intVal t a).tmod (intVal t b)))).natAbs < (intVal t b).natAbs ∧
    (intVal t (BitVec.ofInt t.w ((intVal t a).tmod (intVal t b))) = 0 ∨
      (0 < intVal t (BitVec.ofInt t.w ((intVal t a).tmod (intVal t b))) ↔ 0 < intVal t a))
  rw [intVal_tdiv ht hb hover, intVal_tmod ht hb, Int.natAbs_tmod]
  have hpos : 0 < (intVal t b).natAbs := Int.natAbs_pos.mpr (mt intVal_eq_zero.mp hb)
  exact ⟨(Int.tdiv_mul_add_tmod _ _).symm, Nat.mod_lt _ hpos, tmod_pos_iff _ _⟩

end Sys2Proof
end

section
/-! # Bitwise, shift, field, comparison and selection words (O6) -/

namespace Sys2Proof.Machine

open Sys2Proof Sys2Proof.Safety

/-! ## Numbers given by their bits or their bytes -/

/-- Bits put above a number that ends below them. -/
theorem testBit_add_mul_two_pow {a k : Nat} (ha : a < 2 ^ k) (x i : Nat) :
    (a + x * 2 ^ k).testBit i = if i < k then a.testBit i else x.testBit (i - k) := by
  rw [Nat.add_comm, Nat.mul_comm, Nat.two_pow_add_eq_or_of_lt ha, Nat.testBit_or, Nat.mul_comm, Nat.testBit_mul_two_pow]
  by_cases h : i < k
  · simp [h, Nat.not_le.mpr h]
  · simp [h, Nat.le_of_not_lt h, Nat.testBit_lt_two_pow (ha.trans_le (Nat.pow_le_pow_right (by decide) (Nat.le_of_not_lt h)))]

/-- The number whose digits of b bits are g j, for j below m. -/
def digits (b m : Nat) (g : Nat → Nat) : Nat := (List.range m).foldl (fun r j => r + g j * 2 ^ (b * j)) 0

theorem digits_succ (b m : Nat) (g : Nat → Nat) : digits b (m + 1) g = digits b m g + g m * 2 ^ (b * m) := by
  simp [digits, List.range_succ]

theorem digits_lt {b : Nat} {g : Nat → Nat} (hg : ∀ j, g j < 2 ^ b) (m : Nat) : digits b m g < 2 ^ (b * m) := by
  induction m with
  | zero => simp [digits]
  | succ m ih =>
    rw [digits_succ, Nat.mul_succ, Nat.pow_add]
    nlinarith [hg m, Nat.two_pow_pos (b * m)]

theorem testBit_digits {b : Nat} {g : Nat → Nat} (hg : ∀ j, g j < 2 ^ b) {m i : Nat} (hi : i < b * m) :
    (digits b m g).testBit i = (g (i / b)).testBit (i % b) := by
  induction m with
  | zero => simp at hi
  | succ m ih =>
    rw [digits_succ, testBit_add_mul_two_pow (digits_lt hg m)]
    split
    next h => exact ih h
    next h =>
      have hdiv : i / b = m := Nat.div_eq_of_lt_le (by rw [Nat.mul_comm]; omega) (by rw [Nat.mul_comm]; exact hi)
      rw [hdiv, show i - b * m = i % b by rw [← hdiv, Nat.mod_eq_sub]]

theorem ofBits_eq_digits (n : Nat) (f : Nat → Bool) : ofBits n f = digits 1 n (fun j => (f j).toNat) := by
  unfold ofBits digits
  congr 1
  funext a i
  cases h : f i <;> simp [h]

theorem ofBits_lt (n : Nat) (f : Nat → Bool) : ofBits n f < 2 ^ n := by
  simpa only [ofBits_eq_digits, Nat.one_mul] using digits_lt (b := 1) (fun j => Bool.toNat_lt (f j)) n

theorem testBit_ofBits {n i : Nat} (f : Nat → Bool) (hi : i < n) : (ofBits n f).testBit i = f i := by
  rw [ofBits_eq_digits, testBit_digits (fun j => Bool.toNat_lt (f j)) (by omega), Nat.div_one, Nat.mod_one]
  cases f i <;> rfl

/-- A number below 2 ^ n with some bits is a result of those bits. -/
theorem givesBits_of_lt {x n : Nat} {f : Nat → Bool} (hx : x < 2 ^ n) (hf : ∀ i < n, x.testBit i = f i) : givesBits (some (x, 0)) n f := by
  refine ⟨BitVec.ofNat n x, by rw [BitVec.toNat_ofNat, Nat.mod_eq_of_lt hx], fun i hi => ?_⟩
  rw [BitVec.getLsbD_ofNat, hf i hi]
  simp [hi]

theorem givesBits_ofBits {n : Nat} {f g : Nat → Bool} (h : ∀ i < n, f i = g i) : givesBits (some (ofBits n f, 0)) n g :=
  givesBits_of_lt (ofBits_lt n f) fun i hi => (testBit_ofBits f hi).trans (h i hi)

/-! ## The operations on words of the width of their format -/

section
variable {t : IFmt} (ht : 0 < t.w) (sat : Bool) (op : Nat) (a b c : BitVec t.w)

theorem opAndn_eq : opAndn t sat op [a.toNat, b.toNat] = (a &&& ~~~b).toNat := by
  rw [BitVec.toNat_and, BitVec.toNat_not]
  rfl

theorem opShl_eq : opShl t sat op [a.toNat, b.toNat] = (a <<< b.toNat).toNat := by
  rw [BitVec.toNat_shiftLeft, Nat.shiftLeft_eq]
  simp only [opShl]
  split
  next h =>
    obtain ⟨k, hk⟩ := Nat.exists_eq_add_of_le h
    rw [hk, Nat.pow_add, Nat.mul_left_comm, Nat.mul_mod_right]
  next => rfl

theorem opShr_eq : opShr t sat op [a.toNat, b.toNat] = (a >>> b.toNat).toNat := by
  rw [BitVec.toNat_ushiftRight, Nat.shiftRight_eq_div_pow]
  simp only [opShr]
  split
  next h => exact (Nat.div_eq_of_lt (a.isLt.trans_le (Nat.pow_le_pow_right (by decide) h))).symm
  next => rfl

/-- A shift beyond the sign bit leaves copies of it. -/
theorem ediv_two_pow_min {z : Int} {n k : Nat} (hlo : -2 ^ n ≤ z) (hhi : z < 2 ^ n) : z / 2 ^ min k n = z / 2 ^ k := by
  obtain h | h := le_total k n
  · rw [min_eq_left h]
  · rw [min_eq_right h]
    have hle : (2 : Int) ^ n ≤ 2 ^ k := pow_le_pow_right₀ (by decide) h
    obtain hz | hz := le_or_gt 0 z
    · rw [Int.ediv_eq_zero_of_lt hz hhi, Int.ediv_eq_zero_of_lt hz (hhi.trans_le hle)]
    · have hone : ∀ m : Int, -m ≤ z → z / m = -1 := fun m hm => by
        have hm0 : 0 < m := by omega
        have hge : -1 ≤ z / m := (Int.le_ediv_iff_mul_le hm0).mpr (by omega)
        have hlt : z / m < 0 := Int.ediv_neg_of_neg_of_pos hz hm0
        omega
      rw [hone _ hlo, hone _ (by omega)]

include ht in
theorem opSar_eq : opSar t sat op [a.toNat, b.toNat] = (a.sshiftRight b.toNat).toNat := by
  have hval : (if a.toNat ≥ 2 ^ (t.w - 1) then (a.toNat : Int) - 2 ^ t.w else a.toNat) = a.toInt := by
    simpa [tVal, intVal] using tVal_toNat (t := { t with signed := true }) ht a
  simp only [opSar, hval, wrapTo_eq]
  rw [ediv_two_pow_min (BitVec.le_toInt a) BitVec.toInt_lt, BitVec.sshiftRight, Int.shiftRight_eq_div_pow]
  push_cast
  rfl

include ht in
theorem opCmp_eq (hop : op < 6) : opCmp t sat op [a.toNat, b.toNat] =
    if (op = 0 ∧ intVal t a = intVal t b) ∨ (op = 1 ∧ intVal t a ≠ intVal t b) ∨ (op = 2 ∧ intVal t a < intVal t b) ∨ (op = 3 ∧ intVal t a ≤ intVal t b) ∨
      (op = 4 ∧ intVal t b < intVal t a) ∨ (op = 5 ∧ intVal t b ≤ intVal t a) then 1 else 0 := by
  simp only [opCmp, tVal_toNat ht]
  interval_cases op <;> simp

theorem opNot_eq : opNot t sat op [a.toNat] = (~~~a).toNat := by
  rw [BitVec.toNat_not]
  rfl

theorem opSel_eq : opSel t sat op [a.toNat, b.toNat, c.toNat] = if c ≠ 0 then a.toNat else b.toNat := by
  have hzero : c.toNat ≠ 0 ↔ c ≠ 0 := by
    rw [← BitVec.toNat_inj.ne]
    rfl
  simp only [opSel, hzero]

theorem opIsel_eq (p : Bool) : opIsel t sat op [a.toNat, b.toNat, p.toNat] = if p then a.toNat else b.toNat := by cases p <;> rfl

theorem opBrev_bits : givesBits (some (opBrev t sat op [a.toNat], 0)) t.w (fun i => a.getLsbD (t.w - 1 - i)) :=
  givesBits_ofBits fun _ _ => rfl

/-- The number of zeros above the highest one. -/
theorem opClz_spec : if a = 0 then opClz t sat op [a.toNat] = t.w else
    opClz t sat op [a.toNat] < t.w ∧ a.getLsbD (t.w - 1 - opClz t sat op [a.toNat]) = true ∧
      ∀ j < t.w, t.w - 1 - opClz t sat op [a.toNat] < j → a.getLsbD j = false := by
  split
  next h => simp [opClz, h]
  next h =>
    have hne : a.toNat ≠ 0 := fun h' => h (BitVec.toNat_inj.mp h')
    have hlog : a.toNat.log2 < t.w := (Nat.log2_lt hne).mpr a.isLt
    have hclz : opClz t sat op [a.toNat] = t.w - 1 - a.toNat.log2 := by simp only [opClz, hne, if_false]
    rw [hclz, show t.w - 1 - (t.w - 1 - a.toNat.log2) = a.toNat.log2 by omega]
    exact ⟨by omega, Nat.testBit_log2 hne, fun j _ hj => Nat.testBit_lt_two_pow ((Nat.log2_lt hne).mp hj)⟩

/-- The number of zeros below the lowest one. -/
theorem opCtz_spec : if a = 0 then opCtz t sat op [a.toNat] = t.w else
    opCtz t sat op [a.toNat] < t.w ∧ a.getLsbD (opCtz t sat op [a.toNat]) = true ∧ ∀ j < opCtz t sat op [a.toNat], a.getLsbD j = false := by
  simp only [opCtz]
  cases hfind : (List.range t.w).find? (fun i => a.toNat.testBit i) with
  | none =>
    have hall : ∀ i < t.w, a.getLsbD i = false := fun i hi =>
      Bool.eq_false_iff.mpr (List.find?_eq_none.mp hfind i (List.mem_range.mpr hi))
    rw [if_pos (BitVec.eq_of_getLsbD_eq fun i hi => by simpa using hall i hi)]
    rfl
  | some k =>
    obtain ⟨hk, hmem, hbefore⟩ := List.find?_range_eq_some.mp hfind
    have hne : a ≠ 0 := by
      rintro rfl
      simp at hk
    rw [if_neg hne]
    exact ⟨List.mem_range.mp hmem, hk, fun j hj => (Bool.not_eq_true' _).mp (hbefore j hj)⟩

/-- The bits of two words, one above the other. -/
theorem append_toNat : (c ++ a).toNat = c.toNat * 2 ^ t.w + a.toNat := by
  rw [BitVec.toNat_append, ← Nat.shiftLeft_add_eq_or_of_lt a.isLt, Nat.shiftLeft_eq]

theorem opCshf_bits : givesBits (some (opCshf t sat op [a.toNat, b.toNat, c.toNat], 0)) t.w (fun i =>
    let x := c ++ a
    if op % 2 = 0 then (x >>> (b.toNat % t.w)).getLsbD i else (x <<< (b.toNat % t.w)).getLsbD (t.w + i)) := by
  simp only [opCshf, ← append_toNat]
  split
  next =>
    refine givesBits_of_lt (Nat.mod_lt _ (Nat.two_pow_pos _)) fun i hi => ?_
    rw [Nat.testBit_mod_two_pow, Nat.testBit_div_two_pow, BitVec.getLsbD_ushiftRight, Nat.add_comm i (b.toNat % t.w)]
    simp only [hi, decide_true, Bool.true_and]
    rfl
  next =>
    refine givesBits_of_lt (Nat.mod_lt _ (Nat.two_pow_pos _)) fun i hi => ?_
    rw [Nat.testBit_mod_two_pow, Nat.testBit_div_two_pow, Nat.testBit_mul_two_pow, BitVec.getLsbD_shiftLeft, Nat.add_comm i]
    simp only [hi, show t.w + i < t.w + t.w by omega, decide_true, Bool.true_and, ← BitVec.testBit_toNat]
    congr 1
    by_cases h : t.w + i < b.toNat % t.w
    · simp [h]
    · simp [h, Nat.le_of_not_lt h]

/-- The bit that a field has at a place, beyond the word its sign or 0 (R88). -/
def fieldBit (t : IFmt) (a : BitVec t.w) (j : Nat) : Bool := if j < t.w then a.getLsbD j else t.signed && a.msb

theorem opBfe_bits : givesBits (some (opBfe t sat op [a.toNat, b.toNat], 0)) t.w (fun i =>
    let pos := b.toNat % 256
    let len := b.toNat / 256 % 256
    if i < len then fieldBit t a (pos + i) else t.signed && decide (0 < len) && fieldBit t a (pos + len - 1)) := by
  refine givesBits_ofBits fun i _ => ?_
  simp only [fieldBit, BitVec.msb_eq_getLsbD_last]
  split
  next => rfl
  next =>
    by_cases hlen : 0 < b.toNat / 256 % 256
    · rw [← Nat.add_sub_assoc hlen]
      rfl
    · simp [hlen]

theorem opBfi_bits : givesBits (some (opBfi t sat op [a.toNat, b.toNat, c.toNat], 0)) t.w (fun i =>
    let pos := b.toNat % 256
    let len := b.toNat / 256 % 256
    if pos ≤ i ∧ i < pos + len then a.getLsbD (i - pos) else c.getLsbD i) := by
  refine givesBits_ofBits fun i _ => ?_
  simp only [Bool.and_eq_true, decide_eq_true_eq]
  rfl

theorem lutBit_eq (lut : BitVec 8) (p q r : Bool) : lutBit lut.toNat p q r = lut.getLsbD (p.toNat + 2 * q.toNat + 4 * r.toNat) := by
  cases p <;> cases q <;> cases r <;> rfl

theorem ptabFun_eq (lut : BitVec 8) (p q r : Bool) :
    ptabFun lut.toNat [p.toNat, q.toNat, r.toNat] = ((lut.getLsbD (p.toNat + 2 * q.toNat + 4 * r.toNat)).toNat, 0) := by
  have hone : ∀ b : Bool, decide (b.toNat = 1) = b := by decide
  have hbit : ∀ b : Bool, (if b then 1 else 0) = b.toNat := by decide
  simp only [ptabFun, hone, lutBit_eq, hbit]

theorem opBtab_bits (lut : BitVec 8) : givesBits (some (opBtab t sat lut.toNat [a.toNat, b.toNat, c.toNat], 0)) t.w (fun i =>
    lut.getLsbD ((a.getLsbD i).toNat + 2 * (b.getLsbD i).toNat + 4 * (c.getLsbD i).toNat)) :=
  givesBits_ofBits fun _ _ => lutBit_eq ..

end

/-! ## Permuted bytes (R88) -/

/-- The selector of a result byte. -/
def permSel (y : BitVec 32) (j : Nat) : Nat := y.toNat / 2 ^ (4 * j) % 16

/-- A result byte of PRMT: a byte of the sources, or copies of its sign. -/
def permByte (x y z : BitVec 32) (j : Nat) : Nat :=
  let byte := (z ++ x).toNat / 2 ^ (8 * (permSel y j % 8)) % 256
  if permSel y j ≥ 8 then (if byte ≥ 128 then 255 else 0) else byte

theorem opPrmt_eq (t : IFmt) (sat : Bool) (op : Nat) (x y z : BitVec 32) : opPrmt t sat op [x.toNat, y.toNat, z.toNat] = digits 8 4 (permByte x y z) := by
  unfold permByte
  rw [BitVec.toNat_append, ← Nat.shiftLeft_add_eq_or_of_lt x.isLt, Nat.shiftLeft_eq]
  rfl

theorem permByte_lt (x y z : BitVec 32) (j : Nat) : permByte x y z j < 2 ^ 8 := by
  unfold permByte
  dsimp only
  split_ifs <;> omega

theorem permByte_testBit (x y z : BitVec 32) (j : Nat) {k : Nat} (hk : k < 8) : (permByte x y z j).testBit k =
    if 8 ≤ permSel y j then (z ++ x).getLsbD (8 * (permSel y j % 8) + 7) else (z ++ x).getLsbD (8 * (permSel y j % 8) + k) := by
  have hbyte : ∀ k < 8, ((z ++ x).toNat / 2 ^ (8 * (permSel y j % 8)) % 256).testBit k = (z ++ x).getLsbD (8 * (permSel y j % 8) + k) := fun k hk => by
    rw [show 256 = 2 ^ 8 from rfl, Nat.testBit_mod_two_pow, Nat.testBit_div_two_pow, Nat.add_comm k]
    simp only [hk, decide_true, Bool.true_and]
    rfl
  have hsign : ∀ n < 256, n.testBit 7 = decide (n ≥ 128) := fun n hn => by
    rw [Nat.testBit_eq_decide_div_mod_eq, decide_eq_decide]
    omega
  unfold permByte
  dsimp only
  split
  next =>
    rw [← hbyte 7 (by decide), hsign _ (Nat.mod_lt _ (by decide))]
    split
    next h => rw [decide_eq_true h, show 255 = 2 ^ 8 - 1 from rfl, Nat.testBit_two_pow_sub_one, decide_eq_true hk]
    next h => rw [decide_eq_false h, Nat.zero_testBit]
  next => exact hbyte k hk

theorem opPrmt_bits (t : IFmt) (sat : Bool) (op : Nat) (x y z : BitVec 32) : givesBits (some (opPrmt t sat op [x.toNat, y.toNat, z.toNat], 0)) 32 (fun i =>
    if 8 ≤ permSel y (i / 8) then (z ++ x).getLsbD (8 * (permSel y (i / 8) % 8) + 7) else (z ++ x).getLsbD (8 * (permSel y (i / 8) % 8) + i % 8)) := by
  rw [opPrmt_eq]
  refine givesBits_of_lt (digits_lt (permByte_lt x y z) 4) fun i hi => ?_
  rw [testBit_digits (permByte_lt x y z) (show i < 8 * 4 by omega), permByte_testBit x y z _ (Nat.mod_lt _ (by decide))]

end Sys2Proof.Machine
end

section
namespace Sys2Proof
open Machine Safety

/-- Settles O6: each word is its operation, bit by bit, at the width of its format. -/
theorem bitWords : Obligations.BitWords := by
  intro w v u t n a b c T pos len taken _
  have ht : 0 < t.w := IFmt.w_pos u.fmt
  have value {x y : Nat} (h : x = y) : some (x, (0 : Flags)) = some (y, 0) := congrArg (fun z => some (z, 0)) h
  refine ⟨fun andW orW xorW andnW shl shr sar cmp hforms => ?_, ?_, ?_, fun p q r => ?_, fun x y z _ => ?_⟩
  · have hwords : (∀ xs, computes andW xs = some (opAnd t u.sat u.op xs, 0)) ∧ (∀ xs, computes orW xs = some (opOr t u.sat u.op xs, 0)) ∧
        (∀ xs, computes xorW xs = some (opXor t u.sat u.op xs, 0)) ∧ (∀ xs, computes andnW xs = some (opAndn t u.sat u.op xs, 0)) ∧
        (∀ xs, computes shl xs = some (opShl t u.sat u.op xs, 0)) ∧ (∀ xs, computes shr xs = some (opShr t u.sat u.op xs, 0)) ∧
        (∀ xs, computes sar xs = some (opSar t u.sat u.op xs, 0)) ∧ (∀ xs, computes cmp xs = some (opCmp t u.sat u.op xs, 0)) := by
      obtain ⟨rfl, rfl, rfl, rfl, rfl, rfl, rfl, rfl, rfl⟩ | ⟨rfl, rfl, rfl, rfl, rfl, rfl, rfl, rfl, rfl⟩ := hforms
      · exact ⟨fun _ => rfl, fun _ => rfl, fun _ => rfl, fun _ => rfl, fun _ => rfl, fun _ => rfl, fun _ => rfl, fun _ => rfl⟩
      · exact ⟨fun _ => rfl, fun _ => rfl, fun _ => rfl, fun _ => rfl, fun _ => rfl, fun _ => rfl, fun _ => rfl, fun _ => rfl⟩
    obtain ⟨hand, hor, hxor, handn, hshl, hshr, hsar, hcmp⟩ := hwords
    rw [hand, hor, hxor, handn, hshl, hshr, hsar, hcmp]
    exact ⟨rfl, rfl, rfl, value (opAndn_eq ..), value (opShl_eq ..), value (opShr_eq ..), value (opSar_eq ht ..), fun hop => value (opCmp_eq ht _ _ _ _ hop)⟩
  · rintro rfl
    exact ⟨value (opNot_eq ..), rfl, value (opSel_eq ..), fun p => value (opIsel_eq _ _ _ _ p), opBrev_bits .., rfl, ⟨_, rfl, opClz_spec ..⟩,
      ⟨_, rfl, opCtz_spec ..⟩, opCshf_bits .., opBfe_bits .., opBfi_bits ..⟩
  · rintro rfl
    exact opBtab_bits ..
  · exact congrArg some (ptabFun_eq w.lo p q r)
  · exact ⟨opPrmt_bits .., opPrmt_bits (z := 0) ..⟩

end Sys2Proof
end

section
/-! # Minimum, maximum and class of floating-point operands (O8, O9)

A finite encoding of exponent field ex and fraction fr stands for the magnitude m * 2 ^ (E - 1) in units of the smallest subnormal, where E is
ex or 1, and m is fr with the leading 1 of a normal number. Its bits below the sign are the number (E - 1) * 2 ^ f + m: so magnitudes order as
those bits do, and infinity, whose bits are above them all, is above them all. -/

namespace Sys2Proof.Machine

open Sys2Proof Sys2Proof.Safety

/-! ## Encodings taken apart (R42, R51) -/

/-- A format of IEEE 754 of more than 8 bits: it has infinities and signalling NaNs. -/
def FFmt.Ieee (t : FFmt) : Prop := t.kind = .ieee ∧ 0 < t.e ∧ 7 < t.e + t.f

/-- The exponent that the significand of an encoding is scaled by, and the significand. -/
def scaleOf (t : FFmt) (x : Nat) : Nat := max (expOf t x) 1
def mantOf (t : FFmt) (x : Nat) : Nat := if expOf t x = 0 then fracOf t x else 2 ^ t.f + fracOf t x

theorem isNanBits_iff {t : FFmt} {x : Nat} : isNanBits t x = true ↔ expOf t x = 2 ^ t.e - 1 ∧ fracOf t x ≠ 0 := by simp [isNanBits]

theorem top_pos {t : FFmt} (ht : t.Ieee) : 0 < 2 ^ t.e - 1 := by
  obtain ⟨-, he, -⟩ := ht
  have := Nat.one_lt_two_pow he.ne'
  omega

theorem unpack_nan {t : FFmt} (ht : t.Ieee) {x : Nat} (h : isNanBits t x = true) : t.unpack x = .nan (isSigBits t x) := by
  have htop := top_pos ht
  obtain ⟨hkind, -, hwide⟩ := ht
  obtain ⟨hexp, hfrac⟩ := isNanBits_iff.mp h
  have hne : expOf t x ≠ 0 := by omega
  unfold isSigBits
  unfold expOf at hexp hne
  unfold fracOf at hfrac ⊢
  simp only [FFmt.unpack, hkind, hexp, htop.ne', hfrac, h, hwide, if_false, decide_true, Bool.true_and, beq_self_eq_true, if_true]

theorem unpack_inf {t : FFmt} (ht : t.Ieee) {x : Nat} (hexp : expOf t x = 2 ^ t.e - 1) (hfrac : fracOf t x = 0) : t.unpack x = .inf (signOf t x) := by
  have htop := top_pos ht
  obtain ⟨hkind, -, -⟩ := ht
  unfold signOf
  unfold expOf at hexp
  unfold fracOf at hfrac
  simp only [FFmt.unpack, hkind, hexp, htop.ne', hfrac, if_false, decide_true, Bool.true_and, beq_self_eq_true, if_true]
  rfl

theorem unpack_fin {t : FFmt} {x : Nat} (hexp : expOf t x ≠ 2 ^ t.e - 1) :
    t.unpack x = .fin (signOf t x) (mantOf t x) ((scaleOf t x : Int) - t.bias - t.f) := by
  unfold mantOf scaleOf signOf
  unfold expOf at hexp ⊢
  unfold fracOf
  by_cases hzero : x / 2 ^ t.f % 2 ^ t.e = 0
  · simp only [FFmt.unpack, hzero, if_true]
    rfl
  · have hmax : max (x / 2 ^ t.f % 2 ^ t.e) 1 = x / 2 ^ t.f % 2 ^ t.e := max_eq_left (by omega)
    simp only [FFmt.unpack, hzero, hexp, hmax, if_false, decide_false, Bool.false_and, Bool.false_eq_true]
    rfl

/-! ## Magnitudes in the order of their bits (R92) -/

/-- The bits below the sign. -/
def magOf (t : FFmt) (x : Nat) : Nat := x % 2 ^ (t.e + t.f)

theorem magOf_eq (t : FFmt) (x : Nat) : magOf t x = expOf t x * 2 ^ t.f + fracOf t x := by
  rw [magOf, Nat.add_comm t.e, Nat.pow_add, Nat.mod_mul, expOf, fracOf, Nat.mul_comm, Nat.add_comm]

theorem fracOf_lt (t : FFmt) (x : Nat) : fracOf t x < 2 ^ t.f := Nat.mod_lt _ (Nat.two_pow_pos _)

theorem expOf_le (t : FFmt) (x : Nat) : expOf t x ≤ 2 ^ t.e - 1 := Nat.le_sub_one_of_lt (Nat.mod_lt _ (Nat.two_pow_pos _))

theorem magOf_scaled (t : FFmt) (x : Nat) : magOf t x = (scaleOf t x - 1) * 2 ^ t.f + mantOf t x := by
  rw [magOf_eq, scaleOf, mantOf]
  split
  next h => simp [h]
  next h =>
    obtain ⟨k, hk⟩ := Nat.exists_eq_add_of_lt (Nat.pos_of_ne_zero h)
    rw [hk, max_eq_left (by omega), show 0 + k + 1 - 1 = k by omega, show 0 + k + 1 = k + 1 by omega]
    ring

theorem mantOf_lt (t : FFmt) (x : Nat) : mantOf t x < 2 * 2 ^ t.f := by
  have := fracOf_lt t x
  unfold mantOf
  split <;> omega

theorem le_mantOf {t : FFmt} {x : Nat} (h : 0 < scaleOf t x - 1) : 2 ^ t.f ≤ mantOf t x := by
  unfold scaleOf at h
  unfold mantOf
  rw [if_neg (by omega)]
  omega

/-- Magnitudes brought to the lower exponent order as the bits of their encodings do. -/
theorem scaled_lt_iff {N m1 m2 e1 e2 : Nat} (h1 : m1 < 2 * N) (h2 : m2 < 2 * N) (hn1 : 0 < e1 → N ≤ m1) (hn2 : 0 < e2 → N ≤ m2) :
    m1 * 2 ^ (e1 - min e1 e2) < m2 * 2 ^ (e2 - min e1 e2) ↔ e1 * N + m1 < e2 * N + m2 := by
  obtain h | rfl | h := lt_trichotomy e1 e2
  · obtain ⟨d, rfl⟩ := Nat.exists_eq_add_of_lt h
    have hm := hn2 (by omega)
    rw [min_eq_left h.le, Nat.sub_self, Nat.pow_zero, Nat.mul_one, show e1 + d + 1 - e1 = d + 1 by omega]
    refine iff_of_true ?_ ?_
    · calc m1 < m2 * 2 := by omega
        _ ≤ m2 * 2 ^ (d + 1) := Nat.mul_le_mul_left _ (Nat.le_self_pow (by omega) 2)
    · nlinarith
  · simp
  · obtain ⟨d, rfl⟩ := Nat.exists_eq_add_of_lt h
    have hm := hn1 (by omega)
    rw [min_eq_right h.le, Nat.sub_self, Nat.pow_zero, Nat.mul_one, show e2 + d + 1 - e2 = d + 1 by omega]
    refine iff_of_false (Nat.not_lt.mpr ?_) (Nat.not_lt.mpr ?_)
    · calc m2 ≤ m1 * 2 := by omega
        _ ≤ m1 * 2 ^ (d + 1) := Nat.mul_le_mul_left _ (Nat.le_self_pow (by omega) 2)
    · nlinarith

/-! ## The order of encodings -/

/-- A magnitude with its sign, where -0 stands below +0. -/
def signedMag (n : Bool) (p : Nat) : Int := if n then -(p : Int) - 1 else p

theorem orderOf_eq (t : FFmt) (x : Nat) : orderOf t x = signedMag (signOf t x) (magOf t x) := rfl

/-- A value with its sign. -/
def signedVal (n : Bool) (m : Nat) : Int := if n then -(m : Int) else m

section
variable {A B p q : Nat} (na nb : Bool) (hlt : A < B ↔ p < q) (hgt : B < A ↔ q < p)
include hlt hgt

/-- Of values that order as magnitudes do, the lesser is that of the lesser signed magnitude, -0 being below +0. -/
theorem signedVal_less : (if signedVal na A - signedVal nb B = 0 then na && !nb else decide (signedVal na A - signedVal nb B < 0)) = true ↔
    signedMag na p < signedMag nb q := by
  cases na <;> cases nb <;> simp only [signedVal, signedMag, Bool.false_eq_true, if_false, if_true] <;> split <;>
    simp only [Bool.false_and, Bool.true_and, Bool.not_true, Bool.not_false, Bool.false_eq_true, decide_eq_true_eq, false_iff, true_iff] <;> omega

/-- They are the same, with one sign, where the signed magnitudes are. -/
theorem signedVal_same : (decide (signedVal na A - signedVal nb B = 0) && na == nb) = true ↔ signedMag na p = signedMag nb q := by
  cases na <;> cases nb <;> simp only [signedVal, signedMag, Bool.false_eq_true, if_false, if_true, Bool.and_eq_true, decide_eq_true_eq, beq_iff_eq,
    reduceCtorEq, and_false, and_true, false_iff] <;> omega

end

theorem FVal.cmp_fin (n1 : Bool) (m1 : Nat) (n2 : Bool) (m2 : Nat) (E1 E2 : Nat) (b f : Int) :
    FVal.cmp (.fin n1 m1 ((E1 : Int) - b - f)) (.fin n2 m2 ((E2 : Int) - b - f)) =
      signedVal n1 (m1 * 2 ^ (E1 - min E1 E2)) - signedVal n2 (m2 * 2 ^ (E2 - min E1 E2)) := by
  have h1 : ((E1 : Int) - b - f - min ((E1 : Int) - b - f) ((E2 : Int) - b - f)).toNat = E1 - min E1 E2 := by omega
  have h2 : ((E2 : Int) - b - f - min ((E1 : Int) - b - f) ((E2 : Int) - b - f)).toNat = E2 - min E1 E2 := by omega
  simp only [FVal.cmp, h1, h2]
  rfl

/-- Infinities are above every finite magnitude. -/
theorem magOf_lt_top {t : FFmt} {x : Nat} (h : expOf t x ≠ 2 ^ t.e - 1) : magOf t x < (2 ^ t.e - 1) * 2 ^ t.f := by
  have hle := expOf_le t x
  have hfrac := fracOf_lt t x
  rw [magOf_eq]
  have : (expOf t x + 1) * 2 ^ t.f ≤ (2 ^ t.e - 1) * 2 ^ t.f := Nat.mul_le_mul_right _ (by omega)
  rw [Nat.add_mul] at this
  omega

/-- TWO ENCODINGS THAT ARE NOT NaN compare as some magnitudes that order as their bits do, with their signs. -/
theorem unpack_cmp {t : FFmt} (ht : t.Ieee) {x y : Nat} (hx : isNanBits t x = false) (hy : isNanBits t y = false) :
    (t.unpack x).isNan = false ∧ (t.unpack y).isNan = false ∧ (t.unpack x).neg = signOf t x ∧ (t.unpack y).neg = signOf t y ∧
      ∃ A B, (t.unpack x).cmp (t.unpack y) = signedVal (signOf t x) A - signedVal (signOf t y) B ∧
        (A < B ↔ magOf t x < magOf t y) ∧ (B < A ↔ magOf t y < magOf t x) := by
  have hinf : ∀ z, isNanBits t z = false → expOf t z = 2 ^ t.e - 1 → fracOf t z = 0 ∧ magOf t z = (2 ^ t.e - 1) * 2 ^ t.f := fun z hz hexp => by
    have hfrac : fracOf t z = 0 := by
      by_contra h
      exact absurd (isNanBits_iff.mpr ⟨hexp, h⟩) (by simp [hz])
    exact ⟨hfrac, by rw [magOf_eq, hexp, hfrac, Nat.add_zero]⟩
  by_cases hex : expOf t x = 2 ^ t.e - 1
  · obtain ⟨hfx, hmx⟩ := hinf x hx hex
    by_cases hey : expOf t y = 2 ^ t.e - 1
    · obtain ⟨hfy, hmy⟩ := hinf y hy hey
      rw [unpack_inf ht hex hfx, unpack_inf ht hey hfy]
      exact ⟨rfl, rfl, rfl, rfl, 1, 1, rfl, by omega, by omega⟩
    · have hlt := magOf_lt_top hey
      rw [unpack_inf ht hex hfx, unpack_fin hey]
      refine ⟨rfl, rfl, rfl, rfl, 1, 0, ?_, by omega, by omega⟩
      simp [FVal.cmp, signedVal]
  · by_cases hey : expOf t y = 2 ^ t.e - 1
    · obtain ⟨hfy, hmy⟩ := hinf y hy hey
      have hlt := magOf_lt_top hex
      rw [unpack_fin hex, unpack_inf ht hey hfy]
      refine ⟨rfl, rfl, rfl, rfl, 0, 1, ?_, by omega, by omega⟩
      cases signOf t y <;> simp [FVal.cmp, signedVal]
    · have hsx : 1 ≤ scaleOf t x := le_max_right _ _
      have hsy : 1 ≤ scaleOf t y := le_max_right _ _
      have hxy : scaleOf t x - min (scaleOf t x) (scaleOf t y) = scaleOf t x - 1 - min (scaleOf t x - 1) (scaleOf t y - 1) := by omega
      have hyx : scaleOf t y - min (scaleOf t x) (scaleOf t y) = scaleOf t y - 1 - min (scaleOf t x - 1) (scaleOf t y - 1) := by omega
      rw [unpack_fin hex, unpack_fin hey]
      refine ⟨rfl, rfl, rfl, rfl, _, _, FVal.cmp_fin .., ?_, ?_⟩
      · rw [hxy, hyx, magOf_scaled t x, magOf_scaled t y]
        exact scaled_lt_iff (mantOf_lt t x) (mantOf_lt t y) le_mantOf le_mantOf
      · rw [hxy, hyx, magOf_scaled t x, magOf_scaled t y, min_comm]
        exact scaled_lt_iff (mantOf_lt t y) (mantOf_lt t x) le_mantOf le_mantOf

/-! ## Minimum and maximum -/

theorem unpack_isNan {t : FFmt} (ht : t.Ieee) (x : Nat) : (t.unpack x).isNan = isNanBits t x ∧ (t.unpack x).isSig = isSigBits t x := by
  cases hx : isNanBits t x with
  | true =>
    rw [unpack_nan ht hx]
    exact ⟨rfl, rfl⟩
  | false =>
    have hsig : isSigBits t x = false := by simp [isSigBits, hx]
    rw [hsig]
    by_cases hexp : expOf t x = 2 ^ t.e - 1
    · have hfrac : fracOf t x = 0 := by
        by_contra h
        exact absurd (isNanBits_iff.mpr ⟨hexp, h⟩) (by simp [hx])
      rw [unpack_inf ht hexp hfrac]
      exact ⟨rfl, rfl⟩
    · rw [unpack_fin hexp]
      exact ⟨rfl, rfl⟩

theorem minMaxOp_eq {t : FFmt} (ht : t.Ieee) (greater : Bool) (a b : Nat) : t.minMaxOp greater a b = lesserOf t greater a b := by
  obtain ⟨hna, hsa⟩ := unpack_isNan ht a
  obtain ⟨hnb, hsb⟩ := unpack_isNan ht b
  have hflags : sigFlags [t.unpack a, t.unpack b] = if isSigBits t a || isSigBits t b then 1 else 0 := by
    simp [sigFlags, flIf, hsa, hsb, flNV]
  have hqnan : t.qnan = (2 ^ t.e - 1) * 2 ^ t.f + 2 ^ (t.f - 1) := by
    obtain ⟨hkind, -⟩ := ht
    rw [FFmt.qnan, hkind]
  unfold FFmt.minMaxOp lesserOf
  simp only [hna, hnb, hflags, hqnan]
  cases hxa : isNanBits t a <;> cases hxb : isNanBits t b
  case false.false =>
    obtain ⟨-, -, hga, hgb, A, B, hcmp, hlt, hgt⟩ := unpack_cmp ht hxa hxb
    have hless := signedVal_less (signOf t a) (signOf t b) hlt hgt
    have hsame := signedVal_same (signOf t a) (signOf t b) hlt hgt
    simp only [hga, hgb, hcmp, orderOf_eq, Bool.false_and, Bool.false_eq_true, if_false, hsame]
    congr 1
    obtain h | h | h := lt_trichotomy (signedMag (signOf t a) (magOf t a)) (signedMag (signOf t b) (magOf t b))
    · rw [hless.mpr h, if_neg h.ne]
      cases greater <;> simp [h, h.not_gt]
    · simp [h]
    · rw [Bool.eq_false_iff.mpr (mt hless.mp h.not_gt), if_neg h.ne']
      cases greater <;> simp [h, h.not_gt]
  all_goals rfl

/-- A per-element operation at a format of one element, and at one of two (R91). -/
theorem floatFun_single {m : Mods} {c : Nat} (f : FOp) (hc : m.fmt = c) (hsingle : packedFmt c = false) (xs : List Nat) :
    floatFun m f xs = f (ffmtOf c) (rndOf m) m.op xs := by
  rw [floatFun, perElement, hc, hsingle]
  rfl

theorem floatFun_packed {m : Mods} {c : Nat} (f : FOp) (hc : m.fmt = c) (hpacked : packedFmt c = true) {a b a1 b1 : Nat} (ha : a < 2 ^ 16) (hb : b < 2 ^ 16)
    (ha1 : a1 < 2 ^ 16) (hb1 : b1 < 2 ^ 16) : floatFun m f [a + 2 ^ 16 * a1, b + 2 ^ 16 * b1] =
      ((f (ffmtOf c) (rndOf m) m.op [a, b]).1 + 2 ^ 16 * (f (ffmtOf c) (rndOf m) m.op [a1, b1]).1,
        (f (ffmtOf c) (rndOf m) m.op [a, b]).2 ||| (f (ffmtOf c) (rndOf m) m.op [a1, b1]).2) := by
  have hlow : ∀ x y : Nat, x < 2 ^ 16 → (x + 2 ^ 16 * y) % 2 ^ 16 = x := fun x y hx => by rw [Nat.add_mul_mod_self_left, Nat.mod_eq_of_lt hx]
  have hhigh : ∀ x y : Nat, x < 2 ^ 16 → y < 2 ^ 16 → (x + 2 ^ 16 * y) / 2 ^ 16 % 2 ^ 16 = y := fun x y hx hy => by omega
  rw [floatFun, perElement, hc, hpacked]
  simp only [List.map_cons, List.map_nil, hlow a a1 ha, hlow b b1 hb, hhigh a a1 ha ha1, hhigh b b1 hb hb1, if_true]
  rw [Nat.mul_comm]

/-- The operation of FMIN and DMIN, or of FMAX and DMAX. -/
def minMaxFop (greater : Bool) : FOp := fun t _ _ xs => match xs with | [a, b] => t.minMaxOp greater a b | _ => (0, 0)

theorem lesserOf_mem (t : FFmt) (greater : Bool) (a b : Nat) : (lesserOf t greater a b).1 ∈ [a, b, (2 ^ t.e - 1) * 2 ^ t.f + 2 ^ (t.f - 1)] := by
  unfold lesserOf
  split_ifs <;> simp

/-! ## Classes -/

theorem classOp_eq {t : FFmt} (ht : t.Ieee) (x : Nat) : t.classOp x = 2 ^ classOf t x := by
  unfold FFmt.classOp classOf
  cases hnan : isNanBits t x with
  | true =>
    rw [unpack_nan ht hnan]
    cases isSigBits t x <;> rfl
  | false =>
    have hsig : isSigBits t x = false := by simp [isSigBits, hnan]
    rw [hsig]
    by_cases hexp : expOf t x = 2 ^ t.e - 1
    · have hfrac : fracOf t x = 0 := by
        by_contra h
        exact absurd (isNanBits_iff.mpr ⟨hexp, h⟩) (by simp [hnan])
      rw [unpack_inf ht hexp hfrac, if_pos hexp]
      cases signOf t x <;> rfl
    · have hlt := fracOf_lt t x
      rw [unpack_fin hexp, if_neg hexp]
      unfold mantOf scaleOf FFmt.minExp
      by_cases hzero : expOf t x = 0
      · by_cases hfrac : fracOf t x = 0
        · simp only [hzero, hfrac, if_true]
          cases signOf t x <;> rfl
        · have hlow : ((max 0 1 : Nat) : Int) - t.bias - t.f = 1 - t.bias - t.f := rfl
          simp only [hzero, hfrac, hlt, hlow, decide_true, Bool.true_and, if_true, if_false]
          cases signOf t x <;> rfl
      · have hnormal : ¬ 2 ^ t.f + fracOf t x < 2 ^ t.f := by omega
        have hne : 2 ^ t.f + fracOf t x ≠ 0 := by positivity
        simp only [hzero, hne, hnormal, if_false, decide_false, Bool.false_and, Bool.false_eq_true]
        cases signOf t x <;> rfl

theorem classOf_lt (t : FFmt) (x : Nat) : classOf t x < 32 := by
  unfold classOf
  split_ifs <;> decide

end Sys2Proof.Machine
end

section
namespace Sys2Proof
open Machine Safety

/-- Settles O8: magnitudes order as the bits of their encodings do, so the operand picked is the lesser or the greater. -/
theorem floatMinMax : Obligations.FloatMinMax := by
  intro w v u greater a b
  refine ⟨fun i hforms => ?_, fun i hforms hfmt _ _ => ?_, fun t _ => lesserOf_mem t greater a b⟩
  · have hword : ∀ xs, computes i xs = some (floatFun u (minMaxFop greater) xs) := by
      obtain ⟨rfl, rfl⟩ | ⟨rfl, rfl⟩ := hforms <;> cases greater <;> exact fun _ => rfl
    refine ⟨fun hfmt _ _ => ?_, fun t a1 b1 hfmt ha hb ha1 hb1 => ?_⟩
    · rw [hword, floatFun_single _ hfmt rfl]
      exact congrArg some (minMaxOp_eq (t := .f32) ⟨rfl, by decide, by decide⟩ greater a b)
    · obtain ⟨hfmt, rfl⟩ | ⟨hfmt, rfl⟩ := hfmt
      · have heq := minMaxOp_eq (t := .f16) ⟨rfl, by decide, by decide⟩ greater
        rw [hword, floatFun_packed _ hfmt rfl ha hb ha1 hb1, ← heq a b, ← heq a1 b1]
        rfl
      · have heq := minMaxOp_eq (t := .bf16) ⟨rfl, by decide, by decide⟩ greater
        rw [hword, floatFun_packed _ hfmt rfl ha hb ha1 hb1, ← heq a b, ← heq a1 b1]
        rfl
  · have hword : ∀ xs, computes i xs = some (floatFun u (minMaxFop greater) xs) := by
      obtain ⟨rfl, rfl⟩ | ⟨rfl, rfl⟩ := hforms <;> cases greater <;> exact fun _ => rfl
    rw [hword, floatFun_single _ hfmt rfl]
    exact congrArg some (minMaxOp_eq (t := .f64) ⟨rfl, by decide, by decide⟩ greater a b)

/-- Settles O9: the class of the operand is the one bit of the mask. -/
theorem floatClass : Obligations.FloatClass := by
  intro w x t i hforms _
  have hclass : computes i [x] = some (t.classOp x, 0) ∧ t.Ieee := by
    obtain ⟨hfmt, rfl, rfl⟩ | ⟨hfmt, rfl, rfl⟩ := hforms
    · refine ⟨?_, rfl, by decide, by decide⟩
      show some (perElement fopClass (Mods.ofNat (fMods w)).fmt _ _ [x]) = _
      rw [hfmt]
      rfl
    · refine ⟨?_, rfl, by decide, by decide⟩
      show some (perElement fopClass (Mods.ofNat (fMods w)).fmt _ _ [x]) = _
      rw [hfmt]
      rfl
  obtain ⟨hcomp, ht⟩ := hclass
  rw [hcomp, classOp_eq ht]
  refine ⟨BitVec.twoPow 32 (classOf t x), by rw [BitVec.toNat_twoPow_of_lt (classOf_lt t x)], fun k hk => ?_⟩
  rw [BitVec.getLsbD_twoPow, decide_eq_true (classOf_lt t x), Bool.true_and]
  exact decide_eq_decide.mpr eq_comm

end Sys2Proof
end

section
/-! # A wait that stands where the next one is put (O31)

The identifiers of waits come from one counter, but nothing in the statement says that the counter is above those in use. A store in fault hold
whose wait has the next identifier is what a fence must wait for, until the fence's own wait takes its place: then nothing is left to wait for. -/

namespace Sys2Proof.Machine

open Sys2Proof Sys2Proof.Safety

/-- A fence of the thread path within the device, with the group's first deadline. -/
def fenceWord0 : Instr := .fence { gneg := false, guard := 0, stall := 3, dest := .zero, a := .d 0, b := .zero, c := .zero, hi := 1, lo := 3 }
/-- A store of no lane that waits for its page. -/
def heldStore : Wait :=
  { sid := 2, lanes := 0, kind := .access (XlReq.mk' 1 0x10000 1) { op := .store 4, dest := .zero, ops := [] }, dk := none, bound := none, status := .zero,
    pc := 0x1000, len := 8, iword := 0, xword := 0 }
/-- Two lanes issue the fence while the store waits under the next identifier. -/
def replacedState : State :=
  { State.reset with
    groups := [(1, Group.launch 1 none 0 2 8)]
    subs := [(2, SubGroup.launch 1 0 0 2 0x1000 0 [] 0 65536 0 0)]
    waits := [(1, heldStore)]
    issuing := (encode fenceWord0).map (fun e => { sid := 2, lanes := 3, pc := 0x1000, iword := e.1, xword := e.2.getD 0, quads := none }) }

theorem replacedState_begins : (issues replacedState fenceWord0).any (fun r => (waitForm replacedState r fenceWord0).isSome) = true := by decide +kernel

/-- The fence is passed at once, and no wait of it is left. -/
theorem replacedState_passes :
    (match exec fenceWord0 replacedState with | .next t => (SMap.get? t.waits replacedState.nextId).isNone | _ => false) = true := by decide +kernel

end Sys2Proof.Machine
end

section
namespace Sys2Proof
open Machine Safety

/-- Refutes O31: where a store's wait has the identifier that the fence's wait takes, nothing is left to wait for and the fence is passed. -/
theorem not_waitsBegin : ¬ Obligations.WaitsBegin := by
  intro h
  obtain ⟨r, hi, hr⟩ := (Option.any_eq_true _ _).mp replacedState_begins
  obtain ⟨b, hb⟩ := Option.isSome_iff_exists.mp hr
  obtain ⟨t, u, hexec, -, -, -, -, hwait, -⟩ := h replacedState fenceWord0 r b hi hb
  have hpassed := replacedState_passes
  rw [hexec] at hpassed
  simp [hwait] at hpassed

end Sys2Proof
end

section
/-! # Movement of continuations, tie points and code (O51) -/

namespace Sys2Proof.Machine

open Sys2Proof Sys2Proof.Safety

/-! ## Choices by a fold -/

/-- A fold that keeps one of the elements it has seen ends with the one that it keeps against every other. -/
theorem foldl_pick {β : Type} {f : Option β → β → Option β} {x : β} {l : List β} (hnone : ∀ e, f none e = some e)
    (hsome : ∀ a e, f (some a) e = some a ∨ f (some a) e = some e) (hkeep : ∀ e ∈ l, f (some x) e = some x)
    (htake : ∀ a ∈ l, f (some a) x = some x) (hx : x ∈ l) : l.foldl f none = some x := by
  obtain ⟨before, after, rfl⟩ := List.append_of_mem hx
  have hseen : before.foldl f none = none ∨ ∃ a ∈ before, before.foldl f none = some a := by
    refine List.foldlRecOn (motive := fun b => b = none ∨ ∃ a ∈ before, b = some a) before f (.inl rfl) fun b hb e he => .inr ?_
    rcases hb with rfl | ⟨a, ha, rfl⟩
    · exact ⟨e, he, hnone e⟩
    · rcases hsome a e with h | h
      · exact ⟨a, ha, h⟩
      · exact ⟨e, he, h⟩
  have hreached : f (before.foldl f none) x = some x := by
    rcases hseen with h | ⟨a, ha, h⟩
    · rw [h, hnone]
    · rw [h, htake a (List.mem_append_left _ ha)]
  rw [List.foldl_append, List.foldl_cons, hreached]
  exact List.foldlRecOn (motive := fun b => b = some x) after f rfl fun b hb e he =>
    hb ▸ hkeep e (List.mem_append_right _ (List.mem_cons_of_mem _ he))

/-- The best of some stations is one of them. -/
theorem bestStn_mem {bytes groups : Nat → Nat} {ns : List Nat} {n : Nat} (h : bestStn bytes groups ns = some n) : n ∈ ns := by
  unfold bestStn at h
  refine List.foldlRecOn (motive := fun b => ∀ n, b = some n → n ∈ ns) ns _ (fun _ h => by cases h) (fun b hb e he n h => ?_) n h
  split at h
  · cases h
    exact he
  · split at h <;> cases h
    · exact he
    · exact hb _ rfl

/-! ## Departure (R220, R222) -/

theorem SubGroup.keepLanes_get? (sg : SubGroup) (m : Mask) (l : Nat) :
    SMap.get? (sg.keepLanes m).lanes l = if m.getLsbD l then SMap.get? sg.lanes l else none :=
  SMap.get?_filter_key sg.lanes m.getLsbD l

/-- The lanes of an image that leaves are gone from its source. -/
theorem State.releaseSource_gone {s : State} {i : Nat} {im : Image} {u : SubGroup} {l : Nat}
    (hu : SMap.get? (s.releaseSource i im).subs im.sid0 = some u) (hl : im.sg.all.getLsbD l = true) : SMap.get? u.lanes l = none := by
  simp only [State.releaseSource] at hu
  split at hu
  next sg _ =>
    split at hu
    · simp [SMap.get?_del] at hu
    · rw [SMap.get?_put_same, Option.some.injEq] at hu
      simp [← hu, SubGroup.keepLanes_get?, hl]
  next hnone => rw [hnone] at hu; cases hu

theorem exec_departure {s : State} {img : Nat} {im : Image} (himg : SMap.get? s.images img = some im) (hphase : im.phase = .departing)
    (hawaits : im.awaits = []) (hknows : s.knows (im.smast / 16) im.tdev = true) (hlinked : s.linked (im.smast / 16) (im.tmast / 16) = true)
    (hroom : s.roomFor im = true)
    (hfirst : ∀ e ∈ s.images, img ≤ e.1 ∨ e.2.phase ≠ .departing ∨ e.2.awaits ≠ [] ∨ e.2.tmast ≠ im.tmast) :
    exec (.continuationDeparture img) s = .next { s.releaseSource img im with
      nextId := s.nextId + 1
      images := SMap.put s.images img { s.launchImage im with phase := .flying, arr := s.nextId } } := by
  have hall : s.images.all (fun e => decide (e.1 ≥ img) || decide (e.2.phase ≠ .departing) || e.2.awaits != [] || decide (e.2.tmast ≠ im.tmast)) = true := by
    rw [List.all_eq_true]
    intro e he
    simpa [or_assoc] using hfirst e he
  show execContinuationDeparture img s = _
  simp only [execContinuationDeparture, himg, hall, hphase, hawaits, hknows, hlinked, hroom]
  simp [State.fresh, State.releaseSource]

theorem departure_lanesGone {s : State} {img : Nat} {im : Image} (himg : SMap.get? s.images img = some im) (hphase : im.phase = .departing)
    (hawaits : im.awaits = []) (hknows : s.knows (im.smast / 16) im.tdev = true) (hlinked : s.linked (im.smast / 16) (im.tmast / 16) = true)
    (hroom : s.roomFor im = true)
    (hfirst : ∀ e ∈ s.images, img ≤ e.1 ∨ e.2.phase ≠ .departing ∨ e.2.awaits ≠ [] ∨ e.2.tmast ≠ im.tmast) :
    ∃ t, exec (.continuationDeparture img) s = .next t ∧ t.mem = s.mem ∧
      SMap.get? t.images img = some { s.launchImage im with phase := .flying, arr := s.nextId } ∧
      ∀ u l, SMap.get? t.subs im.sid0 = some u → im.sg.all.getLsbD l = true → SMap.get? u.lanes l = none :=
  ⟨_, exec_departure himg hphase hawaits hknows hlinked hroom hfirst, rfl, SMap.get?_put_same .., fun _ _ => State.releaseSource_gone (i := img)⟩

/-! ## Landing and the hold (R223, R226, R249) -/

theorem State.on_reserveHeads_eq (s : State) (d m : Nat) :
    let t := s.on d (fun s => s.reserveHeads m)
    t.mem = s.mem ∧ t.images = s.images ∧ t.masts = s.masts := by
  obtain ⟨stns, h, -⟩ := State.reserveHeads_onlyReserves (s.enter d) m
  simp [State.on, h]

/-- An image that arrives takes the next arrival number, and the landing buffer or the hold; memory is as before. -/
theorem State.arrive_spec (s : State) (img : Nat) (im : Image) :
    (s.arrive img im).mem = s.mem ∧
    SMap.get? (s.arrive img im).images img = some { im with
      arr := (s.mast im.tmast).nextArr.toNat, phase := .landed (decide (s.landedBytes im.tmast false + im.size > bufferBytes)) } ∧
    ((s.arrive img im).mast im.tmast).nextArr = (s.mast im.tmast).nextArr + 1 := by
  obtain ⟨hmem, himages, hmasts⟩ := s.on_reserveHeads_eq (im.tmast / 16) im.tmast
  unfold State.arrive
  dsimp only
  generalize s.on (im.tmast / 16) (fun s => s.reserveHeads im.tmast) = t at hmem himages hmasts
  have hmast : t.mast = s.mast := funext fun k => by simp only [State.mast, hmasts]
  have hbytes : t.landedBytes = s.landedBytes := funext₂ fun m b => by rw [State.landedBytes, State.landedBytes, himages]
  refine ⟨hmem, ?_, ?_⟩
  · rw [State.updMast_images, SMap.get?_put_same, hbytes, hmast]
  · rw [State.updMast_mast, if_pos rfl]
    exact congrArg (fun m => m.nextArr + 1) (congrFun hmast im.tmast)

theorem exec_landing_fenced {s : State} {img : Nat} {im : Image} (himg : SMap.get? s.images img = some im) (hphase : im.phase = .flying)
    (hknows : s.knows (im.smast / 16) im.tdev = true) (hlinked : s.linked (im.smast / 16) (im.tmast / 16) = true)
    (hnext : s.nextOnRoute img im = true)
    (hfenced : ((s.mast im.tmast).fenced || (decide (im.tstn ≠ 64) && (s.stn im.tmast im.tstn).fenced)) = true) :
    exec (.imageLanding img) s = .next { s with images := SMap.put s.images img (im.turnBack 2) } := by
  show execImageLanding img s = _
  simp only [execImageLanding, himg, hphase, hknows, hlinked, hnext, hfenced]
  rfl

theorem exec_landing_open {s : State} {img : Nat} {im : Image} (himg : SMap.get? s.images img = some im) (hphase : im.phase = .flying)
    (hknows : s.knows (im.smast / 16) im.tdev = true) (hlinked : s.linked (im.smast / 16) (im.tmast / 16) = true)
    (hnext : s.nextOnRoute img im = true)
    (hopen : ((s.mast im.tmast).fenced || (decide (im.tstn ≠ 64) && (s.stn im.tmast im.tstn).fenced)) = false) :
    exec (.imageLanding img) s = .next (s.land img im (hopCharge im.smast im.tmast)) := by
  show execImageLanding img s = _
  simp only [execImageLanding, himg, hphase, hknows, hlinked, hnext, hopen]
  rfl

/-- An image that is next on its route lands where nothing is fenced. -/
theorem landing_lands {s : State} {img : Nat} {im : Image} (himg : SMap.get? s.images img = some im) (hphase : im.phase = .flying)
    (hknows : s.knows (im.smast / 16) im.tdev = true) (hlinked : s.linked (im.smast / 16) (im.tmast / 16) = true)
    (hnext : s.nextOnRoute img im = true)
    (hopen : ((s.mast im.tmast).fenced || (decide (im.tstn ≠ 64) && (s.stn im.tmast im.tstn).fenced)) = false) :
    let im' := { im with
      arr := (s.mast im.tmast).nextArr.toNat
      sg := { im.sg with gclk := im.sg.gclk + BitVec.ofNat 64 (hopCharge im.smast im.tmast) }
      phase := .landed (decide (s.landedBytes im.tmast false + im.size > bufferBytes)) }
    ∃ t : State, t.mem = s.mem ∧ SMap.get? t.images img = some im' ∧ (t.mast im.tmast).nextArr = (s.mast im.tmast).nextArr + 1 ∧
      exec (.imageLanding img) s = .next (match t.mergePlace im' with | some n => t.takeIn img im' im.tmast n | none => t) := by
  obtain ⟨hmem, himage, harr⟩ :=
    s.arrive_spec img { im with sg := { im.sg with gclk := im.sg.gclk + BitVec.ofNat 64 (hopCharge im.smast im.tmast) } }
  refine ⟨_, hmem, himage, harr, ?_⟩
  rw [exec_landing_open himg hphase hknows hlinked hnext hopen]
  unfold State.land
  simp only [himage]
  rfl

/-- The image in the hold that arrived first passes into the landing buffer, where there is room. -/
theorem holdTransfer_moves {s : State} {mast img : Nat} {im : Image} (himg : SMap.get? s.images img = some im) (hmast : im.tmast = mast)
    (hphase : im.phase = .landed true) (hroom : s.landedBytes mast false + im.size ≤ bufferBytes)
    (hfirst : ∀ e ∈ s.images, e.2.tmast = mast → e.2.phase = .landed true → e = (img, im) ∨ im.arr < e.2.arr) :
    ∃ t, exec (.holdTransfer mast) s = .next t ∧ t.mem = s.mem ∧ SMap.get? t.images img = some { im with phase := .landed false } := by
  refine ⟨s.updImg img (fun im => { im with phase := .landed false }), ?_, rfl, ?_⟩
  · show execHoldTransfer mast s = _
    unfold execHoldTransfer
    dsimp only
    rw [foldl_pick (x := (img, im)) (fun _ => rfl)]
    · simp only [if_pos hroom]
    · intro a e
      dsimp only
      split
      · exact .inl rfl
      · exact .inr rfl
    · intro e he
      simp only [List.mem_filter, Bool.and_eq_true, decide_eq_true_eq] at he
      obtain ⟨hmem, hat, hheld⟩ := he
      rcases hfirst e hmem hat hheld with rfl | hlt
      · exact if_pos le_rfl
      · exact if_pos hlt.le
    · intro a ha
      simp only [List.mem_filter, Bool.and_eq_true, decide_eq_true_eq] at ha
      obtain ⟨hmem, hat, hheld⟩ := ha
      rcases hfirst a hmem hat hheld with rfl | hlt
      · exact if_pos le_rfl
      · exact if_neg hlt.not_ge
    · simpa [hmast, hphase] using SMap.mem_of_get? _ _ _ himg
  · rw [State.updImg, SMap.upd_some _ _ _ _ himg, SMap.get?_put_same]

end Sys2Proof.Machine
end

section
/-! # Admission of continuations (O51) -/

namespace Sys2Proof.Machine

open Sys2Proof Sys2Proof.Safety

/-! ## Reservations leave the clocks of stations alone -/

theorem State.reserve_cycles (s : State) (lid cix : Nat) (l : Launch) (m : Nat) (win : Option Nat) (a b : Nat) :
    ((s.reserve lid cix l m win).stn a b).cycles = (s.stn a b).cycles := by
  unfold State.reserve
  dsimp only
  split
  · rfl
  split
  · rw [State.updStn_stn]
    split <;> rfl
  · rfl

theorem State.reserveFor_cycles (s : State) (m : Nat) (e : Nat × Nat) (a b : Nat) : ((s.reserveFor m e).stn a b).cycles = (s.stn a b).cycles := by
  unfold State.reserveFor
  split
  · rfl
  split
  · rfl
  split
  · split
    · exact State.reserve_cycles ..
    · rfl
  · rfl

theorem State.reserveHeads_cycles (s : State) (m a b : Nat) : ((s.reserveHeads m).stn a b).cycles = (s.stn a b).cycles :=
  foldl_keeps (fun s e => s.reserveFor m e) (fun s => (s.stn a b).cycles) (fun s e => s.reserveFor_cycles m e a b) _ s

/-! ## The admitted sub-group (R219) -/

/-- A lane as it stands ready on the station that admits it. -/
def laneAdmitted (now : Nat) (x : Lane) : Lane :=
  { x with st := .ready, readyAt := now, since := now, starve := 0, yield := false, refuse := none }

/-- The sub-group that an image becomes on a station. -/
def subAdmitted (im : Image) (m n now : Nat) : SubGroup :=
  { im.sg with mast := m, stn := n, stale := [], lanes := im.sg.lanes.map (fun e => (e.1, laneAdmitted now e.2)) }

theorem subAdmitted_reg (im : Image) (m n now : Nat) (y : Reg) : (subAdmitted im m n now).reg y = im.sg.reg y := by
  cases y <;> rfl

theorem subAdmitted_get? (im : Image) (m n now l : Nat) :
    SMap.get? (subAdmitted im m n now).lanes l = (SMap.get? im.sg.lanes l).map (laneAdmitted now) :=
  SMap.get?_map im.sg.lanes (fun _ => laneAdmitted now) l

theorem State.noteAt_images (s : State) (m typ ctx : Nat) (w1 w2 w3 : Word) : (s.noteAt m typ ctx w1 w2 w3).images = s.images := by
  obtain ⟨j, hj⟩ := State.note_eq (s.enter (m / 16)) (m % 16) typ ctx w1 w2 w3
  simp [State.noteAt, State.on, hj]

/-- An image that a station takes in as it is: its lanes are neither refused, stopped nor held at a tie point, and it is no part of another. -/
structure Plain (im : Image) : Prop where
  bundle : im.bundle = none
  refuse : im.refuse = 0
  halted : im.halted = false
  held : im.held = false
  kind : im.kind ≠ 2
  away : ∀ e ∈ im.sg.lanes, e.2.meet = 0 ∨ e.2.pc ≠ e.2.meet

/-- A state that has taken an image in at a station: its sub-group stands there, and the image is gone. -/
structure TakenIn (s : State) (i : Nat) (im : Image) (m n : Nat) (t : State) : Prop where
  mem : t.mem = s.mem
  images : t.images = SMap.del s.images i
  sub : SMap.get? t.subs s.nextId = some (subAdmitted im m n (s.stn m n).cycles)

/-- No lane of an admitted image is held where it stands. -/
theorem State.holdReady_subAdmitted {s : State} {im : Image} {m n now sid : Nat} (hp : Plain im)
    (hsub : SMap.get? s.subs sid = some (subAdmitted im m n now)) : s.holdReady sid = s := by
  refine State.holdReadyBy_of_none hsub fun e he => ?_
  obtain ⟨d, hd, rfl⟩ := List.mem_map.mp he
  rintro ⟨-, -, -, hmeet, hpc⟩
  exact (hp.away d hd).elim hmeet fun h => h hpc

theorem State.takeIn_plain {s : State} {i : Nat} {im : Image} {m n : Nat} (hp : Plain im) (hfree : SMap.get? s.subs s.nextId = none) :
    TakenIn s i im m n (s.takeIn i im m n) := by
  obtain ⟨hbundle, hrefuse, hhalted, hheld, hkind, -⟩ := id hp
  unfold State.takeIn
  simp only [hbundle, hrefuse, hhalted, hheld, State.fresh, hfree, if_true, Bool.false_eq_true, if_false, ne_eq, not_true_eq_false, hkind, decide_false, Bool.or_self]
  generalize hv : State.updGroup _ _ _ = v
  have hsub : SMap.get? v.subs s.nextId = some (subAdmitted im m n (s.stn m n).cycles) := by
    rw [← hv]
    show SMap.get? (State.noteAt _ _ _ _ _ _ _).subs s.nextId = _
    rw [(State.noteAt_keeps ..).1, SMap.get?_put_same]
    rfl
  rw [State.holdReady_subAdmitted hp hsub]
  refine ⟨?_, ?_, hsub⟩
  · rw [← hv]
    exact State.noteAt_mem ..
  · rw [← hv]
    exact State.noteAt_images ..

/-! ## The queues of a mast with one landed image (R224, R225) -/

/-- No record of a key is left once it is removed. -/
theorem SMap.ne_of_mem_del {α : Type} {m : SMap α} {k : Nat} {e : Nat × α} (h : e ∈ SMap.del m k) : e.1 ≠ k := by
  induction m with
  | nil => cases h
  | cons d m ih =>
    obtain ⟨i, a⟩ := d
    rw [SMap.del] at h
    split at h
    · exact ih h
    next hi =>
      rcases List.mem_cons.mp h with rfl | h
      · exact hi
      · exact ih h

section
variable {s : State} {img m : Nat} {im : Image} (himg : SMap.get? s.images img = some im) (hat : im.landedAt m = true)
  (hsole : ∀ e ∈ s.images, e.2.landedAt m = true → e = (img, im))

include himg hat hsole in
/-- The image heads its queue, if it may be admitted and does not merge. -/
theorem State.queueHead_sole (hadmits : s.admits im = true) (hmerge : s.mergeStn im = none) : s.queueHead m im.tstn = some (img, im) := by
  unfold State.queueHead
  dsimp only
  have hmine : ∀ e ∈ s.images.filter (fun e => e.2.landedAt m && decide (e.2.tstn = im.tstn) && s.admits e.2 && (s.mergeStn e.2).isNone), e = (img, im) := by
    intro e he
    simp only [List.mem_filter, Bool.and_eq_true, and_assoc] at he
    obtain ⟨hmem, hlanded, -⟩ := he
    exact hsole e hmem hlanded
  refine foldl_pick (fun _ => rfl) ?_ ?_ ?_ ?_
  · exact fun _ _ => (ite_eq_or_eq _ _ _).symm
  · intro e he
    rw [hmine e he]
    exact ite_self _
  · intro a ha
    rw [hmine a ha]
    exact ite_self _
  · simpa [hat, hadmits, hmerge] using SMap.mem_of_get? _ _ _ himg

include hsole in
theorem State.queueHead_other {q : Nat} (hq : im.tstn ≠ q) : s.queueHead m q = none := by
  unfold State.queueHead
  dsimp only
  rw [List.filter_eq_nil_iff.mpr]
  · rfl
  · intro e he hmine
    simp only [Bool.and_eq_true, decide_eq_true_eq, and_assoc] at hmine
    obtain ⟨hlanded, htstn, -⟩ := hmine
    rw [hsole e he hlanded] at htstn
    exact hq htstn

include hsole in
/-- Once it is taken in, no image is left to merge. -/
theorem TakenIn.mergeLanded {n : Nat} {t : State} (h : TakenIn s img im m n t) : t.mergeLanded m = t := by
  unfold State.mergeLanded
  rw [List.filter_eq_nil_iff.mpr]
  · rfl
  · intro e he hlanded
    rw [h.images] at he
    have hkey : e = (img, im) := hsole e (SMap.mem_del he) hlanded
    have hgone : e.1 ≠ img := SMap.ne_of_mem_del he
    exact hgone (congrArg Prod.fst hkey)

/-! ## The admission (R224, R225) -/

include himg hat hsole in
theorem execImageAdmission_merges {s0 : State} {n : Nat} (hs : s0.reserveHeads m = s) (hplace : s.mergePlace im = some n) :
    exec (.imageAdmission m im.tstn) s0 = .next (s.takeIn img im m n) := by
  have hfind : (s.images.filter (fun e => e.2.landedAt m && decide (e.2.tstn = im.tstn))).find? (fun e => (s.mergePlace e.2).isSome) = some (img, im) := by
    cases h : (s.images.filter (fun e => e.2.landedAt m && decide (e.2.tstn = im.tstn))).find? (fun e => (s.mergePlace e.2).isSome) with
    | none =>
      refine absurd (List.find?_eq_none.mp h (img, im) ?_) (by simp [hplace])
      simpa [hat] using SMap.mem_of_get? _ _ _ himg
    | some e =>
      have hmem := List.mem_of_find?_eq_some h
      simp only [List.mem_filter, Bool.and_eq_true] at hmem
      obtain ⟨hmem, hlanded, -⟩ := hmem
      rw [hsole e hmem hlanded]
  show execImageAdmission m im.tstn s0 = _
  unfold execImageAdmission
  simp only [hs, hfind, hplace]

include himg hat hsole in
theorem State.admitHead_mast {n : Nat} (hp : Plain im) (hadmits : s.admits im = true) (hmerge : s.mergeStn im = none) (hfree : SMap.get? s.subs s.nextId = none)
    (hq : im.tstn = 64) (hchosen : s.chooseStn m im = some n) :
    TakenIn s img im m n (s.admitHead m 64) := by
  have hn : n < 64 := by
    have hmem := List.mem_of_mem_filter (bestStn_mem hchosen)
    obtain ⟨i, -, rfl⟩ := List.mem_map.mp hmem
    exact Nat.mod_lt _ (by decide)
  have hhead : s.queueHead m 64 = some (img, im) := hq ▸ State.queueHead_sole himg hat hsole hadmits hmerge
  have hother : s.queueHead m n = none := State.queueHead_other hsole (hq ▸ hn.ne')
  have htaken : TakenIn s img im m n (State.takeIn (s.updMast m (fun t => { t with lastChosen := n })) img im m n) := by
    obtain ⟨hmem, himages, hsub⟩ : TakenIn (s.updMast m (fun t => { t with lastChosen := n })) img im m n _ := State.takeIn_plain hp hfree
    exact ⟨hmem, himages, hsub⟩
  unfold State.admitHead
  simp only [hhead, if_true, hchosen, hother, Bool.false_eq_true, if_false, htaken.mergeLanded hsole]
  exact htaken

include himg hat hsole in
theorem State.admitHead_station (hp : Plain im) (hadmits : s.admits im = true) (hmerge : s.mergeStn im = none) (hfree : SMap.get? s.subs s.nextId = none)
    (hq : im.tstn ≠ 64) (hroom : s.canTake m im.tstn im = true) :
    TakenIn s img im m im.tstn (s.admitHead m im.tstn) := by
  unfold State.admitHead
  have htaken : TakenIn s img im m im.tstn (s.takeIn img im m im.tstn) := State.takeIn_plain hp hfree
  simp only [State.queueHead_sole himg hat hsole hadmits hmerge, hq, if_false, State.queueHead_other hsole hq, hroom, Bool.not_false, Bool.and_self, if_true,
    htaken.mergeLanded hsole]
  exact htaken

include hsole in
theorem execImageAdmission_heads {s0 : State} (hs : s0.reserveHeads m = s) (hmerge : s.mergeStn im = none) :
    exec (.imageAdmission m im.tstn) s0 = .next (s.admitHead m im.tstn) := by
  have hfind : (s.images.filter (fun e => e.2.landedAt m && decide (e.2.tstn = im.tstn))).find? (fun e => (s.mergePlace e.2).isSome) = none := by
    rw [List.find?_eq_none]
    intro e he
    simp only [List.mem_filter, Bool.and_eq_true] at he
    obtain ⟨hmem, hlanded, -⟩ := he
    simp [hsole e hmem hlanded, State.mergePlace, hmerge]
  show execImageAdmission m im.tstn s0 = _
  unfold execImageAdmission
  simp only [hs, hfind]
end

/-- A landed image that no other precedes is admitted. -/
theorem imageAdmission_admits {s : State} {m q n img : Nat} {im : Image} (himg : SMap.get? s.images img = some im) (hat : im.landedAt m = true)
    (hq : im.tstn = q) (hadmits : (s.reserveHeads m).admits im = true) (hp : Plain im) (hsole : ∀ e ∈ s.images, e.2.landedAt m = true → e = (img, im))
    (hfree : SMap.get? s.subs s.nextId = none)
    (hplace : (s.reserveHeads m).mergePlace im = some n ∨ ((s.reserveHeads m).mergeStn im = none ∧
      if q = 64 then (s.reserveHeads m).chooseStn m im = some n else n = q ∧ (s.reserveHeads m).canTake m q im = true)) :
    ∃ t, exec (.imageAdmission m q) s = .next t ∧ TakenIn s img im m n t := by
  obtain ⟨stns, hs, -⟩ := s.reserveHeads_onlyReserves m
  have hnow := s.reserveHeads_cycles m m n
  have hback : ∀ t, TakenIn (s.reserveHeads m) img im m n t → TakenIn s img im m n t := by
    rintro t ⟨hmem, himages, hsub⟩
    rw [hnow] at hsub
    rw [hs] at hmem himages hsub
    exact ⟨hmem, himages, hsub⟩
  have himg1 : SMap.get? (s.reserveHeads m).images img = some im := by rw [hs]; exact himg
  have hsole1 : ∀ e ∈ (s.reserveHeads m).images, e.2.landedAt m = true → e = (img, im) := by rw [hs]; exact hsole
  have hfree1 : SMap.get? (s.reserveHeads m).subs (s.reserveHeads m).nextId = none := by rw [hs]; exact hfree
  subst hq
  rcases hplace with hmerges | ⟨hmerge, hroom⟩
  · exact ⟨_, execImageAdmission_merges himg1 hat hsole1 rfl hmerges, hback _ (State.takeIn_plain hp hfree1)⟩
  · refine ⟨_, execImageAdmission_heads hsole1 rfl hmerge, hback _ ?_⟩
    split at hroom
    next hmast => rw [hmast]; exact State.admitHead_mast himg1 hat hsole1 hp hadmits hmerge hfree1 hmast hroom
    next hstn =>
      obtain ⟨rfl, htake⟩ := hroom
      exact State.admitHead_station himg1 hat hsole1 hp hadmits hmerge hfree1 hstn htake

end Sys2Proof.Machine
end

section
/-! # Tie points and the fetch of code (O51) -/

namespace Sys2Proof.Machine

open Sys2Proof Sys2Proof.Safety

/-! ## Release of a tie point (R108) -/

theorem SubGroup.settle_reg (sg : SubGroup) (m : Mask) (y : Reg) : (sg.settle m).reg y = sg.reg y := by
  cases y <;> rfl

/-- A lane that its tie point lets go. -/
def laneReleased (status : BitVec 8) (dl now : Nat) (x : Lane) : Lane :=
  { x with st := .ready, rel := some (status, BitVec.ofNat 64 (min dl (2 ^ 64 - 1))), readyAt := max x.readyAt now, since := now, starve := 0 }

/-- What is left of a tie point whose held lanes are let go: nothing, or the members that are still to come. -/
def Tie.drained (tie : Tie) : Option Tie :=
  if tie.member &&& ~~~tie.held = 0 then none
  else some { tie with isOpen := false, opened := false, member := tie.member &&& ~~~tie.held, held := 0, sid := none }

theorem State.releaseTie_spec {s : State} {tid sid : Nat} {tie : Tie} {sg : SubGroup} {status : BitVec 8} (hsid : tie.sid = some sid)
    (hsub : SMap.get? s.subs sid = some sg) (hstatus : status = 0 → tie.member &&& ~~~tie.held = 0) :
    let t := s.releaseTie tid tie status
    t.mem = s.mem ∧ SMap.get? t.ties tid = tie.drained ∧
      SMap.get? t.subs sid = some ((sg.mapLanes tie.held (laneReleased status tie.dl (s.stn tie.mast tie.stn).cycles)).settle tie.held) := by
  unfold State.releaseTie Tie.drained
  simp only [hsid, State.updSub_of_get? _ hsub]
  by_cases hleft : tie.member &&& ~~~tie.held = 0
  · simp only [hleft, decide_true, Bool.or_true, if_true, true_and]
    exact ⟨by rw [SMap.get?_del, if_pos rfl], SMap.get?_put_same ..⟩
  · have hne : status ≠ 0 := fun h => hleft (hstatus h)
    simp only [hleft, hne, decide_false, Bool.or_self, Bool.false_eq_true, if_false, true_and]
    exact ⟨SMap.get?_put_same .., SMap.get?_put_same ..⟩

/-- An open occurrence that is complete, or whose deadline is reached, is released with its status. -/
theorem exec_tieExpiry {s : State} {tid sid : Nat} {tie : Tie} {sg : SubGroup} (htie : SMap.get? s.ties tid = some tie) (hopen : tie.isOpen = true)
    (hopened : tie.opened = true) (hheld : tie.held ≠ 0) (hsid : tie.sid = some sid) (hsub : SMap.get? s.subs sid = some sg)
    (hdue : tie.member &&& ~~~tie.held = 0 ∨ tie.dl ≤ sg.gclk.toNat) :
    exec (.tieExpiry tid) s = .next (s.releaseTie tid tie (if tie.member &&& ~~~tie.held = 0 then 0 else 3)) := by
  show Host.Outcome.next (s.judgeTie tid) = _
  unfold State.judgeTie
  simp only [htie, hopen, hopened, hheld, hsid, Option.bind_some, hsub]
  rw [if_neg (by simp)]
  by_cases hleft : tie.member &&& ~~~tie.held = 0
  · rw [if_pos hleft, if_pos hleft]
  · rw [if_neg hleft, if_neg hleft, if_pos (hdue.resolve_left hleft)]

theorem tieExpiry_releases {s : State} {tid sid : Nat} {tie : Tie} {sg : SubGroup} (htie : SMap.get? s.ties tid = some tie) (hopen : tie.isOpen = true)
    (hopened : tie.opened = true) (hheld : tie.held ≠ 0) (hsid : tie.sid = some sid) (hsub : SMap.get? s.subs sid = some sg)
    (hdue : tie.member &&& ~~~tie.held = 0 ∨ tie.dl ≤ sg.gclk.toNat) :
    ∃ t u, exec (.tieExpiry tid) s = .next t ∧ t.mem = s.mem ∧ SMap.get? t.subs sid = some u ∧ (∀ y, u.reg y = sg.reg y) ∧
      SMap.get? t.ties tid = tie.drained ∧
      ∀ l, SMap.get? u.lanes l = (SMap.get? sg.lanes l).map (fun x => if tie.held.getLsbD l then
        laneReleased (if tie.member &&& ~~~tie.held = 0 then 0 else 3) tie.dl (s.stn tie.mast tie.stn).cycles x else x) := by
  obtain ⟨hmem, hties, hu⟩ := State.releaseTie_spec (tid := tid) (status := if tie.member &&& ~~~tie.held = 0 then 0 else 3) hsid hsub (by
    split
    next h => exact fun _ => h
    next => exact fun h => absurd h (by decide))
  refine ⟨_, _, exec_tieExpiry htie hopen hopened hheld hsid hsub hdue, hmem, hu, fun y => ?_, hties, fun l => ?_⟩
  · rw [SubGroup.settle_reg, SubGroup.mapLanes_reg]
  · exact SubGroup.mapLanes_get? sg tie.held _ l

/-! ## The fetch of a code sector (R214) -/

theorem State.errorEvent_waits (s : State) (m : Nat) : (s.errorEvent m).waits = s.waits := by
  simp [State.errorEvent, State.postAt, State.on, State.post]

theorem State.countUe_waits (s : State) (cell : Nat) : (s.countUe cell).waits = s.waits := by
  unfold State.countUe State.countUeAt
  dsimp only
  split
  · rfl
  · exact State.errorEvent_waits ..

theorem State.countCe_waits (s : State) (m : Nat) : (s.countCe m).waits = s.waits := by
  unfold State.countCe
  dsimp only
  split
  · exact State.errorEvent_waits ..
  · rfl

theorem State.countRow_waits (s : State) (cell : Nat) : (s.countRow cell).waits = s.waits := by
  unfold State.countRow
  dsimp only
  split <;> rfl

theorem State.checkRead_waits (s : State) (sectors : List Nat) : (s.checkRead sectors).waits = s.waits := by
  refine foldl_keeps _ State.waits (fun s c => ?_) sectors s
  split
  · exact s.countUe_waits c
  split
  · rw [State.countRow_waits, State.countCe_waits]
  · rfl

/-- The sub-group of a wait whose lanes issue its word again. -/
def subRedone (sg : SubGroup) (lanes : Mask) (now : Nat) : SubGroup :=
  sg.mapLanes lanes (fun y => { y with st := .ready, readyAt := now, since := now, starve := 0 })

/-- The lanes of a wait for which none stand by are ready at their word. -/
theorem State.redoWait_alone {s : State} {wid : Nat} {w : Wait} {sg : SubGroup} (hsub : SMap.get? s.subs w.sid = some sg)
    (hstand : s.standing (fun ks => ks.contains wid) = []) :
    s.redoWait wid w = { s with
      waits := SMap.del s.waits wid, subs := SMap.put s.subs w.sid (subRedone sg w.lanes (s.stn sg.mast sg.stn).cycles) } := by
  unfold State.redoWait
  rw [hstand]
  exact State.updSub_of_get? (s := { s with waits := SMap.del s.waits wid }) _ hsub

/-- A code sector that its home holds, and that reads well, fills the store of the station, and the fetch ends. -/
theorem fetchArrive_fills {s : State} {wid c m : Nat} {w : Wait} {x : XlReq} {sg : SubGroup} {g : Group} {ctx : Ctx}
    (hsub : SMap.get? s.subs w.sid = some sg) (hg : SMap.get? s.groups sg.gid = some g) (hctx : s.ctxOf g = some ctx) (hfail : x.fail = false)
    (hheld : x.held = none) (hhome : (∃ a, s.home ctx (s.fetchVa g w x) = .dram a m) ∨ ∃ a n b, s.home ctx (s.fetchVa g w x) = .window a m n b)
    (hlinked : s.linked (sg.mast / 16) (m / 16) = true) (hopen : s.fencedAt x.va = false)
    (hplace : s.placeOf g.ctx (s.directOf g (s.fetchVa g w x)) (s.codeAcc sg g x.va) = .cell c) (hgood : s.badAt c = false) :
    s.fetchArrive wid w x = ((s.checkRead [sectorOf c]).updStn sg.mast sg.stn (fun st => st.fill
      { ctx := g.ctx, va := s.fetchVa g w x, data := (List.range 4).map (fun i => s.word (c + 8 * i)) })).redoWait wid w := by
  unfold State.fetchArrive
  rcases hhome with ⟨a, hhome⟩ | ⟨a, n, b, hhome⟩ <;>
    simp only [hsub, hg, hctx, hfail, hheld, hhome, hlinked, hopen, hplace, hgood, Option.map_some, Option.isSome_none, Bool.not_true, Bool.false_eq_true, if_false]

/-- A wait's lanes as a run are those of its sub-group, in its group. -/
theorem State.runOf_parts {s : State} {w : Wait} {r : Run} (hr : s.runOf w = some r) :
    SMap.get? s.subs w.sid = some r.sg ∧ SMap.get? s.groups r.sg.gid = some r.g ∧ r.sid = w.sid ∧ r.set = w.lanes := by
  unfold State.runOf at hr
  split at hr
  · cases hr
  next sg hsub =>
    obtain ⟨g, hg, rfl⟩ := Option.map_eq_some_iff.mp hr
    exact ⟨hsub, hg, rfl, rfl⟩

/-- The lanes of a fetch that ends issue their word again, beside the sector in the station's store. -/
theorem instructionFetch_arrives {s : State} {wid c m : Nat} {w : Wait} {r : Run} {x : XlReq} {ctx : Ctx} (hw : SMap.get? s.waits wid = some w)
    (hr : s.runOf w = some r) (hkind : w.kind = .fetch x) (hctx : s.ctxOf r.g = some ctx) (hfail : x.fail = false) (hheld : x.held = none)
    (hhome : (∃ a, s.home ctx (s.fetchVa r.g w x) = .dram a m) ∨ ∃ a n b, s.home ctx (s.fetchVa r.g w x) = .window a m n b)
    (hlinked : s.linked (r.sg.mast / 16) (m / 16) = true) (hopen : s.fencedAt x.va = false)
    (hplace : s.placeOf r.g.ctx (s.directOf r.g (s.fetchVa r.g w x)) (s.codeAcc r.sg r.g x.va) = .cell c) (hgood : s.badAt c = false)
    (hstand : s.standing (fun ks => ks.contains wid) = []) :
    ∃ t u, exec (.instructionFetch wid) s = .next t ∧ t.mem = s.mem ∧ SMap.get? t.waits wid = none ∧ SMap.get? t.subs r.sid = some u ∧
      (t.stn r.sg.mast r.sg.stn).store = ((s.stn r.sg.mast r.sg.stn).fill
        { ctx := r.g.ctx, va := s.fetchVa r.g w x, data := (List.range 4).map (fun i => s.word (c + 8 * i)) }).store ∧
      ∀ l, SMap.get? u.lanes l = (SMap.get? r.sg.lanes l).map (fun y => if r.set.getLsbD l then
        { y with st := .ready, readyAt := (s.stn r.sg.mast r.sg.stn).cycles, since := (s.stn r.sg.mast r.sg.stn).cycles, starve := 0 } else y) := by
  obtain ⟨hsub, hg, hsid, hset⟩ := State.runOf_parts hr
  obtain ⟨hsubs, hstns, -⟩ := s.checkRead_stands [sectorOf c]
  have hstn : ∀ a b, (s.checkRead [sectorOf c]).stn a b = s.stn a b := fun a b => by rw [State.stn, State.stn, hstns]
  have hexec : exec (.instructionFetch wid) s = .next (s.fetchArrive wid w x) := by
    show execInstructionFetch wid s = _
    simp only [execInstructionFetch, hw, hkind]
  rw [hexec, fetchArrive_fills hsub hg hctx hfail hheld hhome hlinked hopen hplace hgood]
  generalize hv : State.updStn _ _ _ _ = v
  have hvsub : SMap.get? v.subs w.sid = some r.sg := by rw [← hv, State.updStn_subs, hsubs, hsub]
  have hvstn : v.stn r.sg.mast r.sg.stn = (s.stn r.sg.mast r.sg.stn).fill
      { ctx := r.g.ctx, va := s.fetchVa r.g w x, data := (List.range 4).map (fun i => s.word (c + 8 * i)) } := by
    rw [← hv, State.updStn_stn, if_pos rfl, hstn]
  have hvstand : v.standing (fun ks => ks.contains wid) = [] := by
    rw [← hstand, ← hv, State.standing, State.standing, State.updStn_waits, State.checkRead_waits]
  rw [State.redoWait_alone hvsub hvstand]
  refine ⟨_, subRedone r.sg w.lanes (v.stn r.sg.mast r.sg.stn).cycles, rfl, ?_, ?_, ?_, congrArg Station.store hvstn, fun l => ?_⟩
  · rw [← hv]
    exact s.checkRead_mem _
  · simp [SMap.get?_del]
  · rw [hsid]
    exact SMap.get?_put_same ..
  · rw [subRedone, SubGroup.mapLanes_get?, hset, hvstn]
    rfl

end Sys2Proof.Machine
end

section
namespace Sys2Proof
open Machine Safety

/-- Settles O51: each happening of a movement, by the lemma about its own function. -/
theorem movement : Obligations.Movement := by
  refine ⟨fun _ _ _ => departure_lanesGone, ?_, fun _ _ _ _ => holdTransfer_moves, ?_, ?_, ?_⟩
  · intro s img im himg hphase hknows hlinked hnext
    dsimp only
    split
    next hfenced => exact exec_landing_fenced himg hphase hknows hlinked hnext hfenced
    next hopen => exact landing_lands himg hphase hknows hlinked hnext (Bool.eq_false_of_not_eq_true hopen)
  · intro s m q n img im s1 himg hat hq hadmits hbundle hrefuse hhalted hheld hkind haway hsole hfree hplace
    obtain ⟨t, hexec, hmem, himages, hsub⟩ :=
      imageAdmission_admits himg hat hq hadmits ⟨hbundle, hrefuse, hhalted, hheld, hkind, haway⟩ hsole hfree hplace
    exact ⟨t, _, hexec, hmem, by rw [himages, SMap.get?_del, if_pos rfl], hsub, rfl, rfl, rfl, subAdmitted_reg im m n _, subAdmitted_get? im m n _⟩
  · exact fun s tid sid tie sg => tieExpiry_releases
  · intro s wid c w r x ctx va now hw hr hkind hfail hheld hctx hhome hopen hplace hgood hstand
    obtain ⟨m, hplaced, hlinked⟩ : ∃ m, ((∃ a, s.home ctx va = .dram a m) ∨ ∃ a n b, s.home ctx va = .window a m n b) ∧
        s.linked (r.sg.mast / 16) (m / 16) = true := by
      cases h : s.home ctx va with
      | none d => rw [h] at hhome; exact hhome.elim
      | dram a m => rw [h] at hhome; exact ⟨m, .inl ⟨a, rfl⟩, hhome⟩
      | window a m n b => rw [h] at hhome; exact ⟨m, .inr ⟨a, n, b, rfl⟩, hhome⟩
    exact instructionFetch_arrives hw hr hkind hctx hfail hheld hplaced hlinked hopen hplace hgood hstand

end Sys2Proof
end

section
/-! # A wait's value outside the register file (O47)

The values last read at an LDW are any list of lanes and values, and its destination any operand. A pair from v63 is registers 63 and 64 of a lane,
and register 64 stands where register 0 of the next lane stands. -/

namespace Sys2Proof.Machine

open Sys2Proof Sys2Proof.Safety

/-- The page that holds the lane's address. -/
def lateLdwPage : XlReq := { ctx := 0, va := 0, acc := 0, held := some 0, fail := false }
def lateLdwOp : LaneAcc := { lane := 0, addr := 0, data := 0, swap := 0 }
/-- What lane 0 read last. -/
def lateLdwVal : Word := 0x700000000
/-- Lane 0 waits at an LDW of 64 bits to v63, past its deadline, with its page still held. -/
def lateLdw : Wait :=
  { sid := 2, lanes := 1, kind := .ldw [lateLdwOp] [(0, lateLdwVal)] true 0 false (.v 63) [lateLdwPage], dk := some 0, bound := none,
    status := .zero, pc := 0x1000, len := 16, iword := 0, xword := 0 }
def lateLdwGroup : Group := Group.launch 0 (some 0) 0 2 8
def lateLdwSub : SubGroup := SubGroup.launch 1 0 0 2 0x1000 0 [] 0 65536 0 0
def lateLdwState : State := { State.reset with groups := [(1, lateLdwGroup)], subs := [(2, lateLdwSub)], waits := [(5, lateLdw)], nextId := 6 }
def lateLdwRun : Run :=
  { sid := 2, gid := 1, sg := lateLdwSub, g := lateLdwGroup, set := 1, act := 1, pc := 0x1000, len := 16, stall := 0, iw := 0, xw := 0, now := 0 }
def lateLdwWrites : List (Reg × Word) := dstWrites (.v 63) true 0 lateLdwVal.toNat ++ statusWrites .zero 1

theorem lateLdw_runs : lateLdwState.runOf lateLdw = some lateLdwRun := by decide +kernel

theorem lateLdw_ends : lateForm lateLdwState 5 lateLdw lateLdwRun = some (.ldwTimeout 5, lateLdwWrites) := by decide +kernel

/-- The timeout writes register 0 of lane 1. -/
theorem lateLdw_expired : (SMap.get? (lateLdwState.ldwExpire 5).subs 2).map (fun u => u.reg (.v 1 0)) = some 7 := by decide +kernel

/-- The registers that its writes name leave register 0 of lane 1 as it was. -/
theorem lateLdw_after : after lateLdwSub lateLdwWrites (.v 1 0) = 0 := by decide +kernel

end Sys2Proof.Machine
end

section
namespace Sys2Proof
open Machine Safety

/-- Refutes O47: nothing bounds the destination of a waiting LDW, and a pair from v63 changes register 0 of the next lane, which the
statement leaves as it was. -/
theorem not_waitTimeouts : ¬ Obligations.WaitTimeouts := by
  rintro ⟨hlate, -⟩
  obtain ⟨t, hexec, -, ⟨-, u, hu, -, hregs, -⟩, -⟩ := hlate lateLdwState 5 lateLdw lateLdwRun 0 (.ldwTimeout 5) lateLdwWrites rfl
    lateLdw_runs rfl (Nat.zero_le _) rfl (by decide +kernel) lateLdw_ends
  have hexpired : Host.Outcome.next (lateLdwState.ldwExpire 5) = Host.Outcome.next t := hexec
  obtain rfl : lateLdwState.ldwExpire 5 = t := by simpa using hexpired
  have hseven : u.reg (.v 1 0) = 7 := by
    rw [show lateLdwRun.sid = 2 from rfl] at hu
    simpa [hu] using lateLdw_expired
  have hzero : u.reg (.v 1 0) = 0 := (hregs (.v 1 0) (by decide : 0 < 64)).trans lateLdw_after
  exact absurd (hseven.symm.trans hzero) (by decide)

end Sys2Proof
end

section
/-! # A notice whose number is given out again (O50)

A message's number is taken from `nextId`. Where that is the number of the message that arrives, the acknowledgement stands under it. -/

namespace Sys2Proof.Machine

open Sys2Proof Sys2Proof.Safety

/-- A POST of no lane, of the walker group, so that its place needs no translation. -/
def renumberedPost : Msg :=
  { src := stnPort 0 0, dst := stnPort 0 0, body := .posted 1 0 none 4 [] 0 (some (XlReq.mk' 0 0 3)) }
/-- The POST's number is the next to be given out. -/
def renumberedState : State := { State.reset with msgs := [(7, renumberedPost)], nextId := 7 }

/-- Address 0 is a byte of the walker group's memory. -/
theorem renumbered_place : renumberedState.placeOf 0 0 3 = .cell 0 := by decide +kernel

theorem renumbered_exec : exec (.postedOperation 7) renumberedState = .next (renumberedState.postedAt 7 renumberedPost) := by
  have hfirst : renumberedState.firstMsg 7 renumberedPost = true := by decide +kernel
  exact congrArg Host.Outcome.next (if_pos hfirst)

/-- The acknowledgement stands under the number of the POST. -/
theorem renumbered_acknowledged : (SMap.get? (renumberedState.postedAt 7 renumberedPost).msgs 7).isSome = true := by decide +kernel

end Sys2Proof.Machine
end

section
namespace Sys2Proof
open Machine Safety

/-- Refutes O50: where the number of an arriving POST is the next to be given out, its acknowledgement takes that number, and the statement
says that no message has it. -/
theorem not_notices : ¬ Obligations.Notices := by
  rintro ⟨-, -, hposted, -⟩
  obtain ⟨t, k, a, hexec, -, hgone, -⟩ := hposted renumberedState 7 1 0 4 0 none [] (some (XlReq.mk' 0 0 3)) 0
    ⟨renumberedPost, rfl, rfl, by decide +kernel⟩ rfl rfl (by decide +kernel) renumbered_place (by decide +kernel)
  obtain rfl : renumberedState.postedAt 7 renumberedPost = t := by simpa [renumbered_exec] using hexec
  simpa [hgone] using renumbered_acknowledged

end Sys2Proof
end

section
/-! # Accesses at their homes (O18 to O21)

A load, store or atomic whose accesses are all local and sound neither moves lanes, nor holds them, nor traps: the common path is then the
operations in lane order and the results that go out (`memPath_local`). -/

namespace Sys2Proof.Machine

open Sys2Proof Sys2Proof.Safety

/-! ## Lanes of a run -/

/-- The guard only takes lanes away. -/
theorem run_act_set {s : State} {h : Hd} {r : Run} (hr : run s h = some r) {l : Nat} (hl : r.act.getLsbD l = true) : r.set.getLsbD l = true := by
  obtain ⟨is, sg, g, -, -, -, rfl⟩ := run_eq hr
  simp only [guarded] at hl
  split_ifs at hl with hguard hneg
  · simp at hl
  · exact hl
  · rw [getLsbD_maskOf] at hl
    simp only [Bool.and_eq_true, decide_eq_true_eq, List.mem_filter, mem_lanesOf] at hl
    exact hl.2.1

/-- A word that issues has an active lane. -/
theorem issues_act {s : State} {i : Instr} {r : Run} (hi : issues s i = some r) : r.act ≠ 0 := by
  obtain ⟨h, g, -, -, hp⟩ := issues_eq hi
  obtain ⟨-, hact, -⟩ := passes_iff.mp hp
  exact hact

theorem issues_set {s : State} {i : Instr} {r : Run} (hi : issues s i = some r) : r.set ≠ 0 := by
  obtain ⟨h, g, -, hr, -⟩ := issues_eq hi
  refine fun hset => issues_act hi (BitVec.eq_of_getLsbD_eq fun l _ => ?_)
  cases hl : r.act.getLsbD l with
  | false => simp
  | true => simpa [hset] using run_act_set hr hl

theorem lanesOf_ne_nil {m : Mask} (h : m ≠ 0) : lanesOf m ≠ [] := by
  refine fun hnil => h ?_
  rw [← maskOf_lanesOf m, hnil]
  rfl

/-- The lanes after a lane of a mask are above it. -/
theorem lanesOf_split {m : Mask} {l : Nat} (h : l ∈ lanesOf m) : ∃ pre post, lanesOf m = pre ++ l :: post ∧ ∀ k ∈ post, l < k := by
  obtain ⟨pre, post, hsplit⟩ := List.append_of_mem h
  have hsorted : (lanesOf m).Pairwise (· < ·) := List.pairwise_lt_range.filter _
  rw [hsplit, List.pairwise_append, List.pairwise_cons] at hsorted
  exact ⟨pre, post, hsplit, hsorted.2.1.1⟩

/-- A memory word that issues has the effect of its body. -/
theorem exec_issuedMem {s : State} {i : Instr} {w : FWord} {x : Option XWord} {needX : Bool} {g : Sig} {r : Run} {body : Body} (hi : issues s i = some r)
    (hf : form s i = if (needX || xBit w) && x.isNone then none else some (hdX w x, g)) (he : exec i s = issueMem s w x needX g body) :
    exec i s = .next { body r s with issuing := none } ∧ run s (hdX w x) = some r := by
  obtain ⟨h, g', hf', -, -⟩ := issues_eq hi
  have hx : ((needX || xBit w) && x.isNone) = false := by
    cases hx : (needX || xBit w) && x.isNone with
    | false => rfl
    | true => rw [hf, hx] at hf'; cases hf'
  rw [hx] at hf
  exact exec_issued hi hf (he.trans (if_neg (by simp [hx])))

/-! ## The size of an access -/

theorem szBytes_pos (sz : Nat) : 0 < szBytes sz := by
  rcases Nat.lt_or_ge sz 8 with h | h
  · interval_cases sz <;> decide
  · simp [szBytes, List.getD_eq_getElem?_getD, List.getElem?_eq_none (show [1, 1, 2, 2, 4, 8, 16, 32].length ≤ sz from h)]

theorem ThreadOp.size_pos (op : ThreadOp) : 0 < op.size := by
  cases op with
  | load sz | store sz => exact szBytes_pos sz
  | atom a t | cas w => simp only [ThreadOp.size]; split <;> decide

/-! ## Numbers in memory -/

theorem State.num_congr {s t : State} {c n : Nat} (h : ∀ a, c ≤ a → a < c + n → RMap.get (n := 8) t.mem a = RMap.get (n := 8) s.mem a) :
    t.num c n = s.num c n := by
  have hb : t.bytes c n = s.bytes c n := List.map_congr_left fun i hi => h _ (by omega) (by have := List.mem_range.mp hi; omega)
  rw [State.num, hb, State.num]

/-- What is stored reads back. -/
theorem State.num_store_same (s : State) (c n x : Nat) : (s.store c (leBytes n x)).num c n = x % 2 ^ (8 * n) := by
  have h := s.bytes_store_same c (leBytes n x)
  rw [leBytes_length] at h
  rw [State.num, h, leNat_leBytes, Nat.pow_mul]

theorem leNat_lt (bs : List Byte) : leNat bs < 2 ^ (8 * bs.length) := by
  induction bs with
  | nil => simp [leNat]
  | cons b bs ih =>
    have hb := b.isLt
    rw [leNat, List.length_cons, Nat.mul_succ, Nat.pow_add]
    omega

theorem State.num_lt (s : State) (c n : Nat) : s.num c n < 2 ^ (8 * n) := by
  simpa [State.num, State.bytes] using leNat_lt (s.bytes c n)

/-! ## Operations in lane order (R122, R127, R128) -/

/-- No access meets a sector with a symbol error or an uncorrectable one. -/
def SoundItems (s : State) (items : List CellAcc) (size : Nat) : Prop := ∀ c, c ∈ s.bad ∨ c ∈ s.soft → ∀ i ∈ items, c + 32 ≤ i.2 ∨ i.2 + size ≤ c

theorem SoundItems.tail {s : State} {i : CellAcc} {items : List CellAcc} {size : Nat} (h : SoundItems s (i :: items) size) : SoundItems s items size :=
  fun c hc j hj => h c hc j (List.mem_cons_of_mem _ hj)

/-- A store that meets no such sector changes memory alone. -/
theorem State.store_sound {s : State} {c : Nat} {bs : List Byte} (h : ∀ k, k ∈ s.bad ∨ k ∈ s.soft → k + 32 ≤ c ∨ c + bs.length ≤ k) :
    s.store c bs = { s with mem := writeMem s.mem c bs } := by
  have hbad : s.bad.filter (fun k => !(decide (c ≤ k) && decide (k < c + bs.length))) = s.bad := by
    refine List.filter_eq_self.mpr fun k hk => ?_
    have := h k (.inl hk)
    simp only [Bool.not_eq_true', Bool.and_eq_false_iff, decide_eq_false_iff_not]
    omega
  have hsoft : s.soft.filter (fun k => !(decide (k < c + bs.length) && decide (c < k + 32))) = s.soft := by
    refine List.filter_eq_self.mpr fun k hk => ?_
    have := h k (.inr hk)
    simp only [Bool.not_eq_true', Bool.and_eq_false_iff, decide_eq_false_iff_not]
    omega
  rw [State.store, hbad, hsoft, ite_self]

/-- One access: memory after it, where it changes it. -/
def ThreadOp.step (op : ThreadOp) (i : CellAcc) (s : State) : State :=
  match op.result i.1 (s.num i.2 op.size) with
  | some x => s.store i.2 (leBytes op.size x)
  | none => s

theorem State.performOps_cons (op : ThreadOp) (i : CellAcc) (is : List CellAcc) (s : State) :
    State.performOps op (i :: is) s =
      ((State.performOps op is (op.step i s)).1, (i.1.lane, s.num i.2 op.size) :: (State.performOps op is (op.step i s)).2) := rfl

theorem ThreadOp.step_sound {op : ThreadOp} {i : CellAcc} {s : State} (h : ∀ k, k ∈ s.bad ∨ k ∈ s.soft → k + 32 ≤ i.2 ∨ i.2 + op.size ≤ k) :
    op.step i s = { s with mem := (op.step i s).mem } := by
  unfold ThreadOp.step
  split
  · exact State.store_sound (by simpa using h)
  · rfl

theorem ThreadOp.step_other {op : ThreadOp} {i : CellAcc} (s : State) {a : Nat} (h : a < i.2 ∨ i.2 + op.size ≤ a) :
    RMap.get (n := 8) (op.step i s).mem a = RMap.get (n := 8) s.mem a := by
  unfold ThreadOp.step
  split
  · exact State.store_other _ _ _ _ (by simpa using h)
  · rfl

/-- Accesses that meet no sector in error change memory alone. -/
theorem State.performOps_sound {op : ThreadOp} {items : List CellAcc} {s : State} (h : SoundItems s items op.size) :
    (State.performOps op items s).1 = { s with mem := (State.performOps op items s).1.mem } := by
  induction items generalizing s with
  | nil => rfl
  | cons i is ih =>
    have hstep := ThreadOp.step_sound (op := op) (fun k hk => h k hk i List.mem_cons_self)
    have hrest := ih (s := op.step i s) (by rw [hstep]; exact h.tail)
    rw [State.performOps_cons]
    calc (State.performOps op is (op.step i s)).1
        = { op.step i s with mem := (State.performOps op is (op.step i s)).1.mem } := hrest
      _ = { s with mem := (State.performOps op is (op.step i s)).1.mem } := by rw [hstep]

/-- Bytes outside the places of the accesses are unchanged. -/
theorem State.performOps_other {op : ThreadOp} {items : List CellAcc} (s : State) {a : Nat} (h : ∀ i ∈ items, a < i.2 ∨ i.2 + op.size ≤ a) :
    RMap.get (n := 8) (State.performOps op items s).1.mem a = RMap.get (n := 8) s.mem a := by
  induction items generalizing s with
  | nil => rfl
  | cons i is ih =>
    rw [State.performOps_cons]
    exact (ih _ fun j hj => h j (List.mem_cons_of_mem _ hj)).trans (ThreadOp.step_other s (h i List.mem_cons_self))

theorem State.performOps_outside {op : ThreadOp} {r : Run} {addr : Nat → Word} {data swap cells : Nat → Nat} (s : State) {a : Nat}
    (h : Outside (lanesOf r.act) cells op.size a) :
    RMap.get (n := 8) (State.performOps op (laneItems r addr data swap cells) s).1.mem a = RMap.get (n := 8) s.mem a := by
  refine State.performOps_other s fun i hi => ?_
  obtain ⟨l, hl, rfl⟩ := List.mem_map.mp hi
  exact h l hl

/-- A load changes nothing, and each lane finds what stands there. -/
theorem State.performOps_load (sz : Nat) (items : List CellAcc) (s : State) :
    State.performOps (.load sz) items s = (s, items.map (fun i => (i.1.lane, s.num i.2 (szBytes sz)))) := by
  induction items with
  | nil => rfl
  | cons i is ih =>
    rw [State.performOps_cons, show (ThreadOp.load sz).step i s = s from rfl, ih]
    rfl

/-- Stores write their bytes one after another. -/
theorem State.performOps_store_mem (sz : Nat) (items : List CellAcc) (s : State) :
    (State.performOps (.store sz) items s).1.mem = items.foldl (fun m i => writeMem m i.2 (leBytes (szBytes sz) i.1.data)) s.mem := by
  induction items generalizing s with
  | nil => rfl
  | cons i is ih =>
    rw [State.performOps_cons]
    exact ih _

/-- The value of a store stands where no later one stores. -/
theorem State.performOps_store_num {sz : Nat} {pre post : List CellAcc} {i : CellAcc} (s : State)
    (h : ∀ j ∈ post, j.2 + szBytes sz ≤ i.2 ∨ i.2 + szBytes sz ≤ j.2) :
    (State.performOps (.store sz) (pre ++ i :: post) s).1.num i.2 (szBytes sz) = i.1.data % 2 ^ (8 * szBytes sz) := by
  induction pre generalizing s with
  | nil =>
    rw [List.nil_append, State.performOps_cons, ← State.num_store_same s]
    exact State.num_congr fun a _ _ => State.performOps_other _ fun j hj => show a < j.2 ∨ j.2 + szBytes sz ≤ a by
      have := h j hj
      omega
  | cons j pre ih =>
    rw [List.cons_append, State.performOps_cons]
    exact ih _

theorem ThreadOp.step_num (op : ThreadOp) (i : CellAcc) (s : State) :
    (op.step i s).num i.2 op.size = (op.result i.1 (s.num i.2 op.size)).getD (s.num i.2 op.size) % 2 ^ (8 * op.size) := by
  unfold ThreadOp.step
  split
  next x hx => rw [hx, State.num_store_same, Option.getD_some]
  next hx => rw [hx, Option.getD_none, Nat.mod_eq_of_lt (s.num_lt ..)]

theorem ThreadOp.step_inv {op : ThreadOp} {i : CellAcc} {s : State} (h : Inv s) : Inv (op.step i s) := by
  unfold ThreadOp.step
  split
  · exact State.store_wf _ _ _ h
  · exact h

/-- One operation at a place by the next lane: what it leaves, and with whom it found what. -/
def ThreadOp.next (op : ThreadOp) (e : Nat × List (Nat × Nat)) (o : LaneAcc) : Nat × List (Nat × Nat) :=
  ((op.result o e.1).getD e.1 % 2 ^ (8 * op.size), e.2 ++ [(o.lane, e.1)])

/-- Operations at one place are made one after another. -/
theorem State.performOps_place {op : ThreadOp} {cell : Nat} (xs : List LaneAcc) (found : List (Nat × Nat)) {s : State} (h : Inv s) :
    xs.foldl op.next (s.num cell op.size, found) =
        ((State.performOps op (xs.map (fun o => (o, cell))) s).1.num cell op.size, found ++ (State.performOps op (xs.map (fun o => (o, cell))) s).2) ∧
      Inv (State.performOps op (xs.map (fun o => (o, cell))) s).1 := by
  induction xs generalizing s found with
  | nil => exact ⟨by simp [State.performOps], h⟩
  | cons o xs ih =>
    obtain ⟨hnum, hinv⟩ := ih (found ++ [(o.lane, s.num cell op.size)]) (ThreadOp.step_inv (op := op) (i := (o, cell)) h)
    rw [List.map_cons, State.performOps_cons]
    refine ⟨?_, hinv⟩
    rw [ThreadOp.step_num op (o, cell) s] at hnum
    rw [List.foldl_cons, ThreadOp.next, hnum]
    simp

/-! ## The common path of local accesses (R118 to R122) -/

/-- The active lanes whose homes lie elsewhere, with their homes (R121). -/
def State.farLanes (s : State) (r : Run) (sp : Space) (addr : Nat → Word) : List (Nat × Nat × Nat × Nat) :=
  (lanesOf r.act).filterMap (fun l => ((s.laneHome r sp (addr l)).filter (fun h => !isHere r.sg h)).map (fun h => (l, h)))

theorem State.moveRemote_eq (s : State) (r : Run) (sp : Space) (live : BitVec 8) (addr : Nat → Word) :
    s.moveRemote r sp live addr = if r.g.walker then (s, 0) else
      (((s.farLanes r sp addr).map (fun e => e.2)).dedup.foldl (fun t h =>
        t.departTo r.sid (maskOf (((s.farLanes r sp addr).filter (fun e => decide (e.2 = h))).map (fun e => e.1))) 1 live h.1 h.2.1 h.2.2) s,
       maskOf ((s.farLanes r sp addr).map (fun e => e.1))) := by
  have hfar : s.farLanes r sp addr = (lanesOf r.act).filterMap (fun l => match s.laneHome r sp (addr l) with
      | some h => if isHere r.sg h then none else some (l, h)
      | none => none) := by
    refine List.filterMap_congr fun l _ => ?_
    cases hh : s.laneHome r sp (addr l) with
    | none => rfl
    | some h => cases hhere : isHere r.sg h <;> simp [hhere]
  rw [hfar]
  rfl

/-- Lanes whose homes are all here do not move. -/
theorem State.moveRemote_local {s : State} {r : Run} {sp : Space} {addr : Nat → Word} (live : BitVec 8)
    (h : ∀ l ∈ lanesOf r.act, ∀ p, s.laneHome r sp (addr l) = some p → isHere r.sg p = true) : s.moveRemote r sp live addr = (s, 0) := by
  have hfar : s.farLanes r sp addr = [] := by
    refine List.filterMap_eq_nil_iff.mpr fun l hl => ?_
    cases hp : s.laneHome r sp (addr l) with
    | none => rfl
    | some p => simp [h l hl p hp]
  rw [State.moveRemote_eq, hfar]
  exact ite_self _

theorem SMap.get?_isSome_of_mem {α : Type} {m : SMap α} {e : Nat × α} (h : e ∈ m) : (SMap.get? m e.1).isSome = true := by
  induction m with
  | nil => cases h
  | cons d m ih =>
    rw [SMap.get?_cons]
    split
    · rfl
    · rcases List.mem_cons.mp h with rfl | h
      · contradiction
      · exact ih h

/-- Lanes none of which is held perform their accesses at once. -/
theorem performHere_same {r : Run} {s : State} {t : ThreadAcc} {items : List CellAcc} (hset : r.set ≠ 0) (hact : r.act ≠ 0) :
    performHere r s s t items = s.performAt r t items := by
  have hks : s.waits.filter (fun e => (SMap.get? s.waits e.1).isNone) = [] := by
    refine List.filter_eq_nil_iff.mpr fun e he => ?_
    simp [Option.ne_none_iff_isSome.mpr (SMap.get?_isSome_of_mem he)]
  unfold performHere
  rw [if_neg hset]
  simp only [hks]
  exact if_neg hact

/-- A sound access meets no sector in error. -/
theorem SoundItems.sectorOf {s : State} {items : List CellAcc} {size : Nat} (h : SoundItems s items size) (hsize : 0 < size) {c : Nat}
    (hc : c ∈ sectorsOf items) : c ∉ s.bad ∧ c ∉ s.soft := by
  obtain ⟨i, hi, rfl⟩ : ∃ i ∈ items, Machine.sectorOf i.2 = c := by simpa [sectorsOf] using hc
  have hin : ¬ (Machine.sectorOf i.2 + 32 ≤ i.2 ∨ i.2 + size ≤ Machine.sectorOf i.2) := by
    unfold Machine.sectorOf
    omega
  exact ⟨fun hbad => hin (h _ (.inl hbad) i hi), fun hsoft => hin (h _ (.inr hsoft) i hi)⟩

theorem sectorsRead_subset {op : ThreadOp} {items : List CellAcc} {c : Nat} (h : c ∈ sectorsRead op items) : c ∈ sectorsOf items := by
  cases op with
  | store sz => exact (List.mem_filter.mp h).1
  | load sz | atom a t | cas w => exact h

/-- A read of sectors none of which is in error counts nothing. -/
theorem State.checkRead_sound {s : State} {sectors : List Nat} (h : ∀ c ∈ sectors, c ∉ s.bad ∧ c ∉ s.soft) : s.checkRead sectors = s := by
  unfold State.checkRead
  refine List.foldlRecOn (motive := fun t => t = s) sectors _ rfl fun t ht c hc => ?_
  obtain ⟨hbad, hsoft⟩ := h c hc
  simp [ht, hbad, hsoft]

theorem State.heal_sound {s : State} {sectors : List Nat} (h : ∀ c ∈ sectors, c ∉ s.bad) : s.heal sectors = s := by
  have hbad : s.bad.filter (fun c => !sectors.contains c) = s.bad := by
    refine List.filter_eq_self.mpr fun c hc => ?_
    simpa using fun hin => h c hin hc
  rw [State.heal, hbad]

/-- A sound access at its home performs its operations, and its results go out. -/
theorem State.performAt_sound {s : State} {r : Run} {t : ThreadAcc} {items : List CellAcc} (h : SoundItems s items t.op.size)
    (hnote : s.noteAtoms t.op r.gid r.g.ctx r.low items = s) :
    s.performAt r t items = r.later { s with mem := (State.performOps t.op items s).1.mem } (t.writes (State.performOps t.op items s).2) 0 := by
  have hsec : ∀ c ∈ sectorsOf items, c ∉ s.bad ∧ c ∉ s.soft := fun c => h.sectorOf t.op.size_pos
  have hread : s.checkRead (sectorsRead t.op items) = s := State.checkRead_sound fun c hc => hsec c (sectorsRead_subset hc)
  have hfail : s.failing t items = [] := by
    refine List.filter_eq_nil_iff.mpr fun i hi => ?_
    have hbad := (hsec (Machine.sectorOf i.2) (by simpa [sectorsOf] using ⟨i.1, i.2, hi, rfl⟩)).1
    simp [hbad]
  have hheal : ∀ m : Memory, ∀ p : Nat → Bool, ({ s with mem := m } : State).heal ((sectorsOf items).filter p) = { s with mem := m } :=
    fun m p => State.heal_sound fun c hc => (hsec c (List.mem_filter.mp hc).1).1
  have hheal0 : ∀ m : Memory, ({ s with mem := m } : State).heal [] = { s with mem := m } := fun m => State.heal_sound nofun
  unfold State.performAt
  simp only [hread, hfail, hnote, ne_eq, not_true_eq_false, if_false]
  rw [State.performOps_sound h]
  cases hop : t.op with
  | store sz => rw [hheal]
  | load sz | atom a b | cas w => rw [hheal0]

theorem memPath_fails {s : State} {r : Run} {sp : Space} {live : BitVec 8} {srcs : List Pos} {addr : Nat → Word} {t : ThreadAcc} {f : MemFail}
    (h : s.memCheck r sp t.op.size true true addr = some f) :
    memPath r s sp live srcs addr t = r.trap s f.cause f.detail (addr (f.lanes.headD 0)) (maskOf f.lanes) := by
  simp only [memPath, h]

/-- THE COMMON PATH OF LOCAL ACCESSES is the operations in lane order and the results that go out. -/
theorem memPath_local {s : State} {r : Run} {sp : Space} {live : BitVec 8} {srcs : List Pos} {addr : Nat → Word} {t : ThreadAcc}
    {data swap : Nat → Nat} {cells : Nat → Nat} (hops : t.ops = laneAccs r addr data swap)
    (hlocal : LocalAccess s r sp t.op.size (if t.op.writes then 1 else 0) addr cells) (hsound : Sound s (lanesOf r.act) cells t.op.size)
    (hset : r.set ≠ 0) (hact : r.act ≠ 0) (hnote : s.noteAtoms t.op r.gid r.g.ctx r.low (laneItems r addr data swap cells) = s) :
    memPath r s sp live srcs addr t =
      r.later { s with mem := (State.performOps t.op (laneItems r addr data swap cells) s).1.mem }
        (t.writes (State.performOps t.op (laneItems r addr data swap cells) s).2) 0 := by
  obtain ⟨hcheck, hlanes⟩ := hlocal
  have hitems : SoundItems s (laneItems r addr data swap cells) t.op.size := by
    intro c hc i hi
    obtain ⟨l, hl, rfl⟩ := List.mem_map.mp hi
    exact hsound c hc l hl
  have hhere : ((laneAccs r addr data swap).filter (fun o => !(0 : Mask).getLsbD o.lane)).map
      (fun o => (o, s.laneAt r sp o.addr (if t.op.writes then 1 else 0))) =
      (laneItems r addr data swap cells).map (fun i => (i.1, AtHome.cell i.2)) := by
    rw [List.filter_eq_self.mpr fun o _ => by simp, laneAccs, laneItems, List.map_map, List.map_map]
    exact List.map_congr_left fun l hl => Prod.ext rfl (hlanes l hl).1
  have hall : ~~~(0 : Mask) = BitVec.allOnes 64 := by decide
  have hkeep : ∀ m : Mask, m &&& ~~~(0 : Mask) &&& ~~~(maskOf []) = m := fun m => by
    rw [show maskOf [] = 0 from rfl, hall, BitVec.and_allOnes, BitVec.and_allOnes]
  have hgo : ({ r with set := r.set &&& ~~~(0 : Mask) &&& ~~~(maskOf []), act := r.act &&& ~~~(0 : Mask) &&& ~~~(maskOf []) } : Run) = r := by
    simp only [hkeep]
  unfold memPath
  rw [hcheck, hops, State.moveRemote_local _ fun l hl => (hlanes l hl).2]
  simp only [hhere]
  simp only [List.any_map, Function.comp_def, reduceCtorEq, decide_false, List.any_eq_true, Bool.false_eq_true, and_false, exists_false, if_false,
    List.filterMap_map, List.filterMap_none, List.filter_map, List.filter_false, List.map_nil, ne_eq, not_true_eq_false, Prod.mk.eta, hgo]
  rw [show s.holdLanes r t _ [] = s from rfl, List.filterMap_some, performHere_same hset hact, State.performAt_sound hitems hnote]

/-! ## Loads, stores and atomics (R123 to R128) -/

/-- A word on the common path whose accesses are local completes: memory is what the operations leave, and the values found go out. -/
theorem exec_local {s : State} {i : Instr} {h : Hd} {r : Run} {sp : Space} {live : BitVec 8} {srcs : List Pos} {addr : Nat → Word} {data swap : Nat → Nat} {op : ThreadOp}
    {dest : Operand} {cells : Nat → Nat} (hi : issues s i = some r)
    (hexec : exec i s = .next { memPath r s sp live srcs addr { op := op, dest := dest, ops := laneAccs r addr data swap } with issuing := none } ∧
      run s h = some r)
    (hlocal : LocalAccess s r sp op.size (if op.writes then 1 else 0) addr cells) (hsound : Sound s (lanesOf r.act) cells op.size)
    (hnote : s.noteAtoms op r.gid r.g.ctx r.low (laneItems r addr data swap cells) = s) (hq : quiet r (nextPc r) = true) :
    ∃ t u, exec i s = .next t ∧
      SentOut { s with mem := (State.performOps op (laneItems r addr data swap cells) s).1.mem } t r u
        (({ op := op, dest := dest, ops := [] } : ThreadAcc).writes (State.performOps op (laneItems r addr data swap cells) s).2) ∧
      Completed r u (nextPc r) [] 0 := by
  obtain ⟨hexec, hr⟩ := hexec
  rw [memPath_local rfl hlocal hsound (issues_set hi) (issues_act hi) hnote] at hexec
  obtain ⟨u, h⟩ := Run.later_from (s := { s with mem := (State.performOps op (laneItems r addr data swap cells) s).1.mem })
    (({ op := op, dest := dest, ops := [] } : ThreadAcc).writes (State.performOps op (laneItems r addr data swap cells) s).2) 0 (run_sub hr) (run_group hr) (run_now hr) hq
  exact ⟨_, u, hexec, h⟩

theorem exec_load {s : State} {i : Instr} {w : FWord} {x : Option XWord} {sp : Space} {r : Run} (hform : loadForm i = some (w, x, sp))
    (hi : issues s i = some r) :
    exec i s = .next { memPath r s sp w.hi [indexPos w] (memAddr w x r)
      { op := .load (szOf w), dest := w.dest, ops := laneAccs r (memAddr w x r) (fun _ => 0) (fun _ => 0) } with issuing := none } ∧
    run s (hdX w x) = some r := by
  cases i <;> cases hform <;> exact exec_issuedMem (needX := false) hi rfl rfl

theorem exec_store {s : State} {i : Instr} {w : FWord} {x : Option XWord} {sp : Space} {r : Run} (hform : storeForm i = some (w, x, sp))
    (hi : issues s i = some r) :
    exec i s = .next { memPath r s sp w.hi [indexPos w, runPos (Pos.src w.c (runAcc (szOf w))) (szOf w)] (memAddr w x r)
      { op := .store (szOf w), dest := .zero, ops := laneAccs r (memAddr w x r) (runValue r w.c (szRegs (szOf w))) (fun _ => 0) } with issuing := none } ∧
    run s (hdX w x) = some r := by
  cases i <;> cases hform <;> exact exec_issuedMem (needX := false) hi rfl rfl

theorem exec_atomic {s : State} {i : Instr} {w : FWord} {x : Option XWord} {op : ThreadOp} {data swap : Run → Nat → Nat} {r : Run}
    (hform : atomForm i = some (w, x, op, data, swap)) (hi : issues s i = some r) :
    ∃ srcs, exec i s = .next { memPath r s .glob w.hi srcs (memAddr w x r)
      { op := op, dest := w.dest, ops := laneAccs r (memAddr w x r) (data r) (swap r) } with issuing := none } ∧ run s (hdX w x) = some r := by
  cases i <;> cases hform <;> exact ⟨_, exec_issuedMem (needX := true) hi rfl rfl⟩

theorem atomForm_writes {i : Instr} {w : FWord} {x : Option XWord} {op : ThreadOp} {data swap : Run → Nat → Nat}
    (hform : atomForm i = some (w, x, op, data, swap)) : op.writes = true := by
  cases i <;> cases hform <;> rfl

/-- The registers that an atomic's findings are written to. -/
theorem atomWrites_eq {i : Instr} {w : FWord} {x : Option XWord} {op : ThreadOp} {data swap : Run → Nat → Nat}
    (hform : atomForm i = some (w, x, op, data, swap)) (olds : List (Nat × Nat)) :
    ({ op := op, dest := w.dest, ops := [] } : ThreadAcc).writes olds =
      (if isS w.dest then dstWrites w.dest true 0 ((olds.head?.map (fun e => e.2)).getD 0)
       else olds.flatMap (fun e => dstWrites w.dest (decide (op.size = 8)) e.1 e.2)) := by
  cases i <;> cases hform <;> rfl

/-- Masts whose journals record no atomics take no entry. -/
theorem State.noteAtoms_unrecorded {s : State} (op : ThreadOp) {r : Run} {gid ctx lane : Nat} {addr : Nat → Word} {data swap cells : Nat → Nat}
    (h : ∀ l ∈ lanesOf r.act, cellMast (sectorOf (cells l)) / 16 = s.dev ∧ (s.jrnOf (cellMast (sectorOf (cells l)) % 16)).atom = false) :
    s.noteAtoms op gid ctx lane (laneItems r addr data swap cells) = s := by
  have hfold : (sectorsOf (laneItems r addr data swap cells)).foldl (fun t c => t.noteAtom ctx (t.requester gid lane) c) s = s := by
    refine List.foldlRecOn (motive := fun t => t = s) _ _ rfl fun t ht c hc => ?_
    obtain ⟨l, hl, rfl⟩ : ∃ l ∈ lanesOf r.act, sectorOf (cells l) = c := by simpa [sectorsOf, laneItems] using hc
    obtain ⟨hdev, hatom⟩ := h l hl
    subst ht
    unfold State.noteAtom
    simp only [hdev]
    rw [State.on_self _ _ (by simp [hatom])]
    simp [hatom]
  cases op with
  | load sz | store sz => rfl
  | atom a b | cas b => exact hfold

/-- A word's results going out leave memory alone. -/
theorem SentOut.mem_eq {s t : State} {r : Run} {u : SubGroup} {ws : List (Reg × Word)} (h : SentOut s t r u ws) : t.mem = s.mem := by
  unfold SentOut at h
  split_ifs at h
  · rw [h]
  · rw [h]

/-- The registers that a load's findings are written to. -/
theorem loadWrites_eq (s : State) {r : Run} (w : FWord) {addr : Nat → Word} (cells : Nat → Nat) (hact : r.act ≠ 0) :
    loadWrites s r w cells = ({ op := .load (szOf w), dest := w.dest, ops := [] } : ThreadAcc).writes
      ((laneItems r addr (fun _ => 0) (fun _ => 0) cells).map (fun i => (i.1.lane, s.num i.2 (szBytes (szOf w))))) := by
  obtain ⟨l, ls, hlanes⟩ := List.exists_cons_of_ne_nil (lanesOf_ne_nil hact)
  simp [loadWrites, ThreadAcc.writes, laneItems, Run.low, lowest, hlanes, List.flatMap_map]

end Sys2Proof.Machine
end

section
namespace Sys2Proof
open Machine Safety

/-- Settles O18: a load's operations find what stands at the places and change nothing. -/
theorem loadWords : Obligations.LoadWords := by
  intro s i w x sp r cells hform hi hlocal hsound hq
  obtain ⟨t, u, hexec, hsent, hdone⟩ := exec_local hi (exec_load hform hi) hlocal hsound rfl hq
  rw [State.performOps_load, ← loadWrites_eq s w cells (issues_act hi)] at hsent
  exact ⟨t, u, hexec, hsent, hdone⟩

/-- Settles O19: the operations of a store are its writes of memory in lane order, the last of which at a place stands there. -/
theorem storeWords : Obligations.StoreWords := by
  intro s i w x sp r cells n v hform hi hlocal hsound hq
  obtain ⟨t, u, hexec, hsent, hdone⟩ := exec_local hi (exec_store hform hi) hlocal hsound rfl hq
  have ht : t = { s with mem := (State.performOps (.store (szOf w)) (laneItems r (memAddr w x r) v (fun _ => 0) cells) s).1.mem,
                         subs := SMap.put s.subs r.sid u, issuing := none } := hsent
  refine ⟨t, u, hexec, hdone, ?_, fun a ha => ?_, fun l hl hlast => ?_⟩
  · rw [ht, State.performOps_store_mem, laneItems, List.foldl_map]
  · rw [ht]
    exact State.performOps_outside s ha
  · obtain ⟨pre, post, hsplit, hpost⟩ := lanesOf_split hl
    rw [ht, laneItems, hsplit, List.map_append, List.map_cons]
    refine (State.num_congr fun _ _ _ => rfl).trans (State.performOps_store_num s fun j hj => ?_)
    obtain ⟨k, hk, rfl⟩ := List.mem_map.mp hj
    exact hlast k (by simp [hsplit, hk]) (hpost k hk)

/-- Settles O20: no journal takes the operations, which change memory alone; at one place each finds what the one before it left. -/
theorem atomicWords : Obligations.AtomicWords := by
  refine ⟨?_, ?_⟩
  · intro s i w x op data swap r cells out hform hi hlocal hsound hmasts hq
    obtain ⟨srcs, hexec⟩ := exec_atomic hform hi
    have hwrites : op.writes = true := atomForm_writes hform
    obtain ⟨t, u, hexec, hsent, hdone⟩ := exec_local hi hexec (by rwa [hwrites]) hsound (State.noteAtoms_unrecorded op hmasts) hq
    rw [atomWrites_eq hform] at hsent
    refine ⟨t, u, hexec, hdone, hsent, fun a ha => ?_⟩
    rw [SentOut.mem_eq hsent]
    exact State.performOps_outside s ha
  · intro s op cell xs hinv
    obtain ⟨hplace, hkeeps⟩ := State.performOps_place (op := op) (cell := cell) xs [] hinv
    refine ⟨congrArg Prod.fst hplace.symm, congrArg Prod.snd hplace.symm, hkeeps, fun a ha => State.performOps_other s fun i hi => ?_⟩
    obtain ⟨o, -, rfl⟩ := List.mem_map.mp hi
    exact ha

/-- Settles O21: the checks stand first on the common path. -/
theorem memoryChecks : Obligations.MemoryChecks := by
  intro s i w x sp wr r f hform hi hfail
  cases wr with
  | true =>
    obtain ⟨hexec, -⟩ := exec_store hform hi
    rw [hexec, memPath_fails (t := { op := .store (szOf w), dest := .zero, ops := _ }) hfail]
  | false =>
    obtain ⟨hexec, -⟩ := exec_load hform hi
    rw [hexec, memPath_fails (t := { op := .load (szOf w), dest := w.dest, ops := _ }) hfail]

end Sys2Proof
end

section
/-! # Streams that open and close (O25, O27) -/

namespace Sys2Proof.Machine

open Sys2Proof Sys2Proof.Safety

/-- A stream that its station has room for, with no fault in its descriptor, opens, and the status goes out (R134, R135). -/
theorem openStream_opens {s : State} {r : Run} {w : FWord} {q : Stream} {bind : Group → Group} (hhere : s.allHere r = true)
    (hroom : s.depthUsed r.sg.mast r.sg.stn + q.depth ≤ 4096) :
    openStream r s w false q bind =
      r.later (s.updGroup r.gid (fun g => bind { g with streams := SMap.put g.streams (qNum w.dest) q })) (dstWrites w.c true 0 0) 0 := by
  unfold openStream
  rw [hhere, if_neg (by simp), if_neg (by simp), if_neg (by omega)]

/-- A change of a group's record is to what it makes of the record that stands there. -/
theorem State.updGroup_const {s : State} {gid : Nat} {g : Group} {f : Group → Group} (h : SMap.get? s.groups gid = some g) :
    s.updGroup gid f = s.updGroup gid (fun _ => f g) := by
  rw [State.updGroup_of_get? f h, State.updGroup_of_get? _ h]

/-- The affine stream of a descriptor (R134). -/
def walkStream (r : Run) (d : Nat → Word) : Stream :=
  { mast := r.sg.mast, stn := r.sg.stn, ind := false, base := d 0, n0 := fieldOf (d 1) 0 32, n1 := fieldOf (d 1) 32 32, n2 := fieldOf (d 2) 0 32,
    st0 := d 3, st1 := d 4, st2 := d 5, esz := BitVec.ofNat 3 (fieldOf (d 2) 44 3), depth := depthOf (d 2), sc := 0, qi := none, bound := false,
    desc := (List.range 6).map d, pos := 0, e := 0, got := [], secs := [], reqs := [] }

/-- What QCFG refuses in its stream register and its descriptor (R134). -/
def walkBad (r : Run) (w : FWord) (d : Nat → Word) : Bool :=
  let q := walkStream r d
  let odd := fun (x : Word) => decide (x.toNat % szBytes (fieldOf (d 2) 44 3) ≠ 0)
  (SMap.get? r.g.streams (qNum w.dest)).isSome || decide (q.n0 = 0) || decide (q.n1 = 0) || decide (q.n2 = 0) ||
    decide (q.n0 * q.n1 * q.n2 ≥ 2 ^ 32) || decide (fieldOf (d 2) 44 3 > 5) || decide (fieldOf (d 2) 47 17 ≠ 0) || odd (d 0) || odd (d 3) || odd (d 4) ||
    odd (d 5)

theorem walkBad_good {r : Run} {w : FWord} {d : Nat → Word} (hclosed : SMap.get? r.g.streams (qNum w.dest) = none) (hgood : GoodWalk d) :
    walkBad r w d = false := by
  obtain ⟨h0, h1, h2, htotal, hsize, hresv, hbase, hst0, hst1, hst2⟩ := hgood
  have h0 : fieldOf (d 1) 0 32 ≠ 0 := h0
  have h1 : fieldOf (d 1) 32 32 ≠ 0 := h1
  have h2 : fieldOf (d 2) 0 32 ≠ 0 := h2
  have htotal : fieldOf (d 1) 0 32 * fieldOf (d 1) 32 32 * fieldOf (d 2) 0 32 < 2 ^ 32 := htotal
  simp only [walkBad, walkStream, hclosed, Option.isSome_none, h0, h1, h2, Nat.not_le.mpr htotal, Nat.not_lt.mpr hsize, hresv, hbase, hst0, hst1, hst2, ne_eq,
    not_true_eq_false, decide_false, Bool.or_false]

theorem exec_qcfg {s : State} {w : FWord} {r : Run} (hi : issues s (.qcfg w) = some r) :
    exec (.qcfg w) s =
      .next { openStream r s w (walkBad r w (descOf r w.a)) (walkStream r (descOf r w.a)) (fun g => g) with issuing := none } ∧
    run s (hdX w none) = some r :=
  exec_issuedF (g := qcfgSig w) (body := fun r s => openStream r s w (walkBad r w (descOf r w.a)) (walkStream r (descOf r w.a)) (fun g => g)) hi rfl rfl

/-- The indirect stream of a descriptor over an index stream (R135). -/
def indexedStream (d : Nat → Word) (k : Nat) (b : Stream) : Stream :=
  { b with ind := true, base := d 0, esz := BitVec.ofNat 3 (fieldOf (d 1) 0 3), depth := depthOf (d 1), sc := fieldOf (d 1) 4 2, qi := some k, bound := false,
           desc := [d 0, d 1], pos := 0, e := 0, got := [], secs := [], reqs := [] }

/-- What QIDX refuses in its index stream, its stream register and its descriptor (R135). -/
def indexBad (r : Run) (w : FWord) (d : Nat → Word) (b : Stream) : Bool :=
  b.ind || b.bound || (SMap.get? r.g.streams (qNum w.dest)).isSome || decide (fieldOf (d 1) 0 3 > 5) || decide (fieldOf (d 1) 44 20 ≠ 0) ||
    decide (fieldOf (d 1) 6 26 ≠ 0) || (d 1).getLsbD 3

/-- A group one of whose streams becomes an index stream. -/
def Group.bindStream (g : Group) (k : Nat) : Group := { g with streams := SMap.upd g.streams k (fun b => { b with bound := true }) }

theorem exec_qidx {s : State} {w : FWord} {r : Run} {b : Stream} (hi : issues s (.qidx w) = some r) (hb : SMap.get? r.g.streams (qNum w.b) = some b) :
    exec (.qidx w) s =
      .next { openStream r s w (indexBad r w (descOf r w.a) b) (indexedStream (descOf r w.a) (qNum w.b) b) (fun g => g.bindStream (qNum w.b))
        with issuing := none } ∧
    run s (hdX w none) = some r := by
  have he : exec (.qidx w) s = execQidx w s := rfl
  unfold execQidx at he
  obtain ⟨hexec, hr⟩ := exec_issuedF hi rfl he
  refine ⟨hexec.trans ?_, hr⟩
  simp only [hb]
  rfl

theorem fieldOf_lt {n : Nat} (x : BitVec n) (lo w : Nat) : fieldOf x lo w < 2 ^ w := Nat.mod_lt _ (Nat.two_pow_pos w)

/-- A stream register's element size is the descriptor's three bits. -/
theorem toNat_ofNat_fieldOf {n : Nat} (x : BitVec n) (lo : Nat) : (BitVec.ofNat 3 (fieldOf x lo 3)).toNat = fieldOf x lo 3 := by
  rw [BitVec.toNat_ofNat, Nat.mod_eq_of_lt (fieldOf_lt x lo 3)]

/-- QCLOSE takes its stream from its group, and the index stream under it (R137). -/
def Group.closeStream (g : Group) (k : Nat) (qi : Option Nat) : Group :=
  { g with streams := match qi with | some j => SMap.del (SMap.del g.streams k) j | none => SMap.del g.streams k }

theorem Group.closeStream_get? (g : Group) (k : Nat) (qi : Option Nat) (j : Nat) :
    SMap.get? (g.closeStream k qi).streams j = if j = k ∨ qi = some j then none else SMap.get? g.streams j := by
  cases qi with
  | none => simp [closeStream, SMap.get?_del, eq_comm]
  | some i =>
    by_cases hi : i = j
    · simp [closeStream, SMap.get?_del, hi]
    · simp [closeStream, SMap.get?_del, hi, eq_comm (a := j)]

theorem exec_qclose {s : State} {w : FWord} {r : Run} {q : Stream} (hi : issues s (.qclose w) = some r) (hopen : SMap.get? r.g.streams (qNum w.a) = some q) :
    exec (.qclose w) s = .next { r.done (s.updGroup r.gid (fun g => g.closeStream (qNum w.a) q.qi)) with issuing := none } ∧ run s (hdX w none) = some r := by
  have he : exec (.qclose w) s = execQclose w s := rfl
  unfold execQclose at he
  obtain ⟨hexec, hr⟩ := exec_issuedF hi rfl he
  refine ⟨hexec.trans ?_, hr⟩
  simp only [hopen, Option.bind_some]
  rfl

end Sys2Proof.Machine
end

section
namespace Sys2Proof
open Machine Safety

/-- Settles O25: descriptors with no fault open their streams. -/
theorem openStreams : Obligations.OpenStreams := by
  refine ⟨?_, ?_⟩
  · intro s w r d hi hhere hclosed hgood hroom hq
    obtain ⟨hexec, hr⟩ := exec_qcfg hi
    rw [walkBad_good hclosed hgood, openStream_opens hhere hroom] at hexec
    obtain ⟨u, hsent, hdone⟩ := Run.later_afterGroup (fun g => { g with streams := SMap.put g.streams (qNum w.dest) (walkStream r d) }) (dstWrites w.c true 0 0) 0
      hr hq
    exact ⟨_, u, walkStream r d, hexec, hdone, hsent, rfl, rfl, rfl, rfl, rfl, rfl, rfl, rfl, rfl, toNat_ofNat_fieldOf _ _, rfl, rfl, rfl, rfl, rfl, rfl, rfl,
      rfl, rfl⟩
  · intro s w r b d hi hhere hb hind hbound hclosed hsize hhigh hmid hbit hroom hq
    have hgood : indexBad r w d b = false := by
      simp only [indexBad, hind, hbound, hclosed, Nat.not_lt.mpr hsize, hhigh, hmid, hbit, Option.isSome_none, ne_eq, not_true_eq_false, 
        decide_false, Bool.or_false]
    obtain ⟨hexec, hr⟩ := exec_qidx hi hb
    rw [hgood, openStream_opens hhere hroom, State.updGroup_const (run_group hr)] at hexec
    obtain ⟨u, hsent, hdone⟩ := Run.later_afterGroup
      (fun _ => Group.bindStream { r.g with streams := SMap.put r.g.streams (qNum w.dest) (indexedStream d (qNum w.b) b) } (qNum w.b))
      (dstWrites w.c true 0 0) 0 hr hq
    have hne : qNum w.dest ≠ qNum w.b := fun h => by rw [h, hb] at hclosed; cases hclosed
    have hput : SMap.get? (SMap.put r.g.streams (qNum w.dest) (indexedStream d (qNum w.b) b)) (qNum w.b) = some b := by rw [SMap.get?_put_ne _ _ hne, hb]
    refine ⟨_, u, indexedStream d (qNum w.b) b,
      Group.bindStream { r.g with streams := SMap.put r.g.streams (qNum w.dest) (indexedStream d (qNum w.b) b) } (qNum w.b), hexec, hdone, hsent, ?_, ?_, ?_,
      rfl, rfl, rfl, toNat_ofNat_fieldOf _ _, rfl, rfl, rfl, rfl, rfl, rfl, rfl, rfl, rfl, rfl⟩
    · rw [Group.bindStream, SMap.upd_some _ _ _ _ hput, SMap.get?_put_ne _ _ hne.symm, SMap.get?_put_same]
    · rw [Group.bindStream, SMap.upd_some _ _ _ _ hput, SMap.get?_put_same]
    · intro k hdest hindex
      rw [Group.bindStream, SMap.upd_some _ _ _ _ hput, SMap.get?_put_ne _ _ hindex.symm, SMap.get?_put_ne _ _ hdest.symm]

/-- Settles O27: the streams go from the group's record, and the word completes. -/
theorem streamClose : Obligations.StreamClose := by
  intro s w r q hi hopen hq
  obtain ⟨hexec, hr⟩ := exec_qclose hi hopen
  have hs : s.updGroup r.gid (fun g => g.closeStream (qNum w.a) q.qi) = { s with groups := SMap.put s.groups r.gid (r.g.closeStream (qNum w.a) q.qi) } :=
    State.updGroup_of_get? _ (run_group hr)
  rw [hs] at hexec
  obtain ⟨u, honly, hdone⟩ := Run.done_completed (s := { s with groups := SMap.put s.groups r.gid (r.g.closeStream (qNum w.a) q.qi) }) 
    (show SMap.get? s.subs r.sid = some r.sg from run_sub hr) (Written.refl r.sg) (show r.now = (s.stn r.sg.mast r.sg.stn).cycles from run_now hr) hq
  exact ⟨_, u, r.g.closeStream (qNum w.a) q.qi, hexec, hdone, honly, rfl, Group.closeStream_get? r.g (qNum w.a) q.qi⟩

end Sys2Proof
end

section
/-! # Lanes that leave for their home (O23) -/

namespace Sys2Proof.Machine

open Sys2Proof Sys2Proof.Safety

/-- The distinct values of a function that is constant on some elements. -/
theorem dedup_map_const {α β : Type} [DecidableEq β] {xs : List α} {f : α → β} {b : β} (hne : xs ≠ []) (h : ∀ x ∈ xs, f x = b) :
    (xs.map f).dedup = [b] := by
  have hrep : xs.map f = List.replicate xs.length b :=
    (List.map_congr_left h).trans List.map_const'
  rw [hrep, List.replicate_dedup (by simpa using hne)]

/-- The copy of some lanes that travels: they are ready, with what their turn left them taken off, and the vector registers are those of LIVE (R219). -/
def leavingSub (sg : SubGroup) (lanes : Mask) (live : BitVec 8) : SubGroup :=
  let part : SubGroup := { ((sg.keepLanes lanes).keepWindows live).settle lanes with armed := none }
  { part.mapLanes lanes (fun l => { l with st := .ready, rel := none, refuse := none }) with stale := [] }

theorem leavingSub_get? (sg : SubGroup) {lanes : Mask} (live : BitVec 8) {l : Nat} (hl : lanes.getLsbD l = true) :
    SMap.get? (leavingSub sg lanes live).lanes l = (SMap.get? sg.lanes l).map (fun x => { x with st := .ready, rel := none, refuse := none }) := by
  refine (SubGroup.mapLanes_get? _ lanes (fun l => { l with st := .ready, rel := none, refuse := none }) l).trans ?_
  show (SMap.get? (sg.keepLanes lanes).lanes l).map _ = _
  rw [SubGroup.keepLanes_get?, if_pos hl, hl]
  rfl

/-- The image of some lanes of a sub-group that are about to leave for a place; it waits for the results that it must carry (R216, R220). -/
def State.leavingImage (s : State) (sid : Nat) (sg : SubGroup) (g : Group) (lanes : Mask) (kind : BitVec 4) (live : BitVec 8) (dev m n : Nat) : Image :=
  let own := live &&& BitVec.ofNat 8 (2 ^ g.wins - 1)
  { kind := kind, live := own, sg := leavingSub sg lanes own,
    held := false, halted := false, smast := sg.mast, sstn := sg.stn, sid0 := sid, tdev := dev, tmast := m, tstn := n, arr := 0,
    awaits := (g.outst.filter (s.outstFor sg.gid sid lanes)).map (fun o => o.id), phase := .departing, refuse := 0, restored := false, streams := [],
    bundle := none }

@[simp] theorem State.countWait_images (s : State) (sid : Nat) (lanes : Mask) : (s.countWait sid lanes).images = s.images := by
  unfold State.countWait
  split <;> rfl

/-- An image forms under the next identifier. -/
theorem State.formImage_images {s : State} {sid : Nat} {sg : SubGroup} {g : Group} (lanes : Mask) (kind : BitVec 4) (live : BitVec 8) (dev m n : Nat)
    (hsub : SMap.get? s.subs sid = some sg) (hg : SMap.get? s.groups sg.gid = some g) :
    (s.formImage sid lanes kind live dev m n).images = SMap.put s.images s.nextId (s.leavingImage sid sg g lanes kind live dev m n) := by
  unfold State.formImage
  simp only [hsub, hg]
  exact State.countWait_images ..

/-- The lanes of an image that forms stand in transit. -/
theorem State.formImage_subs {s : State} {sid : Nat} {sg : SubGroup} {g : Group} (lanes : Mask) (kind : BitVec 4) (live : BitVec 8) (dev m n : Nat)
    (hsub : SMap.get? s.subs sid = some sg) (hg : SMap.get? s.groups sg.gid = some g) :
    (s.formImage sid lanes kind live dev m n).subs = SMap.put s.subs sid (sg.setSt lanes .transit) := by
  unfold State.formImage
  simp only [hsub, hg]
  show SMap.upd (State.countWait _ _ _).subs _ _ = _
  rw [State.countWait_subs]
  exact SMap.upd_some _ _ _ _ hsub

/-- Lanes with one meeting address leave in one image (R216). -/
theorem State.departTo_one {s : State} {sid : Nat} {sg : SubGroup} {lanes : Mask} {meet : Word} (kind : BitVec 4) (live : BitVec 8) (dev m n : Nat)
    (hsub : SMap.get? s.subs sid = some sg) (hne : lanes ≠ 0)
    (hmeet : ∀ l, lanes.getLsbD l = true → (SMap.get? sg.lanes l).map (fun y => y.meet) = some meet)
    (hall : ∀ e ∈ sg.lanes, lanes.getLsbD e.1 = true ∧ SMap.get? sg.lanes e.1 = some e.2) :
    s.departTo sid lanes kind live dev m n = s.formImage sid lanes kind live dev m n := by
  have hat : ∀ e ∈ sg.lanes, e.2.meet = meet := fun e he => by simpa [(hall e he).2] using hmeet e.1 (hall e he).1
  have hfilter : sg.lanes.filter (fun e => lanes.getLsbD e.1) = sg.lanes := List.filter_eq_self.mpr fun e he => (hall e he).1
  have hlanes : sg.lanes ≠ [] := by
    obtain ⟨l, hl⟩ := List.exists_mem_of_ne_nil _ (lanesOf_ne_nil hne)
    rintro hnil
    simpa [hnil] using hmeet l ((mem_lanesOf lanes l).mp hl)
  have hmask : lanes &&& sg.laneMask (fun l => decide (l.meet = meet)) = lanes := by
    refine BitVec.eq_of_getLsbD_eq fun l hl => ?_
    rw [BitVec.getLsbD_and, Bool.and_eq_left_iff_imp, getLsbD_laneMask]
    intro hset
    obtain ⟨y, hy, hym⟩ := Option.map_eq_some_iff.mp (hmeet l hset)
    exact ⟨hl, y, SMap.mem_of_get? _ _ _ hy, by simpa using hym⟩
  unfold State.departTo
  simp only [hsub, hfilter, dedup_map_const hlanes hat, List.foldl_cons, List.foldl_nil, hmask]

/-- Lanes with one home elsewhere all leave for it. -/
theorem State.moveRemote_one {s : State} {r : Run} {sp : Space} {addr : Nat → Word} {h : Nat × Nat × Nat} (live : BitVec 8) (hw : r.g.walker = false)
    (hact : r.act ≠ 0) (hhome : ∀ l ∈ lanesOf r.act, s.laneHome r sp (addr l) = some h) (haway : isHere r.sg h = false) :
    s.moveRemote r sp live addr = (s.departTo r.sid r.act 1 live h.1 h.2.1 h.2.2, r.act) := by
  have hfar : s.farLanes r sp addr = (lanesOf r.act).map (fun l => (l, h)) := by
    rw [State.farLanes, ← List.filterMap_eq_map]
    exact List.filterMap_congr fun l hl => by simp [hhome l hl, haway]
  have hhomes : ((s.farLanes r sp addr).map (fun e => e.2)).dedup = [h] :=
    dedup_map_const (by simpa [hfar] using lanesOf_ne_nil hact) fun e he => by
      obtain ⟨l, -, rfl⟩ := List.mem_map.mp (hfar ▸ he)
      rfl
  have hlanes : maskOf ((s.farLanes r sp addr).map (fun e => e.1)) = r.act := by simp [hfar, Function.comp_def]
  have hsame : (s.farLanes r sp addr).filter (fun e => decide (e.2 = h)) = s.farLanes r sp addr :=
    List.filter_eq_self.mpr fun e he => by
      obtain ⟨l, -, rfl⟩ := List.mem_map.mp (hfar ▸ he)
      simp
  rw [State.moveRemote_eq, hw, if_neg (by simp), hhomes, hlanes, List.foldl_cons, List.foldl_nil, hsame, hlanes]

/-- A word that no lane completes, in a sub-group no lane of which is ready, changes nothing but what old values are kept (R72). -/
theorem State.retire_none {s : State} {sid : Nat} {u : SubGroup} (stall len : Nat) (iw xw : Word) (hu : SMap.get? s.subs sid = some u)
    (hst : ∀ e ∈ u.lanes, e.2.st ≠ .ready) :
    s.retire sid 0 stall len iw xw = { s with subs := SMap.put s.subs sid (u.prune (s.stn u.mast u.stn).cycles) } := by
  have hadv : ∀ pc tpc, s.advance sid 0 stall len pc tpc iw xw = { s with subs := SMap.put s.subs sid (u.prune (s.stn u.mast u.stn).cycles) } := by
    intro pc tpc
    have hsame : u.lanes.map (fun e => if (0 : Mask).getLsbD e.1 then
        (e.1, { e.2 with pc := pc e.1, st := .ready, dist := e.2.dist + max stall 1, readyAt := (s.stn u.mast u.stn).cycles + max stall 1,
                         since := (s.stn u.mast u.stn).cycles + max stall 1, starve := 0, yield := false, rel := none, refuse := none })
        else e) = u.lanes := by simp
    unfold State.advance
    simp only [hu, hsame]
    rw [State.updSub_of_get? _ hu]
    exact if_pos BitVec.zero_and
  unfold State.retire State.retireAt
  simp only [hu, hadv]
  exact State.holdReadyBy_of_none (SMap.get?_put_same ..) fun e he h => hst e he h.1

end Sys2Proof.Machine
end

section
namespace Sys2Proof
open Machine Safety

/-- Settles O23: the lanes form one image, and no lane is left to complete the word. -/
theorem migrateAway : Obligations.MigrateAway := by
  intro s w x r h meet hi hcheck hw hact hlanes hall haway
  obtain ⟨hexec, hr⟩ := exec_issuedMem (needX := false) (body := fun r s => migrPath r s .glob w.hi [indexPos w] (memAddr w x r)) hi rfl rfl
  have hne := issues_act hi
  have hhome : ∀ l ∈ lanesOf r.act, s.laneHome r .glob (memAddr w x r l) = some h := fun l hl => (hlanes l hl).1
  have hmeet : ∀ l, r.act.getLsbD l = true → (SMap.get? r.sg.lanes l).map (fun y => y.meet) = some meet :=
    fun l hl => (hlanes l ((mem_lanesOf _ _).mpr hl)).2
  have hnone : r.set &&& ~~~r.act = 0 := by rw [hact, BitVec.and_not_self]
  have hgrp : SMap.get? s.groups r.sg.gid = some r.g := run_gid hr ▸ run_group hr
  have hsub : SMap.get? (s.formImage r.sid r.act 1 (w.hi ||| srcWindows [indexPos w]) h.1 h.2.1 h.2.2).subs r.sid = some (r.sg.setSt r.act .transit) := by
    rw [State.formImage_subs r.act 1 _ h.1 h.2.1 h.2.2 (run_sub hr) hgrp, SMap.get?_put_same]
  have hpath : migrPath r s .glob w.hi [indexPos w] (memAddr w x r) =
      (s.formImage r.sid r.act 1 (w.hi ||| srcWindows [indexPos w]) h.1 h.2.1 h.2.2).retire r.sid 0 r.stall r.len r.iw r.xw := by
    unfold migrPath
    simp only [hcheck, hw, Bool.false_and, Bool.false_eq_true, if_false]
    rw [State.moveRemote_one _ hw hne hhome haway, State.departTo_one 1 _ h.1 h.2.1 h.2.2 (run_sub hr) hne hmeet hall]
    simp only [Run.done, hnone]
  have htransit : ∀ e ∈ (r.sg.setSt r.act .transit).lanes, e.2.st ≠ .ready := by
    intro e he
    obtain ⟨d, hd, rfl⟩ := List.mem_map.mp (show e ∈ List.map _ r.sg.lanes from he)
    rw [if_pos (hall d hd).1]
    exact nofun
  rw [hpath, State.retire_none _ _ _ _ hsub htransit] at hexec
  refine ⟨_, s.leavingImage r.sid r.sg r.g r.act 1 (w.hi ||| srcWindows [indexPos w]) h.1 h.2.1 h.2.2, hexec, ?_, rfl, rfl, rfl, rfl, rfl, rfl, rfl,
    State.formImage_mem .., fun l hl => ?_⟩
  · exact (congrArg (SMap.get? · s.nextId) (State.formImage_images r.act 1 _ h.1 h.2.1 h.2.2 (run_sub hr) hgrp)).trans (SMap.get?_put_same ..)
  · obtain ⟨z, hz, -⟩ := Option.map_eq_some_iff.mp (hmeet l hl)
    refine ⟨_, { z with st := .transit }, z, SMap.get?_put_same .., ?_, rfl, hz, rfl, { z with st := .ready, rel := none, refuse := none }, ?_, rfl⟩
    · show SMap.get? (r.sg.setSt r.act .transit).lanes l = _
      rw [SubGroup.setSt_get?, hz, Option.map_some, if_pos hl]
    · exact (leavingSub_get? r.sg _ hl).trans (by rw [hz]; rfl)

end Sys2Proof
end

section
/-! # Posted operations at their issue (O22)

A POST or RED sends one message for each sector and home that its lanes name, and counts its lanes in each (R129, R139). -/

namespace Sys2Proof.Machine

open Sys2Proof Sys2Proof.Safety

/-- A home and a sector there: what the operations of one message have in common. -/
abbrev PostKey := (Nat × Nat × Nat) × Nat

/-- The lanes' operations with their homes and sectors (R129). -/
def State.postTags (s : State) (r : Run) (addr : Nat → Word) (data : Nat → Nat) : List (PostKey × LaneAcc) :=
  (laneAccs r addr data (fun _ => 0)).filterMap (fun o => (s.laneHome r .glob o.addr).map (fun h =>
    ((h, (s.dirOf r o.addr).toNat / 32), { o with addr := s.dirOf r o.addr })))

/-- The operations of one message. -/
def postBatch (tags : List (PostKey × LaneAcc)) (k : PostKey) : List LaneAcc := (tags.filter (fun e => decide (e.1 = k))).map (fun e => e.2)

/-- The messages of a word, sent one after another. -/
def State.posts (s : State) (r : Run) (red : Option (Nat × Nat)) (size : Nat) (tags : List (PostKey × LaneAcc)) (keys : List PostKey) : State :=
  keys.foldl (fun t k => t.sendPosted r red size (postBatch tags k) k.1) s

/-- How far a key's home lies from the group's crew (R139). -/
def State.keyReach (s : State) (r : Run) (k : PostKey) : Nat := s.reachOf r.g k.1.2.1 k.1.2.2

/-- The message of some operations. -/
def State.postMsg (s : State) (r : Run) (red : Option (Nat × Nat)) (size : Nat) (ops : List LaneAcc) (k : PostKey) : Msg :=
  { src := stnPort r.sg.mast r.sg.stn
    dst := if k.1.2.2 = 64 then mastPort k.1.2.1 else stnPort k.1.2.1 k.1.2.2
    body := .posted r.gid r.g.ctx red size ops (s.keyReach r k)
      (if r.g.walker then some (XlReq.mk' r.g.ctx (((ops.head?).map (fun o => o.addr)).getD 0) 3) else none) }

/-- A group with some operations of a reach counted on path 1 (R139). -/
def Group.counted (g : Group) (reach n : Nat) : Group :=
  { g with counts := RMap.set g.counts (4 + reach) (RMap.get g.counts (4 + reach) + BitVec.ofNat 32 n) }

theorem Group.counted_get (g : Group) (reach n k : Nat) :
    RMap.get (g.counted reach n).counts (4 + k) = if reach = k then RMap.get g.counts (4 + k) + BitVec.ofNat 32 n else RMap.get g.counts (4 + k) := by
  by_cases h : reach = k <;> simp [Group.counted, RMap.get_set, h]

/-- One message goes out under the next identifier, its operations counted. -/
theorem State.sendPosted_eq {s : State} {r : Run} {g : Group} (red : Option (Nat × Nat)) (size : Nat) (ops : List LaneAcc) (k : PostKey)
    (hg : SMap.get? s.groups r.gid = some g) :
    s.sendPosted r red size ops k.1 = { s with
      groups := SMap.put s.groups r.gid (g.counted (s.keyReach r k) ops.length)
      msgs := SMap.put s.msgs s.nextId (s.postMsg r red size ops k)
      nextId := s.nextId + 1 } := by
  unfold State.sendPosted State.countOp
  dsimp only
  rw [State.updGroup_of_get? _ hg]
  rfl

/-- Sending changes the group's counts, the messages and the identifiers alone. -/
theorem State.posts_same {s : State} {r : Run} {red : Option (Nat × Nat)} {size : Nat} {tags : List (PostKey × LaneAcc)} {keys : List PostKey} {g : Group}
    (hg : SMap.get? s.groups r.gid = some g) : ∃ gs ms n, s.posts r red size tags keys = { s with groups := gs, msgs := ms, nextId := n } := by
  induction keys generalizing s g with
  | nil => exact ⟨s.groups, s.msgs, s.nextId, rfl⟩
  | cons k keys ih =>
    rw [State.posts, List.foldl_cons, State.sendPosted_eq red size _ k hg]
    exact ih (SMap.get?_put_same ..)

/-- Each reach counts the operations of its messages. -/
theorem State.posts_counts {s : State} {r : Run} {red : Option (Nat × Nat)} {size : Nat} {tags : List (PostKey × LaneAcc)} {keys : List PostKey} {g : Group}
    (hg : SMap.get? s.groups r.gid = some g) :
    ∃ g', SMap.get? (s.posts r red size tags keys).groups r.gid = some g' ∧ ∀ k, RMap.get g'.counts (4 + k) = RMap.get g.counts (4 + k) +
      BitVec.ofNat 32 ((keys.filter (fun key => decide (s.keyReach r key = k))).map (fun key => (postBatch tags key).length)).sum := by
  induction keys generalizing s g with
  | nil => exact ⟨g, hg, fun k => by simp⟩
  | cons key keys ih =>
    rw [State.posts, List.foldl_cons, State.sendPosted_eq red size _ key hg]
    obtain ⟨g', hg', hcounts⟩ := ih (s := { s with groups := _, msgs := _, nextId := _ }) (SMap.get?_put_same s.groups r.gid _)
    refine ⟨g', hg', fun k => (hcounts k).trans ?_⟩
    show _ + BitVec.ofNat 32 ((keys.filter (fun key => decide (s.keyReach r key = k))).map _).sum = _
    rw [Group.counted_get, List.filter_cons]
    by_cases hk : s.keyReach r key = k
    · simp only [hk, if_true, decide_true, List.map_cons, List.sum_cons, BitVec.ofNat_add, BitVec.add_assoc]
    · simp only [hk, if_false, decide_false, Bool.false_eq_true]

/-- Messages sent before stand. -/
theorem State.posts_older {s : State} {r : Run} {red : Option (Nat × Nat)} {size : Nat} {tags : List (PostKey × LaneAcc)} {keys : List PostKey} {g : Group}
    (hg : SMap.get? s.groups r.gid = some g) {j : Nat} (hj : j < s.nextId) : SMap.get? (s.posts r red size tags keys).msgs j = SMap.get? s.msgs j := by
  induction keys generalizing s g with
  | nil => rfl
  | cons k keys ih =>
    rw [State.posts, List.foldl_cons, State.sendPosted_eq red size _ k hg]
    refine (ih (SMap.get?_put_same ..) (show j < s.nextId + 1 by omega)).trans (SMap.get?_put_ne _ _ (by omega))

/-- Each key's message has been sent. -/
theorem State.posts_sent {s : State} {r : Run} {red : Option (Nat × Nat)} {size : Nat} {tags : List (PostKey × LaneAcc)} {keys : List PostKey} {g : Group}
    (hg : SMap.get? s.groups r.gid = some g) {k : PostKey} (hk : k ∈ keys) :
    ∃ j, SMap.get? (s.posts r red size tags keys).msgs j = some (s.postMsg r red size (postBatch tags k) k) := by
  induction keys generalizing s g with
  | nil => cases hk
  | cons key keys ih =>
    rw [State.posts, List.foldl_cons, State.sendPosted_eq red size _ key hg]
    rcases List.mem_cons.mp hk with rfl | hk
    · exact ⟨s.nextId, (State.posts_older (SMap.get?_put_same ..) (Nat.lt_succ_self _)).trans (SMap.get?_put_same ..)⟩
    · exact ih (SMap.get?_put_same ..) hk

/-- The operations of the messages to the homes of a reach are those of the lanes whose homes are of that reach. -/
theorem sum_postBatch_length (tags : List (PostKey × LaneAcc)) (p : PostKey → Bool) :
    (((tags.map (fun e => e.1)).dedup.filter p).map (fun k => (postBatch tags k).length)).sum = (tags.map (fun e => e.1)).countP p := by
  rw [← List.sum_map_count_dedup_filter_eq_countP]
  congr 1
  refine List.map_congr_left fun k _ => ?_
  show _ = (tags.map (fun e => e.1)).countP (fun x => decide (x = k))
  rw [postBatch, List.length_map, List.countP_map, List.countP_eq_length_filter]
  rfl

theorem State.countP_postTags (s : State) (r : Run) (addr : Nat → Word) (data : Nat → Nat) (p : PostKey → Bool) (q : Nat × Nat × Nat → Bool)
    (hpq : ∀ k, p k = q k.1) :
    ((s.postTags r addr data).map (fun e => e.1)).countP p = ((lanesOf r.act).filter (fun l => (s.laneHome r .glob (addr l)).any q)).length := by
  rw [State.postTags, laneAccs, List.filterMap_map, List.map_filterMap, List.countP_filterMap, List.countP_eq_length_filter]
  congr 2
  funext l
  cases h : s.laneHome r .glob (addr l) <;> simp [h, hpq]

/-- A lane's operation has the home and the sector of its address. -/
theorem State.mem_postTags {s : State} {r : Run} {addr : Nat → Word} {data : Nat → Nat} {l : Nat} {h : Nat × Nat × Nat} (hl : l ∈ lanesOf r.act)
    (hh : s.laneHome r .glob (addr l) = some h) :
    (((h, (s.dirOf r (addr l)).toNat / 32), { lane := l, addr := s.dirOf r (addr l), data := data l, swap := 0 }) : PostKey × LaneAcc) ∈
      s.postTags r addr data :=
  List.mem_filterMap.mpr ⟨{ lane := l, addr := addr l, data := data l, swap := 0 }, List.mem_map.mpr ⟨l, hl, rfl⟩, by simp [hh]⟩

theorem mem_postBatch {tags : List (PostKey × LaneAcc)} {e : PostKey × LaneAcc} (h : e ∈ tags) : e.2 ∈ postBatch tags e.1 :=
  List.mem_map_of_mem (List.mem_filter.mpr ⟨h, by simp⟩)

/-- POST and RED whose addresses pass their checks, none of which ends a walk, send their messages and complete. -/
theorem postPath_posts {s : State} {r : Run} {red : Option (Nat × Nat)} {size : Nat} {addr : Nat → Word} {data : Nat → Nat}
    (hcheck : s.memCheck r .glob size false false addr = none) (hwalk : r.g.walker = true → ∀ l ∈ lanesOf r.act, s.laneAt r .glob (addr l) 1 ≠ .walkEnd) :
    postPath r s red size addr data = r.done (s.posts r red size (s.postTags r addr data) ((s.postTags r addr data).map (fun e => e.1)).dedup) := by
  have hstays : (r.g.walker && (laneAccs r addr data (fun _ => 0)).any (fun o => decide (s.laneAt r .glob o.addr 1 = .walkEnd))) = false := by
    cases hw : r.g.walker with
    | false => rfl
    | true => simpa [laneAccs] using hwalk hw
  unfold postPath
  simp only [hcheck, hstays]
  rfl

/-- A posted word that passes its checks: it completes, and its operations are counted and sent. -/
theorem postPath_completed {s : State} {h : Hd} {r : Run} {red : Option (Nat × Nat)} {size : Nat} {addr : Nat → Word} {data : Nat → Nat}
    (hr : run s h = some r) (hq : quiet r (nextPc r) = true) (hcheck : s.memCheck r .glob size false false addr = none)
    (hwalk : r.g.walker = true → ∀ l ∈ lanesOf r.act, s.laneAt r .glob (addr l) 1 ≠ .walkEnd) :
    ∃ u, OnlySub (s.posts r red size (s.postTags r addr data) ((s.postTags r addr data).map (fun e => e.1)).dedup)
      { postPath r s red size addr data with issuing := none } r.sid u ∧ Completed r u (nextPc r) [] 0 := by
  obtain ⟨gs, ms, n, hsame⟩ := State.posts_same (red := red) (size := size) (tags := s.postTags r addr data)
    (keys := ((s.postTags r addr data).map (fun e => e.1)).dedup) (run_group hr)
  rw [postPath_posts hcheck hwalk]
  exact Run.done_completed (hsame ▸ (run_sub hr : SMap.get? s.subs r.sid = some r.sg)) (Written.refl r.sg)
    (hsame ▸ (run_now hr : r.now = (s.stn r.sg.mast r.sg.stn).cycles)) hq

theorem exec_posted {s : State} {i : Instr} {w : FWord} {x : Option XWord} {red : Option (Nat × Nat)} {size : Nat} {r : Run} {data : Nat → Nat}
    (hform : (i = .post w x ∧ red = none ∧ size = szBytes (szOf w) ∧ data = runValue r w.c (szRegs (szOf w))) ∨
      (i = .red w x ∧ red = some (w.hi.toNat / 16, w.hi.toNat % 8) ∧ size = (if atomWide (w.hi.toNat % 8) then 8 else 4) ∧
        data = r.val (atomWide (w.hi.toNat % 8)) w.c)) (hi : issues s i = some r) :
    exec i s = .next { postPath r s red size (memAddr w x r) data with issuing := none } ∧ run s (hdX w x) = some r := by
  rcases hform with ⟨rfl, rfl, rfl, rfl⟩ | ⟨rfl, rfl, rfl, rfl⟩
  · exact exec_issuedMem (needX := false) (g := postSig w x)
      (body := fun r s => postPath r s none (szBytes (szOf w)) (memAddr w x r) (runValue r w.c (szRegs (szOf w)))) hi rfl rfl
  · exact exec_issuedMem (needX := false) (g := redSig w x)
      (body := fun r s => postPath r s (some (w.hi.toNat / 16, w.hi.toNat % 8)) (if atomWide (w.hi.toNat % 8) then 8 else 4) (memAddr w x r)
        (r.val (atomWide (w.hi.toNat % 8)) w.c)) hi rfl rfl

end Sys2Proof.Machine
end

section
namespace Sys2Proof
open Machine Safety

/-- Settles O22: one message leaves for each home and sector, each with its lanes' operations. -/
theorem postedWords : Obligations.PostedWords := by
  intro s i w x red size r data hform hi hcheck hwalk hq
  obtain ⟨hexec, hr⟩ := exec_posted hform hi
  obtain ⟨u, honly, hdone⟩ := postPath_completed (red := red) (data := data) hr hq hcheck hwalk
  have hgrp := run_group hr
  obtain ⟨gs, ms, n, hsame⟩ := State.posts_same (red := red) (size := size) (tags := s.postTags r (memAddr w x r) data)
    (keys := ((s.postTags r (memAddr w x r) data).map (fun e => e.1)).dedup) hgrp
  obtain ⟨g, hg, hcounts⟩ := State.posts_counts (red := red) (size := size) (tags := s.postTags r (memAddr w x r) data)
    (keys := ((s.postTags r (memAddr w x r) data).map (fun e => e.1)).dedup) hgrp
  refine ⟨_, u, g, hexec, hdone, ?_, ?_, ?_, fun k _ => ?_, fun l hl h hh => ?_⟩
  · rw [honly, hsame]
  · rw [honly]
    exact SMap.get?_put_same ..
  · rw [honly]
    exact hg
  · rw [hcounts k, sum_postBatch_length, State.countP_postTags s r (memAddr w x r) data (fun key => decide (s.keyReach r key = k))
      (fun h => decide (s.reachOf r.g h.2.1 h.2.2 = k)) fun _ => rfl]
    congr 4
    funext l
    cases s.laneHome r .glob (memAddr w x r l) <;> rfl
  · have htag := State.mem_postTags (data := data) hl hh
    obtain ⟨j, hj⟩ := State.posts_sent (red := red) (size := size) (tags := s.postTags r (memAddr w x r) data) hgrp
      (List.mem_dedup.mpr (List.mem_map_of_mem htag))
    exact ⟨j, s.postMsg r red size (postBatch (s.postTags r (memAddr w x r) data) (h, (s.dirOf r (memAddr w x r l)).toNat / 32))
      (h, (s.dirOf r (memAddr w x r l)).toNat / 32), _, _, _, by rw [honly]; exact hj, rfl, rfl, rfl, mem_postBatch htag⟩

end Sys2Proof
end

section
/-! # Words that wait and find at once what they wait for (O24, O28)

Such a word begins its wait, is judged, and ends the wait in the same step. Its active lanes complete it; the rest of its issue set stands by. -/

namespace Sys2Proof.Machine

open Sys2Proof Sys2Proof.Safety

/-! ## Writes that every later word sees -/

theorem Written.writeNow (a : SubGroup) {w : Reg} (x : Word) (hw : RegOk w) : Written a (a.writeNow w x) [(w, x)] 0 where
  lanes := SubGroup.writeFixed_lanes a 0 0 [] w x
  kept := SubGroup.writeFixed_kept a 0 0 [] w x hw
  regs := fun y hy => by
    have hreg : (a.writeNow w x).reg y = (a.setReg w x).reg y := by cases y <;> rfl
    rw [hreg, SubGroup.setReg_reg a w y x hw hy]
    by_cases h : w = y <;> simp [after, h]
  aflags := (SubGroup.writeFixed_aflags a 0 0 [] w x).trans (by simp)
  seed := SubGroup.writeFixed_seed a 0 0 [] w x hw

theorem Written.foldl_writeNow (a : SubGroup) {ws : List (Reg × Word)} (hws : ∀ w ∈ ws, RegOk w.1) :
    Written a (ws.foldl (fun sg w => sg.writeNow w.1 w.2) a) ws 0 := by
  induction ws generalizing a with
  | nil => exact Written.refl a
  | cons w ws ih =>
    exact (Written.writeNow a w.2 (hws w List.mem_cons_self)).trans (ih _ fun v hv => hws v (List.mem_cons_of_mem _ hv))

theorem Written.writeStatus (a : SubGroup) (o : Operand) (x : Word) : Written a (a.writeStatus o x) (statusWrites o x.toNat) 0 := by
  cases o with
  | s n =>
    have hws : statusWrites (.s n) x.toNat = [(.s n.toNat, x)] := by simp [statusWrites, isS, dstWrites]
    rw [hws]
    exact Written.writeNow a x n.isLt
  | v n | p n | k n | q n | d n | zero | rsv n => exact Written.refl a

/-! ## Waits that begin -/

theorem SMap.mem_put {α : Type} {m : SMap α} {k : Nat} {x : α} {e : Nat × α} (h : e ∈ SMap.put m k x) : e = (k, x) ∨ e ∈ m :=
  (SMap.mem_ins h).imp_right SMap.mem_del

theorem getLsbD_and_not (a b : Mask) (l : Nat) : (a &&& ~~~b).getLsbD l = (a.getLsbD l && !b.getLsbD l) := by
  by_cases hl : l < 64
  · simp [hl]
  · simp [BitVec.getLsbD_of_ge a l (by omega)]

theorem SubGroup.setSt_set {sg : SubGroup} {act set : Mask} (st : LaneSt) (h : ∀ l, act.getLsbD l = true → set.getLsbD l = true) :
    (sg.setSt act st).setSt (set &&& ~~~act) st = sg.setSt set st := by
  have hlanes : ((sg.setSt act st).setSt (set &&& ~~~act) st).lanes = (sg.setSt set st).lanes := by
    refine (List.map_map ..).trans (List.map_congr_left fun e _ => ?_)
    cases hact : act.getLsbD e.1 with
    | false => simp only [Function.comp_apply, hact, getLsbD_and_not, Bool.not_false, Bool.and_true, Bool.false_eq_true, if_false]
    | true => simp only [Function.comp_apply, hact, h e.1 hact, getLsbD_and_not, Bool.not_true, Bool.and_false, Bool.false_eq_true, if_false, if_true]
  exact congrArg (fun ls => ({ sg with lanes := ls } : SubGroup)) hlanes

/-- The run of a word whose active lanes wait while the rest of its issue set stands by. -/
def Run.waited (r : Run) (g : Group) : Run := { r with sg := r.sg.setSt r.set .waiting, g := g, set := r.act }

theorem Run.waited_nextPc (r : Run) (g : Group) : nextPc (r.waited g) = nextPc r := by
  funext l
  have hpc : (SMap.get? (r.sg.setSt r.set .waiting).lanes l).map (fun x => x.pc) = (SMap.get? r.sg.lanes l).map (fun x => x.pc) := by
    rw [SubGroup.setSt_get?, Option.map_map]
    congr 1
    funext x
    by_cases h : r.set.getLsbD l <;> simp [h]
  exact congrArg (fun p : Option Word => p.getD 0 + BitVec.ofNat 64 r.len) hpc

/-- Lanes that wait, or that stand by, are at no tie point (R31). -/
theorem Run.waited_quiet {r : Run} (g : Group) (hact : ∀ l, r.act.getLsbD l = true → r.set.getLsbD l = true) (hq : quiet r (nextPc r) = true) :
    quiet (r.waited g) (nextPc (r.waited g)) = true := by
  rw [Run.waited_nextPc]
  refine List.all_eq_true.mpr fun e he => ?_
  obtain ⟨⟨l, x⟩, hx, rfl⟩ := List.mem_map.mp (show e ∈ List.map _ r.sg.lanes from he)
  have hlane := List.all_eq_true.mp hq (l, x) hx
  by_cases hset : r.set.getLsbD l = true
  · by_cases ha : r.act.getLsbD l = true
    · simpa [Run.waited, hset, ha] using hlane
    · simp [Run.waited, hset, ha]
  · have ha : r.act.getLsbD l = false := by simpa using fun ha => hset (hact l ha)
    simpa [Run.waited, hset, ha] using hlane

/-- What the active lanes have completed, they have completed from where they stood before they waited. -/
theorem Run.waited_passed {r : Run} {g : Group} {v : SubGroup} {ws : List (Reg × Word)} (hact : ∀ l, r.act.getLsbD l = true → r.set.getLsbD l = true)
    (h : Completed (r.waited g) v (nextPc (r.waited g)) ws 0) : Passed r v (nextPc r) ws := by
  obtain ⟨hmoved, hkept, hregs, hflags, hseed⟩ := h
  refine ⟨fun l => ?_, hkept, fun x hx => ?_, (hflags : v.aflags = r.sg.aflags ||| (0 &&& 0x3F)).trans (by simp [Run.waited, SubGroup.setSt, SubGroup.mapLanes]), hseed⟩
  · rw [hmoved l, Run.waited_nextPc]
    show (SMap.get? (r.sg.setSt r.set .waiting).lanes l).map _ = _
    rw [SubGroup.setSt_get?, Option.map_map]
    congr 1
    funext x
    by_cases ha : r.act.getLsbD l = true
    · simp [Run.waited, ha, hact l ha, laneAfter]
    · by_cases hs : r.set.getLsbD l = true <;> simp [Run.waited, ha, hs]
  · rw [hregs x hx]
    unfold after
    split
    · rfl
    · exact SubGroup.setSt_reg ..

/-- A wait that the rest of an issue set stands by: kinds whose lanes leave for a waiting pool are none (R178, R183). -/
def WaitKind.standsBy : WaitKind → Bool
  | .bcall | .bwait _ => false
  | _ => true

/-- A wait that begins takes the next identifier, and the lanes that stand by the one after it; beside the waits, the group's count of them and
the lanes' states nothing changes. -/
theorem Run.waitFor_begun {s : State} {h : Hd} {r : Run} {k : WaitKind} (dk : Option Word) (bound : Option Nat) (st : Operand) (hr : run s h = some r)
    (hk : k.standsBy = true) :
    ∃ gw ws n, r.waitFor s r.act k dk bound st = { s with
        groups := SMap.put s.groups r.gid { r.g with waits := gw }
        subs := SMap.put s.subs r.sid (r.sg.setSt r.set .waiting)
        waits := ws
        nextId := n } ∧
      SMap.get? ws s.nextId = some (r.waitRec r.act k dk bound st) ∧
      (∀ j, j ≠ s.nextId → SMap.get? ws j =
        if j = s.nextId + 1 ∧ r.act ≠ r.set then some (r.waitRec (r.set &&& ~~~r.act) (.standBy [s.nextId]) none none .zero) else SMap.get? s.waits j) ∧
      ∀ e ∈ ws, e ∈ s.waits ∨ e.2.kind = k ∨ e.2.kind = .standBy [s.nextId] := by
  have hsub := run_sub hr
  have hact : ∀ l, r.act.getLsbD l = true → r.set.getLsbD l = true := fun l => run_act_set hr
  have hgrp : SMap.get? s.groups r.sg.gid = some r.g := run_gid hr ▸ run_group hr
  obtain ⟨gw, hcount⟩ : ∃ gw, s.countWait r.sid r.act = { s with groups := SMap.put s.groups r.gid { r.g with waits := gw } } := by
    unfold State.countWait
    simp only [hsub]
    rw [State.updGroup_of_get? _ hgrp, run_gid hr]
    exact ⟨_, rfl⟩
  have hbegin : s.beginWait (r.waitRec r.act k dk bound st) = { s with
      groups := SMap.put s.groups r.gid { r.g with waits := gw }
      subs := SMap.put s.subs r.sid (r.sg.setSt r.act .waiting)
      waits := SMap.put s.waits s.nextId (r.waitRec r.act k dk bound st)
      nextId := s.nextId + 1 } := by
    unfold State.beginWait
    rw [show (r.waitRec r.act k dk bound st).sid = r.sid from rfl, show (r.waitRec r.act k dk bound st).lanes = r.act from rfl, hcount]
    simp only [State.fresh]
    rw [State.updSub_of_get? _ (show SMap.get? ({ s with groups := SMap.put s.groups r.gid { r.g with waits := gw }, nextId := s.nextId + 1 } : State).subs r.sid = _ from hsub)]
  by_cases hall : r.act = r.set
  · have hrest : r.set &&& ~~~r.act = 0 := by rw [hall, BitVec.and_not_self]
    have hwait : r.waitFor s r.act k dk bound st = s.beginWait (r.waitRec r.act k dk bound st) := by simp only [Run.waitFor, hrest, if_true]
    refine ⟨gw, _, _, by rw [hwait, hbegin, hall], SMap.get?_put_same .., fun j hj => ?_, fun e he => ?_⟩
    · rw [SMap.get?_put_ne _ _ hj.symm, if_neg fun h => h.2 hall]
    · exact (SMap.mem_put he).elim (fun h => .inr (.inl (h ▸ rfl))) .inl
  · have hrest : r.set &&& ~~~r.act ≠ 0 := by
      refine fun h => hall (BitVec.eq_of_getLsbD_eq fun l _ => ?_)
      have hl : (r.set.getLsbD l && !r.act.getLsbD l) = false := by rw [← getLsbD_and_not, h]; exact BitVec.getLsbD_zero
      cases ha : r.act.getLsbD l with
      | false => simpa [ha] using hl.symm
      | true => exact (hact l ha).symm
    have hwait : r.waitFor s r.act k dk bound st =
        (s.beginWait (r.waitRec r.act k dk bound st)).standBy (r.waitRec (r.set &&& ~~~r.act) k none none .zero) [s.nextId] := by
      unfold Run.waitFor
      rw [if_neg hrest]
      cases k <;> cases hk <;> rfl
    have hsome : ¬ (decide ((r.waitRec (r.set &&& ~~~r.act) k none none .zero).lanes = 0) && decide ([s.nextId].length ≤ 1)) = true :=
      fun h => hrest (of_decide_eq_true (Bool.and_eq_true_iff.mp h).1)
    have hstand : (s.beginWait (r.waitRec r.act k dk bound st)).standBy (r.waitRec (r.set &&& ~~~r.act) k none none .zero) [s.nextId] = { s with
        groups := SMap.put s.groups r.gid { r.g with waits := gw }
        subs := SMap.put s.subs r.sid (r.sg.setSt r.set .waiting)
        waits := SMap.put (SMap.put s.waits s.nextId (r.waitRec r.act k dk bound st)) (s.nextId + 1)
          (r.waitRec (r.set &&& ~~~r.act) (.standBy [s.nextId]) none none .zero)
        nextId := s.nextId + 2 } := by
      rw [hbegin, State.standBy, if_neg hsome]
      simp only [State.fresh]
      rw [State.updSub_of_get? (sg := r.sg.setSt r.act .waiting) _ (SMap.get?_put_same ..)]
      simp only [SMap.put_put, Run.waitRec, SubGroup.setSt_set .waiting hact]
    refine ⟨gw, _, _, hwait.trans hstand, ?_, fun j hj => ?_, fun e he => ?_⟩
    · rw [SMap.get?_put_ne _ _ (by omega), SMap.get?_put_same]
    · by_cases hnext : j = s.nextId + 1
      · rw [hnext, SMap.get?_put_same, if_pos ⟨rfl, hall⟩]
      · rw [SMap.get?_put_ne _ _ fun h => hnext h.symm, SMap.get?_put_ne _ _ hj.symm, if_neg fun h => hnext h.1]
    · rcases SMap.mem_put he with rfl | he
      · exact .inr (.inr rfl)
      · exact (SMap.mem_put he).elim (fun h => .inr (.inl (h ▸ rfl))) .inl

/-! ## Waits that end -/

/-- A wait whose lanes were found what they wait for ends: its status is written, and its lanes complete the word. -/
theorem State.endWait_completed {s : State} {r : Run} {u : SubGroup} {g : Group} {ws : List (Reg × Word)} {wid : Nat} {w : Wait} (code : Word) (reset : Bool)
    (dl : Word) (hu : SMap.get? s.subs r.sid = some u) (hg : SMap.get? s.groups u.gid = some g) (hw : Written r.sg u ws 0)
    (hnow : r.now = (s.stn r.sg.mast r.sg.stn).cycles) (hq : quiet r (nextPc r) = true) (hsid : w.sid = r.sid) (hlanes : w.lanes = r.set)
    (hstall : stallOf w.iword = r.stall) (hlen : w.len = r.len) :
    ∃ v, SMap.get? (s.endWait wid w (some code) false reset dl).subs r.sid = some v ∧ Completed r v (nextPc r) (ws ++ statusWrites w.status code.toNat) 0 ∧
      (s.endWait wid w (some code) false reset dl).mem = s.mem ∧ (s.endWait wid w (some code) false reset dl).groups = s.groups ∧
      (s.endWait wid w (some code) false reset dl).waits = SMap.del s.waits wid := by
  have hstatus := hw.trans (Written.writeStatus u w.status code)
  unfold State.endWait
  simp only [hsid, hu, hg, Option.bind_some, hlanes, hstall, hlen, Bool.false_eq_true, if_false]
  rw [State.updSub_of_get? (s := { s with waits := SMap.del s.waits wid }) _ hu, State.atSub]
  simp only [SMap.get?_put_same]
  obtain ⟨v, ms, n, hfin, hdone⟩ := State.finish_completed
    (s := ({ s with waits := SMap.del s.waits wid, subs := SMap.put s.subs r.sid (u.writeStatus w.status code) } : State).enter
      ((u.writeStatus w.status code).mast / 16)) g r.set false reset dl w.iword w.xword (by rw [State.enter_subs]; exact SMap.get?_put_same ..) hstatus
    (by rw [State.stn, State.enter_stns]; exact hnow) hq
  rw [State.on, hfin]
  exact ⟨v, by rw [State.enter_subs]; exact SMap.get?_put_same .., hdone, by simp, by simp, by simp⟩

end Sys2Proof.Machine
end

section
/-! # Fences with nothing left to wait for (O28) -/

namespace Sys2Proof.Machine

open Sys2Proof Sys2Proof.Safety

/-- Six bits as a number are those bits. -/
theorem getLsbD_sixBits (b : Nat → Bool) {p : Nat} (hp : p < 6) :
    (BitVec.ofNat 6 ((List.range 6).foldl (fun a q => if b q then a + 2 ^ q else a) 0)).getLsbD p = b p := by
  have hbits : ∀ b0 b1 b2 b3 b4 b5 : Bool, ∀ q : Fin 6, (BitVec.ofNat 6 ((List.range 6).foldl
      (fun a q => if [b0, b1, b2, b3, b4, b5].getD q false then a + 2 ^ q else a) 0)).getLsbD q = [b0, b1, b2, b3, b4, b5].getD q false := by decide
  have hb : ∀ q ∈ List.range 6, [b 0, b 1, b 2, b 3, b 4, b 5].getD q false = b q := by
    intro q hq
    have := List.mem_range.mp hq
    interval_cases q <;> rfl
  have h := hbits (b 0) (b 1) (b 2) (b 3) (b 4) (b 5) ⟨p, hp⟩
  rw [List.foldl_ext _ (fun a q => if b q then a + 2 ^ q else a) 0 fun a q hq => by rw [hb q hq]] at h
  exact h.trans (hb p (List.mem_range.mpr hp))

/-- The named paths are all complete where none has an operation left (R140). -/
theorem State.pathsDone_eq_iff (s : State) (gid : Nat) (g : Group) (paths : BitVec 6) (scope : Nat) :
    s.pathsDone gid g paths scope = paths ↔ ∀ p < 6, paths.getLsbD p = true → s.pathCount gid g p scope = 0 := by
  have hbit : ∀ p < 6, (s.pathsDone gid g paths scope).getLsbD p = (paths.getLsbD p && decide (s.pathCount gid g p scope = 0)) :=
    fun p hp => getLsbD_sixBits (fun p => paths.getLsbD p && decide (s.pathCount gid g p scope = 0)) hp
  constructor
  · intro h p hp hpath
    have := hbit p hp
    rw [h, hpath] at this
    simpa using this.symm
  · intro h
    refine BitVec.eq_of_getLsbD_eq fun p hp => ?_
    rw [hbit p hp]
    cases hpath : paths.getLsbD p with
    | false => rfl
    | true => simp [h p hp hpath]

/-- A wait that begins adds no operation to a path (R139). -/
theorem State.pathCount_begun {s : State} {r : Run} {g' : Group} {gs : SMap Group} {ws : SMap Wait} {n : Nat} {paths : BitVec 6} {scope j : Nat} {map : Operand}
    {b : Option Nat} {gw : RMap 32} (hsub : SMap.get? s.subs r.sid = some r.sg) (hg : g' = { r.g with waits := gw })
    (hws : ∀ e ∈ ws, e ∈ s.waits ∨ e.2.kind = .fence paths scope map b ∨ e.2.kind = .standBy [j]) {p : Nat}
    (h : s.pathCount r.gid r.g p scope = 0) :
    ({ s with groups := gs, subs := SMap.put s.subs r.sid (r.sg.setSt r.set .waiting), waits := ws, nextId := n } : State).pathCount r.gid g' p scope = 0 := by
  subst hg
  match p with
  | 0 =>
    simp only [State.pathCount, List.length_eq_zero_iff, List.filter_eq_nil_iff] at h ⊢
    intro e he
    rcases hws e he with he | hkind | hkind
    · have hold := h e he
      by_cases hsid : e.2.sid = r.sid
      · rw [hsid, hsub] at hold
        rw [hsid, SMap.get?_put_same]
        exact hold
      · rw [SMap.get?_put_ne _ _ (Ne.symm hsid)]
        exact hold
    · simp [hkind, waitWrites]
    · simp [hkind, waitWrites]
  | 1 | 2 | _ + 3 => exact h

theorem exec_fence {s : State} {i : Instr} {w : FWord} {paths : BitVec 6} {b : Option Nat} {r : Run} (hform : fenceForm i = some (w, paths, b))
    (hi : issues s i = some r) :
    exec i s = .next { (r.waitFor s r.act (.fence paths (w.lo.toNat % 8) w.b b) (some (r.sval w.a)) none w.dest).judgeFence s.nextId with issuing := none } ∧
    run s (hdX w none) = some r := by
  cases i <;> cases hform
  case fence => exact exec_issuedF (g := fenceSig w (fenceEmpty w)) (body := fun r s =>
    (r.waitFor s r.act (.fence (w.hi.setWidth 6) (w.lo.toNat % 8) w.b none) (some (r.sval w.a)) none w.dest).judgeFence s.nextId) hi rfl rfl
  case fenceX => exact exec_issuedF (g := fenceSig w (fenceXBad w)) (body := fun r s =>
    (r.waitFor s r.act (.fence (BitVec.ofNat 6 (2 ^ (w.hi.toNat / 8 % 8))) (w.lo.toNat % 8) w.b (some (w.hi.toNat % 8))) (some (r.sval w.a)) none
      w.dest).judgeFence s.nextId) hi rfl rfl

/-- What a fence that is passed leaves of its group: the errors of its paths go with its status, and FENCE.X on path 2 discards (R140, R141). -/
theorem State.fenceEnd_all {s : State} {sid gid : Nat} {u : SubGroup} {g : Group} (wid : Nat) {w : Wait} (paths : BitVec 6) (map : Operand) (b : Option Nat)
    (hu : SMap.get? s.subs sid = some u) (hsid : w.sid = sid) (hg : SMap.get? s.groups gid = some g) :
    ∃ (s3 : State) (g3 : Group), s.fenceEnd wid w gid g paths paths map b =
        s3.endWait wid w (some (if g.errs &&& paths ≠ 0 then 7 else 0)) false (decide ((if g.errs &&& paths ≠ 0 then (7 : Word) else 0) = 0)) (w.dk.getD 0) ∧
      SMap.get? s3.subs sid = some (u.writeStatus map (paths.setWidth 64)) ∧ SMap.get? s3.groups gid = some g3 ∧
      g3.errs = g.errs &&& ~~~(if g.errs &&& paths ≠ 0 then paths else 0) ∧ s3.mem = s.mem ∧ s3.waits = s.waits ∧ s3.stns = s.stns := by
  let s1 := s.updSub sid (fun sg => sg.writeStatus map (paths.setWidth 64))
  have hs1 : s1 = { s with subs := SMap.put s.subs sid (u.writeStatus map (paths.setWidth 64)) } := State.updSub_of_get? _ hu
  obtain ⟨s2, g2, hs2, hsub2, hg2, herrs2, hmem2, hwaits2, hstns2⟩ : ∃ s2 g2, s2 = (if g.errs &&& paths ≠ 0 then
        s1.updGroup gid (fun g => { g with errs := g.errs &&& ~~~paths }) else s1) ∧ s2.subs = s1.subs ∧ SMap.get? s2.groups gid = some g2 ∧
      g2.errs = g.errs &&& ~~~(if g.errs &&& paths ≠ 0 then paths else 0) ∧ s2.mem = s.mem ∧ s2.waits = s.waits ∧ s2.stns = s.stns := by
    by_cases herr : g.errs &&& paths ≠ 0
    · rw [if_pos herr, if_pos herr, State.updGroup_of_get? _ (show SMap.get? s1.groups gid = some g from hg)]
      exact ⟨_, _, rfl, rfl, SMap.get?_put_same .., rfl, rfl, rfl, rfl⟩
    · rw [if_neg herr, if_neg herr]
      exact ⟨s1, g, rfl, rfl, hg, by rw [show ~~~(0 : BitVec 6) = BitVec.allOnes 6 by decide, BitVec.and_allOnes], rfl, rfl, rfl⟩
  obtain ⟨s3, g3, hs3, hsub3, hg3, herrs3, hmem3, hwaits3, hstns3⟩ : ∃ s3 g3, s3 = (if b = some 2 then s2.updGroup gid Group.discard else s2) ∧
      s3.subs = s1.subs ∧ SMap.get? s3.groups gid = some g3 ∧ g3.errs = g2.errs ∧ s3.mem = s.mem ∧ s3.waits = s.waits ∧ s3.stns = s.stns := by
    by_cases hb : b = some 2
    · rw [if_pos hb, State.updGroup_of_get? _ hg2]
      exact ⟨_, _, rfl, hsub2, SMap.get?_put_same .., rfl, hmem2, hwaits2, hstns2⟩
    · rw [if_neg hb]
      exact ⟨s2, g2, rfl, hsub2, hg2, rfl, hmem2, hwaits2, hstns2⟩
  refine ⟨s3, g3, ?_, by rw [hsub3, hs1, SMap.get?_put_same], hg3, herrs3.trans herrs2, hmem3, hwaits3, hstns3⟩
  rw [hs3, hs2]
  unfold State.fenceEnd
  simp only [hsid, decide_true, Bool.true_and, Bool.not_true, Bool.false_eq_true, if_false, decide_eq_true_eq]
  rfl

/-- A fence that is passed with all its paths complete: the bitmap and the status are written, and the errors of its paths are cleared (R140). -/
theorem State.fenceEnd_completed {s : State} {r : Run} {g : Group} {wid : Nat} {w : Wait} (paths : BitVec 6) (map : Operand) (b : Option Nat)
    (hu : SMap.get? s.subs r.sid = some r.sg) (hg : SMap.get? s.groups r.sg.gid = some g)
    (hnow : r.now = (s.stn r.sg.mast r.sg.stn).cycles) (hq : quiet r (nextPc r) = true) (hsid : w.sid = r.sid) (hlanes : w.lanes = r.set)
    (hstall : stallOf w.iword = r.stall) (hlen : w.len = r.len) :
    ∃ v g', SMap.get? (s.fenceEnd wid w r.sg.gid g paths paths map b).subs r.sid = some v ∧
      SMap.get? (s.fenceEnd wid w r.sg.gid g paths paths map b).groups r.sg.gid = some g' ∧
      Completed r v (nextPc r) (statusWrites map paths.toNat ++ statusWrites w.status (if g.errs &&& paths ≠ 0 then 7 else 0)) 0 ∧
      g'.errs = g.errs &&& ~~~(if g.errs &&& paths ≠ 0 then paths else 0) ∧ (s.fenceEnd wid w r.sg.gid g paths paths map b).mem = s.mem ∧
      (s.fenceEnd wid w r.sg.gid g paths paths map b).waits = SMap.del s.waits wid := by
  obtain ⟨s3, g3, heq, hsub3, hg3, herrs, hmem, hwaits, hstns⟩ := State.fenceEnd_all wid paths map b hu hsid hg
  have hwritten : Written r.sg (r.sg.writeStatus map (paths.setWidth 64)) (statusWrites map paths.toNat) 0 := by
    have h := Written.writeStatus r.sg map (paths.setWidth 64)
    rwa [BitVec.toNat_setWidth, Nat.mod_eq_of_lt (Nat.lt_of_lt_of_le paths.isLt (by decide))] at h
  obtain ⟨hgid, -⟩ := hwritten.kept
  obtain ⟨v, hv, hdone, hmem', hgroups, hwaits'⟩ := State.endWait_completed (s := s3) (wid := wid) (w := w) (if g.errs &&& paths ≠ 0 then 7 else 0)
    (decide ((if g.errs &&& paths ≠ 0 then (7 : Word) else 0) = 0)) (w.dk.getD 0) hsub3 (hgid ▸ hg3) hwritten (by rw [State.stn, hstns]; exact hnow) hq hsid
    hlanes hstall hlen
  have hcode : (if g.errs &&& paths ≠ 0 then (7 : Word) else 0).toNat = if g.errs &&& paths ≠ 0 then 7 else 0 := by split_ifs <;> rfl
  rw [hcode] at hdone
  rw [heq]
  exact ⟨v, g3, hv, by rw [hgroups, hg3], hdone, herrs, hmem'.trans hmem, by rw [hwaits', hwaits]⟩

theorem State.judgeFence_done {s : State} {wid : Nat} {w : Wait} {sg : SubGroup} {g : Group} {paths : BitVec 6} {scope : Nat} {map : Operand} {b : Option Nat}
    (hw : SMap.get? s.waits wid = some w) (hkind : w.kind = .fence paths scope map b) (hsub : SMap.get? s.subs w.sid = some sg)
    (hg : SMap.get? s.groups sg.gid = some g) (hdone : s.pathsDone sg.gid g paths scope = paths) :
    s.judgeFence wid = s.fenceEnd wid w sg.gid g paths paths map b := by
  unfold State.judgeFence
  simp only [hw, hkind, hsub, hg, hdone, decide_true, Bool.true_or, if_true]

/-- A fence that begins its wait with all its paths complete is passed. -/
theorem fence_passed {s : State} {h : Hd} {r : Run} {paths : BitVec 6} {scope : Nat} (map st : Operand) (b : Option Nat) (dk : Option Word)
    (hr : run s h = some r) (hstall : r.stall = stallOf r.iw) (hdone : s.pathsDone r.gid r.g paths scope = paths) (hq : quiet r (nextPc r) = true) :
    ∃ u g, SMap.get? ((r.waitFor s r.act (.fence paths scope map b) dk none st).judgeFence s.nextId).subs r.sid = some u ∧
      SMap.get? ((r.waitFor s r.act (.fence paths scope map b) dk none st).judgeFence s.nextId).groups r.gid = some g ∧
      g.errs = r.g.errs &&& ~~~(if r.g.errs &&& paths ≠ 0 then paths else 0) ∧
      ((r.waitFor s r.act (.fence paths scope map b) dk none st).judgeFence s.nextId).mem = s.mem ∧
      StoodBy s ((r.waitFor s r.act (.fence paths scope map b) dk none st).judgeFence s.nextId) r s.nextId ∧
      Passed r u (nextPc r) (statusWrites map paths.toNat ++ statusWrites st (if r.g.errs &&& paths ≠ 0 then 7 else 0)) := by
  have hact : ∀ l, r.act.getLsbD l = true → r.set.getLsbD l = true := fun l => run_act_set hr
  obtain ⟨gw, ws, n, hbegun, hwait, hothers, hkinds⟩ := Run.waitFor_begun (k := .fence paths scope map b) dk none st hr rfl
  have hsub : SMap.get? (SMap.put s.subs r.sid (r.sg.setSt r.set .waiting)) r.sid = some (r.sg.setSt r.set .waiting) := SMap.get?_put_same ..
  have hgrp : SMap.get? (SMap.put s.groups r.gid { r.g with waits := gw }) r.sg.gid = some { r.g with waits := gw } := by
    rw [← run_gid hr, SMap.get?_put_same]
  rw [hbegun]
  have hcomplete := (State.pathsDone_eq_iff _ (r.sg.setSt r.set .waiting).gid { r.g with waits := gw } paths scope).mpr fun p hp hpath => by
    rw [show (r.sg.setSt r.set .waiting).gid = r.gid from (run_gid hr).symm]
    exact State.pathCount_begun (gs := SMap.put s.groups r.gid { r.g with waits := gw }) (n := n) (run_sub hr) rfl hkinds
      ((State.pathsDone_eq_iff ..).mp hdone p hp hpath)
  rw [State.judgeFence_done hwait rfl hsub hgrp hcomplete]
  obtain ⟨v, g', hv, hg', hcompleted, herrs, hmem, hwaits⟩ := State.fenceEnd_completed
    (s := { s with groups := SMap.put s.groups r.gid { r.g with waits := gw }, subs := SMap.put s.subs r.sid (r.sg.setSt r.set .waiting), waits := ws, nextId := n })
    (r := r.waited { r.g with waits := gw }) (wid := s.nextId) (w := r.waitRec r.act (.fence paths scope map b) dk none st) paths map b hsub hgrp
    (show r.now = (s.stn r.sg.mast r.sg.stn).cycles from run_now hr) (Run.waited_quiet _ hact hq) rfl rfl hstall.symm rfl
  refine ⟨v, g', hv, (congrArg (SMap.get? _) (run_gid hr)).trans hg', herrs, hmem, fun k hk => ?_, Run.waited_passed hact hcompleted⟩
  exact (congrArg (SMap.get? · k) hwaits).trans ((SMap.get?_del ..).trans ((if_neg (Ne.symm hk)).trans (hothers k hk)))

end Sys2Proof.Machine
end

section
namespace Sys2Proof
open Machine Safety

/-- Settles O28: a fence that begins to wait adds no operation, so it is judged complete at once and passed. -/
theorem fenceWords : Obligations.FenceWords := by
  intro s i w paths b r err hform hi hstall hdone hq
  obtain ⟨hexec, hr⟩ := exec_fence hform hi
  obtain ⟨u, g, hu, hg, herrs, hmem, hstood, hpassed⟩ := fence_passed w.b w.dest b (some (r.sval w.a)) hr hstall hdone hq
  exact ⟨_, u, g, hexec, hmem, hu, hg, herrs, hstood, hpassed⟩

end Sys2Proof
end

section
/-! # Waiting loads that are satisfied at once (O24) -/

namespace Sys2Proof.Machine

open Sys2Proof Sys2Proof.Safety

/-! ## Tables built in order -/

theorem SMap.del_of_lt {α : Type} {m : SMap α} {k : Nat} (h : ∀ e ∈ m, e.1 < k) : SMap.del m k = m := by
  induction m with
  | nil => rfl
  | cons e m ih =>
    rw [SMap.del, if_neg (Nat.ne_of_lt (h e List.mem_cons_self)), ih fun d hd => h d (List.mem_cons_of_mem _ hd)]

theorem SMap.ins_of_lt {α : Type} {m : SMap α} {k : Nat} (x : α) (h : ∀ e ∈ m, e.1 < k) : SMap.ins m k x = m ++ [(k, x)] := by
  induction m with
  | nil => rfl
  | cons e m ih =>
    rw [SMap.ins, if_neg (Nat.lt_asymm (h e List.mem_cons_self)), ih fun d hd => h d (List.mem_cons_of_mem _ hd)]
    rfl

/-- Records put under rising keys stand in that order. -/
theorem SMap.foldl_put_rising {α : Type} {xs : List (Nat × α)} {m : SMap α} (hxs : (xs.map (fun e => e.1)).Pairwise (· < ·))
    (h : ∀ e ∈ m, ∀ x ∈ xs, e.1 < x.1) : xs.foldl (fun m x => SMap.put m x.1 x.2) m = m ++ xs := by
  induction xs generalizing m with
  | nil => simp
  | cons x xs ih =>
    rw [List.map_cons, List.pairwise_cons] at hxs
    have hx : ∀ e ∈ m, e.1 < x.1 := fun e he => h e he x List.mem_cons_self
    rw [List.foldl_cons, SMap.put, SMap.del_of_lt hx, SMap.ins_of_lt x.2 hx, ih hxs.2]
    · simp
    · intro e he y hy
      rcases List.mem_append.mp he with he | he
      · exact h e he y (List.mem_cons_of_mem _ hy)
      · rw [List.mem_singleton.mp he]
        exact hxs.1 y.1 (List.mem_map_of_mem hy)

/-! ## One evaluation (R125) -/

/-- What the lanes of an LDW have read. -/
def ldwRead (s : State) (n : Nat) (items : List CellAcc) : List (Nat × Word) := items.map (fun i => (i.1.lane, BitVec.ofNat 64 (s.num i.2 n)))

/-- An LDW none of whose lanes is held, and whose comparison holds in all of them, ends with what they read. -/
theorem State.ldwEval_satisfied {s : State} {wid : Nat} {w : Wait} {r : Run} {ops : List LaneAcc} {wide signed : Bool} {cmp : Nat} {dest : Operand}
    {items : List CellAcc} (hw : SMap.get? s.waits wid = some w) (hkind : w.kind = .ldw ops [] wide cmp signed dest []) (hr : s.runOf w = some r)
    (hplaces : ops.map (fun o => (o, s.laneAt r .glob o.addr 0)) = items.map (fun i => (i.1, AtHome.cell i.2)))
    (hrising : (items.map (fun i => i.1.lane)).Pairwise (· < ·)) (hsound : SoundItems s items (if wide then 8 else 4))
    (hholds : ∀ i ∈ items, ldwHolds cmp signed wide (s.num i.2 (if wide then 8 else 4)) i.1.data = true) :
    s.ldwEval wid = s.ldwEnd wid w (ldwRead s (if wide then 8 else 4) items) wide dest 0 := by
  have hsize : 0 < (if wide then 8 else 4) := by split <;> decide
  have hsec : ∀ c ∈ sectorsOf items, c ∉ s.bad ∧ c ∉ s.soft := fun c => hsound.sectorOf hsize
  have hfailing : items.filter (fun i => s.bad.contains (sectorOf i.2)) = [] := by
    refine List.filter_eq_nil_iff.mpr fun i hi => ?_
    have hbad := (hsec (sectorOf i.2) (by simpa [sectorsOf] using ⟨i.1, i.2, hi, rfl⟩)).1
    simp [hbad]
  have hleft : (items.map (fun i => (i.1, s.num i.2 (if wide then 8 else 4)))).filter (fun e => !ldwHolds cmp signed wide e.2 e.1.data) = [] := by
    refine List.filter_eq_nil_iff.mpr fun e he => ?_
    obtain ⟨i, hi, rfl⟩ := List.mem_map.mp he
    simp [hholds i hi]
  have hread : (items.map (fun i => (i.1, s.num i.2 (if wide then 8 else 4)))).foldl (fun m e => SMap.put m e.1.lane (BitVec.ofNat 64 e.2)) [] =
      ldwRead s (if wide then 8 else 4) items := by
    have h := SMap.foldl_put_rising (xs := ldwRead s (if wide then 8 else 4) items) (m := []) (by simpa [ldwRead, Function.comp_def] using hrising) nofun
    rw [ldwRead, List.foldl_map] at h
    rw [List.foldl_map]
    exact h
  unfold State.ldwEval
  simp only [hw, hkind, hr, List.filter_nil, pageAsked, List.any_nil, Bool.false_eq_true, if_false, hplaces]
  have hnone : ∀ h : AtHome, (∀ c, h ≠ .cell c) → (items.map (fun i => (i.1, AtHome.cell i.2))).filter (fun e => decide (e.2 = h)) = [] := by
    intro h hh
    refine List.filter_eq_nil_iff.mpr fun e he => ?_
    obtain ⟨i, -, rfl⟩ := List.mem_map.mp he
    simpa using (hh i.2).symm
  have hend : (items.map (fun i => (i.1, AtHome.cell i.2))).any (fun e => decide (e.2 = .walkEnd)) = false := by simp
  have hitems : ∀ f : LaneAcc × AtHome → Option CellAcc, (∀ o c, f (o, .cell c) = some (o, c)) →
      (items.map (fun i => (i.1, AtHome.cell i.2))).filterMap f = items := by
    intro f hf
    rw [List.filterMap_map]
    exact (List.filterMap_congr fun i _ => hf i.1 i.2).trans List.filterMap_some
  simp only [hnone .hold nofun, hnone .bounds nofun, hend, hitems, implies_true, hfailing, State.checkRead_sound hsec, List.map_nil, ne_eq, not_true_eq_false,
    Bool.false_eq_true, if_false]
  simp only [hleft, hread, State.askPages, List.foldl_nil, List.map_nil, decide_true, Bool.and_true, if_true]

/-- An LDW that ends with its comparison holding: what its lanes read is written, and its status; its lanes complete the word. -/
theorem State.ldwEnd_completed {s : State} {r : Run} {g : Group} {wid : Nat} {w : Wait} {vals : List (Nat × Word)} {wide : Bool} {dest : Operand}
    (hws : ∀ x ∈ vals.flatMap (fun v => dstWrites dest wide v.1 v.2.toNat), RegOk x.1)
    (hu : SMap.get? s.subs r.sid = some r.sg) (hg : SMap.get? s.groups r.sg.gid = some g) (hnow : r.now = (s.stn r.sg.mast r.sg.stn).cycles)
    (hq : quiet r (nextPc r) = true) (hsid : w.sid = r.sid) (hlanes : w.lanes = r.set) (hstall : stallOf w.iword = r.stall) (hlen : w.len = r.len) :
    ∃ v, SMap.get? (s.ldwEnd wid w vals wide dest 0).subs r.sid = some v ∧
      Completed r v (nextPc r) (vals.flatMap (fun v => dstWrites dest wide v.1 v.2.toNat) ++ statusWrites w.status 0) 0 ∧
      (s.ldwEnd wid w vals wide dest 0).mem = s.mem ∧ (s.ldwEnd wid w vals wide dest 0).waits = SMap.del s.waits wid := by
  have hwritten := Written.foldl_writeNow r.sg hws
  obtain ⟨hgid, -⟩ := hwritten.kept
  unfold State.ldwEnd
  rw [hsid, State.updSub_of_get? _ hu]
  obtain ⟨v, hv, hdone, hmem, -, hwaits⟩ := State.endWait_completed
    (s := { s with subs := SMap.put s.subs r.sid ((vals.flatMap (fun v => dstWrites dest wide v.1 v.2.toNat)).foldl (fun sg x => sg.writeNow x.1 x.2) r.sg) })
    (wid := wid) (w := w) 0 (decide ((0 : Word) = 0)) (w.dk.getD 0) (SMap.get?_put_same ..) (show SMap.get? s.groups _ = some g from hgid ▸ hg) hwritten hnow hq hsid hlanes hstall hlen
  exact ⟨v, hv, hdone, hmem, hwaits⟩

/-- The deadline of an LDW that its evaluation ended has no effect. -/
theorem State.ldwExpire_ended {s t : State} {wid : Nat} (h : s.ldwEval wid = t) (hw : SMap.get? t.waits wid = none) : s.ldwExpire wid = t := by
  unfold State.ldwExpire
  simp only [h, hw]

/-! ## The word (R125, R251, R252) -/

/-- An LDW that issues has the effect of its body, and its destination passed the checks. -/
theorem exec_ldw {s : State} {w : FWord} {x : XWord} {r : Run} {cells : Nat → Nat} (hi : issues s (.ldw w (some x)) = some r)
    (hlocal : LocalAccess s r .glob (if decide (szOf w = 5) then 8 else 4) 0 (memAddr w (some x) r) cells) :
    exec (.ldw w (some x)) s = .next { (r.waitFor s r.act (.ldw (laneAccs r (memAddr w (some x) r) (r.val (decide (szOf w = 5)) w.c) (fun _ => 0)) []
        (decide (szOf w = 5)) (fieldOf x 46 3) (x.getLsbD 49) w.dest []) (some (r.sval (xbOf x))) none (xaOf x)).ldwExpire s.nextId with issuing := none } ∧
      run s (hdX w (some x)) = some r := by
  obtain ⟨hexec, hr⟩ := exec_issuedMem (needX := true) (g := ldwSig w (some x)) hi rfl (execLdw.eq_1 w (some x) s)
  obtain ⟨hcheck, hlanes⟩ := hlocal
  have hkeep : ∀ m : Mask, m &&& ~~~(0 : Mask) = m := fun m => by rw [show ~~~(0 : Mask) = BitVec.allOnes 64 by decide, BitVec.and_allOnes]
  refine ⟨hexec.trans ?_, hr⟩
  simp only [Option.getD_some, hcheck, State.moveRemote_local _ fun l hl => (hlanes l hl).2, hkeep, issues_act hi, if_false]

/-- An LDW that begins its wait with its comparison holding in every lane is passed. -/
theorem ldw_passed {s : State} {h : Hd} {r : Run} {addr : Nat → Word} {data cells : Nat → Nat} {wide signed : Bool} {cmp : Nat} {dest : Operand} (dk : Option Word)
    (st : Operand) (hr : run s h = some r) (hstall : r.stall = stallOf r.iw) (hdest : ∀ l x, ∀ e ∈ dstWrites dest wide l x, RegOk e.1)
    (hlocal : LocalAccess s r .glob (if wide then 8 else 4) 0 addr cells) (hsound : Sound s (lanesOf r.act) cells (if wide then 8 else 4))
    (hholds : ∀ l ∈ lanesOf r.act, ldwHolds cmp signed wide (s.num (cells l) (if wide then 8 else 4)) (data l) = true) (hq : quiet r (nextPc r) = true) :
    ∃ t u, (r.waitFor s r.act (.ldw (laneAccs r addr data (fun _ => 0)) [] wide cmp signed dest []) dk none st).ldwExpire s.nextId = t ∧
      SMap.get? t.subs r.sid = some u ∧ t.mem = s.mem ∧ StoodBy s t r s.nextId ∧
      Passed r u (nextPc r) ((lanesOf r.act).flatMap (fun l => dstWrites dest wide l (s.num (cells l) (if wide then 8 else 4))) ++ statusWrites st 0) := by
  have hact : ∀ l, r.act.getLsbD l = true → r.set.getLsbD l = true := fun l => run_act_set hr
  obtain ⟨gw, ws, n, hbegun, hwait, hothers, -⟩ :=
    Run.waitFor_begun (k := .ldw (laneAccs r addr data (fun _ => 0)) [] wide cmp signed dest []) dk none st hr rfl
  let b : State := { s with groups := SMap.put s.groups r.gid { r.g with waits := gw }, subs := SMap.put s.subs r.sid (r.sg.setSt r.set .waiting), waits := ws, nextId := n }
  have hsub : SMap.get? b.subs r.sid = some (r.sg.setSt r.set .waiting) := SMap.get?_put_same ..
  have hgrp : SMap.get? b.groups r.sg.gid = some { r.g with waits := gw } := run_gid hr ▸ SMap.get?_put_same ..
  have hrun : b.runOf (r.waitRec r.act (.ldw (laneAccs r addr data (fun _ => 0)) [] wide cmp signed dest []) dk none st) = some (r.waited { r.g with waits := gw }) := by
    unfold State.runOf
    simp only [Run.waitRec, hsub, show (r.sg.setSt r.set .waiting).gid = r.sg.gid from rfl, hgrp, Option.map_some]
    rw [← hstall, ← run_gid hr]
    exact congrArg (fun n => some { r.waited { r.g with waits := gw } with now := n }) (run_now hr).symm
  have heval := State.ldwEval_satisfied (s := b) (items := laneItems r addr data (fun _ => 0) cells) hwait rfl hrun
    (by
      rw [laneAccs, laneItems, List.map_map, List.map_map]
      exact List.map_congr_left fun l hl => Prod.ext rfl (hlocal.2 l hl).1)
    (by
      rw [laneItems, List.map_map]
      exact (List.map_id' _).symm ▸ List.pairwise_lt_range.filter _)
    (fun c hc i hi => by
      obtain ⟨l, hl, rfl⟩ := List.mem_map.mp hi
      exact hsound c hc l hl)
    (fun i hi => by
      obtain ⟨l, hl, rfl⟩ := List.mem_map.mp hi
      exact hholds l hl)
  have hvals : (ldwRead b (if wide then 8 else 4) (laneItems r addr data (fun _ => 0) cells)).flatMap (fun v => dstWrites dest wide v.1 v.2.toNat) =
      (lanesOf r.act).flatMap (fun l => dstWrites dest wide l (s.num (cells l) (if wide then 8 else 4))) := by
    have hnum : ∀ c, s.num c (if wide then 8 else 4) < 2 ^ 64 := fun c =>
      Nat.lt_of_lt_of_le (s.num_lt c _) (Nat.pow_le_pow_right (by decide) (by split <;> decide))
    rw [ldwRead, laneItems, List.map_map, List.flatMap_map]
    refine List.flatMap_congr fun l _ => ?_
    show dstWrites dest wide l (BitVec.ofNat 64 (s.num (cells l) _)).toNat = _
    rw [BitVec.toNat_ofNat, Nat.mod_eq_of_lt (hnum _)]
  obtain ⟨v, hv, hcompleted, hmem, hwaits⟩ := State.ldwEnd_completed (s := b) (r := r.waited { r.g with waits := gw }) (wid := s.nextId)
    (w := r.waitRec r.act (.ldw (laneAccs r addr data (fun _ => 0)) [] wide cmp signed dest []) dk none st)
    (vals := ldwRead b (if wide then 8 else 4) (laneItems r addr data (fun _ => 0) cells)) (wide := wide) (dest := dest)
    (by rw [hvals]; exact flatMap_ok fun l _ => hdest l _) hsub hgrp
    (show r.now = (s.stn r.sg.mast r.sg.stn).cycles from run_now hr) (Run.waited_quiet _ hact hq) rfl rfl hstall.symm rfl
  rw [hvals] at hcompleted
  rw [hbegun, State.ldwExpire_ended heval (by rw [hwaits, SMap.get?_del, if_pos rfl])]
  refine ⟨_, v, rfl, hv, hmem, fun k hk => ?_, Run.waited_passed hact hcompleted⟩
  exact (congrArg (SMap.get? · k) hwaits).trans ((SMap.get?_del ..).trans ((if_neg (Ne.symm hk)).trans (hothers k hk)))

end Sys2Proof.Machine
end

section
namespace Sys2Proof
open Machine Safety

/-- Settles O24: the wait begins with the lanes' places as they were, and its first evaluation ends it. -/
theorem waitingLoadSatisfied : Obligations.WaitingLoadSatisfied := by
  intro s w x r cells wide n hi _ hstall hlocal hsound hholds hq
  obtain ⟨hexec, hr⟩ := exec_ldw hi hlocal
  have hdest : ∀ l y, ∀ e ∈ dstWrites w.dest wide l y, RegOk e.1 := by
    obtain ⟨href, hmis⟩ := issues_pos hi (h := hdX w (some x)) (g := ldwSig w (some x)) rfl (p := (Pos.dst w.dest Acc.vOnly).wide wide) (by simp [ldwSig, memSig, Sig.plain, wide])
    exact fun l y => dstWrites_ok l y href hmis
  obtain ⟨t, u, ht, hu, hmem, hstood, hpassed⟩ := ldw_passed (some (r.sval (xbOf x))) (xaOf x) hr hstall hdest hlocal hsound hholds hq
  rw [ht] at hexec
  exact ⟨_, u, hexec, hu, hmem, hstood, hpassed⟩

end Sys2Proof
end

section
/-! # Words with an effect of their own (O16)

Each completes after one change to the state, to its sub-group or to some registers (`Effected`); what is left of a proof is that its checks are the
ones that the statement names. -/

namespace Sys2Proof.Machine

open Sys2Proof Sys2Proof.Safety

/-! ## A run over a state that its word has changed -/

/-- The run's sub-group stands in a state as it issued, at the cycle at which it issued. -/
def Run.At (r : Run) (s : State) : Prop := SMap.get? s.subs r.sid = some r.sg ∧ r.now = (s.stn r.sg.mast r.sg.stn).cycles

theorem run_at {s : State} {h : Hd} {r : Run} (hr : run s h = some r) : r.At s := ⟨run_sub hr, run_now hr⟩

theorem Run.At.stands {s t : State} {r : Run} (h : r.At s) (hst : Stands s t) : r.At t := by
  obtain ⟨hsub, hnow⟩ := h
  obtain ⟨hsubs, hstns, -⟩ := hst
  exact ⟨hsubs ▸ hsub, by rw [State.stn, hstns]; exact hnow⟩

/-- A word completes with the state, the sub-group and the register writes named. -/
def Effected (s : State) (i : Instr) (r : Run) (s1 : State) (g1 : SubGroup) (ws : List (Reg × Word)) : Prop :=
  ∃ t u, exec i s = .next t ∧ OnlySub s1 t r.sid u ∧ Completed { r with sg := g1 } u (nextPc r) ws 0

/-- Two sub-groups whose lanes stand alike. -/
def SubGroup.standsAs (a b : SubGroup) : Prop := a.lanes = b.lanes ∧ a.mast = b.mast ∧ a.stn = b.stn

theorem quiet_standsAs {r : Run} {g : SubGroup} {pc : Nat → Word} (h : g.standsAs r.sg) (hq : quiet r pc = true) : quiet { r with sg := g } pc = true := by
  unfold quiet
  rw [show ({ r with sg := g } : Run).sg.lanes = r.sg.lanes from h.1]
  exact hq

theorem nextPc_standsAs {r : Run} {g : SubGroup} (h : g.standsAs r.sg) : nextPc { r with sg := g } = nextPc r := by
  funext l
  unfold nextPc
  rw [show ({ r with sg := g } : Run).sg.lanes = r.sg.lanes from h.1]

section
variable {s s1 t : State} {i : Instr} {r : Run}

/-- A word that changes its sub-group and completes. -/
theorem effected_sub {g1 : SubGroup} {ws : List (Reg × Word)} {f : SubGroup → SubGroup} (hexec : exec i s = .next { t with issuing := none })
    (ht : t = r.done (s1.updSub r.sid f)) (hat : r.At s1) (hw : Written g1 (f r.sg) ws 0) (hg : g1.standsAs r.sg) (hq : quiet r (nextPc r) = true) :
    Effected s i r s1 g1 ws := by
  obtain ⟨hsub, hnow⟩ := hat
  obtain ⟨v, hv, hdone⟩ := Run.done_completed (s := s1.updSub r.sid f) (r := { r with sg := g1 }) (by rw [State.updSub_of_get? _ hsub, SMap.get?_put_same]) hw
    (show r.now = (s1.stn g1.mast g1.stn).cycles by obtain ⟨-, hmast, hstn⟩ := hg; rw [hmast, hstn, hnow]) (by rw [nextPc_standsAs hg]; exact quiet_standsAs hg hq)
  rw [nextPc_standsAs hg] at hdone
  exact ⟨_, v, ht ▸ hexec, OnlySub.of_updSub hsub hv, hdone⟩

/-- A word that changes the state beside its sub-group and completes. -/
theorem effected_done (hexec : exec i s = .next { t with issuing := none }) (ht : t = r.done s1) (hat : r.At s1) (hq : quiet r (nextPc r) = true) :
    Effected s i r s1 r.sg [] := by
  obtain ⟨hsub, hnow⟩ := hat
  obtain ⟨v, hv, hdone⟩ := Run.done_completed hsub (Written.refl r.sg) hnow hq
  exact ⟨_, v, ht ▸ hexec, hv, hdone⟩

/-- A word of fixed latency. -/
theorem effected_fixed {lat : Nat} {ws : List (Reg × Word)} (hexec : exec i s = .next { t with issuing := none }) (ht : t = r.fixed s1 lat ws 0) (hat : r.At s1)
    (hws : ∀ w ∈ ws, RegOk w.1) (hq : quiet r (nextPc r) = true) : Effected s i r s1 r.sg ws :=
  effected_sub hexec ht hat (Written.fixed r.sg r.now lat (lanesOf r.set) 0 hws) ⟨rfl, rfl, rfl⟩ hq

end

/-! ## Special registers (R32 to R34) -/

theorem SubGroup.setSpecial_standsAs (sg : SubGroup) (n : Nat) (x : Word) : (sg.setSpecial n x).standsAs sg := by
  unfold SubGroup.setSpecial
  split <;> exact ⟨rfl, rfl, rfl⟩

/-- A special register is told by name: a write of it is to no register beside. -/
theorem Written.special (a : SubGroup) (now lat : Nat) (ls : List Nat) (n : Nat) (x : Word) :
    Written (a.setSpecial n x) ((a.writeFixed now lat ls (.x n) x).raise 0) [] 0 :=
  ⟨rfl, ⟨rfl, rfl, rfl, rfl, rfl, rfl, rfl, rfl, rfl, rfl, rfl, rfl, rfl, rfl⟩, RegsAfter.of_reg_eq fun y => by cases y <;> rfl, rfl, rfl⟩

theorem Written.specialNow (a : SubGroup) (n : Nat) (x : Word) : Written (a.setSpecial n x) (a.writeNow (.x n) x) [] 0 :=
  ⟨rfl, ⟨rfl, rfl, rfl, rfl, rfl, rfl, rfl, rfl, rfl, rfl, rfl, rfl, rfl, rfl⟩, RegsAfter.of_reg_eq fun y => by cases y <;> rfl, by simp; rfl, rfl⟩

theorem effected_special {s s1 t : State} {i : Instr} {r : Run} {n : Nat} {x : Word} (hexec : exec i s = .next { t with issuing := none })
    (ht : t = r.fixed s1 2 [(.x n, x)] 0) (hat : r.At s1) (hq : quiet r (nextPc r) = true) : Effected s i r s1 (r.sg.setSpecial n x) [] :=
  effected_sub hexec ht hat (Written.special r.sg r.now 2 (lanesOf r.set) n x) (SubGroup.setSpecial_standsAs ..) hq

/-! ## MIGR at its home, and collective words with their tile predicate 0 (R132, R142) -/

/-- Lanes all of which stand at their home stay there. -/
theorem migrPath_home {s : State} {r : Run} {sp : Space} {live : BitVec 8} {srcs : List Pos} {addr : Nat → Word}
    (hcheck : s.memCheck r sp 0 false true addr = none)
    (hhome : ∀ l ∈ lanesOf r.act, ((s.laneHome r sp (addr l)).map (isHere r.sg)).getD false = true) : migrPath r s sp live srcs addr = r.done s := by
  have hhere : ∀ l ∈ lanesOf r.act, ∃ h, s.laneHome r sp (addr l) = some h ∧ isHere r.sg h = true := by
    intro l hl
    have := hhome l hl
    cases hh : s.laneHome r sp (addr l) with
    | none => simp [hh] at this
    | some h => exact ⟨h, rfl, by simpa [hh] using this⟩
  have hstay := State.moveRemote_local (s := s) (r := r) (sp := sp) (addr := addr) (live ||| srcWindows srcs) fun l hl p hp => by
    obtain ⟨h, hh, hin⟩ := hhere l hl
    exact (Option.some.inj (hh.symm.trans hp)) ▸ hin
  have hkeep : ∀ m : Mask, m &&& ~~~(0 : Mask) = m := fun m => by rw [show ~~~(0 : Mask) = BitVec.allOnes 64 by decide, BitVec.and_allOnes]
  unfold migrPath
  simp only [hcheck, hstay, hkeep]
  refine if_neg fun hfar => ?_
  obtain ⟨l, hl, hl'⟩ := List.any_eq_true.mp (Bool.and_eq_true_iff.mp hfar).2
  obtain ⟨h, hh, hin⟩ := hhere l hl
  simp [hh, hin] at hl'

theorem exec_migr_home {s s1 : State} {i : Instr} {h : Hd} {r : Run} {sp : Space} {live : BitVec 8} {srcs : List Pos} {addr : Run → Nat → Word} {g1 : SubGroup}
    {ws : List (Reg × Word)}
    (hexec : exec i s = .next { migrPath r s sp live srcs (addr r) with issuing := none } ∧ run s h = some r)
    (hl : (if (s.memCheck r sp 0 false true (addr r)).isNone && (lanesOf r.act).all (fun l => ((s.laneHome r sp (addr r l)).map (isHere r.sg)).getD false)
      then some (s, r.sg, []) else none) = some (s1, g1, ws)) (hq : quiet r (nextPc r) = true) : Effected s i r s1 g1 ws := by
  obtain ⟨hexec, hr⟩ := hexec
  split_ifs at hl with hhome
  cases hl
  obtain ⟨hcheck, hhome⟩ := Bool.and_eq_true_iff.mp hhome
  exact effected_done hexec (migrPath_home (Option.isNone_iff_eq_none.mp hcheck) (List.all_eq_true.mp hhome)) (run_at hr) hq

theorem collective_idle {r : Run} {s : State} {kp : Nat} {widthOk : Bool} {idle body : State → State} (h : r.kp kp = false) :
    collective r s kp widthOk idle body = r.done (idle s) := by
  unfold collective
  rw [h]
  rfl

theorem exec_tileIdle {s s1 : State} {i : Instr} {h : Hd} {r : Run} {kp : Nat} {widthOk : Bool} {body : State → State} {g1 : SubGroup} {ws : List (Reg × Word)}
    (hexec : exec i s = .next { collective r s kp widthOk id body with issuing := none } ∧ run s h = some r)
    (hl : (if r.kp kp then none else some (s, r.sg, [])) = some (s1, g1, ws)) (hq : quiet r (nextPc r) = true) : Effected s i r s1 g1 ws := by
  obtain ⟨hexec, hr⟩ := hexec
  split_ifs at hl with hkp
  cases hl
  exact effected_done hexec (collective_idle (by simpa using hkp)) (run_at hr) hq

/-- MMA.SP with its tile predicate 0 ends its progress (R151). -/
theorem exec_mmaSp_idle {s s1 : State} {w : FWord} {x : XWord} {r : Run} {g1 : SubGroup} {ws : List (Reg × Word)} (hi : issues s (.mmaSp w (some x)) = some r)
    (hl : effectForm s r (.mmaSp w (some x)) = some (s1, g1, ws)) (hq : quiet r (nextPc r) = true) : Effected s (.mmaSp w (some x)) r s1 g1 ws := by
  obtain ⟨hexec, hr⟩ := exec_issuedF (g := mmaSpSig s w x) hi rfl (execMmaSp.eq_2 w s x)
  simp only [effectForm] at hl
  split_ifs at hl with hkp
  cases hl
  exact effected_sub hexec (collective_idle (by simpa using hkp)) (run_at hr) (Written.specialNow r.sg 0x0D 0) ⟨rfl, rfl, rfl⟩ hq

/-! ## Reads and writes of special registers (R201) -/

/-- Writes to a destination that is no vector register name registers of the machine. -/
theorem dstWrites_ok_of_not_v {o : Operand} {wide : Bool} {l x : Nat} (h : isV o = false) : ∀ w ∈ dstWrites o wide l x, RegOk w.1 := by
  intro w hw
  cases o with
  | v n => cases h
  | s n | p n | k n | d n =>
    rw [List.mem_singleton.mp hw]
    exact n.isLt
  | q n | zero | rsv n => cases hw

theorem exec_readSpecial_fixed {s s1 : State} {i : Instr} {w : FWord} {priv : Bool} {r : Run} {g1 : SubGroup} {ws : List (Reg × Word)} (hi : issues s i = some r)
    (hf : form s i = some (hdX w none, movsReadSig w priv)) (he : exec i s = readSpecial s w priv)
    (hl : (if !isS w.dest || selOf w = 0x0F then none
      else if selOf w = 0x0B then some ((s.clockRead r.sid r.act r.sg.gclk).2, r.sg, specialWrites s r w (s.clockRead r.sid r.act r.sg.gclk).1)
      else some (s, r.sg, specialWrites s r w 0)) = some (s1, g1, ws)) (hq : quiet r (nextPc r) = true) : Effected s i r s1 g1 ws := by
  obtain ⟨hexec, hr⟩ := exec_issuedF hi hf (he.trans (readSpecial.eq_1 s w priv))
  split_ifs at hl with hdest hclock
  all_goals
    cases hl
    obtain ⟨hs, hflags⟩ : isS w.dest = true ∧ selOf w ≠ 0x0F := by simpa using hdest
    have hws : ∀ clk, ∀ e ∈ specialWrites s r w clk, RegOk e.1 := fun clk => flatMap_ok fun l _ => dstWrites_ok_of_not_v (by cases hd : w.dest <;> simp_all [isS, isV])
  · refine effected_fixed (lat := 2) hexec ?_ ((run_at hr).stands (State.clockRead_stands ..)) (hws _) hq
    simp only [hclock, specialWrites, hs, if_true]
    rfl
  · refine effected_fixed (lat := 2) hexec ?_ (run_at hr) (hws _) hq
    simp only [hclock, hflags, specialWrites, hs, if_true, if_false]

/-- Flags that are cleared at a settling point. -/
theorem Written.clearFlags (a : SubGroup) (m : Mask) (x : Word) : Written { a with aflags := a.aflags &&& ~~~(x.setWidth 8) } ((a.settle m).clearFlags x) [] 0 :=
  ⟨rfl, ⟨rfl, rfl, rfl, rfl, rfl, rfl, rfl, rfl, rfl, rfl, rfl, rfl, rfl, rfl⟩, RegsAfter.of_reg_eq fun y => by cases y <;> rfl, by simp [SubGroup.clearFlags, SubGroup.settle], rfl⟩

/-- What a write of a special register leaves, for each register that it may write. -/
theorem specialWrite_eq {sg g1 : SubGroup} {sel : Nat} {priv : Bool} {x : Word} (h : specialWrite sg sel priv x = some g1) (hsel : sel ≠ 0x0F) :
    (sg.specialWrites sel priv x = [] ∧ g1 = sg) ∨ ∃ y, sg.specialWrites sel priv x = [(.x sel, y)] ∧ g1 = sg.setSpecial sel y := by
  unfold specialWrite at h
  split_ifs at h with hc hd hp h10 h11 h12 hp
  all_goals cases h
  · exact .inr ⟨x, by rw [hc]; rfl, by rw [hc]; rfl⟩
  · exact .inr ⟨x, by rw [hd]; exact if_pos hp, by rw [hd]; rfl⟩
  · exact .inr ⟨x &&& 0x3F, by rw [h10]; rfl, by rw [h10]; rfl⟩
  · exact .inr ⟨x, by rw [h11]; rfl, by rw [h11]; rfl⟩
  · exact .inr ⟨(sg.ctl &&& 4) ||| (x &&& 3), by rw [h12]; exact if_pos hp, by rw [h12]; rfl⟩
  · refine .inl ⟨?_, rfl⟩
    unfold SubGroup.specialWrites
    split <;> simp_all

/-- Only a supervisor's MOVS writes these registers (R201). -/
theorem specialWrite_allowed {sg g1 : SubGroup} {sel : Nat} {priv : Bool} {x : Word} (h : specialWrite sg sel priv x = some g1) :
    (!priv && (decide (sel = 0x0D) || decide (sel = 0x12))) = false := by
  cases priv with
  | true => rfl
  | false =>
    unfold specialWrite at h
    split_ifs at h <;> simp_all

theorem exec_writeSpecial {s s1 : State} {i : Instr} {w : FWord} {priv : Bool} {r : Run} {g1 : SubGroup} {ws : List (Reg × Word)} (hi : issues s i = some r)
    (hf : form s i = some (hdX w none, movsWriteSig w priv)) (he : exec i s = writeSpecialWord s w priv)
    (hl : (if selOf w = 0x0F && !r.g.outst.isEmpty then none
      else (specialWrite r.sg (selOf w) priv (BitVec.ofNat 64 (r.val (isS w.a) w.a r.low))).map (fun g => (s, g, []))) = some (s1, g1, ws))
    (hq : quiet r (nextPc r) = true) : Effected s i r s1 g1 ws := by
  obtain ⟨hexec, hr⟩ := exec_issuedF hi hf (he.trans (writeSpecialWord.eq_1 s w priv))
  split_ifs at hl with hwaits
  obtain ⟨g, hg, rfl, rfl, rfl⟩ : ∃ g, specialWrite r.sg (selOf w) priv (BitVec.ofNat 64 (r.val (isS w.a) w.a r.low)) = some g ∧ s = s1 ∧ g = g1 ∧ [] = ws := by
    simpa using hl
  have hallowed := specialWrite_allowed hg
  by_cases hflags : selOf w = 0x0F
  · have hout : r.g.outst = [] := by simpa [hflags] using hwaits
    obtain rfl : { r.sg with aflags := r.sg.aflags &&& ~~~((BitVec.ofNat 64 (r.val (isS w.a) w.a r.low)).setWidth 8) } = g := by
      simpa [specialWrite, hflags] using hg
    refine effected_sub (f := fun sg => (sg.settle r.set).clearFlags (BitVec.ofNat 64 (r.val (isS w.a) w.a r.low))) hexec ?_ (run_at hr)
      (Written.clearFlags r.sg r.set _) ⟨rfl, rfl, rfl⟩ hq
    simp only [hallowed, Bool.false_eq_true, if_false]
    simp only [hflags, settled, hout, List.map_nil, if_true]
    rw [State.settlePoint, State.updSub_of_get? _ (run_sub hr), State.updSub_of_get? _ (SMap.get?_put_same ..), State.updSub_of_get? _ (run_sub hr), SMap.put_put]
  · rcases specialWrite_eq hg hflags with ⟨hws, rfl⟩ | ⟨y, hws, rfl⟩
    · exact effected_fixed (lat := 2) hexec (by simp only [hallowed, hflags, hws, Bool.false_eq_true, if_false]) (run_at hr) nofun hq
    · exact effected_special hexec (by simp only [hallowed, hflags, hws, Bool.false_eq_true, if_false]) (run_at hr) hq

/-! ## Segments, translation and code (R202, R203) -/

theorem exec_segldL_here {s s1 : State} {w : FWord} {r : Run} {g1 : SubGroup} {ws : List (Reg × Word)} (hi : issues s (.segldL w) = some r)
    (hl : effectForm s r (.segldL w) = some (s1, g1, ws)) (hq : quiet r (nextPc r) = true) : Effected s (.segldL w) r s1 g1 ws := by
  obtain ⟨hexec, hr⟩ := exec_issuedF (g := segldLSig w) hi rfl (execSegldL.eq_1 w s)
  cases hcid : r.g.cid with
  | none => simp [effectForm, hcid] at hl
  | some cid =>
    cases hcrew : s.crewOf r.g with
    | none => simp [effectForm, hcid, hcrew] at hl
    | some c =>
      simp only [effectForm, hcid, hcrew] at hl
      split_ifs at hl with hbad hown
      cases hl
      refine effected_done hexec ?_ ((run_at hr).stands (Stands.of_eq rfl rfl rfl)) hq
      simp only [badLseg, hbad, hcid, hcrew, State.own, hown, decide_true, Bool.false_eq_true, if_true, if_false]
      rfl

theorem exec_segldP_good {s s1 : State} {w : FWord} {r : Run} {g1 : SubGroup} {ws : List (Reg × Word)} (hi : issues s (.segldP w) = some r)
    (hl : effectForm s r (.segldP w) = some (s1, g1, ws)) (hq : quiet r (nextPc r) = true) : Effected s (.segldP w) r s1 g1 ws := by
  obtain ⟨hexec, hr⟩ := exec_issuedF (g := segldSig w) hi rfl (execSegldP.eq_1 w s)
  simp only [effectForm] at hl
  split_ifs at hl with hbad
  cases hl
  exact effected_sub hexec (if_neg hbad) (run_at hr) (Written.refl _) ⟨rfl, rfl, rfl⟩ hq

/-- Code sectors are dropped from the stations' stores alone (R214). -/
theorem Run.At.dropCode {s : State} {r : Run} (f : Nat → CodeSector → Bool) (h : r.At s) : r.At (s.dropCode f) := by
  obtain ⟨hsub, hnow⟩ := h
  refine ⟨hsub, hnow.trans ?_⟩
  have hget := SMap.get?_map s.stns (fun k t => ({ t with store := t.store.filter (fun c => !f k c) } : Station)) (r.sg.mast * 64 + r.sg.stn)
  refine Eq.trans ?_ (congrArg (fun o : Option Station => (o.getD Station.reset).cycles) hget.symm)
  unfold State.stn
  cases SMap.get? s.stns (r.sg.mast * 64 + r.sg.stn) <;> rfl

theorem Run.At.dropPage {s : State} {r : Run} (ctx : Nat) (va : Word) (h : r.At s) : r.At (s.dropPage ctx va) :=
  Run.At.dropCode _ (h.stands (Stands.of_eq rfl rfl rfl))

theorem exec_tlbf_good {s s1 : State} {w : FWord} {r : Run} {g1 : SubGroup} {ws : List (Reg × Word)} (hi : issues s (.tlbf w) = some r)
    (hl : effectForm s r (.tlbf w) = some (s1, g1, ws)) (hq : quiet r (nextPc r) = true) : Effected s (.tlbf w) r s1 g1 ws := by
  obtain ⟨hexec, hr⟩ := exec_issuedF (g := tlbfSig w) hi rfl (execTlbf.eq_1 w s)
  simp only [effectForm] at hl
  split at hl
  next d m hhome =>
    split_ifs at hl with hgood
    cases hl
    simp only [Bool.and_eq_true, decide_eq_true_eq, Bool.not_eq_true', Option.isNone_iff_eq_none] at hgood
    obtain ⟨⟨⟨⟨rfl, hent⟩, htype⟩, howned⟩, hwalk⟩ := hgood
    refine effected_done hexec ?_ ((run_at hr).stands (Stands.of_eq rfl rfl rfl)) hq
    simp only [hhome, hwalk, hent, htype, howned, decide_true, Bool.not_true, Bool.or_false, Bool.false_eq_true, if_false, Option.map_none, Option.getD_none]
  next => cases hl

/-- The home mast and the direct address of a page that TLBI.VA names (R203). -/
def State.pageHome (s : State) (r : Run) (a : Word) : Option (Nat × Word) :=
  match (s.ctxOf r.g).map (fun c => s.home c a) with
  | some (.dram _ m) => some (m, s.directOf r.g a)
  | some (.window _ _ _ _) | some (.none _) | none => none

/-- Pages all of which lie on this device are dropped, and no other device is asked. -/
theorem tlbiVa_own {s : State} {r : Run} {vas : List (Nat × Word)} (h : ∀ e ∈ vas, s.own e.1 = true) :
    (if (vas.filter (fun e => !s.own e.1)).dedup = [] then r.done ((vas.filter (fun e => s.own e.1)).foldl (fun s e => s.dropPage r.g.ctx e.2) s)
      else r.askUnits ((vas.filter (fun e => s.own e.1)).foldl (fun s e => s.dropPage r.g.ctx e.2) s)
        ((vas.filter (fun e => !s.own e.1)).dedup.map (fun e => (mastPort e.1, fun wid => .tlbi r.g.ctx e.2 wid)))) =
    r.done (vas.foldl (fun s e => s.dropPage r.g.ctx e.2) s) := by
  have hfar : vas.filter (fun e => !s.own e.1) = [] := List.filter_eq_nil_iff.mpr fun e he => by simp [h e he]
  rw [hfar, List.filter_eq_self.mpr h]
  rfl

/-- The pages of this device go at once (R203). -/
theorem exec_tlbiVa_near {s s1 : State} {w : FWord} {r : Run} {g1 : SubGroup} {ws : List (Reg × Word)} (hi : issues s (.tlbiVa w) = some r)
    (hl : effectForm s r (.tlbiVa w) = some (s1, g1, ws)) (hq : quiet r (nextPc r) = true) : Effected s (.tlbiVa w) r s1 g1 ws := by
  obtain ⟨hexec, hr⟩ := exec_issuedF (g := tlbiVaSig w) hi rfl (execTlbiVa.eq_1 w s)
  simp only [effectForm] at hl
  split_ifs at hl with hnear
  cases hl
  have hown : ∀ e ∈ (r.pages w.a).filterMap (s.pageHome r), s.own e.1 = true := by
    intro e he
    obtain ⟨a, ha, hpage⟩ := List.mem_filterMap.mp he
    have hhome := List.all_eq_true.mp hnear a ha
    unfold State.pageHome at hpage
    split at hpage <;> cases hpage
    next d m hm =>
    rw [hm] at hhome
    exact hhome
  refine effected_done hexec ((tlbiVa_own hown).trans (congrArg r.done ?_)) ?_ hq
  · rw [List.foldl_filterMap]
    refine List.foldl_ext _ _ s fun t a _ => ?_
    unfold State.pageHome
    cases (s.ctxOf r.g).map (fun c => s.home c a) with
    | none => rfl
    | some h => cases h <;> rfl
  · refine List.foldlRecOn (motive := r.At) _ _ (run_at hr) fun t ht a _ => ?_
    split
    · exact ht.dropPage ..
    · exact ht

/-! ## Deadlines and clocks (R204, R205) -/

theorem not_v_of_refused {o : Operand} {a : Acc} {g : Group} (ha : a.v = false) (h : (Pos.dst o a).refused g = false) : isV o = false := by
  cases o with
  | v n => simp [Pos.refused, Pos.dst, Acc.takes, ha] at h
  | s n | p n | k n | q n | d n | zero | rsv n => rfl

/-- A destination that takes no vector register is written as such. -/
theorem issues_dst_ok {s : State} {i : Instr} {h : Hd} {g : Sig} {r : Run} {o : Operand} {a : Acc} {wide : Bool} {l x : Nat} (hi : issues s i = some r)
    (hf : form s i = some (h, g)) (hp : Pos.dst o a ∈ g.pos) (ha : a.v = false) : ∀ w ∈ dstWrites o wide l x, RegOk w.1 := by
  obtain ⟨href, -⟩ := issues_pos hi hf hp
  exact dstWrites_ok_of_not_v (not_v_of_refused ha href)

theorem exec_dlsetRel {s : State} {w : FWord} {r : Run} (hi : issues s (.dlsetRel w) = some r) (hq : quiet r (nextPc r) = true) :
    Effected s (.dlsetRel w) r s r.sg (dstWrites w.dest true 0 (min (r.sg.gclk.toNat + (r.sval w.b).toNat) (2 ^ 64 - 1))) := by
  obtain ⟨hexec, hr⟩ := exec_issuedF (g := dlsetSig w 0) hi rfl (execDlsetRel.eq_1 w s)
  exact effected_fixed hexec rfl (run_at hr) (issues_dst_ok hi (h := hdX w none) (g := dlsetSig w 0) rfl (a := Acc.dOnly) (by simp [dlsetSig, Sig.plain]) rfl) hq

theorem exec_dlsetAbs {s : State} {w : FWord} {r : Run} (hi : issues s (.dlsetAbs w) = some r) (hq : quiet r (nextPc r) = true) :
    Effected s (.dlsetAbs w) r s r.sg (dstWrites w.dest true 0 (r.sval w.b).toNat) := by
  obtain ⟨hexec, hr⟩ := exec_issuedF (g := dlsetSig w 1) hi rfl (execDlsetAbs.eq_1 w s)
  exact effected_fixed hexec rfl (run_at hr) (issues_dst_ok hi (h := hdX w none) (g := dlsetSig w 1) rfl (a := Acc.dOnly) (by simp [dlsetSig, Sig.plain]) rfl) hq

theorem exec_dlsetDef {s : State} {w : FWord} {r : Run} (hi : issues s (.dlsetDef w) = some r) (hq : quiet r (nextPc r) = true) :
    Effected s (.dlsetDef w) r s { r.sg with dldef := r.sval w.b } [] := by
  obtain ⟨hexec, hr⟩ := exec_issuedF (g := dlsetSig w 2) hi rfl (execDlsetDef.eq_1 w s)
  exact effected_special (n := 0x0C) (x := r.sval w.b) hexec (by simp [dlset]) (run_at hr) hq

theorem exec_dlsetI {s s1 : State} {w : IWord} {r : Run} {g1 : SubGroup} {ws : List (Reg × Word)} (hi : issues s (.dlsetI w) = some r)
    (hl : effectForm s r (.dlsetI w) = some (s1, g1, ws)) (hq : quiet r (nextPc r) = true) : Effected s (.dlsetI w) r s1 g1 ws := by
  obtain ⟨hexec, hr⟩ := exec_issuedI (g := dlsetISig w) hi rfl (execDlsetI.eq_1 w s)
  have hdest : (iMods w).getD 0 ≠ 2 → ∀ x, ∀ e ∈ dstWrites w.dest true 0 x, RegOk e.1 := fun hop x =>
    issues_dst_ok hi (h := hdI w) (g := dlsetISig w) rfl (a := Acc.dOnly) (by simp [dlsetISig, Sig.plain, hop]) rfl
  rcases hop : (iMods w).getD 0 with _ | _ | n
  all_goals
    simp only [effectForm, hop] at hl
    cases hl
    rw [hop] at hexec
  · exact effected_fixed hexec rfl (run_at hr) (hdest (by omega) _) hq
  · exact effected_fixed hexec rfl (run_at hr) (hdest (by omega) _) hq
  · exact effected_special (n := 0x0C) hexec rfl (run_at hr) hq

theorem exec_clkrd {s s1 : State} {w : FWord} {r : Run} {g1 : SubGroup} {ws : List (Reg × Word)} (hi : issues s (.clkrd w) = some r)
    (hl : effectForm s r (.clkrd w) = some (s1, g1, ws)) (hq : quiet r (nextPc r) = true) : Effected s (.clkrd w) r s1 g1 ws := by
  obtain ⟨hexec, hr⟩ := exec_issuedF (g := clkrdSig w) hi rfl (execClkrd.eq_1 w s)
  cases hl
  refine effected_fixed (lat := 2) hexec ?_ ((run_at hr).stands (State.clockRead_stands ..))
    (issues_dst_ok hi (h := hdX w none) (g := clkrdSig w) rfl (a := Acc.sOnly) (by simp [clkrdSig, Sig.plain]) rfl) hq
  rcases hop : w.lo.toNat % 4 with _ | _ | n <;> rfl

/-! ## DSTEP (R206) -/

theorem exec_dstep_armed {s s1 : State} {w : FWord} {r : Run} {g1 : SubGroup} {ws : List (Reg × Word)} (hi : issues s (.dstep w) = some r)
    (hl : effectForm s r (.dstep w) = some (s1, g1, ws)) (hq : quiet r (nextPc r) = true) : Effected s (.dstep w) r s1 g1 ws := by
  obtain ⟨hexec, hr⟩ := exec_issuedF (g := dstepSig w) hi rfl (execDstep.eq_1 w s)
  by_cases hframe : r.sg.tframe = 0
  · simp [effectForm, hframe] at hl
  simp only [effectForm, hframe, if_false] at hl
  obtain ⟨c, hctx, hl⟩ := Option.bind_eq_some_iff.mp hl
  split at hl
  next rmask cells hread =>
    obtain ⟨hlane, hl⟩ := Option.ite_none_right_eq_some.mp hl
    cases hl
    refine effected_sub (f := fun sg => { sg with armed := some (if isS w.a then (r.sval w.a).toNat else lowest rmask) }) hexec ?_
      ((run_at hr).stands (State.checkRead_stands ..)) (Written.refl _) ⟨rfl, rfl, rfl⟩ hq
    simp only [hframe, if_false, Run.withWords, hctx, hread]
    exact if_pos hlane
  next => cases hl

/-! ## The words together -/

theorem exec_effectForm {s s1 : State} {i : Instr} {r : Run} {g1 : SubGroup} {ws : List (Reg × Word)} (hi : issues s i = some r)
    (hl : effectForm s r i = some (s1, g1, ws)) (hq : quiet r (nextPc r) = true) : Effected s i r s1 g1 ws := by
  cases i with
  | mma w => exact exec_tileIdle (exec_issuedF (g := mmaSig s w) hi rfl (execMma.eq_1 w s)) hl hq
  | bmc w => exact exec_tileIdle (exec_issuedF (g := bmcSig s w) hi rfl (execBmc.eq_1 w s)) hl hq
  | bmx w => exact exec_tileIdle (exec_issuedF (g := bmxSig s w) hi rfl (execBmx.eq_1 w s)) hl hq
  | mpart w => exact exec_tileIdle (exec_issuedF (g := mpartSig s w) hi rfl (execMpart.eq_1 w s)) hl hq
  | migrG w x => exact exec_migr_home (addr := memAddr w x) (exec_issuedMem (needX := false) (g := migrGSig w x) hi rfl (execMigrG.eq_1 w x s)) hl hq
  | migrL w x => exact exec_migr_home (addr := fun _ _ => 0) (exec_issuedMem (needX := false) (g := migrLSig w) hi rfl (execMigrL.eq_1 w x s)) hl hq
  | mmaBs w x =>
    cases x with
    | none => cases hl
    | some x => exact exec_tileIdle (exec_issuedF (g := mmaBsSig s w x) hi rfl (execMmaBs.eq_2 w s x)) hl hq
  | mmaSp w x =>
    cases x with
    | none => cases hl
    | some x => exact exec_mmaSp_idle hi hl hq
  | smerge w x =>
    cases x with
    | none => cases hl
    | some x => exact exec_tileIdle (exec_issuedF (g := smergeSig w x) hi rfl (execSmerge.eq_2 w s x)) hl hq
  | movsRead w => exact exec_readSpecial_fixed hi rfl rfl hl hq
  | movspRead w => exact exec_readSpecial_fixed hi rfl rfl hl hq
  | movsWrite w => exact exec_writeSpecial hi rfl rfl hl hq
  | movspWrite w => exact exec_writeSpecial hi rfl rfl hl hq
  | segldL w => exact exec_segldL_here hi hl hq
  | segldP w => exact exec_segldP_good hi hl hq
  | tlbf w => exact exec_tlbf_good hi hl hq
  | tlbiVa w => exact exec_tlbiVa_near hi hl hq
  | tlbiCtx w =>
    obtain ⟨hexec, hr⟩ := exec_issuedF (g := tlbiSig w 1 [w.dest, w.a, w.b, w.c] []) hi rfl (execTlbiCtx.eq_1 w s)
    cases hl
    exact effected_done hexec rfl (Run.At.dropCode _ ((run_at hr).stands (Stands.of_eq rfl rfl rfl))) hq
  | tlbiAll w =>
    obtain ⟨hexec, hr⟩ := exec_issuedF (g := tlbiSig w 2 [w.dest, w.a, w.b, w.c] []) hi rfl (execTlbiAll.eq_1 w s)
    cases hl
    exact effected_done hexec rfl (Run.At.dropCode _ ((run_at hr).stands (Stands.of_eq rfl rfl rfl))) hq
  | dlsetRel w => cases hl; exact exec_dlsetRel hi hq
  | dlsetAbs w => cases hl; exact exec_dlsetAbs hi hq
  | dlsetDef w => cases hl; exact exec_dlsetDef hi hq
  | dlsetI w => exact exec_dlsetI hi hl hq
  | clkrd w => exact exec_clkrd hi hl hq
  | dstep w => exact exec_dstep_armed hi hl hq
  | _ => cases hl

end Sys2Proof.Machine
end

section
namespace Sys2Proof
open Machine Safety

/-- Settles O16: each word's checks are those that its effect names, and its lanes then retire. -/
theorem effectWords : Obligations.EffectWords := fun _ _ _ _ _ _ hi hl hq => exec_effectForm hi hl hq

end Sys2Proof
end

section
/-! # Stream elements and the bounds of implicit waits (O52) -/

namespace Sys2Proof.Machine

open Sys2Proof Sys2Proof.Safety

/-! ## Lanes that issue again -/

theorem State.redoWait_groups (s : State) (wid : Nat) (w : Wait) : (s.redoWait wid w).groups = s.groups :=
  foldl_keeps (fun t (e : Nat × Wait) => State.readyWait t e.1 e.2) State.groups (fun _ _ => rfl) _ _

theorem State.wakeQld_groups (s : State) (gid : Nat) : (s.wakeQld gid).groups = s.groups :=
  foldl_keeps (fun t (e : Nat × Wait) => State.redoWait t e.1 e.2) State.groups (fun _ _ => State.redoWait_groups ..) _ _

/-- Lanes that issue again only take their waits away. -/
theorem State.redoWait_waits {s : State} {wid : Nat} {w : Wait} {e : Nat × Wait} (he : e ∈ (s.redoWait wid w).waits) : e ∈ s.waits :=
  List.foldlRecOn (motive := fun t : State => e ∈ t.waits → e ∈ s.waits) _ _ SMap.mem_del (fun _ ht _ _ h => ht (SMap.mem_del h)) he

theorem State.wakeQld_waits {s : State} {gid : Nat} {e : Nat × Wait} (he : e ∈ (s.wakeQld gid).waits) : e ∈ s.waits :=
  List.foldlRecOn (motive := fun t : State => e ∈ t.waits → e ∈ s.waits) _ _ id (fun _ ht _ _ h => ht (State.redoWait_waits h)) he

/-- Where no fence waits, none is judged. -/
theorem State.judgeFences_none {s : State} (gid : Nat) (h : ∀ e ∈ s.waits, ∀ p sc o b, e.2.kind ≠ .fence p sc o b) : s.judgeFences gid = s := by
  refine List.foldlRecOn (motive := fun t => t = s) _ _ rfl fun t _ e he => ?_
  obtain ⟨he, hfence⟩ := List.mem_filter.mp he
  cases hk : e.2.kind with
  | fence p sc o b => exact absurd hk (h e he p sc o b)
  | _ => simp [hk] at hfence

/-! ## Requests of a stream unit (R133) -/

/-- The privilege with which a stream unit fetches (log entry 15). -/
def State.unitSv (s : State) (gid : Nat) (g : Group) : Bool :=
  (((g.lowestLive.bind (s.holderOf gid)).bind (SMap.get? s.subs)).map SubGroup.sv).getD false

/-- The elements that a stream unit fetches with the next one: those of its sector that can be fetched. -/
def State.fetched (s : State) (gid : Nat) (g : Group) (st : Stream) (c : Ctx) (e : StreamEl) : List StreamEl :=
  (g.run st (e.va.toNat / 32) (fun y => (s.elementTrap c (s.unitSv gid g) st y).isNone) 32 st.next).map (fun x => { x with va := s.direct c x.va })

theorem exec_streamFetch {s : State} {gid q : Nat} {g : Group} {st st' : Stream} {c : Ctx} {e : StreamEl} (hg : SMap.get? s.groups gid = some g)
    (hwalker : g.walker = false) (hst : SMap.get? g.streams q = some st) (hc : SMap.get? s.ctxs g.ctx = some c) (htotal : st.next < st.total)
    (hahead : st.next < st.ahead) (he : g.element st st.next = some e) (htrap : s.elementTrap c (s.unitSv gid g) st e = none)
    (hwant : st.want (s.fetched gid g st c e) none = some st') :
    exec (.streamFetch gid q) s = .next ((s.updGroup gid (fun x =>
      ({ x with streams := SMap.put x.streams q st' } : Group).consumeIndex st (st.next + (s.fetched gid g st c e).length))).wakeQld gid) := by
  unfold State.unitSv at htrap
  unfold State.fetched State.unitSv at hwant
  refine Eq.trans (congrArg Host.Outcome.next ?_ : execStreamFetch gid q s = _) rfl
  simp only [hg, hst, hc, he, htrap, hwant, hwalker, ge_iff_le, Nat.not_le.mpr htotal, Nat.not_le.mpr hahead, decide_false, Bool.or_false, Bool.false_and,
      Bool.false_eq_true, if_false]
  rfl

theorem Group.consumeIndex_stream {g : Group} {st : Stream} {q : Nat} (n : Nat) (h : st.qi ≠ some q) :
    SMap.get? (g.consumeIndex st n).streams q = SMap.get? g.streams q := by
  unfold Group.consumeIndex
  split
  · rfl
  next k hk =>
    have hne : k ≠ q := fun hkq => h (hkq ▸ hk)
    unfold SMap.upd
    split
    · exact SMap.get?_put_ne _ _ hne
    · rfl

/-- A fetch leaves the stream with the elements that it wants joined to it (R133). -/
theorem streamFetch_wants {s : State} {gid q : Nat} {g : Group} {st st' : Stream} {c : Ctx} {e : StreamEl} (hg : SMap.get? s.groups gid = some g)
    (hwalker : g.walker = false) (hst : SMap.get? g.streams q = some st) (hc : SMap.get? s.ctxs g.ctx = some c) (htotal : st.next < st.total)
    (hahead : st.next < st.ahead) (he : g.element st st.next = some e) (htrap : s.elementTrap c (s.unitSv gid g) st e = none)
    (hwant : st.want (s.fetched gid g st c e) none = some st') (hqi : st.qi ≠ some q) :
    ∃ t g', exec (.streamFetch gid q) s = .next t ∧ t.mem = s.mem ∧ SMap.get? t.groups gid = some g' ∧ SMap.get? g'.streams q = some st' := by
  refine ⟨_, ({ g with streams := SMap.put g.streams q st' } : Group).consumeIndex st (st.next + (s.fetched gid g st c e).length),
    exec_streamFetch hg hwalker hst hc htotal hahead he htrap hwant, by simp, ?_,
    (Group.consumeIndex_stream _ hqi).trans (SMap.get?_put_same ..)⟩
  rw [State.wakeQld_groups, State.updGroup_of_get? _ hg]
  exact SMap.get?_put_same ..

/-- Elements of a sector that a stream neither holds nor has asked for are asked for now, where its depth allows. -/
theorem Stream.want_new {st : Stream} {els : List StreamEl}
    (hsecs : st.secs.find? (fun x => decide (x.1 = ((els.head?.map (fun (e : StreamEl) => e.va)).getD 0).toNat / 32)) = none)
    (hreqs : ∀ x ∈ st.reqs, x.sec ≠ ((els.head?.map (fun (e : StreamEl) => e.va)).getD 0).toNat / 32) (hdepth : st.sectors < st.depth) (x : Option XlReq) :
    st.want els x = some { st with secs := st.secs.filter (fun e => st.gotSecs.contains e.1), reqs := st.reqs ++ [{ els := els, x := x }] } := by
  have hidx : st.reqs.findIdx? (fun r => decide (r.sec = ((els.head?.map (fun (e : StreamEl) => e.va)).getD 0).toNat / 32)) = none :=
    List.findIdx?_eq_none_iff.mpr fun r hr => decide_eq_false (hreqs r hr)
  unfold Stream.want
  simp only [hsecs, hidx]
  exact if_neg (Nat.not_le.mpr hdepth)

/-! ## An element that comes back (R136, R138) -/

theorem State.errorEvent_groups (s : State) (m : Nat) : (s.errorEvent m).groups = s.groups := by
  simp [State.errorEvent, State.postAt, State.on, State.post]

theorem State.countCe_groups (s : State) (m : Nat) : (s.countCe m).groups = s.groups := by
  unfold State.countCe
  dsimp only
  split
  · exact State.errorEvent_groups ..
  · rfl

theorem State.countRow_groups (s : State) (cell : Nat) : (s.countRow cell).groups = s.groups := by
  unfold State.countRow
  dsimp only
  split <;> rfl

/-- A read of a sector that is not uncorrectable changes no group. -/
theorem State.checkRead_good_groups {s : State} {k : Nat} (h : k ∉ s.bad) : (s.checkRead [k]).groups = s.groups := by
  have hbad : s.bad.contains k = false := by simpa using h
  simp only [State.checkRead, List.foldl_cons, List.foldl_nil, hbad, Bool.false_eq_true, if_false]
  split
  · rw [State.countRow_groups, State.countCe_groups]
  · rfl

theorem exec_streamArrival {s : State} {gid q k c : Nat} {g : Group} {st : Stream} {r : StreamReq} (hg : SMap.get? s.groups gid = some g)
    (hst : SMap.get? g.streams q = some st) (hk : st.reqs.findIdx? (fun r => (r.x.bind (fun x => x.held)).isNone) = some k) (hr : st.reqs[k]? = some r)
    (hfail : (r.x.map (fun x => x.fail)).getD false = false) (hfenced : s.fencedAt ((r.els.head?.map (fun e => e.va)).getD 0) = false)
    (hlinked : s.linked (st.mast / 16) (s.vaMast ((r.els.head?.map (fun e => e.va)).getD 0) / 16) = true)
    (hplace : s.placeOf g.ctx ((r.els.head?.map (fun e => e.va)).getD 0) ((r.x.map (fun x => x.acc)).getD 0) = .cell c) (hbad : sectorOf c ∉ s.bad)
    (hfences : ∀ w ∈ s.waits, ∀ p sc o b, w.2.kind ≠ .fence p sc o b) :
    exec (.streamElementArrival gid q) s = .next (((s.checkRead [sectorOf c]).updGroup gid (fun g => { g with streams := SMap.put g.streams q { st with
        reqs := st.reqs.eraseIdx k
        secs := st.secs ++ [(r.sec, s.num (sectorOf c) 32)]
        got := st.got ++ r.els.map (fun e => { e with val := elemOf st.esz (s.num (sectorOf c) 32) e.va }) } })).wakeQld gid) := by
  have hheld : (r.x.bind (fun x => x.held)).isSome = false := by
    obtain ⟨hlt, hnone, -⟩ := List.findIdx?_eq_some_iff_getElem.mp hk
    rw [List.getElem?_eq_getElem hlt] at hr
    rw [← Option.not_isNone, ← Option.some.inj hr, hnone]
    rfl
  have hbad' : s.bad.contains (sectorOf c) = false := by simpa using hbad
  refine Eq.trans (congrArg Host.Outcome.next ?_ : execStreamElementArrival gid q s = _) rfl
  simp only [hg, hst, hk, hr, State.streamArrive, hfail, hfenced, hheld, hlinked, hplace, hbad', Bool.not_true, Bool.false_eq_true, if_false]
  refine State.judgeFences_none gid fun e he => hfences e ?_
  have := State.wakeQld_waits he
  rwa [State.updGroup_waits, State.checkRead_waits] at this

/-- An element that comes back stands with its value (R136). -/
theorem streamArrival_stands {s : State} {gid q k c : Nat} {g : Group} {st : Stream} {r : StreamReq} (hg : SMap.get? s.groups gid = some g)
    (hst : SMap.get? g.streams q = some st) (hk : st.reqs.findIdx? (fun r => (r.x.bind (fun x => x.held)).isNone) = some k) (hr : st.reqs[k]? = some r)
    (hfail : (r.x.map (fun x => x.fail)).getD false = false) (hfenced : s.fencedAt ((r.els.head?.map (fun e => e.va)).getD 0) = false)
    (hlinked : s.linked (st.mast / 16) (s.vaMast ((r.els.head?.map (fun e => e.va)).getD 0) / 16) = true)
    (hplace : s.placeOf g.ctx ((r.els.head?.map (fun e => e.va)).getD 0) ((r.x.map (fun x => x.acc)).getD 0) = .cell c) (hbad : sectorOf c ∉ s.bad)
    (hfences : ∀ w ∈ s.waits, ∀ p sc o b, w.2.kind ≠ .fence p sc o b) :
    ∃ t g', exec (.streamElementArrival gid q) s = .next t ∧ t.mem = s.mem ∧ SMap.get? t.groups gid = some g' ∧ SMap.get? g'.streams q = some { st with
      reqs := st.reqs.eraseIdx k
      secs := st.secs ++ [(r.sec, s.num (sectorOf c) 32)]
      got := st.got ++ r.els.map (fun e => { e with val := elemOf st.esz (s.num (sectorOf c) 32) e.va }) } := by
  refine ⟨_, { g with streams := SMap.put g.streams q _ }, exec_streamArrival hg hst hk hr hfail hfenced hlinked hplace hbad hfences, by simp, ?_,
    SMap.get?_put_same ..⟩
  rw [State.wakeQld_groups, State.updGroup_of_get? (s := s.checkRead [sectorOf c]) _ (by rw [State.checkRead_good_groups hbad, hg])]
  exact SMap.get?_put_same ..

/-! ## The bound of an implicit wait (R253, R254) -/

/-- A note of a lane set for a journal leaves waits, images and calls as they were. -/
theorem State.noteLanes_leaves (s : State) (typ sid : Nat) (lanes : Mask) (x : Word) :
    (s.noteLanes typ sid lanes x).waits = s.waits ∧ (s.noteLanes typ sid lanes x).images = s.images ∧ (s.noteLanes typ sid lanes x).calls = s.calls := by
  have hnote : ∀ (m typ ctx : Nat) (w1 w2 w3 : Word), (s.noteAt m typ ctx w1 w2 w3).waits = s.waits ∧
      (s.noteAt m typ ctx w1 w2 w3).images = s.images ∧ (s.noteAt m typ ctx w1 w2 w3).calls = s.calls := by
    intro m typ ctx w1 w2 w3
    obtain ⟨j, hj⟩ := State.note_eq (s.enter (m / 16)) (m % 16) typ ctx w1 w2 w3
    simp [State.noteAt, State.on, hj]
  unfold State.noteLanes
  split
  · split
    · exact hnote ..
    · exact ⟨rfl, rfl, rfl⟩
  · exact ⟨rfl, rfl, rfl⟩

/-- What the deadline trap of some lanes at their word names (R254). -/
def Wait.expiry (w : Wait) (b : Nat) (fmask : Mask) : TrapReq :=
  { cause := 0x10, detail := 1, info := BitVec.ofNat 64 b, fmask := fmask, next := false, tpc := w.pc, len := w.len, iword := w.iword, xword := w.xword }

/-- A wait that its bound ends is gone, and its lanes take the deadline trap. -/
theorem State.trapWait_expiry (s : State) (wid : Nat) (w : Wait) (b : Nat) (fmask : Mask) :
    ∃ t : State, t.mem = s.mem ∧ t.subs = s.subs ∧ t.images = s.images ∧ t.waits = SMap.del s.waits wid ∧
      s.trapWait wid w 0x10 1 (BitVec.ofNat 64 b) fmask = t.atSub w.sid (fun s => s.enterTrap w.sid w.lanes (w.expiry b fmask)) := by
  obtain ⟨hsubs, -⟩ := State.noteLanes_keeps { s with waits := SMap.del s.waits wid } 3 w.sid w.lanes 0x10
  obtain ⟨hwaits, himages, -⟩ := State.noteLanes_leaves { s with waits := SMap.del s.waits wid } 3 w.sid w.lanes 0x10
  exact ⟨({ s with waits := SMap.del s.waits wid } : State).noteLanes 3 w.sid w.lanes 0x10, by simp, hsubs, himages, hwaits, rfl⟩

theorem exec_implicitWaitExpiry {s : State} {wid b : Nat} {w : Wait} {sg : SubGroup} (hw : SMap.get? s.waits wid = some w) (hb : w.bound = some b)
    (hsub : SMap.get? s.subs w.sid = some sg) (hdue : b ≤ sg.gclk.toNat) : exec (.implicitWaitExpiry wid) s = .next (s.implicitExpire wid w b) := by
  refine (congrArg Host.Outcome.next ?_ : execImplicitWaitExpiry wid s = _)
  simp only [hw, hb, hsub, hdue, if_true]

/-- Some lanes of an LDW take the deadline trap, and the others wait on (R125, R254). -/
theorem State.ldwDrop_expiry {s : State} {wid : Nat} (w : Wait) (k : WaitKind) (m : Mask) (b : Nat) (hid : wid < s.nextId) :
    ∃ t : State, t.mem = s.mem ∧ t.subs = s.subs ∧
      SMap.get? t.waits wid = (if w.lanes &&& ~~~m = 0 then none else some { w with kind := k, lanes := w.lanes &&& ~~~m }) ∧
      s.ldwDrop wid w k m 0x10 1 (BitVec.ofNat 64 b) =
        t.atSub w.sid (fun s => s.enterTrap w.sid (if w.lanes &&& ~~~m = 0 then w.lanes else m) (w.expiry b m)) := by
  unfold State.ldwDrop
  by_cases hall : w.lanes &&& ~~~m = 0
  · obtain ⟨t, hmem, hsubs, -, hwaits, htrap⟩ := State.trapWait_expiry s wid w b m
    refine ⟨t, hmem, hsubs, by rw [hwaits, SMap.get?_del, if_pos rfl, if_pos hall], ?_⟩
    rw [if_pos hall, htrap, if_pos hall]
  · obtain ⟨t, hmem, hsubs, -, hwaits, htrap⟩ := State.trapWait_expiry
      { s with waits := SMap.put s.waits wid { w with kind := k, lanes := w.lanes &&& ~~~m }, nextId := s.nextId + 1 } s.nextId { w with lanes := m } b m
    refine ⟨t, hmem, hsubs, ?_, ?_⟩
    · rw [hwaits, SMap.get?_del, if_neg (by omega), SMap.get?_put_same, if_neg hall]
    · rw [if_neg hall, if_neg hall]
      exact htrap

theorem State.implicitExpire_ldw {s : State} {wid b : Nat} {w : Wait} {r : Run} {ops : List LaneAcc} {vals : List (Nat × Word)} {wide signed : Bool} {cmp : Nat}
    {dest : Operand} {xs : List XlReq} (hkind : w.kind = .ldw ops vals wide cmp signed dest xs) (hr : s.runOf w = some r) :
    s.implicitExpire wid w b = s.ldwDrop wid { w with bound := none } (.ldw (ops.filter (fun o => !pageAsked xs (s.dirOf r o.addr))) vals wide cmp signed dest [])
      (maskOf ((ops.filter (fun o => pageAsked xs (s.dirOf r o.addr))).map (fun o => o.lane))) 0x10 1 (BitVec.ofNat 64 b) := by
  simp only [State.implicitExpire, State.ldwHoldExpire, hkind, hr]

/-- Lanes that could not enter their handler stop, and their frame is free (R196). -/
theorem State.implicitExpire_trapEntry {s : State} {wid b f : Nat} {w : Wait} {sg : SubGroup} {p : TrapReq} {x : XlReq} (hkind : w.kind = .trapEntry p f x)
    (hsub : SMap.get? s.subs w.sid = some sg) :
    ∃ t : State, t.mem = s.mem ∧ t.subs = s.subs ∧ SMap.get? t.waits wid = none ∧ ∀ g, SMap.get? s.groups sg.gid = some g →
      (∃ g', SMap.get? t.groups sg.gid = some g' ∧ SMap.get? g'.frames f = none) ∧ s.implicitExpire wid w b = t.stopLanes w.sid w.lanes g p := by
  refine ⟨({ s with waits := SMap.del s.waits wid } : State).updGroup sg.gid (fun g => { g with frames := SMap.del g.frames f }), rfl, rfl,
    (SMap.get?_del ..).trans (if_pos rfl), fun g hg => ⟨⟨{ g with frames := SMap.del g.frames f }, ?_, (SMap.get?_del ..).trans (if_pos rfl)⟩, ?_⟩⟩
  · rw [State.updGroup_of_get? (s := { s with waits := SMap.del s.waits wid }) _ hg]
    exact SMap.get?_put_same ..
  · simp only [State.implicitExpire, State.stopEntry, hkind, hsub, hg, Option.bind_some, Option.map_some]

/-! ## Parked lanes (R178) -/

/-- Lanes that part into those that go and those that stay. -/
theorem lanes_all {m away : Mask} (hsub : away = m &&& away) (h : m &&& ~~~away = 0) : away = m := by
  refine BitVec.eq_of_getLsbD_eq fun l _ => ?_
  have hl : (m.getLsbD l && !away.getLsbD l) = false := by rw [← getLsbD_and_not, h]; exact BitVec.getLsbD_zero
  have hs : away.getLsbD l = (m.getLsbD l && away.getLsbD l) := by rw [← BitVec.getLsbD_and, ← hsub]
  revert hl hs
  cases m.getLsbD l <;> cases away.getLsbD l <;> decide

/-- The bound of parked lanes: their calls no longer hold them; those without a meeting address trap after their word, and the others go to theirs. -/
theorem bcallParkExpiry_spec {s : State} {wid b : Nat} {w : Wait} {sg : SubGroup} (hw : SMap.get? s.waits wid = some w) (hkind : w.kind = .bcall)
    (hb : w.bound = some b) (hsub : SMap.get? s.subs w.sid = some sg) (hdue : b ≤ sg.gclk.toNat) :
    ∃ t : State, t.mem = s.mem ∧ t.subs = s.subs ∧ SMap.get? t.waits wid = none ∧
      (∀ k c, SMap.get? s.calls k = some c → SMap.get? t.calls k = some (if c.wait = some wid then { c with wait := none, wait2 := true } else c)) ∧
      (w.lanes &&& sg.laneMask (fun l => decide (l.meet ≠ 0)) = 0 → w.lanes ≠ 0 → exec (.bcallParkExpiry wid) s = .next (t.enterTrap w.sid w.lanes
        { w.expiry b w.lanes with next := true })) ∧
      (w.lanes &&& ~~~(w.lanes &&& sg.laneMask (fun l => decide (l.meet ≠ 0))) = 0 → w.lanes ≠ 0 → exec (.bcallParkExpiry wid) s =
        .next (t.retireAt w.sid w.lanes (stallOf w.iword) w.len (fun l => s.afterCall w.sid 0 l) w.pc w.iword w.xword)) := by
  let calls := s.calls.map (fun (e : Nat × JibCall) => if e.2.wait = some wid then (e.1, { e.2 with wait := none, wait2 := true }) else e)
  let t : State := ({ s with calls := calls, waits := SMap.del s.waits wid } : State).noteLanes 3 w.sid w.lanes 0x10
  obtain ⟨hsubs, -⟩ := State.noteLanes_keeps { s with calls := calls, waits := SMap.del s.waits wid } 3 w.sid w.lanes 0x10
  obtain ⟨hwaits, -, hcalls⟩ := State.noteLanes_leaves { s with calls := calls, waits := SMap.del s.waits wid } 3 w.sid w.lanes 0x10
  refine ⟨t, by simp [t], hsubs, ?_, fun k c hc => ?_, fun haway hlanes => ?_, fun hstay hlanes => ?_⟩
  · rw [hwaits, SMap.get?_del, if_pos rfl]
  · have hmap : calls = s.calls.map (fun e => (e.1, if e.2.wait = some wid then { e.2 with wait := none, wait2 := true } else e.2)) :=
      List.map_congr_left fun e _ => by split <;> rfl
    rw [hcalls, hmap, SMap.get?_map s.calls (fun _ c => if c.wait = some wid then { c with wait := none, wait2 := true } else c), hc]
    rfl
  · have hall : w.lanes &&& ~~~(0 : Mask) = w.lanes := by rw [show ~~~(0 : Mask) = BitVec.allOnes 64 by decide, BitVec.and_allOnes]
    refine (congrArg Host.Outcome.next ?_ : execBcallParkExpiry wid s = _)
    simp only [hw, hkind, hsub, hb, Option.getD_some, hdue, haway, hall, hlanes, if_true, if_false]
    rfl
  · have hgo := lanes_all (by rw [← BitVec.and_assoc, BitVec.and_self]) hstay
    refine (congrArg Host.Outcome.next ?_ : execBcallParkExpiry wid s = _)
    rw [hgo] at hstay
    simp only [hw, hkind, hsub, hb, Option.getD_some, hdue, hgo, hstay, hlanes, if_true, if_false]
    rfl

end Sys2Proof.Machine
end

section
namespace Sys2Proof
open Machine Safety

/-- Settles O52: a fetch joins what the stream wants, an arrival finishes its request, and each bound ends its wait as its kind says. -/
theorem streamsAndBounds : Obligations.StreamsAndBounds := by
  refine ⟨?_, ?_, ?_, ?_, ?_⟩
  · intro s gid q g st c e sv els sec hg hwalker hst hc hqi htotal hahead he htrap hsecs hreqs hdepth
    exact streamFetch_wants hg hwalker hst hc htotal hahead he htrap (Stream.want_new hsecs hreqs hdepth none) (by rw [hqi]; exact nofun)
  · intro s gid q g st st' c e sv els hg hwalker hst hc htotal hahead he htrap hwant hqi
    exact streamFetch_wants hg hwalker hst hc htotal hahead he htrap hwant hqi
  · intro s gid q k c g st r va hg hst hk hr hfail hfenced hlinked hplace hbad hfences
    exact streamArrival_stands hg hst hk hr hfail hfenced hlinked hplace hbad hfences
  · intro s wid w sg b q hw hb hsub hdue hid
    have hexec := exec_implicitWaitExpiry hw hb hsub hdue
    cases hkind : w.kind with
    | trapEntry p f x =>
      obtain ⟨t, hmem, hsubs, hwaits, hgroups⟩ := State.implicitExpire_trapEntry (wid := wid) (b := b) hkind hsub
      refine ⟨t, hmem, hsubs, hwaits, fun g hg => ?_⟩
      obtain ⟨hframe, hstop⟩ := hgroups g hg
      exact ⟨hframe, by rw [hexec, hstop]⟩
    | transit i =>
      obtain ⟨t, hmem, hsubs, himages, hwaits, htrap⟩ := State.trapWait_expiry { s with images := SMap.del s.images i } wid w b w.lanes
      refine ⟨t, hmem, hsubs, by rw [hwaits, SMap.get?_del, if_pos rfl], by rw [himages, SMap.get?_del, if_pos rfl], hexec.trans (congrArg _ ?_)⟩
      simp only [State.implicitExpire, hkind]
      exact htrap
    | bcall | standBy ks => exact ⟨s, rfl, rfl, by rw [hexec]; simp only [State.implicitExpire, hkind]⟩
    | ldw ops vals wide cmp signed dest xs =>
      cases hr : s.runOf w with
      | none => exact ⟨s, rfl, rfl, nofun⟩
      | some r =>
        obtain ⟨t, hmem, hsubs, hwaits, htrap⟩ := State.ldwDrop_expiry (s := s) { w with bound := none }
          (.ldw (ops.filter (fun o => !pageAsked xs (s.dirOf r o.addr))) vals wide cmp signed dest [])
          (maskOf ((ops.filter (fun o => pageAsked xs (s.dirOf r o.addr))).map (fun o => o.lane))) b hid
        refine ⟨t, hmem, hsubs, fun r' hr' => ?_⟩
        obtain rfl : r = r' := Option.some.inj hr'
        exact ⟨hwaits, by rw [hexec, State.implicitExpire_ldw hkind hr, htrap]; rfl⟩
    | _ =>
      obtain ⟨t, hmem, hsubs, -, hwaits, htrap⟩ := State.trapWait_expiry s wid w b w.lanes
      refine ⟨t, hmem, hsubs, by rw [hwaits, SMap.get?_del, if_pos rfl], hexec.trans (congrArg _ ?_)⟩
      simp only [State.implicitExpire, hkind]
      exact htrap
  · intro s wid w sg b hw hkind hb hsub hdue
    exact bcallParkExpiry_spec hw hkind hb hsub hdue

end Sys2Proof
end

section
/-! # Collective matrix and tile words (O29)

Issued by its whole group with its tile predicate true, such a word goes on to its own effect (`collective_effect`). The results go out, or those of the
quads before a stop are written to the accumulator run, whose registers the word's legality has checked. -/

namespace Sys2Proof.Machine

open Sys2Proof Sys2Proof.Safety

/-! ## Collective issue (R142) -/

theorem collective_effect {r : Run} {s : State} {kp : Nat} {widthOk : Bool} {idle body : State → State} (hkp : r.kp kp = true) (hwidth : widthOk = true)
    (hall : r.act = widthMask r.g.width) : collective r s kp widthOk idle body = body s := by
  simp only [collective, hkp, hwidth, hall, Bool.not_true, Bool.false_eq_true, ne_eq, not_true_eq_false, if_false]

/-- Occupying the matrix array moves neither a run's sub-group nor its clock. -/
theorem Run.At.takeArray {s : State} {r : Run} (n : Nat) (h : r.At s) : r.At (r.takeArray s n) := by
  obtain ⟨hsub, hnow⟩ := h
  refine ⟨hsub, ?_⟩
  rw [Run.takeArray, State.updStn_stn, if_pos rfl]
  exact hnow

section
variable {s s1 t : State} {i : Instr} {h : Hd} {r : Run} {kp : Nat} {widthOk : Bool} {idle body : State → State} {ws : List (Reg × Word)} {fl : Flags}

/-- A word whose results go out and whose flags are raised, over a state that it has changed beside its sub-group and its groups. -/
theorem exec_sent (hexec : exec i s = .next { t with issuing := none }) (ht : t = r.later s1 ws fl) (hr : run s h = some r) (hat : r.At s1)
    (hgroups : s1.groups = s.groups) (hq : quiet r (nextPc r) = true) :
    ∃ t u, exec i s = .next t ∧ SentOut s1 t r u ws ∧ Completed r u (nextPc r) [] fl := by
  obtain ⟨hsub, hnow⟩ := hat
  obtain ⟨u, hsent⟩ := Run.later_from ws fl hsub (by rw [hgroups]; exact run_group hr) hnow hq
  exact ⟨_, u, ht ▸ hexec, hsent⟩

/-- A collective word whose effect is results that go out. -/
theorem exec_collective (hexec : exec i s = .next { collective r s kp widthOk idle body with issuing := none } ∧ run s h = some r) (hkp : r.kp kp = true)
    (hwidth : widthOk = true) (hall : r.act = widthMask r.g.width) (hbody : body s = r.later s1 ws fl) (hat : r.At s → r.At s1)
    (hgroups : s1.groups = s.groups) (hq : quiet r (nextPc r) = true) :
    ∃ t u, exec i s = .next t ∧ SentOut s1 t r u ws ∧ Completed r u (nextPc r) [] fl := by
  obtain ⟨hexec, hr⟩ := hexec
  exact exec_sent hexec ((collective_effect hkp hwidth hall).trans hbody) hr (hat (run_at hr)) hgroups hq

end

/-! ## The words whose results go out (R147, R148, R154, R155, R157, R158) -/

/-- MPART whose run of row ends passes its checks (R157). -/
theorem exec_mpart_good {s : State} {w : FWord} {r : Run} (hi : issues s (.mpart w) = some r) (hkp : r.kp (fMods w / 2 ^ 13) = true)
    (hall : r.act = widthMask r.g.width) (hrun : mpartBad (mpartClash w r) w r = false)
    (hbudget : (mpartRegs w r ≠ 0 && decide ((vNum w.a + mpartRegs w r - 1) / 8 ≥ r.g.wins)) = false) (hq : quiet r (nextPc r) = true) :
    ∃ t u, exec (.mpart w) s = .next t ∧ SentOut s t r u (mpartOut w r) ∧ Completed r u (nextPc r) [] 0 := by
  refine exec_collective (exec_issuedF (g := mpartSig s w) hi rfl (execMpart.eq_1 w s)) hkp rfl hall ?_ id rfl hq
  simp only [hrun, hbudget, Bool.false_eq_true, if_false]

/-- KSET of an image (R155). -/
theorem exec_kset_image {s : State} {w : FWord} {r : Run} (hi : issues s (.kset w) = some r) (himage : w.lo.toNat % 8 = 3)
    (hall : r.act = widthMask r.g.width) (hq : quiet r (nextPc r) = true) :
    ∃ t u, exec (.kset w) s = .next t ∧ SentOut s t r u (ksetOut (ksetPos s w) w r) ∧ Completed r u (nextPc r) [] 0 := by
  obtain ⟨hexec, hr⟩ := exec_issuedF (g := ksetSig s w) hi rfl (execKset.eq_1 w s)
  rw [if_pos himage] at hexec
  exact exec_collective ⟨hexec, hr⟩ rfl rfl hall rfl id rfl hq

theorem exec_matrixForm {s s1 : State} {i : Instr} {kp : Nat} {wok : Run → Bool} {out : Run → Option (State × List (Reg × Word) × Flags)} {r : Run}
    {ws : List (Reg × Word)} {fl : Flags} (hform : matrixForm s i = some (kp, wok, out)) (hi : issues s i = some r) (hkp : r.kp kp = true)
    (hwidth : wok r = true) (hall : r.act = widthMask r.g.width) (hout : out r = some (s1, ws, fl)) (hq : quiet r (nextPc r) = true) :
    ∃ t u, exec i s = .next t ∧ SentOut s1 t r u ws ∧ Completed r u (nextPc r) [] fl := by
  cases i with
  | mma w =>
    cases hform
    obtain ⟨rfl, hresults⟩ := Prod.mk.inj (Option.some.inj hout)
    exact exec_collective (exec_issuedF (g := mmaSig s w) hi rfl (execMma.eq_1 w s)) hkp hwidth hall (by rw [hresults]) (Run.At.takeArray _) rfl hq
  | mmaBs w x =>
    cases x with
    | none => cases hform
    | some x =>
      cases hform
      obtain ⟨rfl, hresults⟩ := Prod.mk.inj (Option.some.inj hout)
      exact exec_collective (exec_issuedF (g := mmaBsSig s w x) hi rfl (execMmaBs.eq_2 w s x)) hkp hwidth hall (by rw [hresults]) (Run.At.takeArray _) rfl hq
  | bmc w =>
    cases hform
    cases hout
    exact exec_collective (exec_issuedF (g := bmcSig s w) hi rfl (execBmc.eq_1 w s)) hkp hwidth hall rfl id rfl hq
  | bmx w =>
    cases hform
    cases hout
    exact exec_collective (exec_issuedF (g := bmxSig s w) hi rfl (execBmx.eq_1 w s)) hkp hwidth hall rfl id rfl hq
  | kset w =>
    obtain ⟨himage, hform⟩ := Option.ite_none_right_eq_some.mp hform
    cases hform
    cases hout
    exact exec_kset_image hi himage hall hq
  | mpart w =>
    cases hform
    obtain ⟨hgood, hout⟩ := Option.ite_none_left_eq_some.mp hout
    cases hout
    obtain ⟨hrun, hbudget⟩ := Bool.or_eq_false_iff.mp (Bool.eq_false_iff.mpr hgood)
    exact exec_mpart_good hi hkp hall hrun (by simpa using hbudget) hq
  | smerge w x =>
    cases x with
    | none => cases hform
    | some x =>
      cases hform
      obtain ⟨hfits, hout⟩ := Option.ite_none_left_eq_some.mp hout
      cases hout
      exact exec_collective (exec_issuedF (g := smergeSig w x) hi rfl (execSmerge.eq_2 w s x)) hkp hwidth hall (if_neg hfits) id rfl hq
  | _ => cases hform

/-! ## The accumulator run of a product (R143, R145) -/

/-- The width by which a word's runs are measured is that of its own group. -/
theorem run_issuingWidth {s : State} {h : Hd} {r : Run} (hr : run s h = some r) : s.issuingWidth = r.g.width := by
  obtain ⟨is, sg, g, hissuing, hsub, hgroup, rfl⟩ := run_eq hr
  simp only [State.issuingWidth, State.issuingGroup, hissuing, hsub, hgroup, Option.bind_some, Option.map_some, Option.getD_some]

/-- A run that a word may write ends at v63 at the latest (R142). -/
theorem imgDst_fits {o : Operand} {n : Nat} {g : Group} (h : (imgDst o n).refused g = false) : vNum o + n ≤ 64 := by
  unfold Pos.refused at h
  obtain ⟨htakes, -⟩ := Bool.or_eq_false_iff.mp h
  cases o with
  | v k =>
    by_contra hlong
    have hout : k.toNat + n > 64 := Nat.not_le.mp hlong
    simp [imgDst, imgPos, Pos.dst, Pos.runOf, Acc.takes, Acc.none, hout] at htakes
  | s k | p k | k k | q k | d k | zero | rsv k => cases htakes

/-- Only binary64 accumulates in 64 bits, which a group of 32 lanes does not hold (R144). -/
theorem mShapeOf_acc64 {m : MWord} (h : (mShapeOf m).acc64 = true) : (mShapeOf m).small = false := by
  unfold mShapeOf mShape at h ⊢
  dsimp only at h ⊢
  split_ifs at h ⊢
  all_goals simp at h ⊢

/-- Each of the 1024 accumulators of an output lies in the output's run, in a group of a width that the formats take. -/
theorem accWrites_ok {o : Operand} {m : MWord} {g : Group} {i : Nat} (x : Nat) (hwidth : mWidthOk (mShapeOf m) g = true) (hi : i < 1024)
    (hfits : vNum o + accRegs (mShapeOf m) g.width ≤ 64) : ∀ w ∈ accWrites o g.width (mShapeOf m).acc64 i x, RegOk w.1 := by
  have hw : g.width = 64 ∨ (mShapeOf m).small = true ∧ g.width = 32 := by simpa [mWidthOk] using hwidth
  cases hacc : (mShapeOf m).acc64 with
  | true =>
    have h64 : g.width = 64 := hw.resolve_right fun hsmall => by simp [mShapeOf_acc64 hacc] at hsmall
    simp only [accRegs, imgRegs, hacc, h64, if_true] at hfits
    simp only [accWrites, h64, if_true, List.mem_cons, List.not_mem_nil, or_false, forall_eq_or_imp, forall_eq, RegOk]
    omega
  | false =>
    simp only [accRegs, imgRegs, hacc, Bool.false_eq_true, if_false] at hfits
    simp only [accWrites, Bool.false_eq_true, if_false, List.mem_singleton, forall_eq, RegOk]
    rcases hw with h | ⟨-, h⟩ <;> rw [h] at hfits ⊢ <;> omega

theorem mResults_ok {r : Run} {m : MWord} {o : Operand} (a b : Nat → Nat) (scale : Nat → Nat → Option (Nat × Nat)) (q0 q1 : Nat) (acc : Nat → Nat)
    (hwidth : mWidthOk (mShapeOf m) r.g = true) (hfits : vNum o + accRegs (mShapeOf m) r.g.width ≤ 64) :
    ∀ w ∈ (mResults r m (mShapeOf m) o a b scale q0 q1 acc).1, RegOk w.1 := by
  intro w hw
  simp only [mResults, List.mem_flatMap, List.mem_map, List.mem_range] at hw
  obtain ⟨-, ⟨i, hi, rfl⟩, hw⟩ := hw
  exact accWrites_ok _ hwidth hi hfits w hw

theorem mmaSpOut_ok {s : State} {w : FWord} {x : XWord} {r : Run} (q : Nat) (hi : issues s (.mmaSp w (some x)) = some r)
    (hwidth : mWidthOk (mShapeOf (MWord.ofF w)) r.g = true) : ∀ e ∈ (mmaSpOut s.issuingWidth q w x r).1, RegOk e.1 := by
  obtain ⟨-, hr⟩ := exec_issuedF (g := mmaSpSig s w x) hi rfl (execMmaSp.eq_2 w s x)
  obtain ⟨href, -⟩ := issues_pos hi (h := hdX w (some x)) (g := mmaSpSig s w x) rfl
    (p := imgDst w.dest (accRegs (mShapeOf (MWord.ofF w)) s.issuingWidth)) (by simp [mmaSpSig, mSig, mmaSpOps, mOps, Sig.plain])
  rw [run_issuingWidth hr] at href ⊢
  unfold mmaSpOut
  exact mResults_ok _ _ _ _ _ _ hwidth (imgDst_fits href)

/-! ## MMA.SP (R150, R151) -/

theorem SubGroup.withTprog_reg (sg : SubGroup) (y : BitVec 32) {x : Reg} (hx : RegOk x) : ({ sg with tprog := y } : SubGroup).reg x = sg.reg x := by
  cases x with
  | x n => exact hx.elim
  | _ => rfl

theorem Kept.withTprog {a b : SubGroup} (y : BitVec 32) (h : Kept a b) : Kept { a with tprog := y } { b with tprog := y } := by
  obtain ⟨hgid, hmast, hstn, hgclk, hdldef, hrejoin, hrlive, -, hrest⟩ := h
  exact ⟨hgid, hmast, hstn, hgclk, hdldef, hrejoin, hrlive, rfl, hrest⟩

/-- Writes that every later word sees leave %tprog to be set beside them. -/
theorem Written.withTprog {a b : SubGroup} {ws : List (Reg × Word)} {fl : Flags} (y : BitVec 32) (h : Written a b ws fl) :
    Written { a with tprog := y } { b with tprog := y } ws fl where
  lanes := h.lanes
  kept := Kept.withTprog y h.kept
  regs := RegsAfter.of_same (fun x hx => (b.withTprog_reg y hx).trans (h.regs x hx)) fun _ hx => (a.withTprog_reg y hx).symm
  aflags := h.aflags
  seed := h.seed

/-- What MMA.SP leaves in its sub-group when it stops after q quads. -/
def SubGroup.stopped (sg : SubGroup) (q : Nat) (out : List (Reg × Word) × Flags) : SubGroup :=
  ((out.1 ++ [(Reg.x 0x0D, BitVec.ofNat 64 q)]).foldl (fun sg w => sg.writeNow w.1 w.2) sg).raise out.2

theorem Run.stopQuads_eq {s : State} {r : Run} (q : Nat) (out : List (Reg × Word) × Flags) (hsub : SMap.get? s.subs r.sid = some r.sg) :
    r.stopQuads s q out = { s with subs := SMap.put s.subs r.sid (r.sg.stopped q out) } :=
  State.updSub_of_get? _ hsub

theorem Written.stopped (sg : SubGroup) (q : Nat) (out : List (Reg × Word) × Flags) (hws : ∀ w ∈ out.1, RegOk w.1) :
    Written { sg with tprog := BitVec.ofNat 32 q } (sg.stopped q out) out.1 out.2 := by
  have hprog : (BitVec.ofNat 64 q).setWidth 32 = BitVec.ofNat 32 q := by simp
  have hregs := (Written.foldl_writeNow sg hws).withTprog (BitVec.ofNat 32 q)
  have hset := Written.specialNow (out.1.foldl (fun sg w => sg.writeNow w.1 w.2) sg) 0x0D (BitVec.ofNat 64 q)
  rw [show SubGroup.setSpecial _ 0x0D (BitVec.ofNat 64 q) = { out.1.foldl (fun sg w => sg.writeNow w.1 w.2) sg with tprog := (BitVec.ofNat 64 q).setWidth 32 }
    from rfl, hprog] at hset
  have hall := (hregs.trans hset).trans (Written.raise _ out.2)
  rw [SubGroup.stopped, List.foldl_append]
  simpa using hall

section
variable {s : State} {w : FWord} {x : XWord} {r : Run}

/-- MMA.SP whose data pass its checks multiplies to the end of its quads or to the boundary at which it stops. -/
theorem exec_mmaSp_good (hi : issues s (.mmaSp w (some x)) = some r) (hkp : r.kp (MWord.ofF w).kp = true)
    (hwidth : mWidthOk (mShapeOf (MWord.ofF w)) r.g = true) (hall : r.act = widthMask r.g.width)
    (hca : (mmaSpCounts s.issuingWidth w x r).1 ≤ (mmaSpCaps w x).1) (hcb : (mmaSpCounts s.issuingWidth w x r).2 ≤ (mmaSpCaps w x).2)
    (hquads : r.tprog ≤ (mShapeOf (MWord.ofF w)).k / 4) :
    ∃ t, exec (.mmaSp w (some x)) s = .next { t with issuing := none } ∧ run s (hdX w (some x)) = some r ∧
      (s.stopAt r.tprog ((mShapeOf (MWord.ofF w)).k / 4) = none →
        t = r.later (r.takeArray s (mmaSpCycles s.issuingWidth r.tprog ((mShapeOf (MWord.ofF w)).k / 4) w x r))
          ((mmaSpOut s.issuingWidth ((mShapeOf (MWord.ofF w)).k / 4) w x r).1 ++ [(.x 0x0D, 0)])
          (mmaSpOut s.issuingWidth ((mShapeOf (MWord.ofF w)).k / 4) w x r).2) ∧
      ∀ q, s.stopAt r.tprog ((mShapeOf (MWord.ofF w)).k / 4) = some q →
        t = r.stopQuads (r.takeArray s (mmaSpCycles s.issuingWidth r.tprog q w x r)) q (mmaSpOut s.issuingWidth q w x r) := by
  obtain ⟨hexec, hr⟩ := exec_issuedF (g := mmaSpSig s w x) hi rfl (execMmaSp.eq_2 w s x)
  rw [collective_effect hkp hwidth hall] at hexec
  simp only [gt_iff_lt, not_lt.mpr hca, not_lt.mpr hcb, not_lt.mpr hquads, decide_false, Bool.or_self, Bool.false_eq_true, if_false] at hexec
  refine ⟨_, hexec, hr, fun hend => ?_, fun q hstop => ?_⟩
  · rw [hend]
  · rw [hstop]

/-- MMA.SP that stops writes the results of the quads before its stop, and its lanes stay at the word. -/
theorem exec_stopped {t s1 : State} {i : Instr} {q : Nat} {out : List (Reg × Word) × Flags} (hexec : exec i s = .next { t with issuing := none })
    (ht : t = r.stopQuads s1 q out) (hat : r.At s1) (hws : ∀ w ∈ out.1, RegOk w.1) :
    ∃ t u, exec i s = .next t ∧ OnlySub s1 t r.sid u ∧ u.lanes = r.sg.lanes ∧ Kept { r.sg with tprog := BitVec.ofNat 32 q } u ∧ RegsAfter r.sg u out.1 ∧
      u.aflags = r.sg.aflags ||| (out.2 &&& 0x3F) ∧ u.seed = r.sg.seed := by
  obtain ⟨hsub, -⟩ := hat
  obtain ⟨hlanes, hkept, hregs, hflags, hseed⟩ := Written.stopped r.sg q out hws
  rw [ht, Run.stopQuads_eq q out hsub] at hexec
  exact ⟨_, _, hexec, rfl, hlanes, hkept, RegsAfter.of_same hregs fun _ hx => r.sg.withTprog_reg _ hx, hflags, hseed⟩

end

end Sys2Proof.Machine
end

section
namespace Sys2Proof
open Machine Safety

/-- Settles O29: each word is issued by its whole group and its data pass its checks, so it goes on to its results; MMA.SP ends, or stops with what the
quads before the stop leave in its registers. -/
theorem collectiveWords : Obligations.CollectiveWords := by
  refine ⟨fun s s1 i kp wok out r ws fl hform hi hkp hwidth hall hout hq => exec_matrixForm hform hi hkp hwidth hall hout hq, ?_⟩
  intro s w x r m nq wd hi hkp hwidth hall hca hcb hquads
  obtain ⟨t, hexec, hr, hend, hstop⟩ := exec_mmaSp_good hi hkp hwidth hall hca hcb hquads
  exact ⟨fun hnone hq => exec_sent hexec (hend hnone) hr ((run_at hr).takeArray _) rfl hq,
    fun q hsome => exec_stopped hexec (hstop q hsome) ((run_at hr).takeArray _) (mmaSpOut_ok q hi hwidth)⟩

end Sys2Proof
end

section
/-! # A wait that begins and is judged at once -/

namespace Sys2Proof.Machine

open Sys2Proof Sys2Proof.Safety

/-- The state in which a word's active lanes have begun to wait and the rest of its issue set stands by. -/
def State.begun (s : State) (r : Run) (gw : RMap 32) (ws : SMap Wait) (n : Nat) : State :=
  { s with groups := SMap.put s.groups r.gid { r.g with waits := gw }, subs := SMap.put s.subs r.sid (r.sg.setSt r.set .waiting), waits := ws, nextId := n }

/-- The waiting lanes as a run are the word's active lanes. -/
theorem State.begun_runOf {s : State} {h : Hd} {r : Run} (hr : run s h = some r) (hstall : r.stall = stallOf r.iw) (gw : RMap 32) (ws : SMap Wait) (n : Nat)
    (k : WaitKind) (dk : Option Word) (bound : Option Nat) (st : Operand) :
    (s.begun r gw ws n).runOf (r.waitRec r.act k dk bound st) = some (r.waited { r.g with waits := gw }) := by
  have hsub : SMap.get? (s.begun r gw ws n).subs r.sid = some (r.sg.setSt r.set .waiting) := SMap.get?_put_same ..
  have hgrp : SMap.get? (s.begun r gw ws n).groups r.sg.gid = some { r.g with waits := gw } := run_gid hr ▸ SMap.get?_put_same ..
  unfold State.runOf
  simp only [Run.waitRec, hsub, show (r.sg.setSt r.set .waiting).gid = r.sg.gid from rfl, hgrp, Option.map_some]
  rw [← hstall, ← run_gid hr]
  exact congrArg (fun n => some { r.waited { r.g with waits := gw } with now := n }) (run_now hr).symm

/-- Memory and the records of groups, masts, crews and copy slices are the same in two states. -/
structure State.SameRecs (s t : State) : Prop where
  mem    : t.mem = s.mem
  groups : t.groups = s.groups
  masts  : t.masts = s.masts
  crews  : t.crews = s.crews
  slices : t.slices = s.slices

/-- A wait that ends with a status: its lanes complete the word after what was written, and nothing changes but their sub-group, the waits and the messages. -/
theorem State.endWait_ends {s : State} {r : Run} {u : SubGroup} {out : List (Reg × Word)} {wid : Nat} {w : Wait} (code : Word) (reset : Bool)
    (dl : Word) (hu : SMap.get? s.subs r.sid = some u) (hg : (SMap.get? s.groups r.sg.gid).isSome = true) (hw : Written r.sg u out 0)
    (hnow : r.now = (s.stn r.sg.mast r.sg.stn).cycles) (hq : quiet r (nextPc r) = true) (hsid : w.sid = r.sid) (hlanes : w.lanes = r.set)
    (hstall : stallOf w.iword = r.stall) (hlen : w.len = r.len) :
    ∃ v, SMap.get? (s.endWait wid w (some code) false reset dl).subs r.sid = some v ∧
      Completed r v (nextPc r) (out ++ statusWrites w.status code.toNat) 0 ∧
      (s.endWait wid w (some code) false reset dl).waits = SMap.del s.waits wid ∧ s.SameRecs (s.endWait wid w (some code) false reset dl) := by
  obtain ⟨g, hg⟩ := Option.isSome_iff_exists.mp hg
  obtain ⟨hgid, -⟩ := hw.kept
  unfold State.endWait
  simp only [hsid, hu, hgid, hg, Option.bind_some, hlanes, hstall, hlen, Bool.false_eq_true, if_false]
  rw [State.updSub_of_get? (s := { s with waits := SMap.del s.waits wid }) _ hu, State.atSub]
  simp only [SMap.get?_put_same]
  obtain ⟨v, ms, n, hfin, hdone⟩ := State.finish_completed
    (s := ({ s with waits := SMap.del s.waits wid, subs := SMap.put s.subs r.sid (u.writeStatus w.status code) } : State).enter
      ((u.writeStatus w.status code).mast / 16)) g r.set false reset dl w.iword w.xword (by rw [State.enter_subs]; exact SMap.get?_put_same ..)
    (hw.trans (Written.writeStatus u w.status code)) (by rw [State.stn, State.enter_stns]; exact hnow) hq
  rw [State.on, hfin]
  exact ⟨v, by rw [State.enter_subs]; exact SMap.get?_put_same .., hdone, by simp, by simp, by simp, by simp, by simp, by simp⟩

/-- What the judging of a wait has found, when the wait is over: the state has gone from that in which the wait began to one in which these registers
are written, the waits as they were. -/
structure Found (b : State) (r : Run) (t : State) (out : List (Reg × Word)) : Prop where
  sub    : ∃ u, SMap.get? t.subs r.sid = some u ∧ Written (r.sg.setSt r.set .waiting) u out 0
  group  : (SMap.get? t.groups r.sg.gid).isSome = true
  stns   : t.stns = b.stns
  waits  : t.waits = b.waits

/-- A change that leaves sub-groups, stations and waits alone, and every group there. -/
theorem Stands.found {s : State} {h : Hd} {r : Run} {gw : RMap 32} {ws : SMap Wait} {n : Nat} {t : State} (hr : run s h = some r)
    (hst : Stands (s.begun r gw ws n) t) (hwaits : t.waits = ws) : Found (s.begun r gw ws n) r t [] where
  sub := ⟨r.sg.setSt r.set .waiting, by rw [hst.1]; exact SMap.get?_put_same .., Written.refl _⟩
  group := by
    rw [hst.2.2]
    exact run_gid hr ▸ Option.isSome_iff_exists.mpr ⟨_, SMap.get?_put_same ..⟩
  stns := hst.2.1
  waits := hwaits

/-- A word whose wait is over as it begins: the active lanes have completed it with what was found and its status, and the rest stands by. -/
theorem Found.passed {s t : State} {h : Hd} {r : Run} {gw : RMap 32} {ws : SMap Wait} {n wid : Nat} {out : List (Reg × Word)} {k : WaitKind}
    {dk : Option Word} {bound : Option Nat} {st : Operand} (code : Word) (reset : Bool) (dl : Word) (hr : run s h = some r) (hstall : r.stall = stallOf r.iw)
    (hq : quiet r (nextPc r) = true) (hf : Found (s.begun r gw ws n) r t out)
    (hothers : ∀ j, j ≠ wid → SMap.get? ws j =
      if j = wid + 1 ∧ r.act ≠ r.set then some (r.waitRec (r.set &&& ~~~r.act) (.standBy [wid]) none none .zero) else SMap.get? s.waits j) :
    ∃ u, SMap.get? (t.endWait wid (r.waitRec r.act k dk bound st) (some code) false reset dl).subs r.sid = some u ∧
      Passed r u (nextPc r) (out ++ statusWrites st code.toNat) ∧ StoodBy s (t.endWait wid (r.waitRec r.act k dk bound st) (some code) false reset dl) r wid ∧
      t.SameRecs (t.endWait wid (r.waitRec r.act k dk bound st) (some code) false reset dl) := by
  have hact : ∀ l, r.act.getLsbD l = true → r.set.getLsbD l = true := fun l => run_act_set hr
  obtain ⟨u, hu, hw⟩ := hf.sub
  obtain ⟨v, hv, hdone, hwaits, hrecs⟩ := State.endWait_ends (r := r.waited r.g) (wid := wid) (w := r.waitRec r.act k dk bound st) code reset dl hu hf.group hw
    (show r.now = (t.stn r.sg.mast r.sg.stn).cycles by rw [State.stn, hf.stns, run_now hr]; rfl) (Run.waited_quiet _ hact hq) rfl rfl hstall.symm rfl
  refine ⟨v, hv, Run.waited_passed hact hdone, fun j hj => ?_, hrecs⟩
  rw [hwaits, hf.waits, SMap.get?_del, if_neg (Ne.symm hj)]
  exact hothers j hj

/-- A wait that has ended is gone. -/
theorem Found.ended {s t : State} {h : Hd} {r : Run} {gw : RMap 32} {ws : SMap Wait} {n wid : Nat} {out : List (Reg × Word)} {k : WaitKind}
    {dk : Option Word} {bound : Option Nat} {st : Operand} (code : Word) (reset : Bool) (dl : Word) (hr : run s h = some r) (hstall : r.stall = stallOf r.iw)
    (hq : quiet r (nextPc r) = true) (hf : Found (s.begun r gw ws n) r t out) :
    SMap.get? (t.endWait wid (r.waitRec r.act k dk bound st) (some code) false reset dl).waits wid = none := by
  obtain ⟨u, hu, hw⟩ := hf.sub
  obtain ⟨v, -, -, hwaits, -⟩ := State.endWait_ends (r := r.waited r.g) (wid := wid) (w := r.waitRec r.act k dk bound st) code reset dl hu hf.group hw
    (show r.now = (t.stn r.sg.mast r.sg.stn).cycles by rw [State.stn, hf.stns, run_now hr]; rfl)
    (Run.waited_quiet _ (fun l => run_act_set hr) hq) rfl rfl hstall.symm rfl
  rw [hwaits, SMap.get?_del, if_pos rfl]

theorem State.beginWait_waits (s : State) (w : Wait) : (s.beginWait w).waits = SMap.put s.waits s.nextId w := by
  have hcount : (s.countWait w.sid w.lanes).waits = s.waits := by
    unfold State.countWait
    split <;> rfl
  simp [State.beginWait, hcount]

@[simp] theorem State.beginWait_nextId (s : State) (w : Wait) : (s.beginWait w).nextId = s.nextId + 1 := by simp [State.beginWait]

/-- Lanes that stand by add one wait, under the next identifier, or none. -/
theorem State.mem_standBy_waits {s : State} {w : Wait} {ks : List Nat} {e : Nat × Wait} (h : e ∈ (s.standBy w ks).waits) : e ∈ s.waits ∨ e.1 = s.nextId := by
  unfold State.standBy at h
  split at h
  · exact .inl h
  · exact (SMap.mem_put h).elim (fun h => .inr (h ▸ rfl)) .inl

/-- A word's wait begins under the next identifier, beside the waits that there were. -/
theorem Run.waitFor_eq_begun {s : State} {h : Hd} {r : Run} {k : WaitKind} (dk : Option Word) (bound : Option Nat) (st : Operand) (hr : run s h = some r)
    (hk : k.standsBy = true) :
    ∃ gw ws n, r.waitFor s r.act k dk bound st = s.begun r gw ws n ∧ SMap.get? ws s.nextId = some (r.waitRec r.act k dk bound st) ∧
      (∀ j, j ≠ s.nextId → SMap.get? ws j =
        if j = s.nextId + 1 ∧ r.act ≠ r.set then some (r.waitRec (r.set &&& ~~~r.act) (.standBy [s.nextId]) none none .zero) else SMap.get? s.waits j) ∧
      ∀ e ∈ ws, e ∈ s.waits ∨ s.nextId ≤ e.1 := by
  obtain ⟨gw, ws, n, hbegun, hwait, hothers, -⟩ := Run.waitFor_begun (k := k) dk bound st hr hk
  refine ⟨gw, ws, n, hbegun, hwait, hothers, fun e he => ?_⟩
  have hfirst : e ∈ (s.beginWait (r.waitRec r.act k dk bound st)).waits → e ∈ s.waits ∨ s.nextId ≤ e.1 := fun he => by
    rw [State.beginWait_waits] at he
    exact (SMap.mem_put he).elim (fun h => .inr (h ▸ Nat.le_refl _)) .inl
  replace he : e ∈ (r.waitFor s r.act k dk bound st).waits := by rwa [hbegun]
  unfold Run.waitFor at he
  dsimp only at he
  split_ifs at he
  · exact hfirst he
  split at he
  · cases hk
  · cases hk
  all_goals
    refine (State.mem_standBy_waits he).elim hfirst fun h => .inr ?_
    rw [h, State.beginWait_nextId]
    exact Nat.le_succ _

/-- A WORD THAT FINDS AT ONCE WHAT IT WAITS FOR: its wait begins and, judged, is over. -/
theorem met_passed {s : State} {h : Hd} {r : Run} {k : WaitKind} {dk : Option Word} {bound : Option Nat} {st : Operand} {code : Word} {out : List (Reg × Word)}
    {m : Memory} {judge : State → State} (hr : run s h = some r) (hk : k.standsBy = true) (hstall : r.stall = stallOf r.iw) (hq : quiet r (nextPc r) = true)
    (hjudge : ∀ gw ws n, SMap.get? ws s.nextId = some (r.waitRec r.act k dk bound st) → (∀ e ∈ ws, e ∈ s.waits ∨ s.nextId ≤ e.1) →
      ∃ t reset dl, Found (s.begun r gw ws n) r t out ∧ t.mem = m ∧
        judge (s.begun r gw ws n) = t.endWait s.nextId (r.waitRec r.act k dk bound st) (some code) false reset dl) :
    ∃ u, SMap.get? (judge (r.waitFor s r.act k dk bound st)).subs r.sid = some u ∧ Passed r u (nextPc r) (out ++ statusWrites st code.toNat) ∧
      (judge (r.waitFor s r.act k dk bound st)).mem = m ∧ StoodBy s (judge (r.waitFor s r.act k dk bound st)) r s.nextId := by
  obtain ⟨gw, ws, n, hbegun, hwait, hothers, hmem⟩ := Run.waitFor_eq_begun (k := k) dk bound st hr hk
  obtain ⟨t, reset, dl, hfound, hm, ht⟩ := hjudge gw ws n hwait hmem
  rw [hbegun, ht]
  obtain ⟨u, hu, hpassed, hstood, hrecs⟩ := hfound.passed (k := k) (dk := dk) (bound := bound) (st := st) code reset dl hr hstall hq hothers
  exact ⟨u, hu, hpassed, hrecs.mem.trans hm, hstood⟩

end Sys2Proof.Machine
end

section
/-! # Copies, reductions and barriers that find what they wait for (O30) -/

namespace Sys2Proof.Machine

open Sys2Proof Sys2Proof.Safety

/-- A word is passed at once: its registers, memory, and beside them the waits of lanes that stand by. -/
def PassedAtOnce (s : State) (i : Instr) (r : Run) (ws : List (Reg × Word)) (m : Memory) : Prop :=
  ∃ t u, exec i s = .next t ∧ SMap.get? t.subs r.sid = some u ∧ Passed r u (nextPc r) ws ∧ t.mem = m ∧ StoodBy s t r s.nextId

/-- A word that issues, begins its wait and is judged, and whose wait is over then. -/
theorem exec_met {s : State} {i : Instr} {w : FWord} {g : Sig} {r : Run} {k : WaitKind} {dk : Option Word} {code : Word} {out : List (Reg × Word)} {m : Memory}
    {body : Body} {judge : State → State} (hi : issues s i = some r) (hf : form s i = some (hdX w none, g)) (he : exec i s = issueF s w none g body)
    (hbody : body r s = judge (r.waitFor s r.act k dk none w.dest)) (hk : k.standsBy = true) (hstall : r.stall = stallOf r.iw) (hq : quiet r (nextPc r) = true)
    (hjudge : run s (hdX w none) = some r → ∀ gw ws n, SMap.get? ws s.nextId = some (r.waitRec r.act k dk none w.dest) →
      (∀ e ∈ ws, e ∈ s.waits ∨ s.nextId ≤ e.1) → ∃ t reset dl, Found (s.begun r gw ws n) r t out ∧ t.mem = m ∧
        judge (s.begun r gw ws n) = t.endWait s.nextId (r.waitRec r.act k dk none w.dest) (some code) false reset dl) :
    PassedAtOnce s i r (out ++ statusWrites w.dest code.toNat) m := by
  obtain ⟨hexec, hr⟩ := exec_issuedF hi hf he
  obtain ⟨u, hu, hpassed, hmem, hstood⟩ := met_passed hr hk hstall hq (hjudge hr)
  rw [hbody] at hexec
  exact ⟨_, u, hexec, hu, hpassed, hmem, hstood⟩

/-! ## CPW (R172) -/

/-- The status of a CPW that its tag does not keep waiting (R172). -/
def cpwStatus (t : TagSt) (tag round : Nat) : Option Word :=
  match t with
  | .done k x | .abandoned k x => some (if k = round then x else statusWord 5 tag round 0 0)
  | .gathering k _ _ _ | .running k => if k = round then none else some (statusWord 5 tag round 0 0)
  | .idle => some (statusWord 5 tag round 0 0)

theorem metForm_cpw {s : State} {r : Run} {w : FWord} {ws : List (Reg × Word)} {m : Memory} (h : metForm s r (.cpw w) = some (ws, m)) :
    ∃ c x, s.crewOf r.g = some c ∧ s.linked (r.sg.mast / 16) (c.mast / 16) = true ∧
      cpwStatus (c.tag (w.lo.toNat % 16)) (w.lo.toNat % 16) (w.lo.toNat / 16) = some x ∧ ws = statusWrites w.dest x.toNat ∧ m = s.mem := by
  simp only [metForm] at h
  split at h
  case h_2 => cases h
  case h_1 c hc =>
    split_ifs at h with hlinked
    refine ⟨c, ?_⟩
    cases htag : c.tag (w.lo.toNat % 16) <;> simp only [htag] at h
    case idle =>
      cases h
      exact ⟨_, hc, hlinked, rfl, rfl, rfl⟩
    case gathering | running =>
      split_ifs at h with hround
      cases h
      exact ⟨_, hc, hlinked, if_neg hround, rfl, rfl⟩
    case done | abandoned =>
      split_ifs at h with hround <;> cases h
      · exact ⟨_, hc, hlinked, congrArg some (if_pos hround), rfl, rfl⟩
      · exact ⟨_, hc, hlinked, congrArg some (if_neg hround), rfl, rfl⟩

/-- A CPW whose tag names a status ends with it. -/
theorem State.judgeCpw_met {s : State} {wid : Nat} {w : Wait} {r : Run} {c : Crew} {tag round : Nat} {x : Word} (hw : SMap.get? s.waits wid = some w)
    (hkind : w.kind = .cpw tag round) (hr : s.runOf w = some r) (hc : s.crewOf r.g = some c) (hlinked : s.linked (r.sg.mast / 16) (c.mast / 16) = true)
    (hx : cpwStatus (c.tag tag) tag round = some x) :
    s.judgeCpw wid = s.endWait wid w (some x) false (decide (x.toNat % 256 = 0)) (w.dk.getD 0) := by
  unfold State.judgeCpw
  simp only [hw, hkind, hr, hc, Option.map_some, Option.getD_some, hlinked, Bool.not_true, Bool.false_eq_true, if_false]
  unfold cpwStatus at hx
  cases htag : c.tag tag <;> simp only [htag] at hx ⊢
  case idle => cases hx; rfl
  case gathering | running =>
    split_ifs at hx with hround
    cases hx
    rw [if_neg hround]
  case done | abandoned =>
    cases hx
    split_ifs <;> rfl

theorem exec_cpw_met {s : State} {w : FWord} {r : Run} {ws : List (Reg × Word)} {m : Memory} (hi : issues s (.cpw w) = some r)
    (hm : metForm s r (.cpw w) = some (ws, m)) (hstall : r.stall = stallOf r.iw) (hq : quiet r (nextPc r) = true) : PassedAtOnce s (.cpw w) r ws m := by
  obtain ⟨c, x, hc, hlinked, hx, rfl, rfl⟩ := metForm_cpw hm
  exact exec_met (out := []) (judge := fun t => t.judgeCpw s.nextId) hi rfl (execCpw.eq_1 w s) rfl rfl hstall hq fun hr gw ws n hw _ =>
    ⟨_, _, _, (Stands.refl _).found hr rfl, rfl, State.judgeCpw_met hw rfl (State.begun_runOf hr hstall gw ws n _ _ _ _) hc hlinked hx⟩

/-! ## CAPW (R177) -/

theorem metForm_capw {s : State} {r : Run} {w : FWord} {ws : List (Reg × Word)} {m : Memory} (h : metForm s r (.capw w) = some (ws, m)) :
    ∃ c, s.blockTrap r (r.sval w.b) = none ∧ s.linked (r.sg.mast / 16) (s.vaMast (s.directOf r.g (r.sval w.b) + 0x20) / 16) = true ∧
      s.placeOf r.g.ctx (s.directOf r.g (r.sval w.b) + 0x20) 0 = .cell c ∧ s.badAt c = false ∧ fieldOf (s.word c) 0 8 ≠ 0xFF ∧ fieldOf (s.word c) 0 8 ≠ 1 ∧
      ws = statusWrites w.dest (s.word c).toNat ∧ m = s.mem := by
  simp only [metForm] at h
  split_ifs at h with hchecks
  split at h
  case h_2 => cases h
  case h_1 c hplace =>
    split_ifs at h with hstat
    cases h
    simp only [Bool.or_eq_true, not_or, Bool.not_eq_true, Option.isSome_eq_false_iff, Option.isNone_iff_eq_none, Bool.not_eq_false',
      decide_eq_false_iff_not] at hchecks hstat
    exact ⟨c, hchecks.1, hchecks.2, hplace, hstat.1.1, hstat.1.2, hstat.2, rfl, rfl⟩

/-- A CAPW whose STAT is no longer pending ends with it. -/
theorem State.capwEval_met {s : State} {wid : Nat} {w : Wait} {r : Run} {blk : Word} {c : Nat} (hw : SMap.get? s.waits wid = some w)
    (hkind : w.kind = .capw blk none) (hr : s.runOf w = some r) (hlinked : s.linked (r.sg.mast / 16) (s.vaMast (blk + 0x20) / 16) = true)
    (hplace : s.placeOf r.g.ctx (blk + 0x20) 0 = .cell c) (hgood : s.badAt c = false) (hpending : fieldOf (s.word c) 0 8 ≠ 0xFF)
    (hcounted : fieldOf (s.word c) 0 8 ≠ 1) :
    s.capwEval wid = (s.checkRead [sectorOf c]).endWait wid w (some (s.word c)) false (decide (fieldOf (s.word c) 0 8 = 0)) (w.dk.getD 0) := by
  unfold State.capwEval
  simp only [hw, hkind, hr, hlinked, hplace, hgood, Option.bind_none, Option.isSome_none, Bool.not_true, Bool.or_self, Bool.false_eq_true, if_false,
    if_neg hpending, decide_eq_false hcounted]

/-- The deadline of a CAPW that its evaluation ended has no effect. -/
theorem State.capwExpire_ended {s t : State} {wid : Nat} (h : s.capwEval wid = t) (hw : SMap.get? t.waits wid = none) : s.capwExpire wid = t := by
  unfold State.capwExpire
  simp only [h, hw]

theorem exec_capw_met {s : State} {w : FWord} {r : Run} {ws : List (Reg × Word)} {m : Memory} (hi : issues s (.capw w) = some r)
    (hm : metForm s r (.capw w) = some (ws, m)) (hstall : r.stall = stallOf r.iw) (hq : quiet r (nextPc r) = true) : PassedAtOnce s (.capw w) r ws m := by
  obtain ⟨c, htrap, hlinked, hplace, hgood, hpending, hcounted, rfl, rfl⟩ := metForm_capw hm
  refine exec_met (out := []) (judge := fun t => t.capwExpire s.nextId) hi rfl (execCapw.eq_1 w s) (by simp only [htrap]; rfl) rfl hstall hq fun hr gw ws n hw _ => ?_
  have hfound := (State.checkRead_stands (s.begun r gw ws n) [sectorOf c]).found hr (State.checkRead_waits ..)
  exact ⟨_, _, _, hfound, State.checkRead_mem .., State.capwExpire_ended
    (State.capwEval_met hw rfl (State.begun_runOf hr hstall gw ws n _ _ _ _) hlinked hplace hgood hpending hcounted) (hfound.ended _ _ _ hr hstall hq)⟩

/-! ## BARW and GBARW (R189) -/

/-- A part whose phase is over ends with status 0. -/
theorem State.judgePart_over {s : State} {wid : Nat} {w : Wait} {u : SubGroup} {ref : BarRef} {tok : BitVec 32} {keep mb : Bool} {dl : Word}
    (hw : SMap.get? s.waits wid = some w) (hkind : w.kind = .barrier ref tok keep mb .waiting) (hu : SMap.get? s.subs w.sid = some u)
    (hover : s.phaseOver ref tok = true) (hdk : w.dk = some dl) : s.judgePart wid = s.endWait wid w (some 0) false true dl := by
  unfold State.judgePart
  simp only [hw, hkind, hu, hover, if_true]
  unfold State.endBarrier
  simp only [hdk]
  rfl

theorem exec_phase_met {s : State} {i : Instr} {w : FWord} {kind bits : Nat} {r : Run} (hi : issues s i = some r)
    (hf : form s i = some (hdX w none, phaseSig w bits)) (he : exec i s = phaseWord s w kind bits) (htok : fieldOf (r.sval w.b) 0 8 = 0)
    (hover : s.phaseOver (s.barRef r.g kind (w.lo.toNat &&& bits)) ((r.sval w.b).extractLsb' 32 32) = true) (hstall : r.stall = stallOf r.iw)
    (hq : quiet r (nextPc r) = true) : PassedAtOnce s i r (statusWrites w.dest 0) s.mem := by
  unfold phaseWord at he
  exact exec_met (out := []) (code := 0) (judge := fun t => t.judgePart s.nextId) hi hf he (if_neg (not_not.mpr htok)) rfl hstall hq fun hr gw ws n hw _ =>
    ⟨_, _, _, (Stands.refl _).found hr rfl, rfl, State.judgePart_over hw rfl (SMap.get?_put_same ..) hover rfl⟩

end Sys2Proof.Machine
end

section
/-! # Queue words that find what they wait for (O30) -/

namespace Sys2Proof.Machine

open Sys2Proof Sys2Proof.Safety

/-! ## QPUSH and QPOP (R194) -/

/-- What one try of a queue operation leaves in memory and answers. -/
def QTry.result : QTry → Option (Memory × Nat × List Word)
  | .done t code got => some (t.mem, code, got)
  | .wait => none

theorem QTry.result_done (t : State) (code : Nat) (got : List Word) : (QTry.done t code got).result = some (t.mem, code, got) := rfl

theorem QTry.result_wait : QTry.wait.result = none := rfl

theorem QTry.exists_done_of_result {x : QTry} {m : Memory} {code : Nat} {got : List Word} (h : x.result = some (m, code, got)) :
    ∃ t, x = .done t code got ∧ t.mem = m := by
  cases x with
  | done t code' got' =>
    cases h
    exact ⟨t, rfl, rfl⟩
  | wait => cases h

theorem State.addOut_waits (s : State) (gid q : Nat) (x : BitVec 16) : (s.addOut gid q x).waits = s.waits := rfl

theorem State.putEnds_mem (s : State) (c : Crew) (q head tail : Nat) :
    (s.putEnds c q head tail).mem = writeMem s.mem (localCell c.mast c.stn (qdescOff q)) (leBytes 4 (tail % 2 ^ 32) ++ leBytes 4 (head % 2 ^ 32)) := by
  rw [State.putEnds, State.store_mem]

theorem State.putEnds_waits (s : State) (c : Crew) (q head tail : Nat) : (s.putEnds c q head tail).waits = s.waits := by
  simp [State.putEnds]

theorem State.tryPush_result (s : State) (cid : Nat) (c : Crew) (gid : Nat) (g : Group) (q : Nat) (entry : List Word) :
    (s.tryPush cid c gid g q entry).result =
      if s.badAt (localCell c.mast c.stn (qdescOff q)) then some (s.mem, 7, [])
      else if (s.qdesc c q).bad then some (s.mem, 7, [])
      else if (s.qdesc c q).fill < (s.qdesc c q).slots &&
          (decide ((s.qdesc c q).allow = 0) || decide ((RMap.get g.qout q).toNat < (s.qdesc c q).allow)) then
        some (writeMem (writeMem s.mem (localCell c.mast c.stn ((s.qdesc c q).entry (s.qdesc c q).tail)) (entry.flatMap (fun w => leBytes 8 w.toNat)))
          (localCell c.mast c.stn (qdescOff q)) (leBytes 4 (((s.qdesc c q).tail + 1) % 2 ^ 32) ++ leBytes 4 ((s.qdesc c q).head % 2 ^ 32)), 0, [])
      else none := by
  unfold State.tryPush
  simp only [apply_ite QTry.result, QTry.result_done, QTry.result_wait, State.countUe_mem, State.addOut_mem, State.updCrew_mem, State.putEnds_mem, State.store_mem]

theorem State.tryPop_result (s : State) (c : Crew) (q : Nat) :
    (s.tryPop c q).result =
      if s.badAt (localCell c.mast c.stn (qdescOff q)) then some (s.mem, 7, [])
      else if (s.qdesc c q).bad then some (s.mem, 7, [])
      else if (s.qdesc c q).fill = 0 then none
      else if s.badAt (localCell c.mast c.stn ((s.qdesc c q).entry (s.qdesc c q).head)) then some (s.mem, 7, [])
      else some (writeMem s.mem (localCell c.mast c.stn (qdescOff q)) (leBytes 4 ((s.qdesc c q).tail % 2 ^ 32) ++ leBytes 4 (((s.qdesc c q).head + 1) % 2 ^ 32)), 0,
        (List.range 4).map (fun i => s.word (localCell c.mast c.stn ((s.qdesc c q).entry (s.qdesc c q).head) + 8 * i))) := by
  unfold State.tryPop
  dsimp only
  split_ifs
  · rw [QTry.result_done, State.countUe_mem]
  · rfl
  · rfl
  · rw [QTry.result_done, State.countUe_mem]
  · rw [QTry.result_done]
    split <;> simp only [State.addOut_mem, State.putEnds_mem, State.checkRead_mem]

theorem State.begun_mem (s : State) (r : Run) (gw : RMap 32) (ws : SMap Wait) (n : Nat) : (s.begun r gw ws n).mem = s.mem := rfl

theorem State.begun_badAt (s : State) (r : Run) (gw : RMap 32) (ws : SMap Wait) (n c : Nat) : (s.begun r gw ws n).badAt c = s.badAt c := rfl

theorem State.begun_word (s : State) (r : Run) (gw : RMap 32) (ws : SMap Wait) (n c : Nat) : (s.begun r gw ws n).word c = s.word c := rfl

theorem State.begun_qdesc (s : State) (r : Run) (gw : RMap 32) (ws : SMap Wait) (n : Nat) (c : Crew) (q : Nat) :
    (s.begun r gw ws n).qdesc c q = s.qdesc c q := rfl

theorem State.tryPush_begun (s : State) (r : Run) (gw : RMap 32) (ws : SMap Wait) (n cid : Nat) (c : Crew) (q : Nat) (entry : List Word) :
    ((s.begun r gw ws n).tryPush cid c r.gid { r.g with waits := gw } q entry).result = (s.tryPush cid c r.gid r.g q entry).result := by
  rw [State.tryPush_result, State.tryPush_result, State.begun_badAt, State.begun_qdesc, State.begun_mem]

theorem State.tryPop_begun (s : State) (r : Run) (gw : RMap 32) (ws : SMap Wait) (n : Nat) (c : Crew) (q : Nat) :
    ((s.begun r gw ws n).tryPop c q).result = (s.tryPop c q).result := by
  rw [State.tryPop_result, State.tryPop_result, State.begun_badAt, State.begun_qdesc, State.begun_badAt, State.begun_mem]
  simp only [State.begun_word]

theorem State.begun_linked (s : State) (r : Run) (gw : RMap 32) (ws : SMap Wait) (n a b : Nat) : (s.begun r gw ws n).linked a b = s.linked a b := rfl

/-- A queue's answer depends on neither the waits nor the lanes that wait. -/
theorem State.tryQueue_begun (s : State) (r : Run) (gw : RMap 32) (ws : SMap Wait) (n : Nat) (k : WaitKind) :
    ((s.begun r gw ws n).tryQueue (r.waited { r.g with waits := gw }) k).result = (s.tryQueue r k).result := by
  unfold State.tryQueue
  have hcrew : (s.begun r gw ws n).crewOf (r.waited { r.g with waits := gw }).g = s.crewOf r.g := rfl
  have hcid : (r.waited { r.g with waits := gw }).g.cid = r.g.cid := rfl
  have hmast : (r.waited { r.g with waits := gw }).sg.mast = r.sg.mast := rfl
  rw [hcrew, hcid, hmast]
  split
  case h_2 => rfl
  case h_1 cid c _ _ =>
    rw [State.begun_linked]
    cases s.linked (r.sg.mast / 16) (c.mast / 16) with
    | false => rw [Bool.not_false, if_pos rfl, if_pos rfl]
    | true =>
      rw [Bool.not_true, if_neg Bool.false_ne_true, if_neg Bool.false_ne_true]
      cases k <;> dsimp only
      case queuePush q entry => exact State.tryPush_begun ..
      case queuePop q first => exact State.tryPop_begun ..

/-- What the answer of a queue may be: 0 or 7, with four words or none. -/
theorem State.tryQueue_code {s t : State} {r : Run} {k : WaitKind} {code : Nat} {got : List Word} (h : s.tryQueue r k = .done t code got) :
    code < 2 ^ 64 ∧ got.length ≤ 4 := by
  unfold State.tryQueue at h
  split at h
  case h_2 => cases h
  split_ifs at h
  replace h := congrArg QTry.result h
  split at h
  · rw [State.tryPush_result, QTry.result_done] at h
    split_ifs at h <;> simp only [Option.some.injEq, Prod.mk.injEq] at h <;> obtain ⟨-, rfl, rfl⟩ := h <;> decide
  · rw [State.tryPop_result, QTry.result_done] at h
    split_ifs at h <;> simp only [Option.some.injEq, Prod.mk.injEq] at h <;> obtain ⟨-, rfl, rfl⟩ := h <;> simp
  · cases h

theorem State.tryPush_waits {s t : State} {cid : Nat} {c : Crew} {gid : Nat} {g : Group} {q : Nat} {entry : List Word} {code : Nat} {got : List Word}
    (h : s.tryPush cid c gid g q entry = .done t code got) : t.waits = s.waits := by
  unfold State.tryPush at h
  dsimp only at h
  split_ifs at h <;> obtain ⟨rfl, -⟩ := QTry.done.inj h
  · exact State.countUe_waits ..
  · rfl
  · rw [State.addOut_waits, State.updCrew_waits, State.putEnds_waits]
    rfl

theorem State.tryPop_waits {s t : State} {c : Crew} {q : Nat} {code : Nat} {got : List Word} (h : s.tryPop c q = .done t code got) : t.waits = s.waits := by
  unfold State.tryPop at h
  dsimp only at h
  split_ifs at h <;> obtain ⟨rfl, -⟩ := QTry.done.inj h
  · exact State.countUe_waits ..
  · rfl
  · exact State.countUe_waits ..
  · split <;> simp only [State.addOut_waits, State.putEnds_waits, State.checkRead_waits]

theorem State.tryQueue_waits {s t : State} {r : Run} {k : WaitKind} {code : Nat} {got : List Word} (h : s.tryQueue r k = .done t code got) :
    t.waits = s.waits := by
  unfold State.tryQueue at h
  split at h
  case h_2 => cases h
  split_ifs at h
  split at h
  · exact State.tryPush_waits h
  · exact State.tryPop_waits h
  · cases h

theorem State.noteAt_waits (s : State) (m typ ctx : Nat) (w1 w2 w3 : Word) : (s.noteAt m typ ctx w1 w2 w3).waits = s.waits := by
  obtain ⟨j, hj⟩ := State.note_eq (s.enter (m / 16)) (m % 16) typ ctx w1 w2 w3
  simp [State.noteAt, State.on, hj]

theorem State.noteQueue_waits (s : State) (r : Run) (k : WaitKind) : (s.noteQueue r k).waits = s.waits := by
  unfold State.noteQueue
  split
  · exact State.noteAt_waits ..
  · exact State.noteAt_waits ..
  · rfl

/-- The scalars that a pop writes stand in its operand's run of four. -/
theorem popWrites_ok {r : Run} {w : FWord} {pop : Bool} {got : List Word} (hrun : pop = true → sNum w.b + 4 ≤ 32) (hgot : got.length ≤ 4) :
    ∀ x ∈ popWrites (queueKind r w pop) got, RegOk x.1 := by
  intro x hx
  cases pop with
  | false => cases hx
  | true =>
    obtain ⟨e, he, rfl⟩ := List.mem_map.mp hx
    have := List.snd_lt_of_mem_zipIdx he
    show sNum w.b + e.2 < 32
    have := hrun rfl
    omega

/-- The operand of a pop that issues names a run of four scalars. -/
theorem qpop_run {s : State} {w : FWord} {r : Run} (hi : issues s (.qpop w) = some r) : sNum w.b + 4 ≤ 32 := by
  have hpos := (issues_pos hi rfl (p := { Pos.dst w.b Acc.sOnly with srun := 4 }) (by simp [queueSig, barSig, Sig.plain])).1
  cases hb : w.b with
  | s n => simpa [Pos.refused, Pos.dst, Acc.takes, Acc.sOnly, sNum, hb] using hpos
  | v n | p n | k n | q n | d n | zero | rsv n => simp [Pos.refused, Pos.dst, Acc.takes, Acc.sOnly, Acc.none, hb] at hpos

/-- The only waiter of a queue and direction is the first. -/
theorem State.firstWaiter_new {s : State} {wid : Nat} {w : Wait} (hw : SMap.get? s.waits wid = some w)
    (hall : ∀ e ∈ s.waits, wid ≤ e.1 ∨ queueOf e.2.kind ≠ queueOf w.kind) : s.firstWaiter wid = true := by
  unfold State.firstWaiter
  simp only [hw]
  refine List.all_eq_true.mpr fun e he => ?_
  rcases hall e he with hle | hne
  · simp [hle]
  · simp [hne]

/-- A queue operation that is served ends with its status, and a pop's words stand in its scalars. -/
theorem State.judgeQueue_met {s t : State} {wid : Nat} {w : Wait} {r : Run} {code : Nat} {got : List Word} {expire : Bool}
    (hw : SMap.get? s.waits wid = some w) (hr : s.runOf w = some r) (htry : s.tryQueue r w.kind = .done t code got) :
    s.judgeQueue wid expire = ((t.noteQueue r w.kind).updSub w.sid (fun sg => (popWrites w.kind got).foldl (fun sg x => sg.writeNow x.1 x.2) sg)).endWait wid w
      (some (BitVec.ofNat 64 code)) false (decide (code = 0)) (w.dk.getD 0) := by
  unfold State.judgeQueue
  simp only [hw, hr, htry]

/-- What a served queue operation has found. -/
theorem found_queue {s t : State} {h : Hd} {r : Run} {gw : RMap 32} {ws : SMap Wait} {n : Nat} {k : WaitKind} {code : Nat} {got : List Word}
    (hr : run s h = some r) (htry : (s.begun r gw ws n).tryQueue (r.waited { r.g with waits := gw }) k = .done t code got)
    (hok : ∀ x ∈ popWrites k got, RegOk x.1) :
    Found (s.begun r gw ws n) r ((t.noteQueue (r.waited { r.g with waits := gw }) k).updSub r.sid
      (fun sg => (popWrites k got).foldl (fun sg x => sg.writeNow x.1 x.2) sg)) (popWrites k got) := by
  have hst := (State.tryQueue_stands htry).trans (State.noteQueue_stands t (r.waited { r.g with waits := gw }) k)
  have hfound := hst.found hr ((State.noteQueue_waits ..).trans (State.tryQueue_waits htry))
  have hsub : SMap.get? (t.noteQueue (r.waited { r.g with waits := gw }) k).subs r.sid = some (r.sg.setSt r.set .waiting) := by
    rw [hst.1]
    exact SMap.get?_put_same ..
  rw [State.updSub_of_get? _ hsub]
  exact ⟨⟨_, SMap.get?_put_same .., Written.foldl_writeNow _ hok⟩, hfound.group, hfound.stns, hfound.waits⟩

/-- A push or pop that no other of its queue precedes and that its queue serves. -/
theorem exec_queue_met {s t : State} {i : Instr} {w : FWord} {pop : Bool} {r : Run} {code : Nat} {got : List Word} (hi : issues s i = some r)
    (hf : form s i = some (hdX w none, queueSig w [] [Pos.src w.a Acc.dOnly] pop 7)) (he : exec i s = queueWord s w pop)
    (hfirst : ∀ e ∈ s.waits, queueOf e.2.kind ≠ queueOf (queueKind r w pop)) (htry : s.tryQueue r (queueKind r w pop) = .done t code got)
    (hrun : pop = true → sNum w.b + 4 ≤ 32) (hstall : r.stall = stallOf r.iw) (hq : quiet r (nextPc r) = true) :
    PassedAtOnce s i r (popWrites (queueKind r w pop) got ++ statusWrites w.dest code) t.mem := by
  obtain ⟨hcode, hgot⟩ := State.tryQueue_code htry
  have hstands : (queueKind r w pop).standsBy = true := by cases pop <;> rfl
  have hstatus : (BitVec.ofNat 64 code).toNat = code := by rw [BitVec.toNat_ofNat, Nat.mod_eq_of_lt hcode]
  rw [← hstatus]
  refine exec_met (judge := fun t => if t.firstWaiter s.nextId then t.judgeQueue s.nextId true else t.queueLate s.nextId) hi hf
    (he.trans (queueWord.eq_1 s w pop)) rfl hstands hstall hq fun hr gw ws n hw hmem => ?_
  obtain ⟨t', htry', hm⟩ := QTry.exists_done_of_result (((State.tryQueue_begun s r gw ws n _).trans (congrArg QTry.result htry)).trans rfl)
  refine ⟨_, _, _, found_queue hr htry' (popWrites_ok hrun hgot), (State.noteQueue_mem ..).trans hm, (if_pos ?_).trans
    (State.judgeQueue_met hw (State.begun_runOf hr hstall gw ws n _ _ _ _) htry')⟩
  exact State.firstWaiter_new hw fun e he => (hmem e he).symm.imp_right (hfirst e)

theorem metForm_qpush {s : State} {r : Run} {w : FWord} {ws : List (Reg × Word)} {m : Memory} (h : metForm s r (.qpush w) = some (ws, m)) :
    (∀ e ∈ s.waits, queueOf e.2.kind ≠ queueOf (queueKind r w false)) ∧ ∃ t code got, s.tryQueue r (queueKind r w false) = .done t code got ∧
      ws = popWrites (queueKind r w false) got ++ statusWrites w.dest code ∧ m = t.mem := by
  simp only [metForm] at h
  split_ifs at h with hall
  split at h
  case h_2 => cases h
  case h_1 t code got htry =>
    cases h
    exact ⟨by simpa using hall, t, code, got, htry, rfl, rfl⟩

theorem metForm_qpop {s : State} {r : Run} {w : FWord} {ws : List (Reg × Word)} {m : Memory} (h : metForm s r (.qpop w) = some (ws, m)) :
    (∀ e ∈ s.waits, queueOf e.2.kind ≠ queueOf (queueKind r w true)) ∧ ∃ t code got, s.tryQueue r (queueKind r w true) = .done t code got ∧
      ws = popWrites (queueKind r w true) got ++ statusWrites w.dest code ∧ m = t.mem := by
  simp only [metForm] at h
  split_ifs at h with hall
  split at h
  case h_2 => cases h
  case h_1 t code got htry =>
    cases h
    exact ⟨by simpa using hall, t, code, got, htry, rfl, rfl⟩

/-- EVERY WORD THAT FINDS WHAT IT WAITS FOR is passed at once. -/
theorem exec_metForm {s : State} {i : Instr} {r : Run} {ws : List (Reg × Word)} {m : Memory} (hi : issues s i = some r)
    (hm : metForm s r i = some (ws, m)) (hstall : r.stall = stallOf r.iw) (hq : quiet r (nextPc r) = true) : PassedAtOnce s i r ws m := by
  cases i
  case cpw w => exact exec_cpw_met hi hm hstall hq
  case capw w => exact exec_capw_met hi hm hstall hq
  case barw w =>
    obtain ⟨⟨htok, hover⟩, rfl, rfl⟩ := by simpa [metForm] using hm
    exact exec_phase_met hi rfl rfl htok hover hstall hq
  case gbarw w =>
    obtain ⟨⟨htok, hover⟩, rfl, rfl⟩ := by simpa [metForm] using hm
    exact exec_phase_met hi rfl rfl htok hover hstall hq
  case qpush w =>
    obtain ⟨hfirst, t, code, got, htry, rfl, rfl⟩ := metForm_qpush hm
    exact exec_queue_met hi rfl rfl hfirst htry (fun h => by cases h) hstall hq
  case qpop w =>
    obtain ⟨hfirst, t, code, got, htry, rfl, rfl⟩ := metForm_qpop hm
    exact exec_queue_met hi rfl rfl hfirst htry (fun _ => qpop_run hi) hstall hq
  all_goals cases hm

end Sys2Proof.Machine
end

section
namespace Sys2Proof
open Machine Safety

/-- Settles O30: each word's wait begins and its first judging ends it. -/
theorem metAtOnce : Obligations.MetAtOnce := by
  intro s i r ws m hi hm hstall hq
  exact exec_metForm hi hm hstall hq

end Sys2Proof
end

section
/-! # A copy whose destination is lost while its source is read (O53) -/

namespace Sys2Proof.Machine

open Sys2Proof Sys2Proof.Safety

/-- A copy that has a slice with transfers left goes on (R165). -/
theorem State.checkCopy_running {s : State} {cid tag round k : Nat} {sl : Slice} (hsl : SMap.get? s.slices k = some sl) (hentry : sl.entry = true)
    (hcid : sl.cid = cid) (htag : sl.tag = tag) (hleft : sl.done.length < sl.kind.units) : s.checkCopy cid tag round = s := by
  have hmem : (k, sl) ∈ s.copyOf cid tag := List.mem_filter.mpr ⟨SMap.mem_of_get? _ _ _ hsl, by simp [hentry, hcid, htag]⟩
  unfold State.checkCopy
  refine if_neg fun hall => ?_
  have := List.all_eq_true.mp hall _ hmem
  simp only [decide_eq_true_eq] at this
  omega

/-- Station 0 of mast 0 of a device by its number: an address in its window. -/
def windowVa (dev off : Nat) : Word := BitVec.ofNat 64 (dev * 2 ^ 53 + 0x100000000000 + off)

/-- The copy of two sectors from a window named by device number 1 to the same window named by device number 7. -/
def rereadSlice : Slice :=
  { dev := 0, gid := 1, ctx := 1, cid := 3, lane := 0, tag := 0, round := 0, parts := 1, sreg := 0, kind := .cp (windowVa 1 0) (windowVa 7 0x1000) 64,
    refused := false, entry := true, reserved := false, order := 0, done := [], lost := 0, code := 0, skip := 0, counted := false, tile := none, dead := [],
    reach := 0, lanes := 1, dl := 9, pc := 0, iword := 0, x := none }

/-- The crew whose copy it is, on the device of index 1. -/
def rereadCrew : Crew :=
  { lid := 1, cix := 0, mast := 16, stn := 0, anchor := 0, lseg := 0x4000, bars := [], tags := [(0, .running 0)], pushers := [], groups := [], rsv := 0, weight := 1,
    placedAt := 0, saved := none }

/-- The context of the copy: it may name devices 1 and 7. -/
def rereadCtx : Ctx :=
  { esclim := 0, tvec := 0, save := 0, root := 0, pdl := 0, grantVa := 0, grant := BitVec.ofNat 1024 (2 ^ 1 + 2 ^ 7), wentry := 0, stripe := 0, tb := [], esc := 0,
    st := .running, nq := 0, left := none, ptag := 0, pend := [] }

/-- A negotiated device of a number. -/
def negotiated (n : Nat) : Device := { Device.reset with regs := { HostRegs.reset with devnum := BitVec.ofNat _ n, neg := 1 } }

/-- The index 1 is listed twice among the other devices. The read of the copy's first sector corrects a symbol, and the mast's count of corrected errors comes
to its threshold: the report's way into device 1 and back leaves the first of the two. -/
def rereadState : State :=
  { State.reset with
    others := [(1, negotiated 1), (1, negotiated 7)], regs := { HostRegs.reset with member := BitVec.ofNat _ (2 ^ 1 + 2 ^ 7) },
    ctxs := [(1, rereadCtx)], crews := [(3, rereadCrew)], slices := [(5, rereadSlice)], masts := [(16, { Mast.reset with cethr := 1 })],
    stns := [(1024, { Station.reset with crew := some 3, tag := 1 })], soft := [sectorOf (localCell 16 0 0)] }

/-- The transfer is next, and its source and its destination are at hand. -/
theorem rereadState_ready :
    (rereadState.movable 3).head? = some (5, rereadSlice) ∧
      rereadState.engAt { ctx := 1, dev := 0, at' := 1, dead := [] } (windowVa 1 0) 0 = .ok (localCell 16 0 0) ∧ rereadState.badAt (localCell 16 0 0) = false ∧
      rereadState.engAt { ctx := 1, dev := 0, at' := 1, dead := [] } (windowVa 7 0x1000) 1 = .ok (localCell 16 0 0x1000) :=
  ⟨by decide +kernel, by decide +kernel, by decide +kernel, by decide +kernel⟩

/-- Once the source is read, no device has number 7, and the transfer is not made. -/
theorem rereadState_transferOne : (SMap.get? (rereadState.transferOne 3 none).slices 5).map (fun sl => sl.done) = some [] := by decide +kernel

end Sys2Proof.Machine
end

section
namespace Sys2Proof
open Machine Safety

/-- Refutes O53: a read that brings a mast's corrected errors to their threshold reports through its device (R330), and in a state that lists that device twice
the way there and back loses the entry that the destination's number names; the sector of the CP is then not moved. -/
theorem not_engines : ¬ Obligations.Engines := by
  intro h
  obtain ⟨-, hmoved, -⟩ := h
  obtain ⟨hnext, hsrc, hgood, hdst⟩ := rereadState_ready
  obtain ⟨t, ht, -, hslice, -⟩ := hmoved rereadState 3 5 0 64 _ _ rereadSlice rereadCrew (windowVa 1 0) (windowVa 7 0x1000) hnext rfl rfl (by decide)
    (by decide) (by simp) hsrc hgood hdst
  rw [State.checkCopy_running hslice rfl rfl rfl (by decide)] at ht
  have hstays := rereadState_transferOne
  rw [ht, hslice] at hstays
  exact absurd hstays (by decide)

end Sys2Proof
end

section
/-! # A Capstan that takes a block in (O33) -/

namespace Sys2Proof.Machine

open Sys2Proof Sys2Proof.Safety

/-! ## What counting errors leaves of a Capstan -/

theorem State.updMast_caps {s : State} {m : Nat} {f : Mast → Mast} (hf : ∀ t, (f t).caps = t.caps) (k : Nat) :
    ((s.updMast m f).mast k).caps = (s.mast k).caps := by
  rw [State.updMast_mast]
  split_ifs with h
  · rw [hf, h]
  · rfl

theorem State.errorEvent_caps (s : State) (m k : Nat) : ((s.errorEvent m).mast k).caps = (s.mast k).caps := by
  have hmasts : (s.errorEvent m).masts = s.masts := by simp [State.errorEvent, State.postAt, State.on, State.post]
  rw [State.mast, hmasts, State.mast]

theorem State.countUe_caps (s : State) (cell k : Nat) : ((s.countUe cell).mast k).caps = (s.mast k).caps := by
  unfold State.countUe State.countUeAt
  dsimp only
  split_ifs
  · exact State.updMast_caps (by intro; rfl) k
  · exact (State.errorEvent_caps ..).trans (State.updMast_caps (by intro; rfl) k)

theorem State.countCe_caps (s : State) (m k : Nat) : ((s.countCe m).mast k).caps = (s.mast k).caps := by
  unfold State.countCe
  dsimp only
  split_ifs
  · exact (State.errorEvent_caps ..).trans (State.updMast_caps (by intro; rfl) k)
  · exact State.updMast_caps (by intro; rfl) k

theorem State.countRow_caps (s : State) (cell k : Nat) : ((s.countRow cell).mast k).caps = (s.mast k).caps := by
  unfold State.countRow
  dsimp only
  split_ifs
  · rfl
  · exact State.updMast_caps (by intro; rfl) k

theorem State.checkRead_caps (s : State) (sectors : List Nat) (k : Nat) : ((s.checkRead sectors).mast k).caps = (s.mast k).caps := by
  refine foldl_keeps _ (fun t : State => (t.mast k).caps) (fun s c => ?_) sectors s
  split_ifs
  · exact s.countUe_caps c k
  · exact (State.countRow_caps ..).trans (State.countCe_caps ..)
  · rfl

/-! ## CAPR (R173) -/

/-- The place of word i of a block. -/
def State.blockCell (s : State) (id : EngId) (blk : Word) (i : Nat) : Nat :=
  match s.engAt id (blk + BitVec.ofNat 64 (8 * i)) 0 with | .ok c => c | .error _ => 0

theorem State.blockCell_of_engAt {s : State} {id : EngId} {blk : Word} {i c : Nat} (h : s.engAt id (blk + BitVec.ofNat 64 (8 * i)) 0 = .ok c) :
    s.blockCell id blk i = c := by
  unfold State.blockCell
  rw [h]

/-- The entry of a Capstan for a block of a group. -/
def capEntry (s : State) (r : Run) (blk : Word) (words : List Word) : CapEntry :=
  { dev := r.sg.mast / 16, gid := r.gid, ctx := r.g.ctx, blk := blk, words := words, x := none, dead := [], fin := none,
    reach := s.reachOf r.g (s.vaPlace blk).1 (s.vaPlace blk).2 }

/-- The Capstan takes a block in: its sectors are read, STAT is pending, and the operation is counted. -/
def State.takeBlock (s : State) (r : Run) (blk : Word) : State :=
  (((s.checkRead (((List.range 6).map (fun i => sectorOf (s.blockCell (capEng s r blk) blk (4 * i)))).dedup)).store
      (s.blockCell (capEng s r blk) blk 4) (leBytes 8 0xFF)).updMast (s.vaMast blk) (fun t =>
        { t with caps := t.caps ++ [capEntry s r blk ((List.range 24).map (fun i => s.word (s.blockCell (capEng s r blk) blk i)))] })).countOp r.gid 4
    (s.reachOf r.g (s.vaPlace blk).1 (s.vaPlace blk).2) 1

theorem State.takeBlock_mem (s : State) (r : Run) (blk : Word) :
    (s.takeBlock r blk).mem = writeMem s.mem (s.blockCell (capEng s r blk) blk 4) (leBytes 8 0xFF) := by
  simp [State.takeBlock, State.countOp]

theorem State.countOp_mast (s : State) (gid path reach n m : Nat) : (s.countOp gid path reach n).mast m = s.mast m := rfl

theorem State.store_mast (s : State) (c : Nat) (bs : List Byte) (m : Nat) : (s.store c bs).mast m = s.mast m := rfl

theorem State.takeBlock_caps (s : State) (r : Run) (blk : Word) :
    ((s.takeBlock r blk).mast (s.vaMast blk)).caps =
      (s.mast (s.vaMast blk)).caps ++ [capEntry s r blk ((List.range 24).map (fun i => s.word (s.blockCell (capEng s r blk) blk i)))] := by
  rw [State.takeBlock, State.countOp_mast, State.updMast_mast, if_pos rfl]
  dsimp only
  rw [State.store_mast, State.checkRead_caps]

theorem State.takeBlock_waits (s : State) (r : Run) (blk : Word) : (s.takeBlock r blk).waits = s.waits := by
  rw [State.takeBlock, State.countOp, State.updGroup_waits, State.updMast_waits, State.store_waits, State.checkRead_waits]

theorem State.store_stands (s : State) (c : Nat) (bs : List Byte) : Stands s (s.store c bs) := Stands.of_eq rfl rfl rfl

theorem State.updMast_stands (s : State) (m : Nat) (f : Mast → Mast) : Stands s (s.updMast m f) := Stands.of_eq rfl rfl rfl

theorem State.countOp_stands (s : State) (gid path reach n : Nat) : Stands s (s.countOp gid path reach n) := State.updGroup_stands ..

theorem State.takeBlock_stands (s : State) (r : Run) (blk : Word) : Stands s (s.takeBlock r blk) := by
  unfold State.takeBlock
  exact (((State.checkRead_stands ..).trans (State.store_stands ..)).trans (State.updMast_stands ..)).trans (State.countOp_stands ..)

/-- A CAPR that its Capstan accepts ends with OK. -/
theorem State.tryCapr_accepted {s : State} {wid : Nat} {w : Wait} {r : Run} {blk : Word} (hw : SMap.get? s.waits wid = some w)
    (hkind : w.kind = .capr blk none) (hr : s.runOf w = some r) (hlinked : s.linked (r.sg.mast / 16) (s.vaMast blk / 16) = true)
    (hroom : (s.mast (s.vaMast blk)).caps.length < 32) (hmeets : s.blockMeets (capEng s r blk) blk = none) :
    s.tryCapr wid = (s.takeBlock r blk).endWait wid w (some 0) false true (w.dk.getD 0) := by
  have hfull : decide ((s.mast (s.vaMast blk)).caps.length ≥ capEntries) = false := decide_eq_false (not_le.mpr hroom)
  unfold capEng at hmeets
  unfold State.tryCapr
  simp only [hw, hkind, hr, hlinked, hfull, hmeets, Option.map_none, Option.getD_none, Option.bind_none, Option.isSome_none, Bool.not_true, Bool.or_self,
    Bool.false_eq_true, if_false]
  rfl

/-- The deadline of a CAPR that its Capstan answered has no effect. -/
theorem State.caprExpire_ended {s t : State} {wid : Nat} (h : s.tryCapr wid = t) (hw : SMap.get? t.waits wid = none) : s.caprExpire wid = t := by
  unfold State.caprExpire
  simp only [h, hw]

/-- A CAPR whose block passes its checks begins its wait, and its Capstan is asked at once. -/
theorem exec_capr_issued {s : State} {w : FWord} {r : Run} (hi : issues s (.capr w) = some r) (htrap : s.blockTrap r (r.sval w.b) = none) :
    exec (.capr w) s = .next { (r.waitFor s r.act (.capr (s.directOf r.g (r.sval w.b)) none) (some (r.sval w.a)) none w.dest).caprExpire s.nextId with
      issuing := none } ∧ run s (hdX w none) = some r := by
  obtain ⟨hexec, hr⟩ := exec_issuedF hi rfl (execCapr.eq_1 w s)
  simp only [htrap] at hexec
  exact ⟨hexec, hr⟩

/-! ## What engines meet when lanes have begun to wait -/

section
variable (s : State) (r : Run) (gw : RMap 32) (ws : SMap Wait) (n : Nat)

theorem State.begun_enter (d : Nat) : (s.begun r gw ws n).enter d = (s.enter d).begun r gw ws n := by
  unfold State.enter
  rw [show (s.begun r gw ws n).dev = s.dev from rfl, show (s.begun r gw ws n).others = s.others from rfl]
  split
  · rfl
  split <;> rfl

theorem State.begun_engKnown (e : EngId) : (s.begun r gw ws n).engKnown e = s.engKnown e := by
  rw [State.engKnown, State.begun_enter]
  rfl

theorem State.begun_engHome (e : EngId) (va : Word) : (s.begun r gw ws n).engHome e va = s.engHome e va := by
  rw [State.engHome, State.begun_enter]
  rfl

theorem State.begun_engDirect (e : EngId) (va : Word) : (s.begun r gw ws n).engDirect e va = s.engDirect e va := by
  rw [State.engDirect, State.begun_enter]
  rfl

theorem State.begun_placeOf (ctx : Nat) (va : Word) (acc : BitVec 2) : (s.begun r gw ws n).placeOf ctx va acc = s.placeOf ctx va acc := rfl

theorem State.begun_engDram (e : EngId) (m : Nat) (va : Word) (acc : BitVec 2) : (s.begun r gw ws n).engDram e m va acc = s.engDram e m va acc := rfl

theorem State.begun_engAt (e : EngId) (va : Word) (acc : BitVec 2) : (s.begun r gw ws n).engAt e va acc = s.engAt e va acc := by
  unfold State.engAt
  simp only [State.begun_engKnown, State.begun_engHome, State.begun_engDirect, State.begun_placeOf, State.begun_engDram]
  rfl

theorem State.begun_engRead (e : EngId) (va : Word) : (s.begun r gw ws n).engRead e va = s.engRead e va := by
  unfold State.engRead
  rw [State.begun_engAt]
  rfl

theorem State.begun_blockMeets (e : EngId) (blk : Word) : (s.begun r gw ws n).blockMeets e blk = s.blockMeets e blk := by
  unfold State.blockMeets
  simp only [State.begun_engRead, State.begun_engAt]

theorem State.begun_blockCell (e : EngId) (blk : Word) (i : Nat) : (s.begun r gw ws n).blockCell e blk i = s.blockCell e blk i := by
  unfold State.blockCell
  rw [State.begun_engAt]

end

/-- A CAPR WHOSE BLOCK IS AT HAND begins its wait and is accepted. -/
theorem capr_accepted {s : State} {h : Hd} {r : Run} {blk dk : Word} {st : Operand} (hr : run s h = some r) (hstall : r.stall = stallOf r.iw)
    (hlinked : s.linked (r.sg.mast / 16) (s.vaMast blk / 16) = true) (hroom : (s.mast (s.vaMast blk)).caps.length < 32)
    (hmeets : s.blockMeets (capEng s r blk) blk = none) (hq : quiet r (nextPc r) = true) :
    ∃ gw ws n t u, (r.waitFor s r.act (.capr blk none) (some dk) none st).caprExpire s.nextId = t ∧ SMap.get? t.subs r.sid = some u ∧
      Passed r u (nextPc r) (statusWrites st 0) ∧ StoodBy s t r s.nextId ∧ ((s.begun r gw ws n).takeBlock (r.waited { r.g with waits := gw }) blk).SameRecs t := by
  obtain ⟨gw, ws, n, hbegun, hwait, hothers, -⟩ := Run.waitFor_eq_begun (k := .capr blk none) (some dk) none st hr rfl
  have hfound := ((s.begun r gw ws n).takeBlock_stands (r.waited { r.g with waits := gw }) blk).found hr (State.takeBlock_waits ..)
  have haccepted := State.tryCapr_accepted (s := s.begun r gw ws n) hwait rfl (State.begun_runOf hr hstall gw ws n _ _ _ _) hlinked hroom
    ((State.begun_blockMeets s r gw ws n _ _).trans hmeets)
  obtain ⟨u, hu, hpassed, hstood, hrecs⟩ := hfound.passed (k := .capr blk none) (dk := some dk) (bound := none) (st := st) 0 true dk hr hstall hq hothers
  rw [hbegun, State.caprExpire_ended haccepted (hfound.ended _ _ _ hr hstall hq)]
  exact ⟨gw, ws, n, _, u, rfl, hu, hpassed, hstood, hrecs⟩

end Sys2Proof.Machine
end

section
/-! # CAPR of a block at hand (O33) -/

namespace Sys2Proof.Machine

open Sys2Proof Sys2Proof.Safety

/-- What a Capstan's new entry and memory hold of a block at hand. -/
theorem State.takeBlock_begun {s : State} {r : Run} {blk : Word} {cells : Nat → Nat} (gw : RMap 32) (ws : SMap Wait) (n : Nat)
    (hcells : ∀ i < 24, s.engAt (capEng s r blk) (blk + BitVec.ofNat 64 (8 * i)) 0 = .ok (cells i)) :
    (((s.begun r gw ws n).takeBlock (r.waited { r.g with waits := gw }) blk).mast (s.vaMast blk)).caps =
        (s.mast (s.vaMast blk)).caps ++ [capEntry s r blk ((List.range 24).map (fun i => s.word (cells i)))] ∧
      ((s.begun r gw ws n).takeBlock (r.waited { r.g with waits := gw }) blk).mem = writeMem s.mem (cells 4) (leBytes 8 0xFF) := by
  have hcell : ∀ i < 24, (s.begun r gw ws n).blockCell (capEng s r blk) blk i = cells i := fun i hi =>
    (State.begun_blockCell ..).trans (State.blockCell_of_engAt (hcells i hi))
  have hwords : (List.range 24).map (fun i => (s.begun r gw ws n).word ((s.begun r gw ws n).blockCell (capEng s r blk) blk i)) =
      (List.range 24).map (fun i => s.word (cells i)) :=
    List.map_congr_left fun i hi => by rw [hcell i (List.mem_range.mp hi), State.begun_word]
  have hcaps := State.takeBlock_caps (s.begun r gw ws n) (r.waited { r.g with waits := gw }) blk
  have hmem := State.takeBlock_mem (s.begun r gw ws n) (r.waited { r.g with waits := gw }) blk
  have heng : capEng (s.begun r gw ws n) (r.waited { r.g with waits := gw }) blk = capEng s r blk := rfl
  rw [heng] at hcaps hmem
  rw [hwords] at hcaps
  rw [hcell 4 (by decide), State.begun_mem] at hmem
  exact ⟨hcaps, hmem⟩

/-- CAPR OF A BLOCK AT HAND is accepted. -/
theorem exec_capr_accepted {s : State} {w : FWord} {r : Run} {cells : Nat → Nat} {va : Word} (hva : s.directOf r.g (r.sval w.b) = va)
    (hi : issues s (.capr w) = some r) (hstall : r.stall = stallOf r.iw)
    (htrap : s.blockTrap r (r.sval w.b) = none) (hlinked : s.linked (r.sg.mast / 16) (s.vaMast va / 16) = true)
    (hroom : (s.mast (s.vaMast va)).caps.length < 32) (hmeets : s.blockMeets (capEng s r va) va = none)
    (hcells : ∀ i < 24, s.engAt (capEng s r va) (va + BitVec.ofNat 64 (8 * i)) 0 = .ok (cells i)) (hq : quiet r (nextPc r) = true) :
    ∃ t u e, exec (.capr w) s = .next t ∧ SMap.get? t.subs r.sid = some u ∧ Passed r u (nextPc r) (statusWrites w.dest 0) ∧
      StoodBy s t r s.nextId ∧ (t.mast (s.vaMast va)).caps = (s.mast (s.vaMast va)).caps ++ [e] ∧ e.gid = r.gid ∧ e.ctx = r.g.ctx ∧ e.dev = r.sg.mast / 16 ∧
      e.blk = va ∧ e.fin = none ∧ e.words = (List.range 24).map (fun i => s.word (cells i)) ∧ t.mem = writeMem s.mem (cells 4) (leBytes 8 0xFF) := by
  obtain ⟨hexec, hr⟩ := exec_capr_issued hi htrap
  rw [hva] at hexec
  obtain ⟨gw, ws, n, t, u, ht, hu, hpassed, hstood, hrecs⟩ := capr_accepted (dk := r.sval w.a) (st := w.dest) hr hstall hlinked hroom hmeets hq
  obtain ⟨hcaps, hmem⟩ := State.takeBlock_begun gw ws n hcells
  rw [ht] at hexec
  refine ⟨_, u, capEntry s r va ((List.range 24).map (fun i => s.word (cells i))), hexec, hu, hpassed, hstood, ?_, rfl, rfl, rfl, rfl, rfl, rfl, hrecs.mem.trans hmem⟩
  rw [← hcaps]
  exact congrArg Mast.caps (congrArg (fun ms => (SMap.get? ms (s.vaMast va)).getD Mast.reset) hrecs.masts)

end Sys2Proof.Machine
end

section
/-! # Calls that go out (O33) -/

namespace Sys2Proof.Machine

open Sys2Proof Sys2Proof.Safety

/-! ## Calls that go out (R178) -/

/-- A call of a lane, as it goes out. -/
structure CallSent (s : State) (r : Run) (park : Option Nat) (l : Nat) (rec : Word) (c : JibCall) : Prop where
  gid    : c.gid = r.gid
  ctx    : c.ctx = r.g.ctx
  dev    : c.dev = s.dev
  lane   : c.lane = l
  record : c.record = s.directOf r.g rec
  after  : c.after = r.pc + BitVec.ofNat 64 r.len
  phase  : c.phase = .queued
  wait2  : c.wait2 = park.isNone
  wait   : c.wait = park

/-- A call takes a new identifier, and changes nothing but its group's counts. -/
theorem State.sendCall_sent (s : State) (r : Run) (dest : Operand) (park : Option Nat) (l : Nat) (rec : Word) :
    ∃ gs k c, s.sendCall r dest park l rec = { s with groups := gs, calls := SMap.put s.calls k c, nextId := k + 1 } ∧
      s.nextId ≤ k ∧ CallSent s r park l rec c := by
  unfold State.sendCall
  dsimp only
  split_ifs
  · exact ⟨_, _, _, rfl, Nat.le_succ _, ⟨rfl, rfl, rfl, rfl, rfl, rfl, rfl, rfl, rfl⟩⟩
  · exact ⟨_, _, _, rfl, Nat.le_refl _, ⟨rfl, rfl, rfl, rfl, rfl, rfl, rfl, rfl, rfl⟩⟩

/-- Calls of some lanes: each goes out, and the calls that there were stay. -/
theorem State.foldl_sendCall (r : Run) (dest : Operand) (park : Option Nat) (addr : Nat → Word) (ls : List Nat) (s : State) :
    ∃ gs cs n, ls.foldl (fun s l => s.sendCall r dest park l (addr l)) s = { s with groups := gs, calls := cs, nextId := n } ∧
      (∀ k < s.nextId, SMap.get? cs k = SMap.get? s.calls k) ∧ ∀ l ∈ ls, ∃ k c, SMap.get? cs k = some c ∧ CallSent s r park l (addr l) c := by
  induction ls generalizing s with
  | nil => exact ⟨_, _, _, rfl, fun _ _ => rfl, fun _ h => by cases h⟩
  | cons l ls ih =>
    obtain ⟨gs, k, c, hsend, hk, hc⟩ := s.sendCall_sent r dest park l (addr l)
    obtain ⟨gs', cs, n, hrest, hold, hsent⟩ := ih { s with groups := gs, calls := SMap.put s.calls k c, nextId := k + 1 }
    refine ⟨gs', cs, n, by rw [List.foldl_cons, hsend, hrest], fun j hj => ?_, fun l' hl' => ?_⟩
    · rw [hold j (show j < k + 1 by omega), SMap.get?_put_ne _ _ (by omega)]
    · rcases List.mem_cons.mp hl' with rfl | hl'
      · exact ⟨k, c, (hold k (Nat.lt_succ_self k)).trans (SMap.get?_put_same ..), hc⟩
      · obtain ⟨k', c', hget, hc'⟩ := hsent l' hl'
        exact ⟨k', c', hget, ⟨hc'.gid, hc'.ctx, hc'.dev, hc'.lane, hc'.record, hc'.after, hc'.phase, hc'.wait2, hc'.wait⟩⟩

/-! ## Lanes that go to the waiting pool -/

/-- A word's wait begins in its group, its sub-group and the waits only. -/
theorem Run.beginWait_eq {s : State} {h : Hd} {r : Run} {k : WaitKind} (dk : Option Word) (bound : Option Nat) (st : Operand) (hr : run s h = some r) :
    ∃ gs, s.beginWait (r.waitRec r.act k dk bound st) = { s with
      groups := gs, subs := SMap.put s.subs r.sid (r.sg.setSt r.act .waiting), waits := SMap.put s.waits s.nextId (r.waitRec r.act k dk bound st)
      nextId := s.nextId + 1 } := by
  have hsub := run_sub hr
  obtain ⟨gs, hcount⟩ : ∃ gs, s.countWait r.sid r.act = { s with groups := gs } := by
    unfold State.countWait
    simp only [hsub]
    exact ⟨_, rfl⟩
  refine ⟨gs, ?_⟩
  unfold State.beginWait
  rw [show (r.waitRec r.act k dk bound st).sid = r.sid from rfl, show (r.waitRec r.act k dk bound st).lanes = r.act from rfl, hcount]
  simp only [State.fresh]
  rw [State.updSub_of_get? _ (show SMap.get? ({ s with groups := gs, nextId := s.nextId + 1 } : State).subs r.sid = _ from hsub)]

/-- The run of the lanes of an issue set that a word leaves out while its active lanes wait. -/
def Run.rest (r : Run) : Run := { r with sg := r.sg.setSt r.act .waiting, set := r.set &&& ~~~r.act, act := r.set &&& ~~~r.act }

theorem Run.rest_nextPc (r : Run) : nextPc r.rest = nextPc r := by
  funext l
  have hpc : (SMap.get? (r.sg.setSt r.act .waiting).lanes l).map (fun x => x.pc) = (SMap.get? r.sg.lanes l).map (fun x => x.pc) := by
    rw [SubGroup.setSt_get?, Option.map_map]
    congr 1
    funext x
    by_cases h : r.act.getLsbD l <;> simp [h]
  exact congrArg (fun p : Option Word => p.getD 0 + BitVec.ofNat 64 r.len) hpc

theorem Run.rest_quiet {r : Run} (hq : quiet r (nextPc r) = true) :
    quiet r.rest (nextPc r.rest) = true := by
  rw [Run.rest_nextPc]
  refine List.all_eq_true.mpr fun e he => ?_
  obtain ⟨⟨l, x⟩, hx, rfl⟩ := List.mem_map.mp (show e ∈ List.map _ r.sg.lanes from he)
  have hlane := List.all_eq_true.mp hq (l, x) hx
  have hrest : r.rest.set.getLsbD l = (r.set.getLsbD l && !r.act.getLsbD l) := getLsbD_and_not ..
  by_cases ha : r.act.getLsbD l = true
  · simp [hrest, ha]
  · by_cases hset : r.set.getLsbD l = true
    · simpa [hrest, ha, hset] using hlane
    · simpa [hrest, ha, hset] using hlane

/-- The lanes of a parking call's issue set: the active ones wait, the rest has gone on. -/
def leftAt (r : Run) (st : LaneSt) (l : Nat) (x : Lane) : Lane :=
  if r.act.getLsbD l then { x with st := st } else if r.set.getLsbD l then laneAfter r (nextPc r l) x else x

/-- The lanes that a parking call leaves out go on. -/
theorem Run.rest_retired {t : State} {r : Run} (hsub : SMap.get? t.subs r.sid = some (r.sg.setSt r.act .waiting))
    (hnow : r.now = (t.stn r.sg.mast r.sg.stn).cycles) (hq : quiet r (nextPc r) = true) :
    ∃ u, t.retire r.sid (r.set &&& ~~~r.act) r.stall r.len r.iw r.xw = { t with subs := SMap.put t.subs r.sid u } ∧
      (∀ y, u.reg y = r.sg.reg y) ∧ ∀ l, SMap.get? u.lanes l = (SMap.get? r.sg.lanes l).map (leftAt r .waiting l) := by
  have hdone : r.rest.done t = _ := (retire_eq (r := r.rest) hsub rfl).trans (State.retireAt_quiet (r := r.rest) _ _ _ hsub rfl hnow.symm (Run.rest_quiet hq))
  refine ⟨_, hdone, fun y => ?_, fun l => ?_⟩
  · rw [SubGroup.prune_reg, SubGroup.withLanes_reg, SubGroup.setSt_reg]
  · rw [SubGroup.prune_lanes, moved_lanesAfter r.rest (nextPc r.rest) { r.rest.sg with lanes := lanesAfter r.rest (nextPc r.rest) } rfl l, Run.rest_nextPc]
    show (SMap.get? (r.sg.setSt r.act .waiting).lanes l).map _ = _
    rw [SubGroup.setSt_get?, Option.map_map]
    congr 1
    funext x
    show (if (r.set &&& ~~~r.act).getLsbD l = true then _ else _) = _
    rw [getLsbD_and_not]
    unfold leftAt
    cases ha : r.act.getLsbD l <;> cases hs : r.set.getLsbD l <;> rfl

/-- Active lanes that begin a wait for a waiting pool leave the rest of their issue set to go on. -/
theorem waitFor_bcall {s : State} {h : Hd} {r : Run} (bound : Option Nat) (hr : run s h = some r) (hq : quiet r (nextPc r) = true) :
    ∃ gs ws u, r.waitFor s r.act .bcall none bound .zero = { s with groups := gs, subs := SMap.put s.subs r.sid u, waits := ws, nextId := s.nextId + 1 } ∧
      (∀ y, u.reg y = r.sg.reg y) ∧ ∀ l, SMap.get? u.lanes l = (SMap.get? r.sg.lanes l).map (leftAt r .waiting l) := by
  obtain ⟨gs, hbegin⟩ := Run.beginWait_eq (k := .bcall) none bound .zero hr
  have hnow : r.now = (s.stn r.sg.mast r.sg.stn).cycles := run_now hr
  unfold Run.waitFor
  dsimp only
  rw [hbegin]
  split_ifs with hrest
  · refine ⟨gs, _, _, rfl, SubGroup.setSt_reg _ _ _, fun l => (SubGroup.setSt_get? ..).trans (congrArg (Option.map · _) (funext fun x => ?_))⟩
    have hl : (r.set.getLsbD l && !r.act.getLsbD l) = false := by rw [← getLsbD_and_not, hrest]; exact BitVec.getLsbD_zero
    unfold leftAt
    cases ha : r.act.getLsbD l with
    | true => rfl
    | false =>
      rw [ha, Bool.not_false, Bool.and_true] at hl
      simp [hl]
  · obtain ⟨u, hretired, hregs, hlanes⟩ := Run.rest_retired (t := { s with
        groups := gs, subs := SMap.put s.subs r.sid (r.sg.setSt r.act .waiting)
        waits := SMap.put s.waits s.nextId (r.waitRec r.act .bcall none bound .zero), nextId := s.nextId + 1 })
      (SMap.get?_put_same ..) hnow hq
    exact ⟨gs, _, u, hretired.trans (by rw [SMap.put_put]), hregs, hlanes⟩

/-- The active lanes then go to the waiting pool. -/
theorem parked_bcall {s : State} {h : Hd} {r : Run} (bound : Option Nat) (hr : run s h = some r) (hq : quiet r (nextPc r) = true) :
    ∃ gs ws u, (r.waitFor s r.act .bcall none bound .zero).park r.sid r.act =
        { s with groups := gs, subs := SMap.put s.subs r.sid u, waits := ws, nextId := s.nextId + 1 } ∧
      (∀ y, u.reg y = r.sg.reg y) ∧ ∀ l, SMap.get? u.lanes l = (SMap.get? r.sg.lanes l).map (leftAt r .parked l) := by
  obtain ⟨gs, ws, u, hwait, hregs, hlanes⟩ := waitFor_bcall bound hr hq
  refine ⟨gs, ws, (u.setSt r.act .parked).settle r.act, ?_, fun y => ?_, fun l => ?_⟩
  · rw [hwait, State.park, State.updSub_of_get? (sg := u) _ (SMap.get?_put_same ..)]
    dsimp only
    rw [SMap.put_put]
  · rw [SubGroup.settle_reg, SubGroup.setSt_reg, hregs]
  · show SMap.get? (u.setSt r.act .parked).lanes l = _
    rw [SubGroup.setSt_get?, hlanes, Option.map_map]
    congr 1
    funext x
    unfold leftAt
    cases r.act.getLsbD l <;> simp

/-! ## BCALL (R178) -/

/-- BCALL.T parks its active lanes and sends their calls. -/
theorem exec_bcallT_sent {s : State} {w : FWord} {x : Option XWord} {r : Run} (hi : issues s (.bcallT w x) = some r)
    (hcheck : s.memCheck r .glob 32 false false (memAddr w x r) = none) (hq : quiet r (nextPc r) = true) :
    ∃ t u, exec (.bcallT w x) s = .next t ∧ SMap.get? t.subs r.sid = some u ∧ t.mem = s.mem ∧ (∀ y, u.reg y = r.sg.reg y) ∧
      (∀ l, SMap.get? u.lanes l = (SMap.get? r.sg.lanes l).map (leftAt r .parked l)) ∧
      ∀ l ∈ lanesOf r.act, ∃ k c, SMap.get? t.calls k = some c ∧ CallSent s r (some s.nextId) l (memAddr w x r l) c := by
  obtain ⟨hexec, hr⟩ := exec_issuedMem (needX := false) (g := bcallSig w x) hi rfl (execBcallT.eq_1 w x s)
  obtain ⟨gs, ws, u, hparked, hregs, hlanes⟩ := parked_bcall (some r.sg.bound) hr hq
  unfold bcallPath at hexec
  simp only [hcheck, if_true, hparked] at hexec
  obtain ⟨gs', cs, n, hcalls, -, hsent⟩ := State.foldl_sendCall r w.dest (some s.nextId) (memAddr w x r) (lanesOf r.act)
    { s with groups := gs, subs := SMap.put s.subs r.sid u, waits := ws, nextId := s.nextId + 1 }
  rw [hcalls] at hexec
  refine ⟨_, u, hexec, SMap.get?_put_same .., rfl, hregs, hlanes, fun l hl => ?_⟩
  obtain ⟨k, c, hget, hc⟩ := hsent l hl
  exact ⟨k, c, hget, ⟨hc.gid, hc.ctx, hc.dev, hc.lane, hc.record, hc.after, hc.phase, hc.wait2, hc.wait⟩⟩

/-- BCALL.N sends its active lanes' calls and completes. -/
theorem exec_bcallN_sent {s : State} {w : FWord} {x : Option XWord} {r : Run} (hi : issues s (.bcallN w x) = some r)
    (hcheck : s.memCheck r .glob 32 false false (memAddr w x r) = none) (hq : quiet r (nextPc r) = true) :
    ∃ t u, exec (.bcallN w x) s = .next t ∧ SMap.get? t.subs r.sid = some u ∧ t.mem = s.mem ∧ Completed r u (nextPc r) [] 0 ∧
      ∀ l ∈ lanesOf r.act, ∃ k c, SMap.get? t.calls k = some c ∧ CallSent s r none l (memAddr w x r l) c := by
  obtain ⟨hexec, hr⟩ := exec_issuedMem (needX := false) (g := bcallSig w x) hi rfl (execBcallN.eq_1 w x s)
  unfold bcallPath at hexec
  simp only [hcheck, Bool.false_eq_true, if_false] at hexec
  obtain ⟨gs, cs, n, hcalls, -, hsent⟩ := State.foldl_sendCall r w.dest none (memAddr w x r) (lanesOf r.act) s
  rw [hcalls] at hexec
  have hsub := run_sub hr
  have hnow : r.now = (s.stn r.sg.mast r.sg.stn).cycles := run_now hr
  obtain ⟨v, honly, hdone⟩ := Run.done_completed (s := { s with groups := gs, calls := cs, nextId := n }) hsub (Written.refl _) hnow hq
  rw [honly] at hexec
  exact ⟨_, v, hexec, SMap.get?_put_same .., rfl, hdone, hsent⟩

end Sys2Proof.Machine
end

section
namespace Sys2Proof
open Machine Safety

/-- Settles O33: the wait of a CAPR ends as it begins, for its Capstan takes the block; a BCALL sends its calls one by one, and each stands under an identifier
of its own. -/
theorem reductionAndCallWords : Obligations.ReductionAndCallWords := by
  refine ⟨fun s w r cells hi hstall htrap hlinked hroom hmeets hcells hq => exec_capr_accepted rfl hi hstall htrap hlinked hroom hmeets hcells hq, ?_⟩
  intro s i w x parks r hword hi hcheck hq
  cases parks with
  | true =>
    obtain rfl : i = .bcallT w x := hword
    obtain ⟨t, u, hexec, hu, hmem, hregs, hlanes, hsent⟩ := exec_bcallT_sent hi hcheck hq
    refine ⟨t, u, hexec, hu, hmem, ⟨hregs, hlanes⟩, fun l hl => ?_⟩
    obtain ⟨k, c, hget, hc⟩ := hsent l hl
    exact ⟨k, c, hget, hc.gid, hc.ctx, hc.dev, hc.lane, hc.record, hc.after, hc.phase, hc.wait2, hc.wait⟩
  | false =>
    obtain rfl : i = .bcallN w x := hword
    obtain ⟨t, u, hexec, hu, hmem, hdone, hsent⟩ := exec_bcallN_sent hi hcheck hq
    refine ⟨t, u, hexec, hu, hmem, hdone, fun l hl => ?_⟩
    obtain ⟨k, c, hget, hc⟩ := hsent l hl
    exact ⟨k, c, hget, hc.gid, hc.ctx, hc.dev, hc.lane, hc.record, hc.after, hc.phase, hc.wait2, hc.wait⟩

end Sys2Proof
end

section
/-! # A slice that takes an entry of its engine (O32) -/

namespace Sys2Proof.Machine

open Sys2Proof Sys2Proof.Safety

/-! ## The free entries of an engine (R164, R283) -/

theorem SMap.del_sublist {α : Type} (m : SMap α) (k : Nat) : (SMap.del m k).Sublist m := by
  induction m with
  | nil => exact List.Sublist.slnil
  | cons e m ih =>
    unfold SMap.del
    split_ifs
    · exact ih.cons e
    · exact ih.cons_cons e

theorem SMap.filter_ins {α : Type} {p : Nat × α → Bool} (m : SMap α) {k : Nat} {x : α} (h : p (k, x) = false) : (SMap.ins m k x).filter p = m.filter p := by
  induction m with
  | nil => simp [SMap.ins, h]
  | cons e m ih =>
    unfold SMap.ins
    split_ifs
    · rw [List.filter_cons_of_neg (by simp [h])]
    · simp only [List.filter_cons, ih]

/-- A record that fails a test leaves no more of the others that pass it. -/
theorem SMap.filter_put_sublist {α : Type} {p : Nat × α → Bool} (m : SMap α) {k : Nat} {x : α} (h : p (k, x) = false) :
    ((SMap.put m k x).filter p).Sublist (m.filter p) := by
  rw [SMap.put, SMap.filter_ins _ h]
  exact (SMap.del_sublist m k).filter p

/-- The state in which a slice is offered under a new identifier. -/
def State.offered (s : State) (sl : Slice) : State := { s with slices := SMap.put s.slices s.nextId sl, nextId := s.nextId + 1 }

section
variable {s : State} {r : Run} {sl : Slice} (gw : RMap 32) (ws : SMap Wait) (n : Nat)

/-- A slice that waits holds no entry. -/
theorem State.offered_quadEntries (m quad : Nat) (hentry : sl.entry = false) :
    (((s.offered sl).begun r gw ws n).quadEntries m quad).Sublist (s.quadEntries m quad) :=
  SMap.filter_put_sublist s.slices (by simp [hentry])

theorem State.offered_rsvFree {cid m quad : Nat} (hentry : sl.entry = false) (h : s.rsvFree cid m quad = true) :
    ((s.offered sl).begun r gw ws n).rsvFree cid m quad = true := by
  have hsub := State.offered_quadEntries (s := s) (r := r) gw ws n m quad hentry
  unfold State.rsvFree at h ⊢
  simp only [Bool.and_eq_true, decide_eq_true_eq] at h ⊢
  exact ⟨Nat.lt_of_le_of_lt (hsub.filter _).length_le h.1, Nat.lt_of_le_of_lt hsub.length_le h.2⟩

theorem State.offered_sharedFree {m quad : Nat} (hentry : sl.entry = false) (h : s.sharedFree m quad = true) :
    ((s.offered sl).begun r gw ws n).sharedFree m quad = true := by
  have hsub := State.offered_quadEntries (s := s) (r := r) gw ws n m quad hentry
  unfold State.sharedFree at h ⊢
  simp only [decide_eq_true_eq] at h ⊢
  exact Nat.lt_of_le_of_lt (Nat.add_le_add_right (hsub.filter _).length_le _) h

/-- The only slice that waits takes an entry that is free. -/
theorem State.offered_entryFor {cr : Crew} (hentry : sl.entry = false) (hothers : ∀ e ∈ s.slices, e.2.entry = true)
    (hfree : s.rsvFree sl.cid cr.mast (cr.stn / 4) = true ∨ s.sharedFree cr.mast (cr.stn / 4) = true) :
    ∃ rsv, ((s.offered sl).begun r gw ws n).entryFor s.nextId sl cr = some rsv := by
  have honly : ∀ p : Nat × Slice → Bool, p (s.nextId, sl) = true → ∀ q : Nat × Slice → Bool,
      (((s.offered sl).begun r gw ws n).slices.filter (fun e => !e.2.entry && q e)).all p = true := by
    intro p hp q
    refine List.all_eq_true.mpr fun e he => ?_
    obtain ⟨he, hwaits⟩ := List.mem_filter.mp he
    rcases SMap.mem_ins he with rfl | he
    · exact hp
    · rw [hothers e (SMap.mem_del he)] at hwaits
      cases hwaits
  unfold State.entryFor
  dsimp only
  cases hrsv : ((s.offered sl).begun r gw ws n).rsvFree sl.cid cr.mast (cr.stn / 4) with
  | true => exact ⟨true, (if_pos rfl).trans (if_pos (honly _ (by simp) _))⟩
  | false =>
    have hshared : ((s.offered sl).begun r gw ws n).sharedFree cr.mast (cr.stn / 4) = true := by
      refine State.offered_sharedFree gw ws n hentry (hfree.resolve_left fun h => ?_)
      rw [State.offered_rsvFree gw ws n hentry h] at hrsv
      cases hrsv
    rw [hshared]
    exact ⟨false, (if_neg Bool.false_ne_true).trans ((if_pos rfl).trans (if_pos (honly _ (by simp) _)))⟩

end

/-! ## A slice that takes an entry (R165) -/

/-- A slice that holds an entry. -/
def acceptedSlice (sl : Slice) (rsv : Bool) (ord sreg : Nat) : Slice := { sl with entry := true, reserved := rsv, order := ord, sreg := sreg }

/-- A slice takes an entry of its engine: its status is outstanding, its operation counted, and its acceptance noted. -/
def State.takeEntry (s : State) (w : Wait) (cr : Crew) (k : Nat) (sl : Slice) (rsv : Bool) : State :=
  let out : Nat × State := if isS w.status then s.outstand sl.gid sl.lane w.lanes ((dstWrites w.status true 0 0).map (fun x => (x.1, none))) else (0, s)
  let s2 := (out.2.countOp sl.gid 3 sl.reach 1).noteAt cr.mast 6 sl.ctx (BitVec.ofNat 64 (0x30000 + cr.stn / 4)) (s.requester sl.gid sl.lane) 0
  { s2 with nextId := s2.nextId + 1, slices := SMap.put s2.slices k (acceptedSlice sl rsv s2.nextId out.1) }

theorem State.noteAt_tables (s : State) (m typ ctx : Nat) (w1 w2 w3 : Word) :
    (s.noteAt m typ ctx w1 w2 w3).slices = s.slices ∧ (s.noteAt m typ ctx w1 w2 w3).crews = s.crews := by
  obtain ⟨j, hj⟩ := State.note_eq (s.enter (m / 16)) (m % 16) typ ctx w1 w2 w3
  simp [State.noteAt, State.on, hj]

theorem State.updGroup_group {s : State} {gid : Nat} {g : Group} (f : Group → Group) (hg : SMap.get? s.groups gid = some g) :
    SMap.get? (s.updGroup gid f).groups gid = some (f g) := by
  rw [State.updGroup_get?, if_pos rfl, hg, Option.map_some]

/-- A status that goes out touches its group alone. -/
theorem State.outstand_eq (s : State) (gid lane : Nat) (path : Mask) (ws : List (Reg × Option Word)) :
    s.outstand gid lane path ws = (s.nextId, ({ s with nextId := s.nextId + 1 } : State).updGroup gid (fun g => withOutst g s.nextId lane path ws)) := rfl

section
variable (s : State) (w : Wait) (cr : Crew) (k : Nat) (sl : Slice) (rsv : Bool)

theorem State.takeEntry_mem : (s.takeEntry w cr k sl rsv).mem = s.mem := by
  unfold State.takeEntry State.countOp
  split_ifs <;> simp

theorem State.takeEntry_waits : (s.takeEntry w cr k sl rsv).waits = s.waits := by
  unfold State.takeEntry State.countOp
  split_ifs <;> simp [State.noteAt_waits, State.outstand_eq]

theorem State.takeEntry_crews : (s.takeEntry w cr k sl rsv).crews = s.crews := by
  unfold State.takeEntry State.countOp
  split_ifs <;> simp [State.noteAt_tables, State.outstand_eq]

theorem State.takeEntry_stands : Stands s (s.takeEntry w cr k sl rsv) := by
  have hout : Stands s (if isS w.status then s.outstand sl.gid sl.lane w.lanes ((dstWrites w.status true 0 0).map (fun x => (x.1, none))) else (0, s)).2 := by
    split_ifs
    · exact (Stands.of_eq rfl rfl rfl).trans (State.updGroup_stands { s with nextId := s.nextId + 1 } _ _)
    · exact Stands.refl s
  obtain ⟨hsubs, hstns, hgroups⟩ := (hout.trans (State.countOp_stands _ sl.gid 3 sl.reach 1)).trans
    (State.noteAt_stands _ cr.mast 6 sl.ctx (BitVec.ofNat 64 (0x30000 + cr.stn / 4)) (s.requester sl.gid sl.lane) 0)
  exact ⟨hsubs, hstns, hgroups⟩

/-- The accepted slice, and its status outstanding in its group. -/
theorem State.takeEntry_slice {s : State} {g : Group} (hg : SMap.get? s.groups sl.gid = some g) :
    ∃ ord sreg g', (s.takeEntry w cr k sl rsv).slices = SMap.put s.slices k (acceptedSlice sl rsv ord sreg) ∧
      SMap.get? (s.takeEntry w cr k sl rsv).groups sl.gid = some g' ∧
      (isS w.status = true → ∃ o ∈ g'.outst, o.id = sreg ∧ o.writes = (dstWrites w.status true 0 0).map (fun x => (x.1, none))) := by
  unfold State.takeEntry State.countOp
  dsimp only
  simp only [(State.noteAt_tables ..).1, (State.noteAt_keeps ..).2.1]
  split_ifs with hs
  · exact ⟨_, _, _, rfl, State.updGroup_group _ (State.updGroup_group (s := { s with nextId := s.nextId + 1 }) _ hg),
      fun _ => ⟨⟨s.nextId, sl.lane, w.lanes, _⟩, List.mem_append_right _ (List.mem_singleton_self _), rfl, rfl⟩⟩
  · exact ⟨_, _, _, rfl, State.updGroup_group _ hg, fun h => absurd h hs⟩

end

end Sys2Proof.Machine
end

section
/-! # The offer of a slice (O32) -/

namespace Sys2Proof.Machine

open Sys2Proof Sys2Proof.Safety

/-! ## The offer of a slice (R165, R167) -/

/-- The slices that a tag's copy has accepted so far. -/
def tagCount (t : TagSt) : Nat := match t with | .gathering _ _ n _ => n | _ => 0

/-- A slice as a copy word offers it. -/
def newSlice (s : State) (r : Run) (dk : Word) (q : CopyReq) (reach : Nat) : Slice :=
  { dev := s.dev, gid := r.gid, ctx := r.g.ctx, cid := r.g.cid.getD 0, lane := r.low, tag := q.tag, round := q.round, parts := q.parts, sreg := 0
    kind := q.kind, refused := false, entry := false, reserved := false, order := 0, done := [], lost := 0, code := 0, skip := 0, counted := false
    tile := none, dead := [], reach := reach, lanes := r.act, dl := dk, pc := r.pc, iword := r.iw, x := none }

/-- A copy word whose checks hold offers its slice, which is judged at once. -/
theorem offerCopy_good {s : State} {r : Run} {w : FWord} {q : CopyReq} (h : GoodCopy s r q) :
    ∃ reach, offerCopy r s w q = (r.waitFor (s.offered (newSlice s r (r.sval w.a) q reach)) r.act (.slice s.nextId) (some (r.sval w.a)) none w.dest).sliceExpire
      (s.nextId + 1) := by
  obtain ⟨hbad, hfixed, hranges⟩ := h
  have hmis : q.fixed.filter (fun x => decide (x.1.toNat % 32 ≠ 0)) = [] :=
    List.filter_eq_nil_iff.mpr fun x hx => by simp [hfixed x hx]
  have hprv : (q.srcs ++ q.dsts).filter
      (fun x => decide (x.2 ≠ 0) && ((x.1).getLsbD 63 || (x.1 + BitVec.ofNat 64 (x.2 - 1)).getLsbD 63) && !r.sg.sv) = [] := by
    refine List.filter_eq_nil_iff.mpr fun x hx hpriv => ?_
    simp only [Bool.and_eq_true, decide_eq_true_eq, Bool.or_eq_true, Bool.not_eq_true'] at hpriv
    obtain ⟨⟨hlen, htop⟩, hsv⟩ := hpriv
    obtain ⟨-, hright, -⟩ := hranges x hx
    rcases hright hlen with ⟨hfirst, hlast⟩ | hsup
    · rw [hfirst, hlast] at htop
      exact htop.elim Bool.false_ne_true Bool.false_ne_true
    · rw [hsup] at hsv
      cases hsv
  have hhome : (q.srcs ++ q.dsts).all oneHome = true := List.all_eq_true.mpr fun x hx => (hranges x hx).1
  have hrefused : (q.srcs ++ q.dsts).any (fun x => (rangeMarks x).any (fun a => (s.homeWhy r a).isSome)) = false :=
    List.any_eq_false.mpr fun x hx => by
      simp only [List.any_eq_true, not_exists, not_and]
      intro a ha
      simp [(hranges x hx).2.2 a ha]
  unfold offerCopy
  simp only [hbad, hmis, hprv, hhome, hrefused, Bool.false_eq_true, if_false, ne_eq, not_true_eq_false, Bool.not_true]
  exact ⟨_, rfl⟩

/-- A waiting slice that its tag takes and whose engine has an entry is accepted; with the last of its parts the copy begins. -/
theorem State.trySlice_taken {s : State} {wid k : Nat} {w : Wait} {sl : Slice} {r : Run} {cr : Crew} {rsv : Bool} (hw : SMap.get? s.waits wid = some w)
    (hkind : w.kind = .slice k) (hsl : SMap.get? s.slices k = some sl) (hr : s.runOf w = some r) (hcr : SMap.get? s.crews sl.cid = some cr)
    (hlinked : s.linked (r.sg.mast / 16) (cr.mast / 16) = true) (htake : (cr.tag sl.tag).answer sl.round sl.parts = .take)
    (hentry : s.entryFor k sl cr = some rsv) :
    ∃ left, ∀ t, (s.takeEntry w cr k sl rsv).endWait wid { w with status := .zero } (some 0) false false 0 = t →
      s.trySlice wid = if tagCount (cr.tag sl.tag) + 1 = sl.parts then t.startCopy sl.cid sl.tag sl.round
        else t.updCrew sl.cid (fun c => { c with tags := SMap.put c.tags sl.tag (.gathering sl.round sl.parts (tagCount (cr.tag sl.tag) + 1) left) }) := by
  unfold State.trySlice
  simp only [hw, hkind, hsl, hr, hcr, hlinked, htake, hentry, Bool.not_true, Bool.false_eq_true, if_false]
  simp only [forall_eq']
  cases cr.tag sl.tag <;> exact ⟨_, rfl⟩

/-- The deadline of a slice that was answered has no effect. -/
theorem State.sliceExpire_ended {s t : State} {wid : Nat} (h : s.trySlice wid = t) (hw : SMap.get? t.waits wid = none) : s.sliceExpire wid = t := by
  unfold State.sliceExpire
  simp only [h, hw]

/-- A copy with transfers left and no slice refused begins without one (R167). -/
theorem State.startCopy_running {s : State} {cid tag round k : Nat} {sl : Slice} (hsl : SMap.get? s.slices k = some sl) (hentry : sl.entry = true)
    (hcid : sl.cid = cid) (htag : sl.tag = tag) (hleft : sl.done.length < sl.kind.units) (hrefused : ∀ e ∈ s.slices, e.2.refused = false) :
    s.startCopy cid tag round = s.updCrew cid (fun c => { c with tags := SMap.put c.tags tag (.running round) }) := by
  have hnone : ((s.updCrew cid (fun c => { c with tags := SMap.put c.tags tag (.running round) })).copyOf cid tag).any (fun e => e.2.refused) = false :=
    List.any_eq_false.mpr fun e he => by simp [hrefused e (List.mem_filter.mp he).1]
  unfold State.startCopy
  dsimp only
  rw [hnone, if_neg Bool.false_ne_true]
  exact State.checkCopy_running hsl hentry hcid htag hleft

/-- A run is that of its issue set when a slice has been offered. -/
theorem run_offered {s : State} {h : Hd} {r : Run} (sl : Slice) (hr : run s h = some r) : run (s.offered sl) h = some r := hr

/-- A crew whose tag is set has the tag. -/
theorem Crew.tag_put (c : Crew) (k : Nat) (x : TagSt) : ({ c with tags := SMap.put c.tags k x } : Crew).tag k = x := by
  unfold Crew.tag
  rw [SMap.get?_put_same, Option.getD_some]

/-- How a tag stands that has taken a slice: its copy runs with the last of its parts, and gathers before (R165). -/
def TagTook (had : Nat) (q : CopyReq) (t : TagSt) : Prop :=
  if had + 1 = q.parts then t = .running q.round else ∃ left, t = .gathering q.round q.parts (had + 1) left

/-- THE SLICE OF A COPY WORD that its tag takes and whose engine has an entry: the word's wait ends as it begins, and what has changed is the tag, the engine's
slices and the group. -/
theorem slice_taken {s : State} {h : Hd} {r : Run} {q : CopyReq} {c : Crew} {dk : Word} {st : Operand} {reach cid : Nat} (hr : run s h = some r)
    (hstall : r.stall = stallOf r.iw) (hq : quiet r (nextPc r) = true) (hunits : 0 < q.kind.units) (hcid : r.g.cid = some cid)
    (hc : SMap.get? s.crews cid = some c) (hlinked : s.linked (r.sg.mast / 16) (c.mast / 16) = true) (htake : (c.tag q.tag).answer q.round q.parts = .take)
    (hslices : ∀ e ∈ s.slices, e.2.entry = true ∧ e.2.refused = false)
    (hfree : s.rsvFree cid c.mast (c.stn / 4) = true ∨ s.sharedFree c.mast (c.stn / 4) = true) :
    ∃ gw ws n rsv t u x, (r.waitFor (s.offered (newSlice s r dk q reach)) r.act (.slice s.nextId) (some dk) none st).sliceExpire (s.nextId + 1) =
        t.updCrew cid (fun c => { c with tags := SMap.put c.tags q.tag x }) ∧
      TagTook (tagCount (c.tag q.tag)) q x ∧ SMap.get? t.subs r.sid = some u ∧ Passed r u (nextPc r) [] ∧ StoodBy s t r (s.nextId + 1) ∧
      (((s.offered (newSlice s r dk q reach)).begun r gw ws n).takeEntry (r.waitRec r.act (.slice s.nextId) (some dk) none st) c s.nextId
        (newSlice s r dk q reach) rsv).SameRecs t := by
  have hnew : (newSlice s r dk q reach).cid = cid := by
    rw [newSlice, hcid]
    rfl
  obtain ⟨gw, ws, n, hbegun, hwait, hothers, -⟩ := Run.waitFor_eq_begun (k := .slice s.nextId) (some dk) none st (run_offered (newSlice s r dk q reach) hr) rfl
  obtain ⟨rsv, hentry⟩ := State.offered_entryFor (s := s) (r := r) (sl := newSlice s r dk q reach) (cr := c) gw ws n rfl
    (fun e he => (hslices e he).1) (hnew ▸ hfree)
  obtain ⟨left, htry⟩ := State.trySlice_taken (s := (s.offered (newSlice s r dk q reach)).begun r gw ws n) hwait rfl (SMap.get?_put_same ..)
    (State.begun_runOf (run_offered _ hr) hstall gw ws n _ _ _ _) (hnew ▸ hc) hlinked htake hentry
  have hfound := (State.takeEntry_stands ((s.offered (newSlice s r dk q reach)).begun r gw ws n) (r.waitRec r.act (.slice s.nextId) (some dk) none st) c s.nextId
    (newSlice s r dk q reach) rsv).found (run_offered _ hr) (State.takeEntry_waits ..)
  have hgone := hfound.ended (wid := s.nextId + 1) (k := .slice s.nextId) (dk := some dk) (bound := none) (st := .zero) 0 false 0 (run_offered _ hr) hstall hq
  obtain ⟨u, hu, hpassed, hstood, hrecs⟩ := hfound.passed (wid := s.nextId + 1) (k := .slice s.nextId) (dk := some dk) (bound := none) (st := .zero)
    0 false 0 (run_offered _ hr) hstall hq hothers
  obtain ⟨ord, sreg, -, hslice, -⟩ := State.takeEntry_slice (s := (s.offered (newSlice s r dk q reach)).begun r gw ws n)
    (r.waitRec r.act (.slice s.nextId) (some dk) none st) c s.nextId (newSlice s r dk q reach) rsv (SMap.get?_put_same ..)
  generalize hend : State.endWait _ _ (r.waitRec r.act (.slice s.nextId) (some dk) none .zero) _ _ _ _ = t at hgone hu hstood hrecs
  have htaken := htry t hend
  have hget : SMap.get? t.slices s.nextId = some (acceptedSlice (newSlice s r dk q reach) rsv ord sreg) := by
    rw [hrecs.slices, hslice]
    exact SMap.get?_put_same ..
  have hrefused : ∀ e ∈ t.slices, e.2.refused = false := fun e he => by
    rw [hrecs.slices, hslice] at he
    rcases SMap.mem_put he with rfl | he
    · rfl
    rcases SMap.mem_put he with rfl | he
    · rfl
    · exact (hslices e he).2
  have hstart := State.startCopy_running (cid := cid) (tag := q.tag) (round := q.round) hget rfl hnew rfl hunits hrefused
  rw [hnew] at htaken
  by_cases hlast : tagCount (c.tag q.tag) + 1 = q.parts
  · refine ⟨gw, ws, n, rsv, t, u, .running q.round, ?_, by rw [TagTook, if_pos hlast], hu, hpassed, hstood, hrecs⟩
    rw [hbegun]
    exact State.sliceExpire_ended (htaken.trans ((if_pos hlast).trans hstart)) hgone
  · refine ⟨gw, ws, n, rsv, t, u, .gathering q.round q.parts (tagCount (c.tag q.tag) + 1) left, ?_, by rw [TagTook, if_neg hlast]; exact ⟨left, rfl⟩, hu, hpassed,
      hstood, hrecs⟩
    rw [hbegun]
    exact State.sliceExpire_ended (htaken.trans (if_neg hlast)) hgone

/-- EVERY COPY WORD WITH A GOOD DESCRIPTOR offers its slice. -/
theorem exec_copyForm {s : State} {i : Instr} {w : FWord} {q : CopyReq} {r : Run} (hi : issues s i = some r) (hform : copyForm s r i = some (w, q))
    (hgood : GoodCopy s r q) :
    ∃ reach, exec i s = .next { (r.waitFor (s.offered (newSlice s r (r.sval w.a) q reach)) r.act (.slice s.nextId) (some (r.sval w.a)) none w.dest).sliceExpire
      (s.nextId + 1) with issuing := none } ∧ run s (hdX w none) = some r := by
  have hoffer : ∀ {n : Nat} {body : Body}, form s i = some (hdX w none, copySig w n) → exec i s = issueF s w none (copySig w n) body →
      body r s = offerCopy r s w q → ∃ reach, exec i s = .next { (r.waitFor (s.offered (newSlice s r (r.sval w.a) q reach)) r.act (.slice s.nextId)
        (some (r.sval w.a)) none w.dest).sliceExpire (s.nextId + 1) with issuing := none } ∧ run s (hdX w none) = some r := by
    intro n body hf he hbody
    obtain ⟨hexec, hr⟩ := exec_issuedF hi hf he
    obtain ⟨reach, hreach⟩ := offerCopy_good (w := w) hgood
    rw [hbody, hreach] at hexec
    exact ⟨reach, hexec, hr⟩
  cases i
  case cp w' =>
    obtain ⟨rfl, rfl⟩ := Prod.mk.inj (Option.some.inj hform)
    exact hoffer rfl (execCp.eq_1 w' s) rfl
  case cpm w' =>
    obtain ⟨rfl, rfl⟩ := Prod.mk.inj (Option.some.inj hform)
    exact hoffer rfl (execCpm.eq_1 w' s) rfl
  case cpcv w' =>
    obtain ⟨rfl, rfl⟩ := Prod.mk.inj (Option.some.inj hform)
    exact hoffer rfl (execCpcv.eq_1 w' s) rfl
  all_goals cases hform

end Sys2Proof.Machine
end

section
/-! # CP, CPM and CPCV (O32) -/

namespace Sys2Proof.Machine

open Sys2Proof Sys2Proof.Safety

/-- What stands once a slice has been taken: the slice in its entry, its tag, and its status outstanding. -/
theorem taken_tables {s t : State} {r : Run} {q : CopyReq} {c : Crew} {dk : Word} {st : Operand} {reach cid n : Nat} {gw : RMap 32} {ws : SMap Wait} {rsv : Bool}
    {x : TagSt} (hc : SMap.get? s.crews cid = some c)
    (hrecs : (((s.offered (newSlice s r dk q reach)).begun r gw ws n).takeEntry (r.waitRec r.act (.slice s.nextId) (some dk) none st) c s.nextId
      (newSlice s r dk q reach) rsv).SameRecs t) :
    ∃ ord sreg g, t.mem = s.mem ∧ SMap.get? t.slices s.nextId = some (acceptedSlice (newSlice s r dk q reach) rsv ord sreg) ∧
      SMap.get? (t.updCrew cid (fun c => { c with tags := SMap.put c.tags q.tag x })).crews cid = some { c with tags := SMap.put c.tags q.tag x } ∧
      SMap.get? t.groups r.gid = some g ∧
      (isS st = true → ∃ o ∈ g.outst, o.id = sreg ∧ o.writes = (dstWrites st true 0 0).map (fun x => (x.1, none))) := by
  obtain ⟨ord, sreg, g, hslices, hgroup, hout⟩ := State.takeEntry_slice (s := (s.offered (newSlice s r dk q reach)).begun r gw ws n)
    (r.waitRec r.act (.slice s.nextId) (some dk) none st) c s.nextId (newSlice s r dk q reach) rsv (SMap.get?_put_same ..)
  have hcrews : SMap.get? t.crews cid = some c := by rw [hrecs.crews, State.takeEntry_crews]; exact hc
  refine ⟨ord, sreg, g, hrecs.mem.trans (State.takeEntry_mem ..), ?_, ?_, by rw [hrecs.groups]; exact hgroup, hout⟩
  · rw [hrecs.slices, hslices]
    exact SMap.get?_put_same ..
  · rw [State.updCrew_crews, SMap.upd_some _ _ _ _ hcrews]
    exact SMap.get?_put_same ..

end Sys2Proof.Machine
end

section
namespace Sys2Proof
open Machine Safety

/-- Settles O32: the word's wait ends as it begins, for its slice takes a free entry; the copy that then runs has a transfer left, so it does not end. -/
theorem copyWords : Obligations.CopyWords := by
  intro s i w q r c had hi hform hstall hgood hunits hc hlinked htake hslices hfree hq
  obtain ⟨cid, hcid, hc⟩ := Option.bind_eq_some_iff.mp hc
  obtain ⟨reach, hexec, hr⟩ := exec_copyForm hi hform hgood
  have hget : r.g.cid.getD 0 = cid := by rw [hcid, Option.getD_some]
  rw [hget] at hfree ⊢
  obtain ⟨gw, ws, n, rsv, t, u, x, ht, hx, hu, hpassed, hstood, hrecs⟩ :=
    slice_taken (st := w.dest) (dk := r.sval w.a) hr hstall hq hunits hcid hc hlinked htake hslices hfree
  obtain ⟨ord, sreg, g, hmem, hslice, hcrew, hgroup, hout⟩ := taken_tables (x := x) hc hrecs
  rw [ht] at hexec
  refine ⟨_, u, _, _, g, hexec, hu, hpassed, hmem, hstood, hslice, rfl, rfl, rfl, rfl, rfl, rfl, rfl, rfl, rfl, hcrew, ?_, hgroup, hout⟩
  rw [Crew.tag_put]
  exact hx

end Sys2Proof
end

section
/-! # An exit that is lost on its way to a counter (O49)

A message's number is taken from `nextId`, and nothing in the statement says that it is above those of the messages on their way. A counter judges
with the exits that have yet to reach it (R185). Where such an exit has the next number, the notice of a completed phase stands in its place, and
the counters that are judged after it count one exit too few. -/

namespace Sys2Proof.Machine

open Sys2Proof Sys2Proof.Safety

/-- The exit of some lanes of crew 3, on its way to the crew's counters. -/
def exitToCrew (n : Nat) : Msg := { src := stnPort 0 0, dst := stnPort 0 0, body := .barExit (.crew 3 0) n }

/-- A crew that has no group left: barrier 0 has counted two arrivals, and barrier 1 one. -/
def emptiedCrew : Crew :=
  { lid := 1, cix := 0, mast := 0, stn := 0, anchor := 0, lseg := 0x4000, bars := [(0, { phase := 0, count := 2, expct := none }), (1, { phase := 0, count := 1, expct := none })],
    tags := [], pushers := [], groups := [], rsv := 0, weight := 1, placedAt := 0, saved := none }

/-- The exit of one lane arrives; that of two more, which both barriers still count as live, has the number to be given out next. -/
def lostExitState : State := { State.reset with crews := [(3, emptiedCrew)], msgs := [(1, exitToCrew 1), (9, exitToCrew 2)], nextId := 9 }

/-- With two lanes live, one arrival does not complete the phase of barrier 1. -/
theorem lostExitState_judged :
    (judged ((without lostExitState 1).liveCount (.crew 3 1)) (lostExitState.bar (.crew 3 1))).phase = 0 := by decide +kernel

/-- Barrier 0 completes its phase, the notice takes the number of the other exit, and barrier 1 completes its phase too. -/
theorem lostExitState_exec :
    (match exec (.barrierExit 1) lostExitState with | .next t => (t.bar (.crew 3 1)).phase | _ => 0) = 1 := by decide +kernel

end Sys2Proof.Machine
end

section
namespace Sys2Proof
open Machine Safety

/-- Refutes O49: where an exit on its way has the number of the notice that another barrier's phase is over, it is lost, and a counter judged afterwards counts
its lanes no more. -/
theorem not_barrierMessages : ¬ Obligations.BarrierMessages := by
  rintro ⟨-, -, -, hexit⟩
  obtain ⟨t, hexec, -, hbar⟩ := hexit lostExitState 1 1 (.crew 3 0) ⟨exitToCrew 1, rfl, rfl, by decide +kernel⟩ rfl
  have hphase := lostExitState_exec
  rw [hexec] at hphase
  simp only [hbar (.crew 3 1) (by decide), lostExitState_judged] at hphase
  exact absurd hphase (by decide)

end Sys2Proof
end

section
/-! # Words that trap, and HALT (O34) -/

namespace Sys2Proof.Machine

open Sys2Proof Sys2Proof.Safety

/-- A trap of the whole issue set leaves no lane to retire (R196). -/
theorem Run.trapOf_set {r : Run} {s : State} (hact : r.act = r.set) (cause detail : BitVec 8) (info : Word) (fmask : Mask) (next : Bool) :
    r.trapOf s r.act cause detail info fmask next = s.enterTrap r.sid r.act
      { cause := cause, detail := detail, info := info, fmask := fmask, next := next, tpc := r.pc, len := r.len, iword := r.iw, xword := r.xw } := by
  have hrest : r.set &&& ~~~r.act = 0 := by rw [hact]; exact BitVec.and_not_self r.set
  rw [Run.trapOf, if_pos hrest]

/-- TFENCE with every result written and an enabled flag set traps in the state where its issue set sees the results (R72, R199). -/
theorem exec_tfence_traps {s : State} {w : FWord} {r : Run} (hi : issues s (.tfence w) = some r) (hact : r.act = r.set) (hout : r.g.outst = [])
    (hhit : r.sg.aflags &&& r.sg.atrap &&& 0x3F ≠ 0) :
    exec (.tfence w) s = .next { (s.settlePoint r).enterTrap r.sid r.act
      { cause := 0x0E, detail := 0, info := (r.sg.aflags &&& r.sg.atrap &&& 0x3F).setWidth 64, fmask := r.act, next := true, tpc := r.pc, len := r.len,
        iword := r.iw, xword := r.xw } with issuing := none } := by
  obtain ⟨hexec, -⟩ := exec_issuedF hi rfl (execTfence.eq_1 w s)
  have hids : r.g.outst.map (fun o => o.id) = [] := by rw [hout]; rfl
  rw [hexec, settled, if_pos hids, ← Run.trapOf_set hact]
  exact congrArg (fun t : State => Host.Outcome.next { t with issuing := none }) (if_neg hhit)

theorem exec_trapForm {s s1 : State} {i : Instr} {r : Run} {cause : BitVec 8} {info : Word} (hi : issues s i = some r) (hact : r.act = r.set)
    (hf : trapForm s r i = some (s1, cause, info)) :
    exec i s = .next { s1.enterTrap r.sid r.act
      { cause := cause, detail := 0, info := info, fmask := r.act, next := true, tpc := r.pc, len := r.len, iword := r.iw, xword := r.xw } with issuing := none } := by
  cases i with
  | trap w =>
    cases hf
    rw [← Run.trapOf_set hact]
    exact (exec_issuedF hi rfl (execTrap.eq_1 w s)).1
  | trapI w =>
    cases hf
    rw [← Run.trapOf_set hact]
    exact (exec_issuedI hi rfl (execTrapI.eq_1 w s)).1
  | tfence w =>
    obtain ⟨⟨hout, hhit⟩, hs1⟩ := Option.ite_none_right_eq_some.mp hf
    cases hs1
    exact exec_tfence_traps hi hact hout hhit
  | _ => cases hf

/-! ## HALT (R206) -/

/-- Lanes that have completed a word and stop there are not at their tie point, nor is a lane of another issue set (R31). -/
theorem State.holdReady_stopped {s : State} {r : Run} {v : SubGroup} {pc : Nat → Word} {st : LaneSt} (hst : st ≠ .ready)
    (hv : SMap.get? s.subs r.sid = some (v.setSt r.set st)) (hl : v.lanes = lanesAfter r pc) (hq : quiet r pc = true) : s.holdReady r.sid = s := by
  refine State.holdReadyBy_of_none hv fun e he => ?_
  obtain ⟨d, hd, rfl⟩ := List.mem_map.mp (show e ∈ List.map _ v.lanes from he)
  rw [hl] at hd
  obtain ⟨⟨l, x⟩, hx, rfl⟩ := List.mem_map.mp hd
  have hlane := quiet_lane hq hx
  cases hs : r.set.getLsbD l with
  | true =>
    simp only [if_true]
    exact fun h => hst h.1
  | false =>
    simp only [hs, Bool.false_eq_true, if_false] at hlane ⊢
    exact hlane

/-- The sub-group of lanes that HALT stops at the next word. -/
def haltedSub (r : Run) : SubGroup :=
  (({ r.sg with lanes := lanesAfter r (fun _ => r.pc + 8) } : SubGroup).prune r.now).setSt r.set .halted

theorem haltedSub_get? (r : Run) (l : Nat) : SMap.get? (haltedSub r).lanes l = (SMap.get? r.sg.lanes l).map (fun x =>
    if r.set.getLsbD l then { laneAfter r (r.pc + 8) x with st := .halted } else x) := by
  rw [haltedSub, SubGroup.setSt_get?, SubGroup.prune_lanes, moved_lanesAfter r (fun _ => r.pc + 8) _ rfl l, Option.map_map]
  refine congrArg (Option.map · _) (funext fun x => ?_)
  cases h : r.set.getLsbD l <;> simp

theorem haltedSub_reg (r : Run) (x : Reg) : (haltedSub r).reg x = r.sg.reg x := by
  rw [haltedSub, SubGroup.setSt_reg, SubGroup.prune_reg, SubGroup.withLanes_reg]

/-- The state once HALT has stopped its lanes and reported them. -/
def haltedState (s : State) (r : Run) : State := { s with subs := SMap.put s.subs r.sid (haltedSub r), events := s.events ++ [haltEvent s r] }

/-- HALT completes in its lanes, stops them, and reports them (R206, R319). -/
theorem exec_halt {s : State} {w : FWord} {r : Run} (hi : issues s (.halt w) = some r) (hact : r.act = r.set) (hq : quiet r (fun _ => r.pc + 8) = true) :
    exec (.halt w) s = .next { haltedState s r with issuing := none } := by
  obtain ⟨hexec, hr⟩ := exec_issuedF hi rfl (execHalt.eq_1 w s)
  have hstop : r.act &&& ~~~r.sg.laneMask (fun l => l.step) = r.set := by
    rw [hact]
    refine BitVec.eq_of_getLsbD_eq fun i _ => ?_
    have hstep := (mask_and_eq_zero_iff _ _).mp (quiet_unstepped rfl hq) i
    rw [getLsbD_and_not]
    cases hs : r.set.getLsbD i <;> simp_all
  have hstopped : ((s.advance r.sid r.set r.stall r.len (fun _ => r.pc + 8) r.pc r.iw r.xw).updSub r.sid (fun sg =>
      sg.setSt (r.act &&& ~~~r.sg.laneMask (fun l => l.step)) .halted)).post (haltEvent s r) = haltedState s r := by
    rw [hstop, State.advance_quiet r.pc r.iw r.xw (run_sub hr) rfl (run_now hr).symm hq, State.updSub_of_get? _ (SMap.get?_put_same ..), SMap.put_put]
    rfl
  have hready : (haltedState s r).holdReady r.sid = haltedState s r :=
    State.holdReady_stopped (pc := fun _ => r.pc + 8) (by decide : LaneSt.halted ≠ .ready) (SMap.get?_put_same ..) rfl hq
  rw [← hstopped] at hready
  exact hexec.trans (congrArg (fun t : State => Host.Outcome.next (φ := Fault) (ρ := Refusal) { t with issuing := none }) (hready.trans hstopped))

end Sys2Proof.Machine
end

section
namespace Sys2Proof
open Machine Safety

/-- Settles O34: a trap of the whole issue set is the entry of its handler; HALT's lanes complete the word, and stand stopped after it. -/
theorem trapAndHaltWords : Obligations.TrapAndHaltWords := by
  refine ⟨fun s s1 i r cause info hi hact hf => exec_trapForm hi hact hf, fun s w r hi hact hq => ?_⟩
  exact ⟨_, haltedSub r, exec_halt hi hact hq, SMap.get?_put_same .., Kept.refl r.sg, RegsAfter.of_reg_eq (haltedSub_reg r), rfl, haltedSub_get? r, rfl⟩

end Sys2Proof
end

section
/-! # A return from a trap (O36) -/

namespace Sys2Proof.Machine

open Sys2Proof Sys2Proof.Safety

/-! ## Words that a system word reads (R122, R327) -/

/-- No word that a system word reads stands in an uncorrectable sector. -/
theorem State.sysRead_good {s : State} {ctx : Nat} {c : Ctx} {n : Nat} {va : Word} {ws : List Word} {cells : List Nat}
    (h : s.sysRead ctx c va n = .words ws cells) : ∀ p ∈ cells, s.badAt p = false := by
  induction n generalizing va ws cells with
  | zero =>
    cases h
    exact List.forall_mem_nil _
  | succ n ih =>
    rw [State.sysRead] at h
    split at h
    · cases h
    all_goals
      split at h
      · cases h
      · split at h
        · cases h
        · split at h
          · cases h
          · cases h
          · cases h
          · split at h
            · cases h
            · rename_i hgood
              split at h
              · rename_i hrest
                cases h
                exact List.forall_mem_cons.mpr ⟨by simpa using hgood, ih hrest⟩
              · rename_i hother
                exact absurd h (hother ws cells)

/-- With no soft error in memory, what a system word reads counts no error. -/
theorem State.checkRead_sysRead {s : State} {ctx : Nat} {c : Ctx} {n : Nat} {va : Word} {ws : List Word} {cells : List Nat}
    (hsoft : s.soft = []) (h : s.sysRead ctx c va n = .words ws cells) : s.checkRead ((cells.map sectorOf).dedup) = s := by
  refine State.checkRead_sound fun sec hsec => ?_
  obtain ⟨p, hp, rfl⟩ := List.mem_map.mp (List.mem_dedup.mp hsec)
  have hgood : s.bad.contains (sectorOf p) = false := State.sysRead_good h p hp
  exact ⟨by simpa using hgood, by rw [hsoft]; exact List.not_mem_nil⟩

theorem Run.withWords_read {r : Run} {s : State} {c : Ctx} {va : Word} {n : Nat} {ws : List Word} {cells : List Nat} (go : List Word → State → State)
    (hctx : s.ctxOf r.g = some c) (hsoft : s.soft = []) (h : s.sysRead r.g.ctx c va n = .words ws cells) : r.withWords s va n go = go ws s := by
  unfold Run.withWords
  simp only [hctx, h, State.checkRead_sysRead hsoft h]

/-! ## What a trap return leaves (R200) -/

/-- The writes of a frame's SAVE field. -/
def Frame.saves (f : Frame) : List (Reg × Word) := f.save.zipIdx.map (fun e => (.s (28 + e.2), e.1))

/-- SAVE is of s28 to s31. -/
theorem Frame.saves_ok (ws : List Word) : ∀ w ∈ (Frame.ofWords ws).saves, RegOk w.1 := by
  intro w hw
  obtain ⟨⟨x, i⟩, hi, rfl⟩ := List.mem_map.mp hw
  have hlen : (Frame.ofWords ws).save.length ≤ 4 := List.length_take_le ..
  have hlt : i < (Frame.ofWords ws).save.length := by simpa using List.snd_lt_of_mem_zipIdx hi
  exact (show 28 + i < 32 by omega)

/-- The system words of a sub-group that has left a frame. -/
def SubGroup.unframed (sg : SubGroup) (f : Frame) : SubGroup :=
  { sg with tframe := f.prev, depth := sg.depth - 1, ctl := if f.psv then sg.ctl ||| 4 else sg.ctl &&& ~~~4#64 }

theorem SubGroup.unframed_reg (sg : SubGroup) (f : Frame) {x : Reg} (hx : RegOk x) : (sg.unframed f).reg x = sg.reg x := by
  cases x with
  | x n => exact hx.elim
  | _ => rfl

/-- Beside the registers that SAVE gives, a sub-group that leaves a frame changes its system words only. -/
theorem SubGroup.leaveFrame_written (sg : SubGroup) (ws : List Word) :
    Written (sg.unframed (Frame.ofWords ws)) (sg.leaveFrame (Frame.ofWords ws)) (Frame.ofWords ws).saves 0 := by
  generalize hf : Frame.ofWords ws = f
  have hw : Written sg (f.saves.foldl (fun g w => g.writeNow w.1 w.2) sg) f.saves 0 := Written.foldl_writeNow sg (hf ▸ Frame.saves_ok ws)
  have hleave : sg.leaveFrame f =
      { f.saves.foldl (fun g w => g.writeNow w.1 w.2) sg with
        ctl := if f.psv then sg.ctl ||| 4 else sg.ctl &&& ~~~4#64, tframe := f.prev, depth := sg.depth - 1 } := by
    rw [Frame.saves, List.foldl_map]
    rfl
  obtain ⟨hlanes, ⟨hgid, hmast, hstn, hgclk, hdldef, hrejoin, hrlive, htprog, -, -, hatrap, -, hpseg, harmed⟩, hregs, hflags, hseed⟩ := hw
  rw [hleave]
  refine ⟨hlanes, ⟨hgid, hmast, hstn, hgclk, hdldef, hrejoin, hrlive, htprog, rfl, rfl, hatrap, rfl, hpseg, harmed⟩, fun x hx => ?_, hflags, hseed⟩
  have hreg := hregs x hx
  cases x with
  | x n => exact hx.elim
  | _ => exact hreg

/-- With no lane held, a trap return frees none from a hold. -/
theorem State.freeHeld_of_none (s : State) (gid : Nat) {f : Frame} (h : f.hmask = 0) : s.freeHeld gid f = s := by
  unfold State.freeHeld
  refine List.foldlRecOn (motive := fun t => t = s) _ _ rfl fun t ht e _ => ?_
  have hnone : maskOf ((lanesOf (e.2.held &&& f.hmask)).filter (fun l => decide (f.rpc.getD l 0 ≠ e.2.m))) = 0 :=
    maskOf_filter_eq_zero fun l hl => by simp [h, mem_lanesOf] at hl
  rw [hnone, if_pos rfl, ht]

/-- A sub-group that no debug step arms takes none. -/
theorem State.armStep_of_unarmed {s : State} {sid : Nat} {sg : SubGroup} (hsub : SMap.get? s.subs sid = some sg) (h : sg.armed = none) :
    s.armStep sid = s := by
  unfold State.armStep
  simp only [hsub, h]

/-- Only the PCs of the issue set matter to a retirement. -/
theorem quiet_congr {r : Run} {f g : Nat → Word} (h : ∀ l, r.set.getLsbD l = true → f l = g l) : quiet r f = quiet r g := by
  unfold quiet
  refine congrArg (List.all r.sg.lanes) (funext fun e => ?_)
  split
  · rename_i hl
    rw [h _ hl]
  · rfl

theorem lanesAfter_congr {r : Run} {f g : Nat → Word} (h : ∀ l, r.set.getLsbD l = true → f l = g l) : lanesAfter r f = lanesAfter r g := by
  unfold lanesAfter
  refine List.map_congr_left fun e _ => ?_
  split
  · rename_i hl
    rw [h _ hl]
  · rfl

/-- Where a frame resumes a lane. -/
def Frame.resume (f : Frame) (l : Nat) : Word := f.rpc.getD l 0

/-- The group of a run whose frame is free again. -/
def Run.freedGroup (r : Run) (s : State) : Group :=
  match s.frameNo r.g r.sg.tframe with
  | some n => { r.g with frames := SMap.del r.g.frames n }
  | none => r.g

/-- The sub-group of a run that has returned from a frame. -/
def Run.returned (r : Run) (f : Frame) : SubGroup :=
  ({ (r.sg.leaveFrame f).settle r.act with lanes := lanesAfter r f.resume } : SubGroup).prune r.now

/-- The state in which a trap return has freed the frame and given its sub-group what it holds. -/
def leftState (s : State) (r : Run) (f : Frame) : State :=
  { s with groups := SMap.put s.groups r.gid (r.freedGroup s), subs := SMap.put s.subs r.sid ((r.sg.leaveFrame f).settle r.act) }

/-- The same once its lanes have gone to their return addresses. -/
def returnedState (s : State) (r : Run) (f : Frame) : State :=
  { s with groups := SMap.put s.groups r.gid (r.freedGroup s), subs := SMap.put s.subs r.sid (r.returned f) }

theorem leftState_eq {s : State} {h : Hd} {r : Run} {free : Group → Group} (f : Frame) (hr : run s h = some r) (hfree : free r.g = r.freedGroup s) :
    (s.updGroup r.gid free).updSub r.sid (fun sg => (sg.leaveFrame f).settle r.act) = leftState s r f := by
  have hsub := run_sub hr
  rw [State.updGroup_of_get? _ (run_group hr), hfree]
  exact State.updSub_of_get? _ hsub

/-- The lanes of a frame resume, and none of them is stepped. -/
theorem leftState_advance {s : State} {h : Hd} {r : Run} {ws : List Word} {pc : Nat → Word} (hr : run s h = some r)
    (hpc : ∀ l, r.set.getLsbD l = true → pc l = (Frame.ofWords ws).resume l) (hq : quiet r (Frame.ofWords ws).resume = true) :
    (leftState s r (Frame.ofWords ws)).advance r.sid r.set r.stall r.len pc r.pc r.iw r.xw = returnedState s r (Frame.ofWords ws) := by
  obtain ⟨hlanes, ⟨-, hmast, hstn, -⟩, -⟩ := r.sg.leaveFrame_written ws
  have hclock : (s.stn (r.sg.leaveFrame (Frame.ofWords ws)).mast (r.sg.leaveFrame (Frame.ofWords ws)).stn).cycles = r.now := by
    rw [hmast, hstn]
    exact (run_now hr).symm
  have hadvance := State.advance_quiet (s := leftState s r (Frame.ofWords ws)) (u := (r.sg.leaveFrame (Frame.ofWords ws)).settle r.act)
    r.pc r.iw r.xw (SMap.get?_put_same ..) hlanes hclock ((quiet_congr hpc).trans hq)
  rw [lanesAfter_congr hpc] at hadvance
  rw [hadvance, leftState, SMap.put_put]
  rfl

/-- A word that resumes every lane of its issue set, with none held and no debug step, returns them and does nothing else. -/
theorem Run.returnTo_eq {s : State} {h : Hd} {r : Run} {ws : List Word} (hr : run s h = some r) (hact : r.act = r.set)
    (hall : r.act &&& ~~~(Frame.ofWords ws).rmask = 0) (hmask : (Frame.ofWords ws).hmask = 0) (harmed : r.sg.armed = none)
    (hq : quiet r (Frame.ofWords ws).resume = true) : r.returnTo s (Frame.ofWords ws) = returnedState s r (Frame.ofWords ws) := by
  have hresume : ∀ l, r.set.getLsbD l = true →
      (if (r.act &&& (Frame.ofWords ws).rmask).getLsbD l then (Frame.ofWords ws).rpc.getD l 0 else r.pc + 8) = (Frame.ofWords ws).resume l := by
    intro l hl
    have hmem := (mask_and_eq_zero_iff _ _).mp hall l (hact ▸ hl)
    have hin : (r.act &&& (Frame.ofWords ws).rmask).getLsbD l = true := by
      simpa [hact, hl, BitVec.lt_of_getLsbD hl] using hmem
    rw [if_pos hin]
    rfl
  have hset : r.set &&& ~~~(r.act &&& ~~~(Frame.ofWords ws).rmask) = r.set := by
    rw [hall]
    exact BitVec.and_allOnes
  have harm : (r.returned (Frame.ofWords ws)).armed = none := by
    obtain ⟨-, ⟨-, -, -, -, -, -, -, -, -, -, -, -, -, hkeeps⟩, -⟩ := r.sg.leaveFrame_written ws
    exact hkeeps.trans harmed
  unfold Run.returnTo
  simp only [State.freeHeld_of_none s r.gid hmask, hset, if_pos hall]
  rw [leftState_eq (Frame.ofWords ws) hr rfl, leftState_advance hr hresume hq, State.armStep_of_unarmed (SMap.get?_put_same ..) harm]
  exact State.holdReady_lanesAfter (SMap.get?_put_same ..) rfl hq

/-- A frame that meets the checks of TRET is returned from. -/
theorem Run.returnFrom_checked {r : Run} {s : State} {f : Frame} (hact : r.act = f.amask &&& ~~~r.g.ended)
    (halign : ∀ l ∈ lanesOf r.act, (f.resume l).toNat % 8 = 0) (huser : ∀ l < 64, (f.resume l).getLsbD 63 = false ∨ f.psv = true) :
    r.returnFrom s f = r.returnTo s f := by
  have hodd : f.odd (r.act &&& f.rmask) = 0 := by
    refine maskOf_filter_eq_zero fun l hl => ?_
    have hin : l ∈ lanesOf r.act := by
      rw [mem_lanesOf, BitVec.getLsbD_and, Bool.and_eq_true] at hl
      exact (mem_lanesOf _ _).mpr hl.1
    simpa [Frame.resume] using halign l hin
  have hhigh : f.high = 0 := by
    refine maskOf_filter_eq_zero fun l hl => ?_
    obtain h63 | hpsv := huser l (List.mem_range.mp hl)
    · rw [show (f.rpc.getD l 0).getLsbD 63 = false from h63, Bool.false_and]
    · rw [hpsv, Bool.not_true, Bool.and_false]
  unfold Run.returnFrom
  simp only [hodd, hhigh, ne_eq, not_true_eq_false, if_false]
  exact if_neg (not_not.mpr hact)

/-- What stands in a sub-group that has returned from a frame. -/
theorem Run.returned_eq (r : Run) (ws : List Word) :
    Moved r (r.returned (Frame.ofWords ws)) (Frame.ofWords ws).resume ∧ RegsAfter r.sg (r.returned (Frame.ofWords ws)) (Frame.ofWords ws).saves ∧
      Kept (r.sg.unframed (Frame.ofWords ws)) (r.returned (Frame.ofWords ws)) ∧
      (r.returned (Frame.ofWords ws)).aflags = r.sg.aflags ∧ (r.returned (Frame.ofWords ws)).seed = r.sg.seed := by
  obtain ⟨hlanes, hkept, hregs, hflags, hseed⟩ := (r.sg.leaveFrame_written ws).trans (Written.settle _ r.act)
  refine ⟨moved_lanesAfter r _ _ rfl, fun x hx => ?_, hkept, hflags.trans (by simp; rfl), hseed⟩
  rw [Run.returned, SubGroup.prune_reg, SubGroup.withLanes_reg]
  simpa using RegsAfter.of_same hregs (fun _ => r.sg.unframed_reg _) x hx

/-- TRET from a frame that its system reads whole (R200). -/
theorem exec_tret {s : State} {w : FWord} {r : Run} {c : Ctx} {ws : List Word} {cells : List Nat} (hi : issues s (.tret w) = some r) (hact : r.act = r.set)
    (hframe : r.sg.tframe ≠ 0) (hctx : s.ctxOf r.g = some c) (hread : s.sysRead r.g.ctx c r.sg.tframe 80 = .words ws cells) (hsoft : s.soft = [])
    (hamask : r.act = (Frame.ofWords ws).amask &&& ~~~r.g.ended) (hall : r.act &&& ~~~(Frame.ofWords ws).rmask = 0)
    (hmask : (Frame.ofWords ws).hmask = 0) (harmed : r.sg.armed = none)
    (halign : ∀ l ∈ lanesOf r.act, ((Frame.ofWords ws).resume l).toNat % 8 = 0)
    (huser : ∀ l < 64, ((Frame.ofWords ws).resume l).getLsbD 63 = false ∨ (Frame.ofWords ws).psv = true)
    (hq : quiet r (Frame.ofWords ws).resume = true) :
    exec (.tret w) s = .next { returnedState s r (Frame.ofWords ws) with issuing := none } := by
  obtain ⟨hexec, hr⟩ := exec_issuedF hi rfl (execTret.eq_1 w s)
  refine hexec.trans (congrArg (fun t : State => Host.Outcome.next (φ := Fault) (ρ := Refusal) { t with issuing := none }) ?_)
  rw [if_neg hframe, Run.withWords_read _ hctx hsoft hread, Run.returnFrom_checked hamask halign huser,
    Run.returnTo_eq hr hact hall hmask harmed hq]

end Sys2Proof.Machine
end

section
namespace Sys2Proof
open Machine Safety

/-- Settles O36: the checks of TRET hold, so its sub-group leaves the frame, every lane of it resumes, and the frame is free. -/
theorem trapReturn : Obligations.TrapReturn := by
  intro s w r c ws cells f pc hi hact hframe hctx hread hsoft hamask hall hmask harmed halign huser hq
  obtain ⟨hmoved, hregs, hkept, hflags, hseed⟩ := r.returned_eq ws
  exact ⟨_, r.returned f, exec_tret hi hact hframe hctx hread hsoft hamask hall hmask harmed halign huser hq, SMap.get?_put_same .., hmoved, hregs, hkept,
    hflags, hseed, rfl, SMap.get?_put_same ..⟩

end Sys2Proof
end

section
/-! # Context save and load: the words of the executive (O37) -/

namespace Sys2Proof.Machine

open Sys2Proof Sys2Proof.Safety

/-! ## CTXSAVE (R207) -/

/-- Saving an image takes a meeting address where its lanes have several, and changes nothing else. -/
theorem State.saveImage_eq (s : State) (r : Run) : ∃ n, (s.saveImage r).2 = { s with freeCtr := n } := by
  unfold State.saveImage
  dsimp only
  split
  · exact ⟨s.freeCtr, rfl⟩
  · exact ⟨s.freeCtr + 1, rfl⟩

theorem State.putSectors_eq (s : State) (cells : List Nat) (ws : List Word) :
    ∃ mem bad soft, s.putSectors cells ws = { s with mem := mem, bad := bad, soft := soft } := by
  induction cells generalizing s ws with
  | nil => exact ⟨s.mem, s.bad, s.soft, rfl⟩
  | cons p ps ih =>
    obtain ⟨mem, bad, soft, h⟩ := ih (s.store p ((ws.take 4).flatMap (fun w => leBytes 8 w.toNat))) (ws.drop 4)
    exact ⟨mem, bad, soft, h⟩

/-- The sub-groups once lanes of one have left it. -/
def leftSubs (s : State) (sid : Nat) (sg : SubGroup) (lanes : Mask) : SMap SubGroup :=
  if (sg.keepLanes (~~~lanes)).lanes.isEmpty then SMap.del s.subs sid else SMap.put s.subs sid (sg.keepLanes (~~~lanes))

theorem leftSubs_gone {s : State} {sid : Nat} {sg u : SubGroup} {lanes : Mask} {l : Nat} (hu : SMap.get? (leftSubs s sid sg lanes) sid = some u)
    (hl : lanes.getLsbD l = true) : SMap.get? u.lanes l = none := by
  unfold leftSubs at hu
  split at hu
  · rw [SMap.get?_del, if_pos rfl] at hu
    cases hu
  · rw [SMap.get?_put_same] at hu
    cases hu
    rw [SubGroup.keepLanes_get?, if_neg (by simp [hl])]

/-- A group whose lanes end while others of it are an image. -/
def Group.endedBeside (g : Group) (lanes : Mask) : Group :=
  { g with ended := g.ended ||| lanes, frames := g.frames.filter (fun e => decide (e.2 &&& ~~~(g.ended ||| lanes) ≠ 0)) }

/-- While lanes of it are an image, the lanes of a group that end leave it and tell the records that count them; the group stays (R111, R207). -/
theorem State.endLanes_imaged {s : State} {sid : Nat} {lanes : Mask} {sg : SubGroup} {g : Group} (hsub : SMap.get? s.subs sid = some sg)
    (hgrp : SMap.get? s.groups sg.gid = some g) (himaged : g.imaged ≠ 0) :
    ∃ ms n, s.endLanes sid lanes =
      { s with subs := leftSubs s sid sg lanes, groups := SMap.put s.groups sg.gid (g.endedBeside lanes), msgs := ms, nextId := n } := by
  have hstays : (decide ((g.ended ||| lanes) &&& widthMask g.width = widthMask g.width) && decide (g.imaged = 0)) = false := by
    rw [decide_eq_false himaged, Bool.and_false]
  unfold State.endLanes
  simp only [hsub, hgrp, hstays, Bool.false_eq_true, if_false]
  split
  · exact ⟨_, _, rfl⟩
  · exact ⟨s.msgs, s.nextId, rfl⟩

/-- The lanes of CTXSAVE are the image's only. -/
theorem Run.saved_spec {s u : State} {h : Hd} {r : Run} (hr : run s h = some r) (hact : r.act = r.set) (hne : r.act ≠ 0) (hsubs : u.subs = s.subs)
    (hgroups : u.groups = s.groups) :
    (r.saved u).mem = u.mem ∧
    (∀ v, SMap.get? (r.saved u).subs r.sid = some v → ∀ l, r.act.getLsbD l = true → SMap.get? v.lanes l = none) ∧
    ∀ g, SMap.get? (r.saved u).groups r.gid = some g → g.imaged = r.g.imaged ||| r.act := by
  have hrest : r.set &&& ~~~r.act = 0 := by rw [hact]; exact BitVec.and_not_self r.set
  have himaged : r.g.imaged ||| r.act ≠ 0 := fun h => hne (BitVec.or_eq_zero_iff.mp h).2
  have hsub : SMap.get? u.subs r.sid = some r.sg := hsubs ▸ run_sub hr
  have hgrp : SMap.get? u.groups r.gid = some r.g := hgroups ▸ run_group hr
  have hsaved : r.saved u = ({ u with groups := SMap.put u.groups r.gid { r.g with imaged := r.g.imaged ||| r.act } } : State).endLanes r.sid r.act := by
    unfold Run.saved
    simp only [hrest, if_true]
    rw [State.updGroup_of_get? _ hgrp]
  obtain ⟨ms, n, hend⟩ := State.endLanes_imaged (s := { u with groups := SMap.put u.groups r.gid { r.g with imaged := r.g.imaged ||| r.act } })
    (lanes := r.act) hsub (g := { r.g with imaged := r.g.imaged ||| r.act }) (by rw [← run_gid hr]; exact SMap.get?_put_same ..) himaged
  rw [hsaved, hend]
  refine ⟨rfl, fun v hv l hl => leftSubs_gone hv hl, fun g hg => ?_⟩
  rw [run_gid hr, SMap.get?_put_same] at hg
  cases hg
  rfl

/-- CTXSAVE with nothing outstanding writes its image where it lies and ends its lanes. -/
theorem exec_ctxsave {s s1 : State} {w : FWord} {x : Option XWord} {r : Run} {c : Ctx} {im : Image} {ws : List Word} {cells : List Nat}
    (hi : issues s (.ctxsave w x) = some r) (hcheck : s.memCheck r .glob 32 false false (memAddr w x r) = none) (hctx : s.ctxOf r.g = some c)
    (hstream : r.g.streaming = false) (hout : r.g.outst = []) (hsave : s.saveImage r = (im, s1))
    (hplaces : s1.sysPlaces r.g.ctx c (memAddr w x r r.low) im.flits = .words ws cells) :
    exec (.ctxsave w x) s = .next { r.saved (s1.putSectors cells (s1.imageWords im r.g 0)) with issuing := none } := by
  refine (exec_issuedMem (needX := false) hi rfl (execCtxsave.eq_1 w x s)).1.trans ?_
  simp [hcheck, hctx, hstream, hout, hsave, hplaces]

theorem ctxsave_spec {s s1 : State} {w : FWord} {x : Option XWord} {r : Run} {c : Ctx} {im : Image} {ws : List Word} {cells : List Nat}
    (hi : issues s (.ctxsave w x) = some r) (hact : r.act = r.set) (hcheck : s.memCheck r .glob 32 false false (memAddr w x r) = none)
    (hctx : s.ctxOf r.g = some c) (hstream : r.g.streaming = false) (hout : r.g.outst = []) (hsave : s.saveImage r = (im, s1))
    (hplaces : s1.sysPlaces r.g.ctx c (memAddr w x r r.low) im.flits = .words ws cells) :
    ∃ t, exec (.ctxsave w x) s = .next t ∧ t.mem = (s1.putSectors cells (s1.imageWords im r.g 0)).mem ∧
      (∀ u, SMap.get? t.subs r.sid = some u → ∀ l, r.act.getLsbD l = true → SMap.get? u.lanes l = none) ∧
      ∀ g, SMap.get? t.groups r.gid = some g → g.imaged = r.g.imaged ||| r.act := by
  obtain ⟨h, sig, -, hr, hp⟩ := issues_eq hi
  obtain ⟨-, hne, -⟩ := passes_iff.mp hp
  obtain ⟨n, hs1⟩ := s.saveImage_eq r
  rw [hsave] at hs1
  have hsubs : s1.subs = s.subs := (congrArg State.subs hs1 :)
  have hgroups : s1.groups = s.groups := (congrArg State.groups hs1 :)
  obtain ⟨mem, bad, soft, hput⟩ := s1.putSectors_eq cells (s1.imageWords im r.g 0)
  obtain ⟨hmem, hlanes, himaged⟩ := Run.saved_spec (u := s1.putSectors cells (s1.imageWords im r.g 0)) hr hact hne
    ((congrArg State.subs hput).trans hsubs) ((congrArg State.groups hput).trans hgroups)
  exact ⟨_, exec_ctxsave hi hcheck hctx hstream hout hsave hplaces, hmem, hlanes, himaged⟩

/-! ## What leaves the stations as they are

An image that a router takes lands, and may be admitted at once; whatever its lanes then do (a hold, a trap, a departure), no station's clock
moves. -/

@[simp] theorem State.postAt_stns (s : State) (m : Nat) (e : Event) : (s.postAt m e).stns = s.stns := by simp [State.postAt, State.on]

@[simp] theorem State.tellBosun_stns (s : State) (m ctx : Nat) (cause : BitVec 8) : (s.tellBosun m ctx cause).stns = s.stns := by
  simp [State.tellBosun, State.on]

@[simp] theorem State.noteAt_stns (s : State) (m typ ctx : Nat) (w1 w2 w3 : Word) : (s.noteAt m typ ctx w1 w2 w3).stns = s.stns := by
  obtain ⟨j, hj⟩ := State.note_eq (s.enter (m / 16)) (m % 16) typ ctx w1 w2 w3
  simp [State.noteAt, State.on, hj]

@[simp] theorem State.countWait_stns (s : State) (sid : Nat) (lanes : Mask) : (s.countWait sid lanes).stns = s.stns := by
  unfold State.countWait
  split <;> rfl

@[simp] theorem State.askWalk_stns (s : State) (ctx : Nat) (va : Word) (acc : BitVec 2) : (s.askWalk ctx va acc).stns = s.stns := by
  simp [State.askWalk, apply_ite State.stns]

@[simp] theorem State.faultEvent_stns (s : State) (m : Nat) (newi ovfi : Bool) : (s.faultEvent m newi ovfi).stns = s.stns := by
  unfold State.faultEvent
  dsimp only
  split
  · exact State.postAt_stns ..
  · rfl

@[simp] theorem State.holdFault_stns (s : State) (ctx : Nat) (va : Word) (why : BitVec 8) (acc : BitVec 2) :
    (s.holdFault ctx va why acc).1.stns = s.stns := by
  unfold State.holdFault
  dsimp only
  split
  · rfl
  · exact State.faultEvent_stns ..

@[simp] theorem State.tryXl_stns (s : State) (x : XlReq) : (s.tryXl x).1.stns = s.stns := by
  unfold State.tryXl
  split
  · rfl
  · split
    · rfl
    · exact State.askWalk_stns ..
    · exact State.holdFault_stns ..

@[simp] theorem State.putFrame_stns (s : State) (ctx : Nat) (c : Ctx) (va : Word) (ws : List Word) : (s.putFrame ctx c va ws).stns = s.stns := by
  induction ws generalizing s va with
  | nil => rfl
  | cons w ws ih =>
    rw [State.putFrame, ih]
    split <;> rfl

@[simp] theorem State.stopLanes_stns (s : State) (sid : Nat) (lanes : Mask) (g : Group) (t : TrapReq) : (s.stopLanes sid lanes g t).stns = s.stns := by
  unfold State.stopLanes
  dsimp only
  split <;> simp [State.faultRecord]

@[simp] theorem State.enterFrame_stns (s : State) (sid : Nat) (lanes : Mask) (sg : SubGroup) (g : Group) (c : Ctx) (va : Word) (f : Nat) (t : TrapReq) :
    (s.enterFrame sid lanes sg g c va f t).stns = s.stns := by
  unfold State.enterFrame
  dsimp only
  split <;> simp

@[simp] theorem State.beginWait_stns (s : State) (w : Wait) : (s.beginWait w).stns = s.stns := by simp [State.beginWait]

@[simp] theorem State.endWalker_stns (s : State) (gid : Nat) : (s.endWalker gid).stns = s.stns := by
  unfold State.endWalker
  split <;> rfl

@[simp] theorem State.enterHandler_stns (s : State) (sid : Nat) (lanes : Mask) (t : TrapReq) : (s.enterHandler sid lanes t).stns = s.stns := by
  unfold State.enterHandler
  dsimp only
  repeat' split
  all_goals simp

@[simp] theorem State.releaseTie_stns (s : State) (tid : Nat) (t : Tie) (status : BitVec 8) : (s.releaseTie tid t status).stns = s.stns := by
  unfold State.releaseTie
  split
  · rfl
  · dsimp only
    split <;> rfl

@[simp] theorem State.judgeTie_stns (s : State) (tid : Nat) : (s.judgeTie tid).stns = s.stns := by
  unfold State.judgeTie
  repeat' split
  all_goals simp

@[simp] theorem State.joinOccurrence_stns (s : State) (sid : Nat) (lanes : Mask) (m : Word) : (s.joinOccurrence sid lanes m).stns = s.stns := by
  unfold State.joinOccurrence
  dsimp only
  repeat' split
  all_goals simp

@[simp] theorem State.formImage_stns (s : State) (sid : Nat) (lanes : Mask) (kind : BitVec 4) (live : BitVec 8) (dev m n : Nat) :
    (s.formImage sid lanes kind live dev m n).stns = s.stns := by
  unfold State.formImage
  dsimp only
  repeat' split
  all_goals simp

theorem foldl_stns {α : Type} {f : State → α → State} (hf : ∀ u a, (f u a).stns = u.stns) (l : List α) (s : State) : (l.foldl f s).stns = s.stns :=
  foldl_keeps f State.stns hf l s

@[simp] theorem State.departTo_stns (s : State) (sid : Nat) (lanes : Mask) (kind : BitVec 4) (live : BitVec 8) (dev m n : Nat) :
    (s.departTo sid lanes kind live dev m n).stns = s.stns := by
  unfold State.departTo
  split
  · rfl
  · exact foldl_stns (fun _ _ => State.formImage_stns ..) _ _

theorem State.holdAt_stns {trap : TrapWay} (ht : ∀ s sid lanes t, (trap s sid lanes t).stns = s.stns) (s : State) (sid : Nat) (lanes : Mask) (m : Word) :
    (State.holdAt trap s sid lanes m).stns = s.stns := by
  unfold State.holdAt
  dsimp only
  repeat' split
  all_goals simp [ht]

theorem State.holdReadyBy_stns {trap : TrapWay} (ht : ∀ s sid lanes t, (trap s sid lanes t).stns = s.stns) (s : State) (sid : Nat) :
    (State.holdReadyBy trap s sid).stns = s.stns := by
  unfold State.holdReadyBy
  split
  · rfl
  · exact foldl_stns (fun u m => State.holdAt_stns ht u sid _ m) _ _

theorem State.trapHold_stns (n : Nat) (s : State) (sid : Nat) (lanes : Mask) (t : TrapReq) : (State.trapHold n s sid lanes t).stns = s.stns := by
  induction n generalizing s sid lanes t with
  | zero => exact State.enterHandler_stns ..
  | succ n ih => exact (State.holdReadyBy_stns ih _ sid).trans (State.enterHandler_stns ..)

@[simp] theorem State.holdReady_stns (s : State) (sid : Nat) : (s.holdReady sid).stns = s.stns := State.holdReadyBy_stns (State.trapHold_stns 3) s sid

@[simp] theorem State.takeIn_stns (s : State) (i : Nat) (im : Image) (m n : Nat) : (s.takeIn i im m n).stns = s.stns := by
  unfold State.takeIn
  dsimp only
  repeat' split
  all_goals simp

/-- An image that arrives moves no clock: a station that it finds free may be reserved first. -/
theorem State.arrive_cycles (s : State) (i : Nat) (im : Image) (a b : Nat) : ((s.arrive i im).stn a b).cycles = (s.stn a b).cycles := by
  have hstns : (s.arrive i im).stns = ((s.enter (im.tmast / 16)).reserveHeads im.tmast).stns := by
    simp [State.arrive, State.on]
  rw [State.stn, hstns, ← State.stn, State.reserveHeads_cycles, State.stn, State.enter_stns, ← State.stn]

theorem State.land_cycles (s : State) (i : Nat) (im : Image) (charge a b : Nat) : ((s.land i im charge).stn a b).cycles = (s.stn a b).cycles := by
  unfold State.land
  dsimp only
  split
  · exact s.arrive_cycles ..
  · split
    · rw [State.stn, State.takeIn_stns]
      exact s.arrive_cycles ..
    · exact s.arrive_cycles ..

theorem State.loadImage_cycles (s : State) (gid mast : Nat) (h : ImageHead) (ws : List Word) (a b : Nat) :
    ((s.loadImage gid mast h ws).stn a b).cycles = (s.stn a b).cycles := by
  unfold State.loadImage
  exact State.land_cycles ..

/-! ## CTXLOAD (R207) -/

/-- RESULTS THAT GO OUT of a sub-group that stands as it was, whatever has come of the rest of the state. -/
theorem Run.later_completed {s : State} {r : Run} (ws : List (Reg × Word)) (hsub : SMap.get? s.subs r.sid = some r.sg)
    (hnow : r.now = (s.stn r.sg.mast r.sg.stn).cycles) (hq : quiet r (nextPc r) = true) :
    ∃ u, Completed r u (nextPc r) [] 0 ∧ SentOut s { r.later s ws 0 with issuing := none } r u ws := by
  have hraised : SMap.get? (s.updSub r.sid (fun sg => sg.raise 0)).subs r.sid = some (r.sg.raise 0) := by
    rw [State.updSub_of_get? _ hsub]
    exact SMap.get?_put_same ..
  by_cases hws : sentWrites ws = []
  · obtain ⟨u, honly, hdone⟩ := Run.done_completed hraised (Written.raise r.sg 0) hnow hq
    refine ⟨u, hdone, ?_⟩
    rw [SentOut, if_pos hws, Run.later, hws]
    exact OnlySub.of_updSub hsub honly
  · obtain ⟨u, honly, hdone⟩ := Run.done_completed (s := ((s.updSub r.sid (fun sg => sg.raise 0)).outstand r.gid r.low r.set
      ((sentWrites ws).map (fun w => (w.1, some w.2)))).2) hraised (Written.raise r.sg 0) hnow hq
    refine ⟨u, hdone, ?_⟩
    have hlater : r.later s ws 0 = r.done ((s.updSub r.sid (fun sg => sg.raise 0)).outstand r.gid r.low r.set
        ((sentWrites ws).map (fun w => (w.1, some w.2)))).2 := by
      rw [Run.later, if_neg (by simpa using hws)]
    rw [SentOut, if_neg hws, hlater, honly, State.updSub_of_get? _ hsub]
    simp [State.outstand, State.fresh, State.updGroup, withOutst]

theorem exec_ctxload {s : State} {w : FWord} {x : Option XWord} {r : Run} {c : Ctx} {head ws : List Word} {c1 c2 : List Nat} {gid : Nat}
    (hi : issues s (.ctxload w x) = some r) (hcheck : s.memCheck r .glob 32 false false (memAddr w x r) = none) (hctx : s.ctxOf r.g = some c)
    (hsoft : s.soft = []) (hhead : s.sysRead r.g.ctx c (memAddr w x r r.low) 16 = .words head c1)
    (hlen : (ImageHead.ofWords (head ++ List.replicate 8 0)).len ≤ 526) (hok : s.loadOk r (ImageHead.ofWords (head ++ List.replicate 8 0)) = some gid)
    (hwords : s.sysRead r.g.ctx c (memAddr w x r r.low) (4 * (ImageHead.ofWords (head ++ List.replicate 8 0)).len) = .words ws c2)
    (hgood : (ImageHead.ofWords ws).ok = true) :
    exec (.ctxload w x) s = .next { r.later (s.loadImage gid (s.vaMast (s.directOf r.g (memAddr w x r r.low))) (ImageHead.ofWords ws) ws)
      (dstWrites w.dest true 0 0) 0 with issuing := none } := by
  refine (exec_issuedMem (needX := false) hi rfl (execCtxload.eq_1 w x s)).1.trans ?_
  simp only [hcheck, Run.withWords_read _ hctx hsoft hhead, hlen, hok, if_true, Run.withWords_read _ hctx hsoft hwords, hgood]

end Sys2Proof.Machine
end

section
namespace Sys2Proof
open Machine Safety

/-- Settles O37: CTXSAVE writes its sectors and its lanes leave, their group staying for the image; CTXLOAD's image lands without a clock moving,
and the status goes out. -/
theorem imageWords : Obligations.ImageWords := by
  refine ⟨fun s s1 w x r c im ws cells hi hact hcheck hctx hstream hout hsave hplaces =>
    ctxsave_spec hi hact hcheck hctx hstream hout hsave hplaces, ?_⟩
  intro s w x r c head ws c1 c2 gid va h full hi hcheck hctx hsoft hhead hlen hok hwords hgood _ hsub hq
  obtain ⟨_, _, -, hr, -⟩ := issues_eq hi
  have hnow : r.now = ((s.loadImage gid (s.vaMast (s.directOf r.g va)) full ws).stn r.sg.mast r.sg.stn).cycles :=
    (run_now hr).trans (s.loadImage_cycles ..).symm
  obtain ⟨u, hdone, hsent⟩ := Run.later_completed (dstWrites w.dest true 0 0) hsub hnow hq
  exact ⟨_, u, exec_ctxload hi hcheck hctx hsoft hhead hlen hok hwords hgood, hdone, hsent⟩

end Sys2Proof
end

section
/-! # Host commands (O57) -/

namespace Sys2Proof.Machine

open Sys2Proof Sys2Proof.Safety

/-! ## The command and its completion (R317, R318) -/

/-- The event that a host command has completed well. -/
def okEvent (c : HCmd) : Event := { typ := 1, code := 0, tag := c.tag, ctx := c.ctx, w1 := 0, w2 := 0, w3 := 0 }

/-- A host command that succeeds has its effect and then its completion event. -/
theorem State.hostCmd_ok {s u : State} {op : Nat} {c : HCmd} {go : State → State × BitVec 8} (hneg : s.regs.neg = 1)
    (hgo : go (s.noteCmd op c) = (u, 0)) : s.hostCmd op c go = u.complete c.ctx c.tag 0 := by
  unfold State.hostCmd
  rw [if_neg (not_not.mpr hneg), hgo]

/-- The journal's entry for a host command changes the journal only. -/
theorem State.noteCmd_eq (s : State) (op : Nat) (c : HCmd) : ∃ j, s.noteCmd op c = { s with journal := j } := State.note_eq ..

section
variable (s : State) (op : Nat) (c : HCmd)

@[simp] theorem State.noteCmd_ctxs : (s.noteCmd op c).ctxs = s.ctxs := by
  obtain ⟨j, hj⟩ := s.noteCmd_eq op c
  rw [hj]

@[simp] theorem State.noteCmd_queues : (s.noteCmd op c).queues = s.queues := by
  obtain ⟨j, hj⟩ := s.noteCmd_eq op c
  rw [hj]

@[simp] theorem State.noteCmd_events : (s.noteCmd op c).events = s.events := by
  obtain ⟨j, hj⟩ := s.noteCmd_eq op c
  rw [hj]

@[simp] theorem State.noteCmd_regs : (s.noteCmd op c).regs = s.regs := by
  obtain ⟨j, hj⟩ := s.noteCmd_eq op c
  rw [hj]

@[simp] theorem State.noteCmd_dev : (s.noteCmd op c).dev = s.dev := by
  obtain ⟨j, hj⟩ := s.noteCmd_eq op c
  rw [hj]

@[simp] theorem State.noteCmd_subs : (s.noteCmd op c).subs = s.subs := by
  obtain ⟨j, hj⟩ := s.noteCmd_eq op c
  rw [hj]

@[simp] theorem State.noteCmd_stns : (s.noteCmd op c).stns = s.stns := by
  obtain ⟨j, hj⟩ := s.noteCmd_eq op c
  rw [hj]

@[simp] theorem State.noteCmd_ckpt : (s.noteCmd op c).ckpt = s.ckpt := by
  obtain ⟨j, hj⟩ := s.noteCmd_eq op c
  rw [hj]

@[simp] theorem State.noteCmd_bad : (s.noteCmd op c).bad = s.bad := by
  obtain ⟨j, hj⟩ := s.noteCmd_eq op c
  rw [hj]

theorem State.noteCmd_frameTag (m f : Nat) : (s.noteCmd op c).frameTag m f = s.frameTag m f := by
  obtain ⟨j, hj⟩ := s.noteCmd_eq op c
  rw [hj]
  rfl

theorem State.noteCmd_groupByPlace (ctx : Nat) (a : Word) : (s.noteCmd op c).groupByPlace ctx a = s.groupByPlace ctx a := by
  obtain ⟨j, hj⟩ := s.noteCmd_eq op c
  rw [hj]
  rfl

end

/-! ## CTXREG (R267) -/

/-- A change of a context's STATE changes that context, and its save area in memory. -/
theorem State.setCtxSt_eq {s : State} {ctx : Nat} {x : Ctx} (st : CtxSt) (hx : SMap.get? s.ctxs ctx = some x) :
    ∃ mem bad soft, s.setCtxSt ctx st = { s with ctxs := SMap.put s.ctxs ctx { x with st := st }, mem := mem, bad := bad, soft := soft } := by
  unfold State.setCtxSt
  simp only [hx]
  obtain ⟨mem, bad, soft, h⟩ := (s.updCtx ctx (fun c => { c with st := st })).cpBytes_eq ctx x x.save
    (leBytes 8 (packWord [(ctx, 48), (ctxStCode st, 0)]).toNat)
  rw [h]
  refine ⟨mem, bad, soft, ?_⟩
  simp only [State.updCtx, SMap.upd_some _ _ _ _ hx]

/-- Whether a save area holds a saved context (R336). -/
def State.savedArea (s : State) (ctx : Nat) (y : Ctx) : Bool :=
  ((s.cpWord ctx y y.save).map (fun w => decide (fieldOf w 0 3 = 2) && decide (fieldOf w 48 16 = ctx))).getD false

/-- The state that a registered context begins in. -/
def State.firstSt (s : State) (ctx : Nat) (y : Ctx) : CtxSt := if s.savedArea ctx y then .saved else .running

/-- A context with the devices that it is granted (R267). -/
def State.granted (s : State) (ctx : Nat) (x : Ctx) : Ctx := { x with grant := ({ s with ctxs := SMap.put s.ctxs ctx x } : State).readGrant ctx x }

theorem exec_ctxreg {s : State} {c : HCmd} {ws : List Word} {x : Ctx} (hneg : s.regs.neg = 1) (hnew : SMap.get? s.ctxs c.ctx.toNat = none)
    (hzero : c.ctx ≠ 0) (htop : c.ctx ≠ 0xFFFF) (hrec : (s.noteCmd 0x01 c).physWords c.ctx.toNat c.a0 32 8 = some ws)
    (hroot : (s.noteCmd 0x01 c).readRoot c.ctx.toNat (ctxOfWords ws) = some x) (hname : fieldOf (ws.getD 0 0) 48 16 = c.ctx.toNat) :
    let u := s.noteCmd 0x01 c
    let y := u.granted c.ctx.toNat x
    let u1 : State := { u with ctxs := SMap.put u.ctxs c.ctx.toNat y }
    exec (.ctxreg c) s = .next ((u1.setCtxSt c.ctx.toNat (u1.firstSt c.ctx.toNat y)).complete c.ctx c.tag 0) := by
  refine congrArg Host.Outcome.next (State.hostCmd_ok hneg ?_)
  have hzero' : c.ctx.toNat ≠ 0 := fun h => hzero (BitVec.eq_of_toNat_eq h)
  have htop' : c.ctx.toNat ≠ 0xFFFF := fun h => htop (BitVec.eq_of_toNat_eq h)
  rw [← State.noteCmd_ctxs s 0x01 c] at hnew
  generalize s.noteCmd 0x01 c = u at *
  simp only [hnew, hzero', htop', hrec, hroot, hname, Option.isSome_none, decide_false, Bool.or_self, Bool.false_eq_true, if_false,
    ne_eq, not_true_eq_false]
  rfl

/-- CTXREG registers the context that its record and root block describe. -/
theorem ctxreg_registers {s : State} {c : HCmd} {ws : List Word} {x : Ctx} (hneg : s.regs.neg = 1) (hnew : SMap.get? s.ctxs c.ctx.toNat = none)
    (hzero : c.ctx ≠ 0) (htop : c.ctx ≠ 0xFFFF) (hrec : (s.noteCmd 0x01 c).physWords c.ctx.toNat c.a0 32 8 = some ws)
    (hroot : (s.noteCmd 0x01 c).readRoot c.ctx.toNat (ctxOfWords ws) = some x) (hname : fieldOf (ws.getD 0 0) 48 16 = c.ctx.toNat) :
    ∃ t y, exec (.ctxreg c) s = .next t ∧ SMap.get? t.ctxs c.ctx.toNat = some y ∧ y.esclim = fieldOf (ws.getD 0 0) 0 8 ∧ y.tvec = ws.getD 1 0 ∧
      y.save = ws.getD 2 0 ∧ y.root = ws.getD 3 0 ∧ y.pdl = ws.getD 4 0 ∧ y.grantVa = ws.getD 5 0 ∧ y.wentry = x.wentry ∧ y.stripe = x.stripe ∧ y.tb = x.tb ∧
      y.esc = 0 ∧ y.nq = 0 ∧ (y.st = .running ∨ y.st = .saved) ∧ t.queues = s.queues ∧ t.events = s.events ++ [okEvent c] := by
  have hexec := exec_ctxreg hneg hnew hzero htop hrec hroot hname
  dsimp only at hexec
  rw [State.readRoot] at hroot
  obtain ⟨rs, -, rfl⟩ := Option.map_eq_some_iff.mp hroot
  generalize hy : (s.noteCmd 0x01 c).granted c.ctx.toNat _ = y at hexec
  obtain ⟨mem, bad, soft, hset⟩ := State.setCtxSt_eq
    (s := { s.noteCmd 0x01 c with ctxs := SMap.put (s.noteCmd 0x01 c).ctxs c.ctx.toNat y }) (x := y)
    (State.firstSt { s.noteCmd 0x01 c with ctxs := SMap.put (s.noteCmd 0x01 c).ctxs c.ctx.toNat y } c.ctx.toNat y) (SMap.get?_put_same ..)
  rw [hset] at hexec
  refine ⟨_, _, hexec, SMap.get?_put_same .., ?_⟩
  rw [← hy]
  refine ⟨rfl, rfl, rfl, rfl, rfl, rfl, rfl, rfl, rfl, rfl, rfl, ?_, s.noteCmd_queues 0x01 c, congrArg (· ++ [okEvent c]) (s.noteCmd_events 0x01 c)⟩
  dsimp only
  unfold State.firstSt
  split
  · exact .inr rfl
  · exact .inl rfl

/-! ## QREG and QRESTART (R262) -/

/-- QREG registers a queue from its descriptor; for the first of its context it reads the root block again (R288). -/
theorem qreg_registers {s : State} {c : HCmd} {x y : Ctx} {ws : List Word} (hneg : s.regs.neg = 1) (hctx : SMap.get? s.ctxs c.ctx.toNat = some x)
    (hroom : x.nq < 64) (hst : x.st ≠ .reset)
    (hy : if x.nq = 0 then ∃ z, (s.noteCmd 0x02 c).readRoot c.ctx.toNat x = some z ∧ y = (s.noteCmd 0x02 c).granted c.ctx.toNat z else y = x)
    (hws : ({ s.noteCmd 0x02 c with ctxs := SMap.put (s.noteCmd 0x02 c).ctxs c.ctx.toNat y } : State).queueWords c.ctx.toNat c.a0 = some ws) :
    ∃ t, exec (.qreg c) s = .next t ∧ SMap.get? t.ctxs c.ctx.toNat = some { y with nq := y.nq + 1 } ∧
      SMap.get? t.queues (c.ctx.toNat * 64 + x.nq) = some (queueOfWords c.ctx.toNat x.nq c.a0 ws) ∧ t.mem = s.mem ∧ t.events = s.events ++ [okEvent c] := by
  rw [← State.noteCmd_ctxs s 0x02 c] at hctx
  refine ⟨_, congrArg Host.Outcome.next (State.hostCmd_ok (u := { s.noteCmd 0x02 c with
    ctxs := SMap.put (s.noteCmd 0x02 c).ctxs c.ctx.toNat { y with nq := y.nq + 1 },
    queues := SMap.put (s.noteCmd 0x02 c).queues (c.ctx.toNat * 64 + x.nq) (queueOfWords c.ctx.toNat x.nq c.a0 ws) }) hneg ?_),
    SMap.get?_put_same .., SMap.get?_put_same .., s.noteCmd_mem 0x02 c, congrArg (· ++ [okEvent c]) (s.noteCmd_events 0x02 c)⟩
  generalize s.noteCmd 0x02 c = u at *
  have hfresh : (if x.nq = 0 then (u.readRoot c.ctx.toNat x).map (u.granted c.ctx.toNat) else some x) = some y := by
    split_ifs at hy ⊢
    · obtain ⟨z, hz, rfl⟩ := hy
      rw [hz]
      rfl
    · rw [hy]
  have hopen : (decide (x.nq ≥ 64) || decide (x.st = .reset)) = false := by simp [hst, hroom]
  unfold State.granted at hfresh
  simp only [hctx, hfresh, hopen, hws, Bool.false_eq_true, if_false, State.updCtx, SMap.upd_some _ _ _ _ (SMap.get?_put_same u.ctxs c.ctx.toNat y),
    SMap.put_put]

/-- QRESTART reads a stopped queue's descriptor again, and the queue goes on. -/
theorem qrestart_restarts {s : State} {c : HCmd} {x : Ctx} {q : Queue} {ws : List Word} (hneg : s.regs.neg = 1)
    (hctx : SMap.get? s.ctxs c.ctx.toNat = some x) (hst : x.st ≠ .reset) (hq : SMap.get? s.queues (c.ctx.toNat * 64 + fieldOf c.a0 0 6) = some q)
    (hstopped : q.stopped = true) (hws : (s.noteCmd 0x03 c).queueWords c.ctx.toNat q.desc = some ws) :
    ∃ t, exec (.qrestart c) s = .next t ∧ SMap.get? t.queues (c.ctx.toNat * 64 + fieldOf c.a0 0 6) =
        some { queueOfWords c.ctx.toNat q.num q.desc ws with stopped := false, phase := q.phase } ∧ t.events = s.events ++ [okEvent c] := by
  rw [← State.noteCmd_ctxs s 0x03 c] at hctx
  rw [← State.noteCmd_queues s 0x03 c] at hq
  have hevents := s.noteCmd_events 0x03 c
  obtain ⟨mem, bad, soft, hput⟩ := (s.noteCmd 0x03 c).putQueue_eq (c.ctx.toNat * 64 + fieldOf c.a0 0 6)
    { queueOfWords c.ctx.toNat q.num q.desc ws with stopped := false, phase := q.phase }
  refine ⟨_, congrArg Host.Outcome.next (State.hostCmd_ok (u := (s.noteCmd 0x03 c).putQueue (c.ctx.toNat * 64 + fieldOf c.a0 0 6)
    { queueOfWords c.ctx.toNat q.num q.desc ws with stopped := false, phase := q.phase }) hneg ?_), ?_⟩
  · generalize s.noteCmd 0x03 c = u at *
    simp [hctx, hq, hstopped, hst, hws]
  · rw [hput]
    exact ⟨SMap.get?_put_same .., congrArg (· ++ [okEvent c]) hevents⟩

/-! ## FTAG (R295) -/

/-- A tag write sets one frame's tag. -/
theorem State.tagFrame_frameTag (s : State) (m f k g : Nat) (tag : BitVec 16) (hf : f < dataFrames) (hg : g < 2 ^ 20) :
    (s.tagFrame m f tag).frameTag k g = if k = m ∧ g = f then tag else s.frameTag k g := by
  have hkey : m * 2 ^ 20 + f = k * 2 ^ 20 + g ↔ k = m ∧ g = f := by
    have hdata : dataFrames < 2 ^ 20 := by decide
    omega
  have htags : (s.tagFrame m f tag).tags = RMap.set s.tags (m * 2 ^ 20 + f) tag := rfl
  unfold State.frameTag
  rw [htags, RMap.get_set]
  by_cases h : k = m ∧ g = f
  · rw [if_pos (hkey.mpr h), if_pos h, if_neg]
    have hdata : dataFrames = 0xBF0 * 256 := rfl
    omega
  · rw [if_neg (fun he => h (hkey.mp he)), if_neg h]

/-- A tag write leaves no TLB entry of its mast that maps the frame. -/
theorem State.tagFrame_tlb (s : State) (m f : Nat) (tag : BitVec 16) :
    ((s.tagFrame m f tag).mast m).tlb = (s.mast m).tlb.filter (fun e => !e.mapsFrame f) := by
  have hmast : (s.tagFrame m f tag).mast m = (s.updMast m (fun t => { t with tlb := t.tlb.filter (fun e => !e.mapsFrame f) })).mast m := rfl
  rw [hmast, State.updMast_mast, if_pos rfl]

/-- Owner tags written to a run of frames. -/
def State.tagRun (s : State) (m first n : Nat) (tag : BitVec 16) : State :=
  (List.range n).foldl (fun s i => s.tagFrame m (first + i) tag) s

section
variable (s : State) (m first : Nat) (tag : BitVec 16)

theorem State.tagRun_succ (n : Nat) : s.tagRun m first (n + 1) tag = (s.tagRun m first n tag).tagFrame m (first + n) tag := by
  rw [State.tagRun, List.range_succ, List.foldl_append]
  rfl

/-- Beside tags and the mast's TLB, tag writes leave everything. -/
theorem State.tagRun_keeps (n : Nat) :
    (s.tagRun m first n tag).mem = s.mem ∧ (s.tagRun m first n tag).events = s.events ∧ (s.tagRun m first n tag).dev = s.dev := by
  induction n with
  | zero => exact ⟨rfl, rfl, rfl⟩
  | succ n ih =>
    rw [State.tagRun_succ]
    exact ih

/-- The tag writes are all at the device in place. -/
theorem State.foldl_tagFrame (n : Nat) :
    (List.range n).foldl (fun t i => t.tagFrame (t.dev * 16 + m) (first + i) tag) s = s.tagRun (s.dev * 16 + m) first n tag := by
  induction n with
  | zero => rw [State.tagRun, List.range_zero, List.foldl_nil, List.foldl_nil]
  | succ n ih =>
    obtain ⟨-, -, hdev⟩ := s.tagRun_keeps (s.dev * 16 + m) first tag n
    rw [List.range_succ, List.foldl_append, ih, State.tagRun_succ, List.foldl_cons, List.foldl_nil, hdev]

theorem State.tagRun_frameTag {n : Nat} (k g : Nat) (hend : first + n ≤ dataFrames) (hg : g < 2 ^ 20) :
    (s.tagRun m first n tag).frameTag k g = if k = m ∧ first ≤ g ∧ g < first + n then tag else s.frameTag k g := by
  induction n with
  | zero =>
    have hnone : ¬(k = m ∧ first ≤ g ∧ g < first + 0) := by omega
    rw [if_neg hnone, State.tagRun, List.range_zero, List.foldl_nil]
  | succ n ih =>
    rw [State.tagRun_succ, State.tagFrame_frameTag _ _ _ _ _ _ (by omega) hg, ih (by omega)]
    by_cases hlast : k = m ∧ g = first + n
    · rw [if_pos hlast, if_pos (by omega)]
    · rw [if_neg hlast]
      exact if_congr (by omega) rfl rfl

theorem State.tagRun_tlb {n : Nat} {f : Nat} (hf : first ≤ f) (hn : f < first + n) :
    ∀ e ∈ ((s.tagRun m first n tag).mast m).tlb, e.mapsFrame f = false := by
  induction n with
  | zero => omega
  | succ n ih =>
    rw [State.tagRun_succ, State.tagFrame_tlb]
    intro e he
    obtain ⟨hmem, hmaps⟩ := List.mem_filter.mp he
    by_cases hlast : f = first + n
    · rw [hlast]
      simpa using hmaps
    · exact ih (by omega) e hmem

end

/-- FTAG writes the tags of its frames, and no other. -/
theorem ftag_tags {s : State} {c : HCmd} (hneg : s.regs.neg = 1) (htag : BitVec.ofNat 16 (fieldOf c.a2 32 16) ≠ 0xFFFF)
    (hend : c.a1.toNat + fieldOf c.a2 0 20 ≤ dataFrames) :
    ∃ t, exec (.ftag c) s = .next t ∧ t.mem = s.mem ∧ t.events = s.events ++ [okEvent c] ∧
      (∀ f, c.a1.toNat ≤ f → f < c.a1.toNat + fieldOf c.a2 0 20 →
        t.frameTag (s.dev * 16 + fieldOf c.a0 0 4) f = BitVec.ofNat 16 (fieldOf c.a2 32 16) ∧
          ∀ e ∈ (t.mast (s.dev * 16 + fieldOf c.a0 0 4)).tlb, e.mapsFrame f = false) ∧
      (∀ k f, k ≠ s.dev * 16 + fieldOf c.a0 0 4 ∨ f < c.a1.toNat ∨ c.a1.toNat + fieldOf c.a2 0 20 ≤ f → f < 2 ^ 20 → t.frameTag k f = s.frameTag k f) := by
  generalize hn : fieldOf c.a2 0 20 = n at *
  generalize htg : BitVec.ofNat 16 (fieldOf c.a2 32 16) = tag at *
  rw [← State.noteCmd_dev s 0x09 c]
  have hframes : dataFrames < 2 ^ 20 := by decide
  obtain ⟨hmem, hevents, -⟩ := (s.noteCmd 0x09 c).tagRun_keeps ((s.noteCmd 0x09 c).dev * 16 + fieldOf c.a0 0 4) c.a1.toNat tag n
  refine ⟨((s.noteCmd 0x09 c).tagRun ((s.noteCmd 0x09 c).dev * 16 + fieldOf c.a0 0 4) c.a1.toNat n tag).complete c.ctx c.tag 0, ?_,
    hmem.trans (s.noteCmd_mem 0x09 c), congrArg (· ++ [okEvent c]) (hevents.trans (s.noteCmd_events 0x09 c)),
    fun f hf hlt => ⟨?_, State.tagRun_tlb _ _ _ tag hf hlt⟩, fun k f hout hf => ?_⟩
  · refine congrArg Host.Outcome.next (State.hostCmd_ok hneg ?_)
    simp only [hn, htg]
    rw [if_neg (by simpa using ⟨htag, hend⟩), State.foldl_tagFrame]
  · exact (State.tagRun_frameTag _ _ _ tag _ f hend (by omega)).trans (if_pos ⟨rfl, hf, hlt⟩)
  · rw [← s.noteCmd_frameTag 0x09 c]
    exact (State.tagRun_frameTag _ _ _ tag k f hend hf).trans (if_neg (by omega))

/-! ## Membership (R322, R325) -/

theorem member_joins {s : State} {c : HCmd} (hneg : s.regs.neg = 1) (hdomain : s.regs.active.getLsbD 1 = true) (hother : fieldOf c.a0 0 10 ≠ s.devno)
    (hjoin : c.a1.getLsbD 0 = true) :
    ∃ t, exec (.member c) s = .next t ∧ t.mem = s.mem ∧ t.events = s.events ++ [okEvent c] ∧
      ∀ d, t.regs.member.getLsbD d = if d = fieldOf c.a0 0 10 then true else s.regs.member.getLsbD d := by
  have hmem := s.noteCmd_mem 0x0A c
  have hevents := s.noteCmd_events 0x0A c
  have hregs := s.noteCmd_regs 0x0A c
  have hdevno : (s.noteCmd 0x0A c).devno = s.devno := by rw [State.devno, hregs, State.devno]
  rw [← hdevno] at hother
  rw [← hregs] at hdomain ⊢
  rw [← hmem, ← hevents]
  refine ⟨_, congrArg Host.Outcome.next (State.hostCmd_ok (u := { s.noteCmd 0x0A c with
    regs := { (s.noteCmd 0x0A c).regs with member := setBit (s.noteCmd 0x0A c).regs.member (fieldOf c.a0 0 10) true } }) hneg ?_), rfl, rfl, fun d => ?_⟩
  · simp only [hdomain, hother, hjoin, Bool.not_true, decide_false, Bool.or_self, Bool.false_eq_true, if_false, if_true]
  · show (setBit (s.noteCmd 0x0A c).regs.member (fieldOf c.a0 0 10) true).getLsbD d = _
    rw [getLsbD_setBit _ _ _ _ (fieldOf_lt c.a0 0 10)]
    exact if_congr eq_comm rfl rfl

theorem member_leaves {s : State} {c : HCmd} (hneg : s.regs.neg = 1) (hdomain : s.regs.active.getLsbD 1 = true) (hother : fieldOf c.a0 0 10 ≠ s.devno)
    (hgo : c.a1.getLsbD 0 = false) (hmember : s.regs.member.getLsbD (fieldOf c.a0 0 10) = true) :
    exec (.member c) s = .next (((s.noteCmd 0x0A c).leave (fieldOf c.a0 0 10)).complete c.ctx c.tag 0) := by
  have hregs := s.noteCmd_regs 0x0A c
  have hdevno : (s.noteCmd 0x0A c).devno = s.devno := by rw [State.devno, hregs, State.devno]
  rw [← hdevno] at hother
  rw [← hregs] at hdomain hmember
  refine congrArg Host.Outcome.next (State.hostCmd_ok hneg ?_)
  simp only [hdomain, hother, hgo, hmember, Bool.not_true, decide_false, Bool.or_self, Bool.false_eq_true, if_false, if_true]

/-- A member that no path has led to for the limit's cycles has left. -/
theorem exec_membershipTimeout {s : State} {dev : Nat} (hmember : s.regs.member.getLsbD dev = true) (hother : dev ≠ s.devno) (hpath : dev ∉ s.shroud.paths)
    (hlimit : 2000000 ≤ (RMap.get s.shroud.noPath dev).toNat) :
    exec (.membershipTimeout dev) s = .next ((s.leave dev).post { typ := 7, code := 0, tag := 0, ctx := 0, w1 := BitVec.ofNat 64 dev, w2 := 0, w3 := 0 }) := by
  refine congrArg Host.Outcome.next (if_pos ?_)
  simpa [hmember, hother, hpath, pathLimit] using hlimit

/-! ## RESUME, DEBUGGO and DESTROY (R318) -/

/-- The sub-groups of a group. -/
def State.groupSubs (s : State) (gid : Nat) : SMap SubGroup := s.subs.filter (fun e => decide (e.2.gid = gid))

theorem exec_resume {s t : State} {c : HCmd} {x : Ctx} {gid : Nat} {g : Group} (hneg : s.regs.neg = 1) (hctx : SMap.get? s.ctxs c.ctx.toNat = some x)
    (hgrp : s.groupByPlace c.ctx.toNat c.a0 = some (gid, g)) (hany : ∃ e ∈ s.groupSubs gid, e.2.laneMask (fun l => decide (l.st = .stopped)) ≠ 0)
    (hfold : (s.groupSubs gid).foldl (fun (t : Option State) e => t.bind (fun t => t.resumeSub x g e.1 e.2)) (some (s.noteCmd 0x06 c)) = some t) :
    exec (.resume c) s = .next (t.complete c.ctx c.tag 0) := by
  refine congrArg Host.Outcome.next (State.hostCmd_ok hneg ?_)
  have hsome : (s.groupSubs gid).all (fun e => decide (e.2.laneMask (fun l => decide (l.st = .stopped)) = 0)) = false := by
    simpa using hany
  rw [State.groupSubs, ← State.noteCmd_subs s 0x06 c] at hfold hsome
  rw [← State.noteCmd_ctxs s 0x06 c] at hctx
  rw [← State.noteCmd_groupByPlace s 0x06 c] at hgrp
  simp only [hctx, hgrp, hsome, hfold, Bool.false_eq_true, if_false]

/-- Another device may be put in place and this one again: nothing of the state has changed but the order of the others. -/
theorem State.enter_back (s : State) (d : Nat) : ∃ o, (s.enter d).enter s.dev = { s with others := o } := by
  by_cases hd : d = s.dev
  · rw [hd, State.enter_self, State.enter_self]
    exact ⟨s.others, rfl⟩
  · cases hp : SMap.get? s.others d with
    | none =>
      have henter : s.enter d = s := by
        unfold State.enter
        simp only [hd, hp, if_false]
      rw [henter, State.enter_self]
      exact ⟨s.others, rfl⟩
    | some p =>
      unfold State.enter
      simp only [hd, hp, if_false, Ne.symm hd, SMap.get?_put_same]
      exact ⟨_, rfl⟩

/-- What changes nothing where a sub-group stands changes nothing here. -/
theorem State.atSub_of_eq {s : State} {sid : Nat} {f : State → State} (hf : ∀ d, f (s.enter d) = s.enter d) (hself : f s = s) :
    ∃ o, s.atSub sid f = { s with others := o } := by
  unfold State.atSub
  split
  next sg _ =>
    rw [State.on, hf]
    exact s.enter_back _
  next => exact ⟨s.others, hself⟩

/-- The halted lanes of a sub-group go on. -/
def SubGroup.unhalt (sg : SubGroup) (now : Nat) : SubGroup :=
  sg.mapLanes (sg.laneMask (fun l => decide (l.st = .halted))) (fun l => { l with st := .ready, readyAt := now, since := now, starve := 0 })

/-- The state once DEBUGGO has let the lanes of one sub-group go on. -/
def unhaltedState (s : State) (sid : Nat) (sg : SubGroup) : State :=
  { s with halting := false, subs := SMap.put s.subs sid (sg.unhalt (s.stn sg.mast sg.stn).cycles) }

/-- No lane of it has come to its tie point. -/
theorem unhaltedState_ready {s : State} {sid : Nat} {sg : SubGroup} (haway : ∀ e ∈ sg.lanes, e.2.meet = 0 ∨ e.2.pc ≠ e.2.meet) :
    ∃ o, (unhaltedState s sid sg).atSub sid (fun s => s.holdReady sid) = { unhaltedState s sid sg with others := o } := by
  have hnone : ∀ u : State, u.subs = (unhaltedState s sid sg).subs → u.holdReady sid = u := by
    intro u hu
    refine State.holdReadyBy_of_none (sg := sg.unhalt (s.stn sg.mast sg.stn).cycles) (by rw [hu]; exact SMap.get?_put_same ..) fun e he => ?_
    obtain ⟨d, hd, rfl⟩ := List.mem_map.mp he
    rintro ⟨-, -, -, hmeet, hpc⟩
    have hd' := haway d hd
    split at hmeet <;> simp_all
  exact State.atSub_of_eq (fun d => hnone _ (State.enter_subs ..)) (hnone _ rfl)

theorem exec_debuggo {s : State} {c : HCmd} {gid sid : Nat} {g : Group} {sg : SubGroup} (hneg : s.regs.neg = 1)
    (hgrp : s.groupByPlace c.ctx.toNat c.a0 = some (gid, g)) (hsubs : s.groupSubs gid = [(sid, sg)]) (hsub : SMap.get? s.subs sid = some sg)
    (haway : ∀ e ∈ sg.lanes, e.2.meet = 0 ∨ e.2.pc ≠ e.2.meet) :
    ∃ o, exec (.debuggo c) s = .next (({ unhaltedState (s.noteCmd 0x07 c) sid sg with others := o } : State).complete c.ctx c.tag 0) := by
  obtain ⟨o, ho⟩ := unhaltedState_ready (s := s.noteCmd 0x07 c) (sid := sid) haway
  refine ⟨o, congrArg Host.Outcome.next (State.hostCmd_ok hneg ?_)⟩
  rw [State.groupSubs, ← State.noteCmd_subs s 0x07 c] at hsubs
  rw [← State.noteCmd_subs s 0x07 c] at hsub
  rw [← State.noteCmd_groupByPlace s 0x07 c] at hgrp
  rw [← ho]
  generalize s.noteCmd 0x07 c = u at *
  have hput : ({ u with halting := false } : State).updSub sid (fun v => v.mapLanes (sg.laneMask (fun l => decide (l.st = .halted)))
      (fun l => { l with st := .ready, readyAt := (u.stn sg.mast sg.stn).cycles, since := (u.stn sg.mast sg.stn).cycles, starve := 0 })) =
        unhaltedState u sid sg := State.updSub_of_get? (s := { u with halting := false }) _ hsub
  simp only [hgrp, hsubs, List.foldl_cons, List.foldl_nil]
  exact congrArg (fun v : State => (v.atSub sid (fun s => s.holdReady sid), (0 : BitVec 8))) hput

/-- DEBUGGO lets the halted lanes of a sub-group go on. -/
theorem debuggo_unhalts {s : State} {c : HCmd} {gid sid : Nat} {g : Group} {sg : SubGroup} (hneg : s.regs.neg = 1)
    (hgrp : s.groupByPlace c.ctx.toNat c.a0 = some (gid, g)) (hsubs : s.groupSubs gid = [(sid, sg)]) (hsub : SMap.get? s.subs sid = some sg)
    (haway : ∀ e ∈ sg.lanes, e.2.meet = 0 ∨ e.2.pc ≠ e.2.meet) :
    ∃ t v, exec (.debuggo c) s = .next t ∧ t.halting = false ∧ t.mem = s.mem ∧ t.events = s.events ++ [okEvent c] ∧ SMap.get? t.subs sid = some v ∧
      (∀ y, v.reg y = sg.reg y) ∧ ∀ l, SMap.get? v.lanes l = (SMap.get? sg.lanes l).map (fun x =>
        if (sg.laneMask (fun l => decide (l.st = .halted))).getLsbD l then
          { x with st := .ready, readyAt := (s.stn sg.mast sg.stn).cycles, since := (s.stn sg.mast sg.stn).cycles, starve := 0 } else x) := by
  obtain ⟨o, hexec⟩ := exec_debuggo hneg hgrp hsubs hsub haway
  have hnow : ((s.noteCmd 0x07 c).stn sg.mast sg.stn).cycles = (s.stn sg.mast sg.stn).cycles := by
    rw [State.stn, State.noteCmd_stns, ← State.stn]
  refine ⟨_, sg.unhalt (s.stn sg.mast sg.stn).cycles, hexec, rfl, s.noteCmd_mem 0x07 c, congrArg (· ++ [okEvent c]) (s.noteCmd_events 0x07 c), ?_,
    fun y => SubGroup.mapLanes_reg .., fun l => SubGroup.mapLanes_get? ..⟩
  rw [← hnow]
  exact SMap.get?_put_same ..

/-- DESTROY leaves neither the context nor a queue of it. -/
theorem destroy_forgets {s : State} {c : HCmd} {x : Ctx} (hneg : s.regs.neg = 1) (hctx : SMap.get? s.ctxs c.ctx.toNat = some x) :
    ∃ t, exec (.destroy c) s = .next t ∧ SMap.get? t.ctxs c.ctx.toNat = none ∧ (∀ k q, SMap.get? t.queues k = some q → q.ctx ≠ c.ctx.toNat) ∧
      t.events.getLast? = some (okEvent c) := by
  rw [← State.noteCmd_ctxs s 0x08 c] at hctx
  refine ⟨_, rfl, ?_⟩
  rw [State.hostCmd_ok hneg (by simp only [hctx]; rfl)]
  refine ⟨?_, fun k q hq => ?_, List.getLast?_concat⟩
  · show SMap.get? (SMap.del _ c.ctx.toNat) c.ctx.toNat = none
    rw [SMap.get?_del, if_pos rfl]
  · obtain ⟨-, hne⟩ := List.mem_filter.mp (SMap.mem_of_get? _ _ _ hq)
    simpa using hne

/-! ## ATTEST (R346) -/

theorem exec_attest {s : State} {c : HCmd} {x : Ctx} {ws : List Word} {p q : Nat} (hneg : s.regs.neg = 1) (hctx : SMap.get? s.ctxs c.ctx.toNat = some x)
    (hout : (s.noteCmd 0x0D c).ownRun c.ctx.toNat x c.a0 149 true = true) (hin : (s.noteCmd 0x0D c).ownRun c.ctx.toNat x c.a1 2 false = true)
    (hws : (s.noteCmd 0x0D c).cpWords c.ctx.toNat x c.a1 8 = some ws) (hp : (s.noteCmd 0x0D c).cpCell c.ctx.toNat x c.a1 false = some p)
    (hq : (s.noteCmd 0x0D c).cpCell c.ctx.toNat x (c.a1 + 32) false = some q) (hpgood : s.badAt p = false) (hqgood : s.badAt q = false) :
    exec (.attest c) s = .next ((((List.range 149).foldl (fun t i => t.cpBytes c.ctx.toNat x (c.a0 + BitVec.ofNat 64 (32 * i))
      ((((s.noteCmd 0x0D c).report (bytesOf ws)).drop (32 * i)).take 32)) ((s.noteCmd 0x0D c).checkRead [p, q])).complete c.ctx c.tag 0)) := by
  refine congrArg Host.Outcome.next (State.hostCmd_ok hneg ?_)
  rw [← State.noteCmd_ctxs s 0x0D c] at hctx
  rw [State.badAt, ← State.noteCmd_bad s 0x0D c, ← State.badAt] at hpgood hqgood
  simp only [hctx, hout, hin, hws, hp, hq, hpgood, hqgood, Bool.not_true, Bool.or_self, Bool.false_eq_true, if_false]

/-! ## Checkpoints (R333 to R336) -/

/-- Whether the contexts of a checkpoint may be written (R333): all of them at rest, or the one saved. -/
def ckptReady (s : State) (c : HCmd) : Prop :=
  if c.a1.getLsbD 0 then (∀ e ∈ s.ctxs, e.2.st = .saved ∨ e.2.st = .reset) ∧ ∀ e ∈ s.queues, e.2.phase = .idle
  else ∃ x, SMap.get? s.ctxs c.ctx.toNat = some x ∧ x.st = .saved

/-- CKPT begins a checkpoint. -/
theorem exec_ckpt {s : State} {c : HCmd} (hneg : s.regs.neg = 1) (hfeature : s.regs.active.getLsbD 3 = true) (hidle : s.ckpt = none)
    (hpartner : (SMap.get? s.ctxs (BitVec.ofNat 16 (fieldOf c.a1 48 16)).toNat).isSome = true) (hready : ckptReady s c) :
    exec (.ckpt c) s = .next { s.noteCmd 0x0B c with
      ckpt := some { tag := c.tag, ctx := c.ctx, table := c.a0, pctx := BitVec.ofNat 16 (fieldOf c.a1 48 16), whole := c.a1.getLsbD 0, load := false } } := by
  have hctxs := s.noteCmd_ctxs 0x0B c
  have hqueues := s.noteCmd_queues 0x0B c
  have hregs := s.noteCmd_regs 0x0B c
  have hckpt := s.noteCmd_ckpt 0x0B c
  rw [ckptReady, ← hctxs, ← hqueues] at hready
  rw [← hctxs] at hpartner
  rw [← hregs] at hfeature
  rw [← hckpt] at hidle
  refine congrArg Host.Outcome.next ((if_neg (not_not.mpr hneg)).trans (if_neg ?_))
  generalize s.noteCmd 0x0B c = u at *
  obtain ⟨y, hy⟩ := Option.isSome_iff_exists.mp hpartner
  cases hwhole : c.a1.getLsbD 0 with
  | true =>
    rw [hwhole, if_pos rfl] at hready
    obtain ⟨hst, hphase⟩ := hready
    have hrest : u.ctxs.all (fun e => e.2.st == .saved || e.2.st == .reset) = true := List.all_eq_true.mpr fun e he => by simpa using hst e he
    simp only [hfeature, hidle, hy, hrest, if_true, Bool.not_true, Bool.false_or, Option.isSome_none, Option.isNone_some, Bool.or_false,
      Bool.not_eq_true', Bool.not_eq_false]
    exact List.all_eq_true.mpr fun e he => by rw [hphase e he]
  | false =>
    rw [hwhole, if_neg Bool.false_ne_true] at hready
    obtain ⟨x, hx, hsaved⟩ := hready
    have hrest : ((SMap.get? u.ctxs c.ctx.toNat).map (fun x => x.st == .saved)).getD false = true := by
      rw [hx, Option.map_some, hsaved]
      rfl
    simp only [hfeature, hidle, hy, hrest, Bool.false_eq_true, if_false, Bool.not_true, Bool.not_false, Bool.true_or, Bool.or_self, Option.isSome_none,
      Option.isNone_some, not_false_eq_true]

section
variable {s : State} {k : Ckpt} {c : Ctx} {gs : List (Word × Nat)}

/-- A checkpoint command whose table and segments are legal and in reach, and whose operations have drained, is performed. -/
theorem State.ckStep_performs (hctx : SMap.get? s.ctxs k.pctx.toNat = some c) (hdrained : k.load = true ∨ s.ckDrained k = true)
    (htable : s.beyond c k.table = false) (hsegs : s.readSegs k.pctx.toNat c k.table 64 = some gs)
    (hgood : ∀ g ∈ gs, s.beyond c g.1 = false ∧ s.segOk k.pctx.toNat c g = true) :
    s.ckStep k = (if k.load then s.ckLoad k.pctx.toNat c gs else s.ckWrite k c gs).1.ckEnd k
      (if k.load then s.ckLoad k.pctx.toNat c gs else s.ckWrite k c gs).2 := by
  have hwaits : ((!k.load && !s.ckDrained k) || s.beyond c k.table) = false := by
    obtain h | h := hdrained <;> simp [h, htable]
  have hreach : gs.any (fun g => s.beyond c g.1) = false := List.any_eq_false.mpr fun g hg => by simp [hgood g hg]
  have hlegal : gs.all (s.segOk k.pctx.toNat c) = true := List.all_eq_true.mpr fun g hg => (hgood g hg).2
  unfold State.ckStep
  simp only [hctx, hwaits, hsegs, hreach, hlegal, Bool.not_true, Bool.false_eq_true, if_false]

/-- A checkpoint waits for its operations. -/
theorem State.ckStep_waits (hctx : SMap.get? s.ctxs k.pctx.toNat = some c) (hload : k.load = false) (hdrained : s.ckDrained k = false) : s.ckStep k = s := by
  unfold State.ckStep
  simp only [hctx, hload, hdrained, Bool.not_false, Bool.and_self, Bool.true_or, if_true]

theorem exec_ckptImageWrite (hk : s.ckpt = some k) : exec .ckptImageWrite s = .next (s.ckStep k) := by
  show execCkptImageWrite s = _
  rw [execCkptImageWrite, hk]
  rfl

/-- What the end of a checkpoint leaves. -/
theorem State.ckEnd_spec (t : State) (k : Ckpt) (code : BitVec 8) :
    (t.ckEnd k code).ckpt = none ∧ (t.ckEnd k code).mem = t.mem ∧
      (t.ckEnd k code).events.getLast? = some { typ := 1, code := code, tag := k.tag, ctx := k.ctx, w1 := 0, w2 := 0, w3 := 0 } :=
  ⟨rfl, rfl, List.getLast?_concat⟩

theorem ckptImageWrite_goesOn (hk : s.ckpt = some k) (hctx : SMap.get? s.ctxs k.pctx.toNat = some c) (htable : s.beyond c k.table = false)
    (hsegs : s.readSegs k.pctx.toNat c k.table 64 = some gs) (hgood : ∀ g ∈ gs, s.beyond c g.1 = false ∧ s.segOk k.pctx.toNat c g = true) :
    (k.load = false → s.ckDrained k = true → ∃ t, exec .ckptImageWrite s = .next t ∧ t.ckpt = none ∧ t.mem = (s.ckWrite k c gs).1.mem ∧
      t.events.getLast? = some { typ := 1, code := (s.ckWrite k c gs).2, tag := k.tag, ctx := k.ctx, w1 := 0, w2 := 0, w3 := 0 }) ∧
    (k.load = false → s.ckDrained k = false → exec .ckptImageWrite s = .next s) ∧
    (k.load = true → ∃ t, exec .ckptImageWrite s = .next t ∧ t.ckpt = none ∧ t.mem = (s.ckLoad k.pctx.toNat c gs).1.mem ∧
      t.events.getLast? = some { typ := 1, code := (s.ckLoad k.pctx.toNat c gs).2, tag := k.tag, ctx := k.ctx, w1 := 0, w2 := 0, w3 := 0 }) := by
  refine ⟨fun hload hdrained => ?_, fun hload hdrained => ?_, fun hload => ?_⟩
  · have hstep := State.ckStep_performs hctx (.inr hdrained) htable hsegs hgood
    rw [hload] at hstep
    exact ⟨_, (exec_ckptImageWrite hk).trans (congrArg Host.Outcome.next hstep), State.ckEnd_spec ..⟩
  · rw [exec_ckptImageWrite hk, State.ckStep_waits hctx hload hdrained]
  · have hstep := State.ckStep_performs hctx (.inl hload) htable hsegs hgood
    rw [hload] at hstep
    exact ⟨_, (exec_ckptImageWrite hk).trans (congrArg Host.Outcome.next hstep), State.ckEnd_spec ..⟩

end

/-- The checkpoint that a CKLOAD is. -/
def loadCkpt (c : HCmd) : Ckpt :=
  { tag := c.tag, ctx := c.ctx, table := c.a0, pctx := BitVec.ofNat 16 (fieldOf c.a1 48 16), whole := c.a1.getLsbD 0, load := true }

theorem loadCkpt_pctx (c : HCmd) : (loadCkpt c).pctx.toNat = fieldOf c.a1 48 16 := by
  rw [loadCkpt, BitVec.toNat_ofNat, Nat.mod_eq_of_lt (fieldOf_lt c.a1 48 16)]

/-- CKLOAD with a legal table in reach reads its image back at once. -/
theorem exec_ckload {s : State} {c : HCmd} {x : Ctx} {gs : List (Word × Nat)} (hneg : s.regs.neg = 1) (hfeature : s.regs.active.getLsbD 3 = true)
    (hidle : s.ckpt = none) (hctx : SMap.get? s.ctxs (fieldOf c.a1 48 16) = some x)
    (htable : ({ s.noteCmd 0x0C c with ckpt := some (loadCkpt c) } : State).beyond x c.a0 = false)
    (hsegs : ({ s.noteCmd 0x0C c with ckpt := some (loadCkpt c) } : State).readSegs (fieldOf c.a1 48 16) x c.a0 64 = some gs)
    (hgood : ∀ g ∈ gs, ({ s.noteCmd 0x0C c with ckpt := some (loadCkpt c) } : State).beyond x g.1 = false ∧
      ({ s.noteCmd 0x0C c with ckpt := some (loadCkpt c) } : State).segOk (fieldOf c.a1 48 16) x g = true) :
    exec (.ckload c) s = .next ((({ s.noteCmd 0x0C c with ckpt := some (loadCkpt c) } : State).ckLoad (fieldOf c.a1 48 16) x gs).1.ckEnd (loadCkpt c)
      (({ s.noteCmd 0x0C c with ckpt := some (loadCkpt c) } : State).ckLoad (fieldOf c.a1 48 16) x gs).2) := by
  have hopen : (!(s.noteCmd 0x0C c).regs.active.getLsbD 3 || (s.noteCmd 0x0C c).ckpt.isSome) = false := by
    rw [State.noteCmd_regs, State.noteCmd_ckpt, hfeature, hidle]
    rfl
  rw [← State.noteCmd_ctxs s 0x0C c] at hctx
  rw [← loadCkpt_pctx] at hctx hsegs hgood ⊢
  refine congrArg Host.Outcome.next ((if_neg (not_not.mpr hneg)).trans ((if_neg (by rw [hopen]; exact Bool.false_ne_true)).trans ?_))
  exact State.ckStep_performs (s := { s.noteCmd 0x0C c with ckpt := some (loadCkpt c) }) (k := loadCkpt c) hctx (.inl rfl) htable hsegs hgood

/-- An image whose header does not hold is not read (R336). -/
theorem State.ckLoad_badHeader {s : State} {p : Nat} {x : Ctx} {gs : List (Word × Nat)} {hb : List Byte} (hget : s.segGet p x gs 0 256 = some hb)
    (hbad : headerOk (wordsOf 32 hb) = false) : s.ckLoad p x gs = (s, 7) := by
  unfold State.ckLoad
  simp only [hget, hbad, Bool.not_false, Bool.true_or, if_true]

end Sys2Proof.Machine
end

section
namespace Sys2Proof
open Machine Safety

/-- Settles O57: each command passes its checks, has its effect on the state with its journal entry, and completes. -/
theorem contextCommands : Obligations.ContextCommands := by
  refine ⟨fun s c ws x hneg hnew hzero htop hrec hroot hname => ctxreg_registers hneg hnew hzero htop hrec hroot hname,
    fun s c x y ws hneg hctx hroom hst hy hws => qreg_registers hneg hctx hroom hst hy hws,
    fun s c x q ws hneg hctx hst hq hstopped hws => qrestart_restarts hneg hctx hst hq hstopped hws,
    fun s c hneg htag hend => ftag_tags hneg htag hend,
    fun s c hneg hdomain hother => ⟨member_joins hneg hdomain hother, member_leaves hneg hdomain hother⟩,
    fun s dev hmember hother hpath hlimit => ⟨_, exec_membershipTimeout hmember hother hpath hlimit, rfl⟩,
    fun s t c x gid g hneg hctx hgrp hany hfold => exec_resume hneg hctx hgrp hany hfold,
    fun s c gid sid g sg hneg hgrp hsubs hsub haway => debuggo_unhalts hneg hgrp hsubs hsub haway,
    fun s c x hneg hctx => destroy_forgets hneg hctx,
    fun s c x ws p q hneg hctx hout hin hws hp hq hpgood hqgood => exec_attest hneg hctx hout hin hws hp hq hpgood hqgood,
    fun s c hneg hfeature hidle hpartner hready => exec_ckpt hneg hfeature hidle hpartner hready,
    fun s k c gs hk hctx htable hsegs hgood => ckptImageWrite_goesOn hk hctx htable hsegs hgood,
    fun s c x gs hneg hfeature hidle hctx htable hsegs hgood =>
      ⟨exec_ckload hneg hfeature hidle hctx htable hsegs hgood, fun hb hget hbad => State.ckLoad_badHeader hget hbad⟩⟩

end Sys2Proof
end
